-- ==== Sys2Proof/Word.lean ====
section
/-! DEFINITION. The word types, and the small closed vocabularies the instruction syntax uses: element types, operand
codes, guards, fault codes, wait counters, and the arguments of the device's events. -/

namespace Sys2Proof

/-- One byte of memory or of the scratchpad (R5). -/
abbrev Byte := BitVec 8

/-- One 32-bit element of a register, or one uniform register. -/
abbrev Word := BitVec 32

/-- One instruction word, or a register pair. -/
abbrev DWord := BitVec 64

/-- One bit per lane of a gang; lanes at or above the gang's width are clear. -/
abbrev Lanes := BitVec 128

/-- The type codes of R84, under the manual's names. `ext n` is the extension code 0x34 + n. -/
inductive Ty where
  | b32 | b64 | i32 | n32 | i64 | n64 | i16x2 | n16x2 | i8x4 | n8x4
  | f32 | f64 | f16 | f16x2 | bf16 | bf16x2
  | e4m3 | e5m2 | e3m2 | e2m3 | e2m1 | e8m0
  | i8 | n8 | i4 | n4
  | cbv8 | cbv4 | cbs8
  | mxe4m3 | mxe2m1 | mxi8 | se2m1
  | ext (n : Fin 8)
  deriving DecidableEq, Repr

/-- The 9-bit operand codes of R58. `imm n` is the inline integer with code 0x140 + n: 0 to 31, then −16 to −1.
`flt n` is the inline float constant with code 0x170 + n (R59). `none` is 0x1FF. -/
inductive Opd where
  | v (n : BitVec 8)
  | s (n : BitVec 6)
  | imm (n : Fin 48)
  | flt (n : BitVec 4)
  | sp (n : BitVec 6)
  | lane
  | none
  deriving DecidableEq, Repr

/-- The guard field of R63: always, or a predicate p0 to p6, negated or not. -/
inductive Guard where
  | always
  | pred (neg : Bool) (n : Fin 7)
  deriving DecidableEq, Repr

/-- The fault codes of R385; no other code exists. -/
inductive Code where
  | illegalOp | reservedField | clauseForm | clauseHazard | lpadMismatch | jumpTableBound | priv | windowOverflow
  | align | scratchBound | fePoison | addrNoncanon
  | pageNotPresent | pageProtection | attrIllegalOp | woRewrite | ipOwner | aliasConflict | hostOwned | lineLost
  | accWindow | cbInvalidIndex | formatUnsupported | spurPartner
  | pondAccess | remoteFault | remoteTimeout | linkDown | debug | watchdog
  deriving DecidableEq, Repr

/-- The six wait counters of a gang (R48). -/
inductive Ctr where
  | ldc | stc | sfc | xlc | mxc | enc
  deriving DecidableEq, Repr

/-- The four consistency models of a page (chapter 9), in `ATTR` order. -/
inductive Attr where
  | sc | rc | wo | ip
  deriving DecidableEq, Repr

/-- What firmware answers to a fault that was disposed as RESOLVE (R386): resume the sub-gang, decline the fault, or
(for an extension format, R106) emulate the tile: the rows it writes, as team row and its 32 words, and the flags. -/
inductive FirmwareAct where
  | resume
  | decline
  | emulate (rows : List (Nat × List Word)) (flags : BitVec 5)
  deriving DecidableEq, Repr

/-- Where in a core's SRAM an uncorrectable error is found (R175). -/
inductive SramSite where
  | scratch (team granule : Nat)
  | l1 (asid line : Nat)
  | register
  | accRow
  | codebook
  deriving DecidableEq, Repr

/-- Where an uncorrectable L2 or HBM4 error is found (R308): a cached line, or a physical line of HBM4. -/
inductive L2Site where
  | l2 (asid line : Nat)
  | hbm (pline : Nat)
  deriving DecidableEq, Repr

/-- What a request that arrives from another device asks of this one (R415, R416, R420). Operands are little-endian
bytes; `reduce` adds elements of the type to the bytes at the address. -/
inductive RemoteOp where
  | load (len : Nat)
  | store (data : List Byte)
  | atomic (op : Nat) (t : Ty) (d0 d1 : DWord)
  | woreset (units : Nat)
  | reduce (t : Ty) (data : List Byte)
  deriving DecidableEq, Repr

/-- A request that arrives over the fabric (R415): its sender, the instruction of the sender that it is a lane of, and what it
asks for. -/
structure RemoteRequest where
  src : Nat
  inst : Nat
  gtag : Nat
  vmid : Nat
  asid : Nat
  va : Nat
  op : RemoteOp
  deriving DecidableEq, Repr

/-- What a target answers to a remote request (R419, R422). `copy` carries the whole line of a WO or read-only page,
which the initiator may keep (R418). -/
inductive RemoteReply where
  | ack
  | data (bytes : List Byte)
  | copy (line : List Byte)
  | refusal (code : Code)
  deriving DecidableEq, Repr

/-- The fields of a gang that a debugger may write (R400). -/
inductive DebugField where
  | vreg (slot lane : Nat) (w : Word)
  | sreg (sub n : Nat) (w : Word)
  | pred (n lane : Nat) (b : Bool)
  | roundMode (m : BitVec 3)
  | other
  deriving DecidableEq, Repr

/-- The registers a bus write reaches that have no row of their own (R7, R8, R398). Offsets and indexes are the
register maps' own. -/
inductive BusReg where
  | mbctl (fn : Nat)
  | mbcmd (fn : Nat)
  | mbpayload (fn : Nat) (off : Nat)
  | mbcap (fn : Nat)
  | mbsts (fn : Nat)
  | hvinfo
  | hvaddr
  | bootsts
  | walkerr (unit : Nat)
  deriving DecidableEq, Repr

end Sys2Proof
end

