-- ==== Sys2Proof/Syntax.lean ====
section
/-! DEFINITION. The syntax of one step of the device: `Instr` has one constructor for every row of
spec/opcode_table.json, an instruction of Kremas with the fields of its format (R52 to R57), or an event of the device
with the agents it names. -/

namespace Sys2Proof

/-- R-form (R52, R64): `mod` is split into `rnd`, `sat` and `fn`. -/
structure RForm where
  t : Ty
  d : Opd
  a : Opd
  b : Opd
  c : Opd
  lrA : Bool
  lrB : Bool
  lrC : Bool
  g : Guard
  rnd : BitVec 3
  sat : Bool
  fn : BitVec 3
  deriving DecidableEq, Repr

/-- E-form (R53): the R-form layout with a variant selector and a raw modifier. -/
structure EForm where
  sub : BitVec 6
  d : Opd
  a : Opd
  b : Opd
  c : Opd
  lrA : Bool
  lrB : Bool
  lrC : Bool
  g : Guard
  mod : BitVec 7
  deriving DecidableEq, Repr

/-- Y-form (R53): the 13-bit special-register selector. -/
structure YForm where
  sel : BitVec 13
  d : Opd
  a : Opd
  b : Opd
  c : Opd
  lrA : Bool
  lrB : Bool
  lrC : Bool
  g : Guard
  deriving DecidableEq, Repr

/-- I-form (R54). -/
structure IForm where
  g : Guard
  lrA : Bool
  d : Opd
  a : Opd
  imm : BitVec 32
  deriving DecidableEq, Repr

/-- M-form (R55). -/
structure MForm where
  t : Ty
  d : Opd
  a : Opd
  off : BitVec 12
  scope : BitVec 3
  ord : BitVec 2
  hint : BitVec 3
  lrA : Bool
  lrD : Bool
  g : Guard
  sub : BitVec 6
  deriving DecidableEq, Repr

/-- X-form (R56). `s` is the 9-bit scale operand; 0x1FF names none. -/
structure XForm where
  ta : Ty
  tb : Ty
  a : BitVec 9
  b : BitVec 9
  s : BitVec 9
  row : BitVec 9
  bank : BitVec 2
  acct : BitVec 2
  lrA : Bool
  lrB : Bool
  ovw : Bool
  neg : Bool
  deriving DecidableEq, Repr

/-- C-form (R57, R107). -/
structure CForm where
  g : Guard
  aux : BitVec 8
  a : Opd
  imm : BitVec 32
  deriving DecidableEq, Repr

/-- One step of the device: one constructor per row of spec/opcode_table.json, in the table's order. An instruction of
Kremas carries its decoded fields; an event names the agents it happens to: a core by its number in the layout of
`OWNER` (R310), a gang by its slot on the core (R400), a sub-gang and an outstanding instruction by the number the
gang gave them, a cluster as 16 × die + cluster, a line by its ASID and its address divided by 128, and a mailbox
command by its function (0 the PF, n + 1 the VF n). -/
inductive Instr where
  /-- CLAUSE_ISSUE (R43). A gang's issue opportunity selects a ready sub-gang, merges equal keys, fetches and
  statically checks the clause, and issues its instructions in order. -/
  | clauseIssue (core pipe : Nat)
  /-- LONG_RESULT_ARRIVE (R46). Every result of a long-class instruction has arrived, so its destinations become
  ready, its flags merge and its counter decrements. -/
  | longResultArrive (core gang id : Nat) (part : Option Nat)
  /-- PARK_RELEASE (R49). A sub-gang parked after a PARK clause is released once all six wait counters are zero, or
  once every counted instruction is held behind an unreported fault. -/
  | parkRelease (core gang sub : Nat)
  /-- REGISTER_PARK_RELEASE (R165). Freed physical registers go to gangs parked on an empty pool, oldest first, and
  the parked instruction resumes. -/
  | registerParkRelease (core : Nat)
  /-- DEFERRED_FAULT_ARRIVE (R210). A deferred fault's report arrives: the access leaves its counter, its
  destinations are marked faulted, and its list entry keeps the code. -/
  | deferredFaultArrive (core gang id : Nat)
  /-- FAULT_RESOLVE_RESUME (R386). Firmware resumes a sub-gang parked under RESOLVE, or declines it to HANDLER or
  KILL. -/
  | faultResolveResume (core gang sub : Nat) (act : FirmwareAct)
  /-- MEMORY_ACCESS_PERFORM (R195). A store, atomic, FENCE or WORESET entry of the store queue performs at its scope
  and leaves its counter. -/
  | memoryAccessPerform (core gang id line : Nat)
  /-- GANG_RETIRE (R26). A gang with no live fibre retires once its wait counters reach zero. -/
  | gangRetire (core gang : Nat)
  /-- TEAM_ADMIT (R160). The scheduler admits a team to a core that fits its storage, places its scratchpad region,
  zeroes its state and runs its transform bindings. -/
  | teamAdmit (grid core : Nat)
  /-- TEAM_EVICT (R380). The scheduler settles a wholly parked team's in-flight work and saves it into a context
  frame. -/
  | teamEvict (core team : Nat)
  /-- TEAM_RESTORE (R185). An evicted team is placed on any core that fits, its slots take registers, RESTORED is
  set, and its gangs resume. -/
  | teamRestore (pid frame core : Nat)
  /-- NOP (R108). Changes no state, though its guard is still read. -/
  | nop (f : CForm)
  /-- BR (R110). Unconditional branch per fibre, adding to TURN when the branch is backward. -/
  | br (f : CForm)
  /-- BRC (R110). Conditional branch on a 32-bit source per fibre. -/
  | brc (f : CForm)
  /-- BRX (R112). Indexed branch through a jump table with bound and landing-pad checks. -/
  | brx (f : CForm)
  /-- JUMP_TABLE_ENTRY_RETURN (R114). The jump-table entry reads of a BRX or CALLX return, and the instruction
  commits or faults. -/
  | jumpTableEntryReturn (core gang sub : Nat)
  /-- LPAD (R115). Landing pad whose label is checked on BRX or CALLX entry, and a no-op otherwise. -/
  | lpad (f : CForm)
  /-- CALL (R117). Writes the link into the callee's v0:v1 and shifts the window. -/
  | call (f : CForm)
  /-- CALLX (R118). Indexed call through a jump table. -/
  | callx (f : CForm)
  /-- RET (R119). Returns through a link pair and restores the window base. -/
  | ret (f : CForm)
  /-- SPAWN (R120). Places new fibres into free lanes of the gang. -/
  | spawn (f : CForm)
  /-- END (R121). Retires each active fibre and frees its lane. -/
  | endFibre (f : CForm)
  /-- YIELD (R122). Sends fibres to clause_end and demotes the sub-gang and the gang at the next selection. -/
  | yield (f : CForm)
  /-- TRAP (R123). Raises DEBUG for the active fibres, with resume at clause_end. -/
  | trap (f : CForm)
  /-- BKPT (R124). Halts the gang under R36 after its clause. -/
  | bkpt (f : CForm)
  /-- PSET (R125). Sets a predicate to a truth-table function of two predicates. -/
  | pset (d a b : Fin 7) (tt : BitVec 4) (g : Guard)
  /-- PMOV_GET (R126). Copies the predicate word into a register. -/
  | pmovGet (f : RForm)
  /-- PMOV_SET (R126). Sets the masked predicates from a value. -/
  | pmovSet (f : RForm)
  /-- SMOV (R128). Uniform move. -/
  | smov (f : RForm)
  /-- SMOVI (R131). Uniform move of a 32-bit immediate. -/
  | smovi (f : IForm)
  /-- SADD (R128). Uniform add. -/
  | sadd (f : RForm)
  /-- SSUB (R128). Uniform subtract. -/
  | ssub (f : RForm)
  /-- SMUL (R128). Uniform multiply, low or high half. -/
  | smul (f : RForm)
  /-- SAND (R128). Uniform bitwise and. -/
  | sand (f : RForm)
  /-- SOR (R128). Uniform bitwise or. -/
  | sor (f : RForm)
  /-- SXOR (R128). Uniform bitwise exclusive or. -/
  | sxor (f : RForm)
  /-- SSHL (R129). Uniform shift left. -/
  | sshl (f : RForm)
  /-- SSHR (R129). Uniform logical shift right. -/
  | sshr (f : RForm)
  /-- SSAR (R129). Uniform arithmetic shift right. -/
  | ssar (f : RForm)
  /-- SCMP (R130). Uniform compare that writes 1 or 0. -/
  | scmp (f : RForm)
  /-- SSEL (R128). Uniform select on a condition. -/
  | ssel (f : RForm)
  /-- SRD (R132). Reads a special register into an s register, clearing any RC fields. -/
  | srd (f : YForm)
  /-- VADD (R138). Vector integer add. -/
  | vadd (f : RForm)
  /-- VADDC (R139). Vector add with the carry held in a predicate. -/
  | vaddc (f : RForm)
  /-- VSUB (R138). Vector integer subtract. -/
  | vsub (f : RForm)
  /-- VMUL (R138). Vector integer multiply, low or high half. -/
  | vmul (f : RForm)
  /-- VMAD (R138). Vector integer multiply-add. -/
  | vmad (f : RForm)
  /-- VMIN (R138). Vector integer minimum. -/
  | vmin (f : RForm)
  /-- VMAX (R138). Vector integer maximum. -/
  | vmax (f : RForm)
  /-- VAND (R140). Vector bitwise and. -/
  | vand (f : RForm)
  /-- VOR (R140). Vector bitwise or. -/
  | vor (f : RForm)
  /-- VXOR (R140). Vector bitwise exclusive or. -/
  | vxor (f : RForm)
  /-- VNOT (R140). Vector bitwise not. -/
  | vnot (f : RForm)
  /-- VSHL (R140). Vector shift left. -/
  | vshl (f : RForm)
  /-- VSHR (R140). Vector logical shift right. -/
  | vshr (f : RForm)
  /-- VSAR (R140). Vector arithmetic shift right. -/
  | vsar (f : RForm)
  /-- VPOPC (R140). Vector population count. -/
  | vpopc (f : RForm)
  /-- VCLZ (R140). Vector count of leading zeros. -/
  | vclz (f : RForm)
  /-- VCTZ (R140). Vector count of trailing zeros. -/
  | vctz (f : RForm)
  /-- VBFE (R141). Vector bit-field extract. -/
  | vbfe (f : RForm)
  /-- VBFI (R141). Vector bit-field insert. -/
  | vbfi (f : RForm)
  /-- VCMP (R142). Vector integer compare into a mask, a predicate, or both. -/
  | vcmp (f : RForm)
  /-- VSEL (R143). Vector select on a value or a predicate. -/
  | vsel (f : RForm)
  /-- VMOV (R143). Vector move. -/
  | vmov (f : RForm)
  /-- VMOVI (R143). Vector move of a 32-bit immediate. -/
  | vmovi (f : IForm)
  /-- VFADD (R144). Float add, rounded once. -/
  | vfadd (f : RForm)
  /-- VFSUB (R144). Float subtract, rounded once. -/
  | vfsub (f : RForm)
  /-- VFMUL (R144). Float multiply, rounded once. -/
  | vfmul (f : RForm)
  /-- VFMA (R144). Fused float multiply-add. -/
  | vfma (f : RForm)
  /-- VFMIN (R145). Float minimum. -/
  | vfmin (f : RForm)
  /-- VFMAX (R145). Float maximum. -/
  | vfmax (f : RForm)
  /-- VFCMP (R146). Float compare into a mask, a predicate, or both. -/
  | vfcmp (f : RForm)
  /-- VFCLASS (R147). Classifies a float operand. -/
  | vfclass (f : RForm)
  /-- VRCP (R150). Reciprocal on the special-function unit. -/
  | vrcp (f : RForm)
  /-- VRSQ (R150). Reciprocal square root. -/
  | vrsq (f : RForm)
  /-- VSQRT (R150). Square root. -/
  | vsqrt (f : RForm)
  /-- VDIV (R150). Correctly rounded division. -/
  | vdiv (f : RForm)
  /-- VEXP2 (R150). Base-2 exponential. -/
  | vexp2 (f : RForm)
  /-- VLOG2 (R150). Base-2 logarithm. -/
  | vlog2 (f : RForm)
  /-- VSINPI (R150). sin(pi x). -/
  | vsinpi (f : RForm)
  /-- VCOSPI (R150). cos(pi x). -/
  | vcospi (f : RForm)
  /-- VFRACT (R148). Fractional part of a float. -/
  | vfract (f : RForm)
  /-- VFRND (R148). Rounds a float to an integral value. -/
  | vfrnd (f : RForm)
  /-- VLDEXP (R149). Scales a float by a power of two. -/
  | vldexp (f : RForm)
  /-- VFREXP (R149). Splits a float into fraction and exponent. -/
  | vfrexp (f : RForm)
  /-- VCVT (R151). Converts between numeric types. -/
  | vcvt (src : Ty) (f : RForm)
  /-- VPACK (R152). Packs an element into a register. -/
  | vpack (f : RForm)
  /-- VUNPACK (R152). Unpacks an element from a register. -/
  | vunpack (f : RForm)
  /-- VCAMREL (R153). Exact F64 difference, rounded once to F32. -/
  | vcamrel (f : RForm)
  /-- VSHUF (R155). Cross-lane shuffle. -/
  | vshuf (f : RForm)
  /-- VSWZ (R155). Swizzle within slices. -/
  | vswz (f : RForm)
  /-- VBCAST (R155). Broadcast from one lane. -/
  | vbcast (f : RForm)
  /-- VVOTE (R156). Vote or ballot over the active lanes. -/
  | vvote (f : RForm)
  /-- VRED (R157). Fixed-tree reduction over the active lanes. -/
  | vred (f : RForm)
  /-- VSCAN (R157). Inclusive or exclusive fixed-tree scan. -/
  | vscan (f : RForm)
  /-- VFREE (R158). Releases a run of architectural register slots. -/
  | vfree (f : EForm)
  /-- LD (R192). Global load. -/
  | ld (f : MForm)
  /-- ST (R192). Global store through the store queue. -/
  | st (f : MForm)
  /-- SLD (R193). Load into uniform registers. -/
  | sld (f : MForm)
  /-- LDS (R204). Scratchpad load with optional full/empty wait, clear and fragment forms. -/
  | lds (f : MForm)
  /-- STS (R204). Scratchpad store. -/
  | sts (f : MForm)
  /-- ATOM (R200). Global read-modify-write atomic. -/
  | atom (f : MForm)
  /-- ATOMS (R202). Scratchpad atomic. -/
  | atoms (f : MForm)
  /-- FENCE (R198). Orders the gang's accesses, and is a report point. -/
  | fence (f : MForm)
  /-- PREF (R208). Prefetch hint that never faults on memory. -/
  | pref (f : MForm)
  /-- FEC (R205). Sets granules full, empty or poison. -/
  | fec (f : MForm)
  /-- WORESET (R209). Starts a new write-once generation for 64 KiB units. -/
  | woreset (f : MForm)
  /-- MMA (R242). Matrix multiply-accumulate of one tile into accumulator rows. -/
  | mma (f : XForm)
  /-- MMA_RETIRE (R246). An accumulator operation's rows are written, and it retires and releases its row set. -/
  | mmaRetire (core id : Nat)
  /-- ACCZERO (R247). Zeroes accumulator rows. -/
  | acczero (f : EForm)
  /-- ACCLD (R247). Loads accumulator rows from the scratchpad. -/
  | accld (f : EForm)
  /-- ACCST (R247). Stores accumulator rows to the scratchpad. -/
  | accst (f : EForm)
  /-- ACCOUT (R249). Converts accumulator rows into a fragment. -/
  | accout (src : Ty) (f : RForm)
  /-- ACCWIN (R250). Sets a gang's accumulator window. -/
  | accwin (f : EForm)
  /-- ACCWIN_PERFORM (R250). Once gang g's earlier accumulator operations have retired, its new window takes effect.
  -/
  | accwinPerform (core id : Nat)
  /-- CBLOAD (R251). Loads codebook entries from the scratchpad. -/
  | cbload (f : EForm)
  /-- CBVALID (R251). Sets or clears codebook valid bits. -/
  | cbvalid (f : EForm)
  /-- CODEBOOK_BANK_WRITE (R252). A codebook writer changes its bank once every earlier reader of that bank has
  retired. -/
  | codebookBankWrite (core id : Nat)
  /-- VEXPAND (R253). Decodes one codebook index into v registers. -/
  | vexpand (f : RForm)
  /-- SPURACC (R254). Posts a Spur reservation on the issuing gang's core. -/
  | spuracc (f : EForm)
  /-- SPUR (R255). Drives one product over up to four partner cores. -/
  | spur (f : EForm)
  /-- SPUR_PARTNER_WORK (R256). A partner matches a reservation, checks it, runs the K-steps, commits or fails, and
  arrives at its barrier. -/
  | spurPartnerWork (cluster id partner : Nat)
  /-- SPUR_STATUS_READY (R257). Every partner has reported, so the status pair becomes ready and the partners' flags
  merge. -/
  | spurStatusReady (cluster id : Nat)
  /-- CPY (R274). Queues a Leat copy and returns a ticket. -/
  | cpy (f : EForm)
  /-- CPYSTAT (R275). Returns a copy's status. -/
  | cpystat (f : EForm)
  /-- COPY_START (R267). A Leat starts its next copy after the previous one ends, and reads the descriptor. -/
  | copyStart (cluster unit : Nat)
  /-- COPY_GRANULE_DELIVER (R272). A Leat delivers one destination granule whole. -/
  | copyGranuleDeliver (cluster unit : Nat)
  /-- COPY_END (R273). A copy ends done or failed, poisons undelivered scratchpad granules and makes its barrier
  arrival. -/
  | copyEnd (cluster unit : Nat)
  /-- BARINIT (R278). Sets a barrier's target and clears its arrivals. -/
  | barinit (f : EForm)
  /-- BARA (R279). Arrives at a barrier. -/
  | bara (f : EForm)
  /-- BARW (R281). Waits for a barrier phase. -/
  | barw (f : EForm)
  /-- BARAW (R281). Arrives at a barrier and waits. -/
  | baraw (f : EForm)
  /-- RANGESET (R284). Loads a Damsel slot. -/
  | rangeset (f : EForm)
  /-- TAKE (R285). Claims one chunk from a Damsel slot. -/
  | take (f : EForm)
  /-- PRIM (R288). Submits triangles to the Weir and returns their classes. -/
  | prim (f : EForm)
  /-- RASTER_SAMPLE_WRITE (R289). The fixed rasteriser writes a visibility word, or with TEST an occlusion word, by
  an atomic maximum. -/
  | rasterSampleWrite (cluster : Nat)
  /-- FLUSH_CLASSES_ARRIVE (R292). The classes of a FLUSH PRIM arrive after all earlier rasteriser writes have
  performed. -/
  | flushClassesArrive (core gang id : Nat)
  /-- OCCQ (R294). Reads occlusion words with an acquire. -/
  | occq (f : EForm)
  /-- RAYQ (R296). Starts a ray query per lane. -/
  | rayq (f : EForm)
  /-- RAYQ_DELIVER (R297). A lane's ray query result is delivered. -/
  | rayqDeliver (core gang id lane : Nat)
  /-- RAYWAIT (R298). Parks until every earlier ray query has delivered. -/
  | raywait (f : EForm)
  /-- TXREQ (R346). Looks up Millpond keys, allocating on a miss. -/
  | txreq (f : EForm)
  /-- TXWAIT (R348). Waits for in-flight tokens to resolve. -/
  | txwait (f : EForm)
  /-- TXFILL (R349). Fills an in-flight entry with a heap tile and wakes its waiters. -/
  | txfill (f : EForm)
  /-- TXINV_KEY (R350). Invalidates a pool's entries over an OBJ range. -/
  | txinvKey (f : EForm)
  /-- TXINV_INFL (R350). Invalidates a pool's entries by influence mask. -/
  | txinvInfl (f : EForm)
  /-- TXFRAME (R351). Advances a pool's frame counter, releases quarantine and applies the in-flight limit. -/
  | txframe (f : EForm)
  /-- TXPIN_SET (R352). Pins a Millpond entry. -/
  | txpinSet (f : EForm)
  /-- TXPIN_CLR (R352). Unpins a Millpond entry. -/
  | txpinClr (f : EForm)
  /-- CLOCK_HAND_ADVANCE (R354). While a pool is short of free tiles, its clock hand advances one set per uncore
  clock and evicts aged entries. -/
  | clockHandAdvance (die pool : Nat)
  /-- QPUSH (R378). Pushes a record into a node queue. -/
  | qpush (f : EForm)
  /-- QPOP (R378). Pops a record from a node queue. -/
  | qpop (f : EForm)
  /-- AMPLIFY (R378). Pushes n numbered copies of a record. -/
  | amplify (f : EForm)
  /-- LAUNCH (R378). Pushes a child grid's launch record into a LAUNCH queue. -/
  | launch (f : EForm)
  /-- WALLOWER_FIRE (R376). The Wallower launches a consumer team when C records are pending or its countdown
  expires. -/
  | wallowerFire (pid node : Nat)
  /-- SYSRD (R390). Privileged special-register read. -/
  | sysrd (f : YForm)
  /-- SYSWR (R390). Privileged special-register write. -/
  | syswr (f : YForm)
  /-- ERET (R388). Ends handler context and resumes at HRET. -/
  | eret (f : CForm)
  /-- ERET_SKIP (R388). Ends handler context and resumes past the fault. -/
  | eretSkip (f : CForm)
  /-- ATTRSET (R329). Changes the attribute and owner of pages. -/
  | attrset (f : EForm)
  /-- ATTRSET_PAGE_COMPLETE (R232). A page's recall completes at C, the new attribute is written and stalled
  accesses resume. -/
  | attrsetPageComplete (core gang id : Nat)
  /-- TLBSHOOT (R330). Invalidates matching TLB entries in all 12 translation units. -/
  | tlbshoot (f : EForm)
  /-- CACHEOP_WB (R331). Writes back dirty copies of lines. -/
  | cacheopWb (f : EForm)
  /-- CACHEOP_INV (R331). Writes back and invalidates lines. -/
  | cacheopInv (f : EForm)
  /-- CACHEOP_DISCARD (R331). Invalidates lines without write-back. -/
  | cacheopDiscard (f : EForm)
  /-- CACHEOP_IINV (R331). Invalidates instruction-fetch copies. -/
  | cacheopIinv (f : EForm)
  /-- CACHEOP_CLRLOST (R331). Clears LOST on lines. -/
  | cacheopClrlost (f : EForm)
  /-- FIRMCALL (R391). Requests a firmware service and parks. -/
  | firmcall (f : CForm)
  /-- FIRMCALL_RETURN (R391). The firmware service returns its results and the sub-gang resumes. -/
  | firmcallReturn (core gang sub : Nat) (r0 r1 r2 r3 : Word)
  /-- GETS (R311). A GetS request at the home supplies data and updates the directory entry. -/
  | gets (core asid line : Nat)
  /-- GETM (R311). A GetM request at the home invalidates other copies and grants M. -/
  | getm (core asid line : Nat)
  /-- HOME_ATOMIC (R311). An atomic at the home invalidates L1 copies and performs in the L2. -/
  | homeAtomic (core gang id : Nat)
  /-- ENGINE_LINE_REQUEST (R316). An engine takes ownership of a destination line, and the entry goes to EN. -/
  | engineLineRequest (cluster unit asid line : Nat)
  /-- PUTS_PUTE (R314). A clean eviction at the home removes a sharer, or is dropped during a fan-out. -/
  | putsPute (core tag line : Nat)
  /-- PUTM_PUTO (R311). A dirty eviction writes its data into the L2. -/
  | putmPuto (core tag line : Nat)
  /-- L2_EVICT_RECALL (R311). An L2 eviction or recall invalidates all copies and writes dirty data to HBM4. -/
  | l2EvictRecall (tag line : Nat)
  /-- PROBE_ACK (R313). A probed core acknowledges, and the home grants the request once the count is complete. -/
  | probeAck (core tag line : Nat)
  /-- ENGINE_LINE_RELEASE (R316). An engine gives up a line, and its writes perform together. -/
  | engineLineRelease (cluster unit asid line : Nat)
  /-- WATCH_NOTICE (R317). The scheduler takes a watch notice for a written watched line and rereads it. -/
  | watchNotice (pline : Nat)
  /-- TRANSLATION_WALK (R321). A walk completes, fills the TLB or ends in a fault, and the frame is checked. -/
  | translationWalk (vmid asid page : Nat)
  /-- DIE_LINK_FAIL (R327). A die link that exhausts its retries fails, its in-flight lines become LOST and the
  affected partitions reset. -/
  | dieLinkFail (a b : Nat) (lines : List (Nat × Nat))
  /-- SRAM_UNCORRECTABLE (R175). An uncorrectable core SRAM error poisons, drops or loses the data, or resets the
  partition. -/
  | sramUncorrectable (core : Nat) (site : SramSite)
  /-- L2_UNCORRECTABLE (R308). An uncorrectable L2 or HBM4 error drops the line or sets LOST. -/
  | l2Uncorrectable (site : L2Site)
  /-- QUEUE_ACCEPT (R366). The scheduler reads QTAIL and accepts records in ring order, checking each one. -/
  | queueAccept (pid queue : Nat)
  /-- GRID_ELIGIBLE (R370). A grid's fence is met and its occlusion predicate is checked, so it becomes eligible or
  is skipped. -/
  | gridEligible (grid : Nat)
  /-- GRID_RETIRE (R371). A grid retires, and its status record, completion word and QDONE are written. -/
  | gridRetire (grid : Nat)
  /-- WATCHDOG_EXPIRE (R392). The partition watchdog reaches WDLIM and the partition resets. -/
  | watchdogExpire (pid : Nat)
  /-- HOST_MEM_ACCESS (R236). A host CXL.mem access to device memory performs, or returns poison or is discarded and
  logged. -/
  | hostMemAccess (pa len : Nat) (write : Option (List Byte))
  /-- REMOTE_REQUEST_ARRIVE (R415). A target checks a remote request, then performs it at its home or refuses it. -/
  | remoteRequestArrive (req : RemoteRequest)
  /-- REMOTE_REPLY_ARRIVE (R419). An acknowledgement, data or refusal reaches the initiator. -/
  | remoteReplyArrive (id : Nat) (reply : RemoteReply)
  /-- REMOTE_TIMEOUT (R423). An unanswered remote request times out. -/
  | remoteTimeout (id : Nat)
  /-- FLIT_REPLAY (R409). A flit that fails CRC or arrives out of sequence is dropped and replayed. -/
  | flitReplay (port : Nat)
  /-- PORT_RETRAIN (R409). A port that fails 16 consecutive replays retrains. -/
  | portRetrain (port : Nat)
  /-- PORT_DOWN (R410). A port that fails to retrain in time is declared down, and its pending requests end with
  LINK_DOWN. -/
  | portDown (port : Nat)
  /-- COLD_RESET (R404). A cold start runs the boot stages in order. -/
  | coldReset
  /-- START_STAGE_COMPLETE (R404). A boot stage completes or fails, and a failure restarts the start under R406. -/
  | startStageComplete (fail : Option (Nat × Nat))
  /-- START_WATCHDOG_EXPIRE (R404). The start watchdog fails the start with cause 0x07. -/
  | startWatchdogExpire
  /-- HOST_RESET (R395). A hot reset, bus reset or PF FLR restarts the package at stage 4. -/
  | hostReset
  /-- VF_FLR (R395). A function-level reset of a VF resets its partition and disables its queues. -/
  | vfFlr (vf : Nat)
  /-- THERMAL_TRIP (R407). A die sensor at 110 C or above resets every partition and holds issue until cool. -/
  | thermalTrip
  /-- GETSTATUS (R399). Mailbox command returning BOOTSTS and the firmware versions. -/
  | getstatus (fn : Nat)
  /-- RESTART (R399). Mailbox command that restarts in normal or minimal mode. -/
  | restart (fn arg : Nat)
  /-- IMGWRITE (R399). Mailbox command that writes an image chunk to the slot not in use. -/
  | imgwrite (fn off : Nat) (chunk : List Byte)
  /-- IMGSELECT (R399). Mailbox command that sets the preferred slot and options. -/
  | imgselect (fn : Nat) (arg : Word)
  /-- PARTCREATE (R399). Mailbox command that creates a partition. -/
  | partcreate (fn pid : Nat) (clusters : BitVec 64) (vmid vf : Nat)
  /-- PARTDESTROY (R399). Mailbox command that destroys a partition. -/
  | partdestroy (fn pid : Nat)
  /-- PARTRESET (R399). Mailbox command that resets a partition. -/
  | partreset (fn pid : Nat)
  /-- PREEMPT (R384). Mailbox command that pre-empts a partition or some of its clusters. -/
  | preemptCmd (fn pid : Nat) (clusters : BitVec 64)
  /-- QUEUESET (R365). Mailbox command that sets a launch-queue descriptor and starts the queue on enable. -/
  | queueset (fn pid queue : Nat) (desc : BitVec 128)
  /-- POOLON (R336). Mailbox command that enables a Millpond pool. -/
  | poolon (fn pool : Nat)
  /-- POOLOFF (R335). Mailbox command that disables a pool and invalidates its entries. -/
  | pooloff (fn pool : Nat)
  /-- VIEWSET (R340). Mailbox command that sets a VM's PONDVIEW. -/
  | viewset (fn vmid : Nat) (view : DWord)
  /-- PAGEGIVE (R237). Mailbox command that passes host-owned frames to the device. -/
  | pagegive (fn : Nat) (frames : List Nat)
  /-- PAGETAKE (R237). Mailbox command that passes device-owned frames to the host. -/
  | pagetake (fn : Nat) (frames : List Nat)
  /-- DRRESUME (R393). Mailbox command that resumes a partition paused by a full dirty ring. -/
  | drresume (fn vmid : Nat)
  /-- EVRING (R399). Mailbox command that sets the function's event ring. -/
  | evring (fn base entries : Nat)
  /-- SVNRAISE (R399). Mailbox command that raises the security-version fuse. -/
  | svnraise (fn : Nat)
  /-- DBGATTACH (R400). Mailbox command that attaches or detaches a debugger. -/
  | dbgattach (fn pid arg : Nat)
  /-- DBGLIST (R400). Mailbox command that lists the halted gangs. -/
  | dbglist (fn pid : Nat)
  /-- DBGREAD (R400). Mailbox command that reads a halted gang's state. -/
  | dbgread (fn pid core slot : Nat)
  /-- DBGWRITE (R400). Mailbox command that writes a halted gang's program-writable state. -/
  | dbgwrite (fn pid core slot : Nat) (fields : List DebugField)
  /-- DBGSTEP (R37). Mailbox command that single-steps one sub-gang by one clause. -/
  | dbgstep (fn pid core slot fibre : Nat)
  /-- DBGRESUME (R400). Mailbox command that resumes halted gangs. -/
  | dbgresume (fn pid : Nat) (all : Bool) (core slot : Nat)
  /-- DBGHALT (R400). Mailbox command that sets or clears core-halt mode. -/
  | dbghalt (fn pid core : Nat) (on : Bool)
  /-- DBGBKPT (R400). Mailbox command that writes the address breakpoints. -/
  | dbgbkpt (fn pid n : Nat) (lo hi : Word)
  /-- REGREAD (R401). Expert mailbox command that reads a register by address. -/
  | regread (fn : Nat) (addr : DWord)
  /-- REGWRITE (R401). Expert mailbox command that writes a register by address within the hardware limits. -/
  | regwrite (fn : Nat) (addr value : DWord)
  /-- REGISTER_WRITE (R7). A write to a register with no row of its own, taking effect by its field kinds. -/
  | registerWrite (reg : BusReg) (value : DWord)
  /-- THERMAL_TRIP_CLEAR (R407). After a thermal trip, every die sensor reads below 95 C and the device resumes
  issue. -/
  | thermalTripClear
  /-- PORT_TRAINED (R409). A Herlet port that is training completes training and its state becomes up. -/
  | portTrained (port : Nat)
  /-- ENGINE_FIRMWARE_SERVICE_DONE (R273). Firmware finishes servicing a Leat or rasteriser access fault under
  RESOLVE, and the engine continues its copy or write. -/
  | engineFirmwareServiceDone (cluster unit : Nat)
  /-- SWITCH_UNDELIVERABLE (R410). A switch reports a remote request undeliverable, and the request ends with
  LINK_DOWN. -/
  | switchUndeliverable (id : Nat)
  deriving DecidableEq, Repr

end Sys2Proof
end

