-- ==== Sys2Proof/Machine/Fields.lean ====
section
/-! DEFINITION. The field rules of every instruction word: those whose breach the static checks report as RESERVED_FIELD
(R43 step 6) and that the word alone decides. The rules that also need the gang or the team (a bank name against
`.cbanks`, the register of a ballot against the width) stand with the static checks of CLAUSE_ISSUE. -/

namespace Sys2Proof

/-- The 64-bit types, whose registers are even-odd pairs (R61 item 4). -/
def Ty.wide : Ty → Bool
  | .b64 | .i64 | .n64 | .f64 => true
  | _ => false

/-- The types whose register holds several elements (R84). -/
def Ty.packed : Ty → Bool
  | .i16x2 | .n16x2 | .i8x4 | .n8x4 | .f16x2 | .bf16x2 => true
  | _ => false

/-- "int" of R137. -/
def Ty.isInt : Ty → Bool
  | .i32 | .n32 | .i64 | .n64 | .i16x2 | .n16x2 | .i8x4 | .n8x4 => true
  | _ => false

/-- "int32/64" of R137. -/
def Ty.isInt3264 : Ty → Bool
  | .i32 | .n32 | .i64 | .n64 => true
  | _ => false

/-- "B" of R137. -/
def Ty.isRaw : Ty → Bool
  | .b32 | .b64 => true
  | _ => false

/-- "fl" of R137. -/
def Ty.isFl : Ty → Bool
  | .f32 | .f64 | .f16 | .f16x2 | .bf16 | .bf16x2 => true
  | _ => false

/-- "fl1" of R137. -/
def Ty.isFl1 : Ty → Bool
  | .f32 | .f64 | .f16 | .bf16 => true
  | _ => false

/-- "sf" of R137. -/
def Ty.isSf : Ty → Bool
  | .f32 | .f16 | .bf16 => true
  | _ => false

/-- The float types of a conversion (R151), E8M0 included. -/
def Ty.isCvtFloat : Ty → Bool
  | .f32 | .f64 | .f16 | .bf16 | .e4m3 | .e5m2 | .e3m2 | .e2m3 | .e2m1 | .e8m0 => true
  | _ => false

/-- The integer types of a conversion (R151). -/
def Ty.isCvtInt : Ty → Bool
  | .i32 | .n32 | .i64 | .n64 | .i8 | .n8 | .i4 | .n4 => true
  | _ => false

/-- Element width and number of element positions of VPACK and VUNPACK (R152); 0 for a type they do not take. -/
def Ty.packWidth : Ty → Nat
  | .i16x2 | .n16x2 | .f16x2 | .bf16x2 | .f16 | .bf16 => 16
  | .i8x4 | .n8x4 | .i8 | .n8 | .e4m3 | .e5m2 | .e3m2 | .e2m3 | .e8m0 => 8
  | .i4 | .n4 | .e2m1 => 4
  | _ => 0

/-- Access size k in bytes of a memory instruction's type (R188); 0 for a type it does not take. -/
def Ty.accessSize : Ty → Nat
  | .i8 | .n8 => 1
  | .f16 | .bf16 => 2
  | .b32 | .i32 | .n32 | .f32 | .i16x2 | .n16x2 | .i8x4 | .n8x4 | .f16x2 | .bf16x2 => 4
  | .b64 | .i64 | .n64 | .f64 => 8
  | _ => 0

/-- What an operand field is used for, as the tables of R107, R128 and R137 mark it. -/
inductive Role where
  | dst | dst32 | src | srcF | src32 | srcWide | srcF64 | uni32 | pred | predOrNone | unused
  deriving DecidableEq, Repr

/-- A register number that names a pair is even (R61 item 4). -/
def evenFor {w : Nat} (wide : Bool) (n : BitVec w) : Bool := !wide || n.toNat % 2 == 0

/-- Whether operand `o` may stand in a field of role `r` of a vector instruction whose data type is `t`
(R58, R59, R61, R134, R135, R137). -/
def Role.allows (r : Role) (t : Ty) (o : Opd) : Bool :=
  match r, o with
  | .dst, .v n => evenFor t.wide n
  | .dst, .sp _ => true
  | .dst, .none => true
  | .dst32, .v _ => true
  | .dst32, .sp _ => true
  | .dst32, .none => true
  | .src, .v n => evenFor t.wide n
  | .src, .s n => evenFor t.wide n
  | .src, .imm _ => true
  | .src, .sp _ => true
  | .src, .lane => true
  | .src, .none => true
  | .srcF, .v n => evenFor t.wide n
  | .srcF, .s n => evenFor t.wide n
  | .srcF, .imm _ => true
  | .srcF, .flt _ => true
  | .srcF, .sp _ => true
  | .srcF, .lane => true
  | .srcF, .none => true
  | .src32, .v _ => true
  | .src32, .s _ => true
  | .src32, .imm _ => true
  | .src32, .sp _ => true
  | .src32, .lane => true
  | .src32, .none => true
  | .srcWide, .v n => evenFor true n
  | .srcWide, .s n => evenFor true n
  | .srcWide, .imm _ => true
  | .srcWide, .sp _ => true
  | .srcWide, .lane => true
  | .srcWide, .none => true
  | .srcF64, .v n => evenFor true n
  | .srcF64, .s n => evenFor true n
  | .srcF64, .imm _ => true
  | .srcF64, .flt _ => true
  | .srcF64, .sp _ => true
  | .srcF64, .lane => true
  | .srcF64, .none => true
  | .uni32, .s _ => true
  | .uni32, .imm _ => true
  | .pred, .imm n => decide (n.val ≤ 6)
  | .predOrNone, .imm n => decide (n.val ≤ 6)
  | .predOrNone, .none => true
  | .unused, .none => true
  | _, _ => false

/-- R62: an `LR` bit stands only on a v register. -/
def lrOk (lr : Bool) (o : Opd) : Bool :=
  match lr, o with
  | false, _ => true
  | true, .v _ => true
  | true, _ => false

/-- The shared rules of a vector R-form: roles of the four operands, `LR` bits (R62), and `RND` and `SAT` (R64). -/
def RForm.shape (f : RForm) (rndOk satOk : Bool) (d a b c : Role) : Bool :=
  d.allows f.t f.d && a.allows f.t f.a && b.allows f.t f.b && c.allows f.t f.c
  && lrOk f.lrA f.a && lrOk f.lrB f.b && lrOk f.lrC f.c
  && (if rndOk then decide (f.rnd.toNat ≤ 4) else f.rnd == 0)
  && (satOk || !f.sat)

/-- `RND` of the special functions: 0 or 1 (R90). -/
def RForm.rndNearest (f : RForm) : Bool := decide (f.rnd.toNat ≤ 1)

/-- A uniform source: an s register (even for a pair), an integer constant or 0x1FF (R61 item 3, R127). -/
def uSrc (wide : Bool) : Opd → Bool
  | .s n => evenFor wide n
  | .imm _ => true
  | .none => true
  | _ => false

/-- A uniform destination: an s register (even for a pair) or 0x1FF (R127). -/
def uDst (wide : Bool) : Opd → Bool
  | .s n => evenFor wide n
  | .none => true
  | _ => false

/-- The shared rules of a uniform R-form (R127, R128): unguarded, no `LR`, no rounding. -/
def RForm.uniform (f : RForm) (tyOk : Bool) (fnMax : Nat) (satOk dWide aWide bWide : Bool) (cOk : Bool) : Bool :=
  tyOk && decide (f.fn.toNat ≤ fnMax) && f.rnd == 0 && (satOk || !f.sat)
  && f.g == .always && !f.lrA && !f.lrB && !f.lrC
  && uDst dWide f.d && uSrc aWide f.a && uSrc bWide f.b && cOk

/-- A C-form source of R107: any operand a 32-bit read accepts, but 0x1FF. -/
def cSource : Opd → Bool
  | .v _ | .s _ | .sp _ | .imm _ | .lane => true
  | _ => false

/-- An even register naming a v pair or an s pair. -/
def isPair : Opd → Bool
  | .v n => evenFor true n
  | .s n => evenFor true n
  | _ => false

/-- An even s register naming a pair. -/
def isSPair : Opd → Bool
  | .s n => evenFor true n
  | _ => false

def isV : Opd → Bool
  | .v _ => true
  | _ => false

def isS : Opd → Bool
  | .s _ => true
  | _ => false

/-- A v register numbered at most `m`. -/
def vAtMost (m : Nat) : Opd → Bool
  | .v n => decide (n.toNat ≤ m)
  | _ => false

/-- An s register numbered at most `m`. -/
def sAtMost (m : Nat) : Opd → Bool
  | .s n => decide (n.toNat ≤ m)
  | _ => false

/-- "k" of R265 and R345: an s register, or an integer constant 0 to 31. -/
def isK : Opd → Bool
  | .s _ => true
  | .imm n => decide (n.val < 32)
  | _ => false

/-- A predicate code 0x140 + p, p from 0 to 6. -/
def isPredCode : Opd → Bool
  | .imm n => decide (n.val ≤ 6)
  | _ => false

def isNone (o : Opd) : Bool := o == .none

/-- E-form rules common to the cluster, Millpond, queue and system instructions: `LR` and `MOD` are 0 (R265, R345,
R377, R328). -/
def EForm.plain (f : EForm) : Bool := !f.lrA && !f.lrB && !f.lrC && f.mod == 0

/-- Every special register selector that a table of the manual assigns (R178, R286, R387, R411). -/
def selectorAssigned (sel : Nat) : Bool :=
  decide (sel ≤ 0x11) || (decide (0x40 ≤ sel) && decide (sel ≤ 0x43)) || (decide (0x60 ≤ sel) && decide (sel ≤ 0x64))
  || (decide (0x80 ≤ sel) && decide (sel ≤ 0x89)) || sel == 0x90 || sel == 0x91
  || (decide (0x400 ≤ sel) && decide (sel ≤ 0x403)) || (decide (0x410 ≤ sel) && decide (sel ≤ 0x417))
  || sel == 0x500 || sel == 0x501 || (decide (0x600 ≤ sel) && decide (sel ≤ 0x604)) || sel == 0x610
  || (decide (0x640 ≤ sel) && decide (sel ≤ 0x663))

/-- Element count n of `SUB`[1:0] (R188); 0 for the reserved value. -/
def elemCount (sub : BitVec 6) : Nat :=
  match sub.toNat % 4 with
  | 0 => 1
  | 1 => 2
  | 2 => 4
  | _ => 0

/-- The data register of a load or store with n elements of k bytes: even for k = 8, and within the register file
(R61, R188). -/
def dataRegOk (k n : Nat) : Opd → Bool
  | .v r => evenFor (k == 8) r && decide (r.toNat + (n * k + 3) / 4 ≤ 256)
  | .s r => evenFor (k == 8) r && decide (r.toNat + (n * k + 3) / 4 ≤ 64)
  | _ => false

/-- Count and size rules shared by LD, ST, SLD, LDS and STS (R188). -/
def MForm.countOk (f : MForm) : Bool :=
  f.t.accessSize != 0 && elemCount f.sub != 0 && (elemCount f.sub == 1 || decide (4 ≤ f.t.accessSize))

def MForm.scopeHint (f : MForm) (scopeMax hintMax : Nat) : Bool :=
  decide (f.scope.toNat ≤ scopeMax) && decide (f.hint.toNat ≤ hintMax)

/-- `ORD` of an instruction that only reads: plain or acquire; that only writes: plain or release (R55). -/
def MForm.ordRead (f : MForm) : Bool := f.ord == 0 || f.ord == 1
def MForm.ordWrite (f : MForm) : Bool := f.ord == 0 || f.ord == 2

/-- The operation number of an atomic (R200). -/
def MForm.atomOp (f : MForm) : Nat := f.sub.toNat % 16
def MForm.ret (f : MForm) : Bool := f.sub.getLsbD 5

/-- The types each atomic operation takes (R200). -/
def atomTyOk (op : Nat) (t : Ty) : Bool :=
  if op ≤ 2 then t.isInt3264
  else if op ≤ 7 then t.isRaw
  else if op == 8 then t == .f32 || t == .f64 || t == .f16x2 || t == .bf16x2
  else if op ≤ 10 then t == .f32 || t == .f64
  else false

/-- The data register of an atomic: a pair for 64-bit types; for `.cas` an even pair or four registers from a multiple
of 4 (R200). -/
def atomDataOk (op : Nat) (t : Ty) : Opd → Bool
  | .v r => if op == 7 then (if t.wide then r.toNat % 4 == 0 else r.toNat % 2 == 0) else evenFor t.wide r
  | .s r => if op == 7 then (if t.wide then r.toNat % 4 == 0 else r.toNat % 2 == 0) else evenFor t.wide r
  | _ => false

/-- The rules of ATOM and ATOMS that do not depend on the address space (R187, R200). `LR.D` marks the data of an atomic
that returns nothing, whose D is no destination (R55); with `RET`, D is a destination, and no s register (R61). -/
def MForm.atomShape (f : MForm) : Bool :=
  atomTyOk f.atomOp f.t && atomDataOk f.atomOp f.t f.d && !f.sub.getLsbD 4
  && (f.atomOp != 7 || f.ret) && lrOk f.lrA f.a && lrOk f.lrD f.d && !(f.lrD && f.ret) && !(f.ret && isS f.d)

/-- What an MMA type is, for the pair table of R239. -/
inductive MmaClass where
  | f64 | f32 | h16 | cbs8 | f8 | i8 | cbv | mx8 | e2m1 | i4 | mxe2m1 | se2m1 | ext | other
  deriving DecidableEq, Repr

def Ty.mma : Ty → MmaClass
  | .f64 => .f64
  | .f32 => .f32
  | .f16 | .bf16 => .h16
  | .cbs8 => .cbs8
  | .e4m3 | .e5m2 | .e3m2 | .e2m3 => .f8
  | .i8 | .n8 => .i8
  | .cbv8 | .cbv4 => .cbv
  | .mxe4m3 | .mxi8 => .mx8
  | .e2m1 => .e2m1
  | .i4 | .n4 => .i4
  | .mxe2m1 => .mxe2m1
  | .se2m1 => .se2m1
  | .ext _ => .ext
  | _ => .other

/-- R239: K and nB of an accepted type pair with `ACCT` (0 F32, 1 I32, 2 F64); none for any other. An extension code in either
place beside any code of the table takes the last row (R106; DEDUCED, log entry 55). -/
def mmaPair (ta tb : Ty) (acct : Nat) : Option (Nat × Nat) :=
  match ta.mma, tb.mma with
  | .ext, .other => none
  | .other, .ext => none
  | .ext, _ => if acct ≤ 2 then some (0, 8) else none
  | _, .ext => if acct ≤ 2 then some (0, 8) else none
  | .f64, .f64 => if acct == 2 then some (4, 8) else none
  | .f32, .f32 => if acct == 0 then some (8, 8) else none
  | .h16, .h16 => if acct == 0 then some (16, 8) else none
  | .h16, .cbs8 => if acct == 0 then some (16, 4) else none
  | .f8, .f8 => if acct == 0 then some (32, 8) else none
  | .i8, .i8 => if acct ≤ 1 then some (32, 8) else none
  | .i8, .cbv => if acct == 0 then some (32, 2) else none
  | .mx8, .mx8 => if acct == 0 then some (32, 8) else none
  | .e2m1, .e2m1 => if acct == 0 then some (64, 8) else none
  | .i4, .i4 => if acct ≤ 1 then some (64, 8) else none
  | .mxe2m1, .mxe2m1 => if acct == 0 then some (64, 8) else none
  | .se2m1, .se2m1 => if acct == 0 then some (64, 8) else none
  | _, _ => none

/-- Block-scaled types (R98, R99). -/
def Ty.blockScaled : Ty → Bool
  | .mxe4m3 | .mxe2m1 | .mxi8 | .se2m1 => true
  | _ => false

def Ty.codebook : Ty → Bool
  | .cbv8 | .cbv4 | .cbs8 => true
  | _ => false

/-- The field rules of MMA (R56, R239, R240). -/
def XForm.ok (f : XForm) : Bool :=
  match mmaPair f.ta f.tb f.acct.toNat with
  | none => false
  | some (_, nB) =>
    decide (f.a.toNat ≤ 0xF8) && decide (f.b.toNat ≤ 0xFE) && f.b.toNat % 2 == 0 && decide (f.b.toNat + nB ≤ 256)
    && (f.s == 0x1FF || (f.s.toNat % 2 == 0 && decide (f.s.toNat ≤ 0xFE)))
    && !(f.s == 0x1FF && (f.ta.blockScaled || f.tb.blockScaled))
    && (f.bank == 0 || f.ta.codebook || f.tb.codebook)

/-- A `TA` or `TB` of R239 that is neither block-scaled, a codebook type nor an extension code (R254, R255). -/
def Ty.spur : Ty → Bool
  | .f64 | .f32 | .f16 | .bf16 | .e4m3 | .e5m2 | .e3m2 | .e2m3 | .i8 | .n8 | .e2m1 | .i4 | .n4 => true
  | _ => false

/-- Output bits of ACCOUT (R249), 6-bit types in their containers; 0 for a type it does not take. -/
def Ty.accoutBits : Ty → Nat
  | .f64 => 64
  | .f32 | .i32 => 32
  | .f16 | .bf16 => 16
  | .e4m3 | .e5m2 | .e3m2 | .e2m3 | .i8 | .n8 => 8
  | .e2m1 | .i4 | .n4 => 4
  | _ => 0

/-- The scale operand of ACCOUT (R249). -/
def accoutScale : Opd → Bool
  | .v _ | .s _ | .flt _ | .sp _ => true
  | _ => false

/-- The field rules of ACCOUT (R249). An F64 destination is a pair, so its first register is even (R61 item 4). -/
def accoutOk (src : Ty) (f : RForm) : Bool :=
  let b := f.t.accoutBits
  let c := min 32 (256 / b)
  b != 0 && (src == .f32 || src == .i32 || src == .f64) && (f.t != .f64 || src == .f64)
  && (match f.d with
      | .v r => evenFor f.t.wide r && decide (r.toNat + (if b == 4 then 4 else 8) ≤ 256)
      | _ => false)
  && isK f.a && accoutScale f.b && isNone f.c && !f.lrA && lrOk f.lrB f.b && !f.lrC
  && decide (f.rnd.toNat ≤ 4) && decide (f.fn.toNat < 32 / c)

/-- The type code that an E-form's `SUB` holds; `spurTy` is used by SPUR and SPURACC. -/
def spurTyOk (t : Option Ty) : Bool :=
  match t with
  | some x => x.spur
  | none => false

/-- The type with a given 6-bit code (R84); none for a code the table does not list. -/
def Ty.ofCode (n : Nat) : Option Ty :=
  match n with
  | 0x00 => some .b32 | 0x01 => some .b64 | 0x02 => some .i32 | 0x03 => some .n32
  | 0x04 => some .i64 | 0x05 => some .n64 | 0x06 => some .i16x2 | 0x07 => some .n16x2
  | 0x08 => some .i8x4 | 0x09 => some .n8x4
  | 0x10 => some .f32 | 0x11 => some .f64 | 0x12 => some .f16 | 0x13 => some .f16x2
  | 0x14 => some .bf16 | 0x15 => some .bf16x2
  | 0x18 => some .e4m3 | 0x19 => some .e5m2 | 0x1A => some .e3m2 | 0x1B => some .e2m3
  | 0x1C => some .e2m1 | 0x1D => some .e8m0
  | 0x20 => some .i8 | 0x21 => some .n8 | 0x22 => some .i4 | 0x23 => some .n4
  | 0x28 => some .cbv8 | 0x29 => some .cbv4 | 0x2A => some .cbs8
  | 0x30 => some .mxe4m3 | 0x31 => some .mxe2m1 | 0x32 => some .mxi8 | 0x33 => some .se2m1
  | 0x34 => some (.ext 0) | 0x35 => some (.ext 1) | 0x36 => some (.ext 2) | 0x37 => some (.ext 3)
  | 0x38 => some (.ext 4) | 0x39 => some (.ext 5) | 0x3A => some (.ext 6) | 0x3B => some (.ext 7)
  | _ => none

/-- The 6-bit code of a type (R84). -/
def Ty.toCode : Ty → Nat
  | .b32 => 0x00 | .b64 => 0x01 | .i32 => 0x02 | .n32 => 0x03
  | .i64 => 0x04 | .n64 => 0x05 | .i16x2 => 0x06 | .n16x2 => 0x07
  | .i8x4 => 0x08 | .n8x4 => 0x09
  | .f32 => 0x10 | .f64 => 0x11 | .f16 => 0x12 | .f16x2 => 0x13
  | .bf16 => 0x14 | .bf16x2 => 0x15
  | .e4m3 => 0x18 | .e5m2 => 0x19 | .e3m2 => 0x1A | .e2m3 => 0x1B
  | .e2m1 => 0x1C | .e8m0 => 0x1D
  | .i8 => 0x20 | .n8 => 0x21 | .i4 => 0x22 | .n4 => 0x23
  | .cbv8 => 0x28 | .cbv4 => 0x29 | .cbs8 => 0x2A
  | .mxe4m3 => 0x30 | .mxe2m1 => 0x31 | .mxi8 => 0x32 | .se2m1 => 0x33
  | .ext n => 0x34 + n.val

/-- The shared fields of ACCZERO, ACCLD and ACCST (R247). -/
def accXferOk (f : EForm) : Bool :=
  decide (f.sub.toNat ≤ 1) && isNone f.d && isNone f.c && isK f.a && f.plain

/-- The shared fields of CPY to RAYWAIT and the Millpond and system instructions that run unguarded. -/
def EForm.once (f : EForm) : Bool := f.g == .always && f.plain

/-- The fields of QPUSH, QPOP, AMPLIFY and LAUNCH (R377). -/
def queueOk (f : EForm) (node count : Bool) : Bool :=
  f.sub == 0 && isPredCode f.d && (isV f.a || isS f.a) && node && count && f.plain

/-- The fields of CACHEOP (R328). -/
def cacheopOk (f : EForm) (sub : BitVec 6) : Bool :=
  f.sub == sub && isNone f.d && isSPair f.a && isS f.b && isS f.c && f.once

/-- Whether every field of an instruction word holds a value that the manual allows it (R43 step 6). An event has no
word, and is well formed. -/
def fieldsOk : Instr → Bool
  | .nop f => f.aux == 0 && isNone f.a && f.imm == 0
  | .br f => f.aux == 0 && isNone f.a
  | .brc f => if f.aux == 0 then isNone f.a else decide (f.aux.toNat ≤ 4) && cSource f.a
  | .brx f => f.aux == 0 && cSource f.a && decide (f.imm.toNat ≤ 30)
  | .lpad f => f.aux == 0 && isNone f.a && decide (f.imm.toNat < 0x1000000)
  | .call f => isNone f.a
  | .callx f => cSource f.a && decide (f.imm.toNat ≤ 30)
  | .ret f => f.aux == 0 && isPair f.a && f.imm == 0
  | .spawn f => decide (f.aux.toNat ≤ 6) && isNone f.a
  | .endFibre f => f.aux == 0 && isNone f.a && f.imm == 0
  | .yield f => f.aux == 0 && isNone f.a && f.imm == 0
  | .trap f => f.aux == 0 && isNone f.a && decide (f.imm.toNat < 0x1000000)
  | .bkpt f => f.aux == 0 && isNone f.a && decide (f.imm.toNat < 0x1000000)
  | .pset _ _ _ _ _ => true
  | .pmovGet f => f.t == .b32 && f.fn == 0 && f.shape false false .dst32 .unused .unused .unused
  | .pmovSet f => f.t == .b32 && f.fn == 1 && f.shape false false .unused .src32 .src32 .unused
  | .smov f => f.uniform f.t.isRaw 0 false f.t.wide f.t.wide false (isNone f.b && isNone f.c)
  | .smovi f => f.g == .always && !f.lrA && isNone f.a && uDst false f.d
  | .sadd f => f.uniform f.t.isInt3264 0 true f.t.wide f.t.wide f.t.wide (isNone f.c)
  | .ssub f => f.uniform f.t.isInt3264 0 true f.t.wide f.t.wide f.t.wide (isNone f.c)
  | .smul f => f.uniform f.t.isInt3264 1 (f.fn == 0) f.t.wide f.t.wide f.t.wide (isNone f.c)
  | .sand f => f.uniform f.t.isRaw 0 false f.t.wide f.t.wide f.t.wide (isNone f.c)
  | .sor f => f.uniform f.t.isRaw 0 false f.t.wide f.t.wide f.t.wide (isNone f.c)
  | .sxor f => f.uniform f.t.isRaw 0 false f.t.wide f.t.wide f.t.wide (isNone f.c)
  | .sshl f => f.uniform f.t.isRaw 0 false f.t.wide f.t.wide false (isNone f.c)
  | .sshr f => f.uniform f.t.isRaw 0 false f.t.wide f.t.wide false (isNone f.c)
  | .ssar f => f.uniform f.t.isRaw 0 false f.t.wide f.t.wide false (isNone f.c)
  | .scmp f => f.uniform f.t.isInt3264 5 false false f.t.wide f.t.wide (isNone f.c)
  | .ssel f => f.uniform f.t.isRaw 0 false f.t.wide f.t.wide f.t.wide (uSrc false f.c)
  | .srd f => decide (f.sel.toNat < 0x400) && selectorAssigned f.sel.toNat && uDst false f.d && isNone f.a && isNone f.b
      && isNone f.c && !f.lrA && !f.lrB && !f.lrC && f.g == .always
  | .vadd f => f.t.isInt && f.fn == 0 && f.shape false true .dst .src .src .unused
  | .vaddc f => (f.t == .n32 || f.t == .n64) && f.shape false false .dst .src .src .unused
  | .vsub f => f.t.isInt && f.fn == 0 && f.shape false true .dst .src .src .unused
  | .vmul f => f.t.isInt && decide (f.fn.toNat ≤ 1) && f.shape false (f.fn == 0) .dst .src .src .unused
  | .vmad f => f.t.isInt3264 && f.fn == 0 && f.shape false true .dst .src .src .src
  | .vmin f => f.t.isInt && f.fn == 0 && f.shape false false .dst .src .src .unused
  | .vmax f => f.t.isInt && f.fn == 0 && f.shape false false .dst .src .src .unused
  | .vand f => f.t.isRaw && f.fn == 0 && f.shape false false .dst .src .src .unused
  | .vor f => f.t.isRaw && f.fn == 0 && f.shape false false .dst .src .src .unused
  | .vxor f => f.t.isRaw && f.fn == 0 && f.shape false false .dst .src .src .unused
  | .vnot f => f.t.isRaw && f.fn == 0 && f.shape false false .dst .src .unused .unused
  | .vshl f => f.t.isRaw && f.fn == 0 && f.shape false false .dst .src .src32 .unused
  | .vshr f => f.t.isRaw && f.fn == 0 && f.shape false false .dst .src .src32 .unused
  | .vsar f => f.t.isRaw && f.fn == 0 && f.shape false false .dst .src .src32 .unused
  | .vpopc f => f.t.isRaw && f.fn == 0 && f.shape false false .dst32 .src .unused .unused
  | .vclz f => f.t.isRaw && f.fn == 0 && f.shape false false .dst32 .src .unused .unused
  | .vctz f => f.t.isRaw && f.fn == 0 && f.shape false false .dst32 .src .unused .unused
  | .vbfe f => f.t.isInt3264 && f.fn == 0 && f.shape false false .dst .src .src32 .unused
  | .vbfi f => f.t.isRaw && f.fn == 0 && f.shape false false .dst .src .src .src32
  | .vcmp f => f.t.isInt && decide (f.fn.toNat ≤ 5) && f.shape false false .dst .src .src .predOrNone
      && (isNone f.c || !f.t.packed)
  | .vsel f => f.t.isRaw && decide (f.fn.toNat ≤ 1)
      && f.shape false false .dst .src .src (if f.fn == 0 then .src32 else .pred)
  | .vmov f => f.t.isRaw && f.fn == 0 && f.shape false false .dst .src .unused .unused
  | .vmovi f => !f.lrA && isNone f.a && Role.dst32.allows .b32 f.d
  | .vfadd f => f.t.isFl && f.fn == 0 && f.shape true true .dst .srcF .srcF .unused
  | .vfsub f => f.t.isFl && f.fn == 0 && f.shape true true .dst .srcF .srcF .unused
  | .vfmul f => f.t.isFl && f.fn == 0 && f.shape true true .dst .srcF .srcF .unused
  | .vfma f => f.t.isFl && f.fn == 0 && f.shape true true .dst .srcF .srcF .srcF
  | .vfmin f => f.t.isFl && f.fn == 0 && f.shape false false .dst .srcF .srcF .unused
  | .vfmax f => f.t.isFl && f.fn == 0 && f.shape false false .dst .srcF .srcF .unused
  | .vfcmp f => f.t.isFl && f.shape false false .dst .srcF .srcF .predOrNone && (isNone f.c || !f.t.packed)
  | .vfclass f => f.t.isFl1 && f.fn == 0 && f.shape false false .dst32 .srcF .unused .unused
  | .vrcp f => f.t.isSf && f.fn == 0 && f.rndNearest && f.shape true false .dst .srcF .unused .unused
  | .vrsq f => f.t.isSf && f.fn == 0 && f.rndNearest && f.shape true false .dst .srcF .unused .unused
  | .vsqrt f => f.t.isSf && f.fn == 0 && f.rndNearest && f.shape true false .dst .srcF .unused .unused
  | .vdiv f => f.t.isSf && f.fn == 0 && f.rndNearest && f.shape true false .dst .srcF .srcF .unused
  | .vexp2 f => f.t.isSf && f.fn == 0 && f.rndNearest && f.shape true false .dst .srcF .unused .unused
  | .vlog2 f => f.t.isSf && f.fn == 0 && f.rndNearest && f.shape true false .dst .srcF .unused .unused
  | .vsinpi f => f.t.isSf && f.fn == 0 && f.rndNearest && f.shape true false .dst .srcF .unused .unused
  | .vcospi f => f.t.isSf && f.fn == 0 && f.rndNearest && f.shape true false .dst .srcF .unused .unused
  | .vfract f => f.t.isFl1 && f.fn == 0 && f.shape true false .dst .srcF .unused .unused
  | .vfrnd f => f.t.isFl && decide (f.fn.toNat ≤ 4) && f.shape false false .dst .srcF .unused .unused
  | .vldexp f => f.t.isFl1 && f.fn == 0 && f.shape true true .dst .srcF .src32 .unused
  | .vfrexp f => f.t.isFl1 && decide (f.fn.toNat ≤ 1)
      && f.shape false false (if f.fn == 0 then .dst else .dst32) .srcF .unused .unused
  | .vcvt src f => (f.t.isCvtFloat || f.t.isCvtInt) && (src.isCvtFloat || src.isCvtInt) && f.fn == 0
      && f.shape true true .dst (if src.wide then .srcWide else .src32) .unused .unused
      && !(f.t.isCvtInt && src.isCvtInt && f.rnd != 0)
  | .vpack f => f.t.packWidth != 0 && decide (f.fn.toNat < 32 / f.t.packWidth)
      && f.shape false false .dst32 .src32 .unused .src32
  | .vunpack f => f.t.packWidth != 0 && decide (f.fn.toNat < 32 / f.t.packWidth)
      && f.shape false false .dst32 .src32 .unused .unused
  | .vcamrel f => f.t == .f32 && f.fn == 0 && f.shape true true .dst32 .srcF64 .srcF64 .unused
  | .vshuf f => f.t.isRaw && decide (f.fn.toNat ≤ 3) && f.shape false false .dst .src .src32 .src
  | .vswz f => f.t.isRaw && f.fn == 0 && f.shape false false .dst .src .uni32 .src
  | .vbcast f => f.t.isRaw && f.fn == 0 && f.shape false false .dst .src .uni32 .src
  | .vvote f => decide (f.fn.toNat ≤ 3) && (f.t == .b32 || (f.t == .b64 && f.fn == 3))
      && f.shape false false .dst32 .src .unused (if f.fn == 2 then .unused else .predOrNone)
  | .vred f => decide (f.fn.toNat ≤ 5) && (if f.fn.toNat ≤ 2 then f.t.isInt3264 || f.t.isFl1 else f.t.isRaw)
      && f.shape (f.fn == 0 && f.t.isFl1) false .dst .src .unused .unused
  | .vscan f => decide (f.fn.toNat ≤ 5) && (if f.fn.toNat ≤ 2 then f.t.isInt3264 || f.t.isFl1 else f.t.isRaw)
      && f.shape (f.fn == 0 && f.t.isFl1) false .dst .src .unused .src
  | .vfree f => f.sub == 0 && isNone f.d && isNone f.c && f.once
      && (match f.a, f.b with
          | .v r, .imm n => decide (1 ≤ n.val) && decide (n.val < 32) && decide (r.toNat + n.val ≤ 256)
          | _, _ => false)
  | .ld f => f.countOk && f.sub.toNat / 4 == 0 && (isNone f.d || (isV f.d && dataRegOk f.t.accessSize (elemCount f.sub) f.d))
      && isPair f.a && f.scopeHint 5 4 && f.ordRead && lrOk f.lrA f.a && !f.lrD
  | .st f => f.countOk && f.sub.toNat / 4 == 0 && dataRegOk f.t.accessSize (elemCount f.sub) f.d
      && isPair f.a && f.scopeHint 5 4 && f.ordWrite && lrOk f.lrA f.a && lrOk f.lrD f.d
  | .sld f => f.countOk && f.sub.toNat / 4 == 0 && isS f.d && dataRegOk f.t.accessSize (elemCount f.sub) f.d
      && isSPair f.a && f.scopeHint 5 4 && f.ordRead && !f.lrA && !f.lrD && f.g == .always
  | .lds f => f.countOk && !f.sub.getLsbD 5
      && (isNone f.d || (isV f.d && dataRegOk f.t.accessSize (elemCount f.sub) f.d))
      && (isV f.a || isS f.a) && f.scopeHint 1 0 && f.ordRead && lrOk f.lrA f.a && !f.lrD
      && (!f.sub.getLsbD 4 || (f.t == .b32 && elemCount f.sub == 1 && vAtMost 248 f.d))
  | .sts f => f.countOk && f.sub.toNat / 4 == 0 && dataRegOk f.t.accessSize (elemCount f.sub) f.d
      && (isV f.a || isS f.a) && f.scopeHint 1 0 && f.ordWrite && lrOk f.lrA f.a && lrOk f.lrD f.d
  | .atom f => f.atomShape && isPair f.a && f.scopeHint 5 4
  | .atoms f => f.atomShape && (isV f.a || isS f.a) && f.scopeHint 1 0
  | .fence f => f.t == .b32 && isNone f.d && isNone f.a && f.sub == 0 && f.off == 0 && f.scopeHint 5 0 && f.ord != 0
      && !f.lrA && !f.lrD && f.g == .always
  | .pref f => f.t == .b32 && isNone f.d && isPair f.a && decide (f.sub.toNat ≤ 1) && f.scopeHint 0 4 && f.ord == 0
      && lrOk f.lrA f.a && !f.lrD
  | .fec f => f.t == .b32 && isNone f.d && (isV f.a || isS f.a) && decide (f.sub.toNat % 4 ≤ 2) && f.scopeHint 1 0
      && f.ordWrite && lrOk f.lrA f.a && !f.lrD
  | .woreset f => f.t == .b32 && isS f.d && isSPair f.a && f.sub == 0 && f.off == 0 && f.scopeHint 5 0 && f.ordWrite
      && !f.lrA && !f.lrD && f.g == .always
  | .mma f => f.ok
  | .acczero f => accXferOk f && isNone f.b
  | .accld f => accXferOk f && isS f.b
  | .accst f => accXferOk f && isS f.b
  | .accout src f => accoutOk src f
  | .accwin f => f.sub == 0 && isNone f.d && isK f.a && isK f.b && isK f.c && f.once
  | .cbload f => decide (f.sub.toNat < 8) && isNone f.d && isS f.a && isK f.b && isK f.c && f.once
  | .cbvalid f => decide (f.sub.toNat < 8) && isNone f.d && isK f.a && isK f.b && isNone f.c && f.once
  | .vexpand f => f.t.codebook && (match f.d with | .v r => evenFor (f.t == .cbv8) r | _ => false)
      && (match f.a with | .v _ => true | .s _ => true | .sp _ => true | _ => false)
      && (match f.b with | .imm n => decide (n.val ≤ 3) | _ => false) && isNone f.c
      && lrOk f.lrA f.a && !f.lrB && !f.lrC && f.rnd == 0 && !f.sat
      && decide (f.fn.toNat ≤ (if f.t == .cbv8 then 1 else 3))
  | .spuracc f => spurTyOk (Ty.ofCode f.sub.toNat) && isNone f.d && isNone f.b && isNone f.c && sAtMost 61 f.a
      && decide (f.mod.toNat ≤ 2) && !f.lrA && !f.lrB && !f.lrC && f.g == .always
  | .spur f => spurTyOk (Ty.ofCode f.sub.toNat) && isSPair f.d && isS f.a && isV f.b && isNone f.c
      && decide (f.mod.toNat < 16) && f.mod.toNat % 4 != 3 && !f.lrA && !f.lrB && !f.lrC && f.g == .always
  | .cpy f => decide (f.sub.toNat < 8) && f.sub.toNat / 2 % 4 != 3 && (isS f.d || isNone f.d) && isSPair f.a
      && isNone f.b && isNone f.c && f.once
  | .cpystat f => f.sub == 0 && isSPair f.d && isS f.a && isNone f.b && isNone f.c && f.once
  | .barinit f => f.sub == 0 && isNone f.d && isK f.a && isK f.b && isNone f.c && f.once
  | .bara f => decide (f.sub.toNat ≤ 1) && (isS f.d || isNone f.d) && isK f.a && isK f.b && isNone f.c && f.once
  | .barw f => f.sub == 0 && isSPair f.d && isK f.a && isK f.b && isNone f.c && f.once
  | .baraw f => decide (f.sub.toNat ≤ 1) && isSPair f.d && isK f.a && isK f.b && isNone f.c && f.once
  | .rangeset f => f.sub == 0 && isNone f.d && isK f.a && sAtMost 60 f.b && isNone f.c && f.once
  | .take f => f.sub == 0 && isSPair f.d && isK f.a && isNone f.b && isNone f.c && f.once
  | .prim f => decide (f.sub.toNat < 4) && (isV f.d || isNone f.d) && vAtMost 245 f.a && isSPair f.b && isNone f.c && f.plain
  | .occq f => f.sub == 0 && (isV f.d || isNone f.d) && (isV f.a || isS f.a) && isSPair f.b && sAtMost 60 f.b
      && (isPredCode f.c || isNone f.c) && !(isNone f.d && isNone f.c) && f.plain
  | .rayq f => decide (f.sub.toNat < 4) && vAtMost 252 f.d && vAtMost 248 f.a && isSPair f.b && isNone f.c && f.plain
  | .raywait f => f.sub == 0 && isNone f.d && isNone f.a && isNone f.b && isNone f.c && f.once
  | .txreq f => decide (f.sub.toNat ≤ 1) && (match f.d with | .v r => r.toNat % 4 == 0 | _ => false) && vAtMost 253 f.a
      && isNone f.b && isNone f.c && f.plain
  | .txwait f => f.sub == 0 && (match f.d with | .v r => r.toNat % 4 == 0 | _ => false) && isV f.a
      && isNone f.b && isNone f.c && f.plain
  | .txfill f => f.sub == 0 && isS f.d && isSPair f.a && sAtMost 58 f.a && isNone f.b && isNone f.c && f.once
  | .txinvKey f => f.sub == 0 && (isS f.d || isNone f.d) && isSPair f.a && sAtMost 60 f.a && isNone f.b && isNone f.c && f.once
  | .txinvInfl f => f.sub == 1 && (isS f.d || isNone f.d) && isSPair f.a && sAtMost 60 f.a && isNone f.b && isNone f.c && f.once
  | .txframe f => f.sub == 0 && (isS f.d || isNone f.d) && isK f.a && isNone f.b && isNone f.c && f.once
  | .txpinSet f => f.sub == 0 && (isS f.d || isNone f.d) && sAtMost 61 f.a && isNone f.b && isNone f.c && f.once
  | .txpinClr f => f.sub == 1 && (isS f.d || isNone f.d) && sAtMost 61 f.a && isNone f.b && isNone f.c && f.once
  | .qpush f => queueOk f (isK f.b) (isNone f.c)
  | .qpop f => queueOk f (isK f.b) (isNone f.c)
  | .amplify f => queueOk f (isK f.b) (isK f.c || isV f.c)
  | .launch f => queueOk f (isS f.b || (match f.b with | .imm n => decide (n.val < 16) | _ => false)) (isNone f.c)
  | .sysrd f => selectorAssigned f.sel.toNat && isS f.d && isNone f.a && isNone f.b && isNone f.c
      && !f.lrA && !f.lrB && !f.lrC && f.g == .always
  | .syswr f => selectorAssigned f.sel.toNat && isNone f.d && isS f.a && isNone f.b && isNone f.c
      && !f.lrA && !f.lrB && !f.lrC && f.g == .always
  | .eret f => f.aux == 0 && isNone f.a && f.imm == 0 && f.g == .always
  | .eretSkip f => f.aux == 1 && isNone f.a && f.imm == 0 && f.g == .always
  | .attrset f => f.sub == 0 && isNone f.d && isSPair f.a && sAtMost 60 f.a && isNone f.b && isNone f.c && f.once
  | .tlbshoot f => decide (f.sub.toNat ≤ 3) && isNone f.d
      && (if f.sub == 0 then isSPair f.a && isS f.b else isNone f.a && isNone f.b)
      && (if f.sub == 3 then isNone f.c else isS f.c) && f.once
  | .cacheopWb f => cacheopOk f 0
  | .cacheopInv f => cacheopOk f 1
  | .cacheopDiscard f => cacheopOk f 2
  | .cacheopIinv f => cacheopOk f 3
  | .cacheopClrlost f => cacheopOk f 4
  | .firmcall f => f.aux == 0 && isSPair f.a && sAtMost 60 f.a && decide (f.imm.toNat < 0x1000000) && f.g == .always
  | .clauseIssue _ _ | .longResultArrive _ _ _ _ | .parkRelease _ _ _ | .registerParkRelease _ | .deferredFaultArrive _ _ _
  | .faultResolveResume _ _ _ _ | .memoryAccessPerform _ _ _ _ | .gangRetire _ _ | .teamAdmit _ _ | .teamEvict _ _
  | .teamRestore _ _ _ | .jumpTableEntryReturn _ _ _ | .mmaRetire _ _ | .accwinPerform _ _ | .codebookBankWrite _ _
  | .spurPartnerWork _ _ _ | .spurStatusReady _ _ | .copyStart _ _ | .copyGranuleDeliver _ _ | .copyEnd _ _
  | .rasterSampleWrite _ | .flushClassesArrive _ _ _ | .rayqDeliver _ _ _ _ | .clockHandAdvance _ _ | .wallowerFire _ _
  | .attrsetPageComplete _ _ _ | .firmcallReturn _ _ _ _ _ _ _ | .gets _ _ _ | .getm _ _ _ | .homeAtomic _ _ _
  | .engineLineRequest _ _ _ _ | .putsPute _ _ _ | .putmPuto _ _ _ | .l2EvictRecall _ _ | .probeAck _ _ _
  | .engineLineRelease _ _ _ _ | .watchNotice _ | .translationWalk _ _ _ | .dieLinkFail _ _ _ | .sramUncorrectable _ _
  | .l2Uncorrectable _ | .queueAccept _ _ | .gridEligible _ | .gridRetire _ | .watchdogExpire _ | .hostMemAccess _ _ _
  | .remoteRequestArrive _ | .remoteReplyArrive _ _ | .remoteTimeout _ | .flitReplay _ | .portRetrain _ | .portDown _
  | .coldReset | .startStageComplete _ | .startWatchdogExpire | .hostReset | .vfFlr _ | .thermalTrip | .getstatus _
  | .restart _ _ | .imgwrite _ _ _ | .imgselect _ _ | .partcreate _ _ _ _ _ | .partdestroy _ _ | .partreset _ _
  | .preemptCmd _ _ _ | .queueset _ _ _ _ | .poolon _ _ | .pooloff _ _ | .viewset _ _ _ | .pagegive _ _ | .pagetake _ _
  | .drresume _ _ | .evring _ _ _ | .svnraise _ | .dbgattach _ _ _ | .dbglist _ _ | .dbgread _ _ _ _ | .dbgwrite _ _ _ _ _
  | .dbgstep _ _ _ _ _ | .dbgresume _ _ _ _ _ | .dbghalt _ _ _ _ | .dbgbkpt _ _ _ _ _ | .regread _ _ | .regwrite _ _ _
  | .registerWrite _ _ | .thermalTripClear | .portTrained _ | .engineFirmwareServiceDone _ _ | .switchUndeliverable _ => true

/-- Whether a step is an event of the device, not an instruction word of Kremas. -/
def isEvent : Instr → Bool
  | .clauseIssue .. => true
  | .longResultArrive .. => true
  | .parkRelease .. => true
  | .registerParkRelease .. => true
  | .deferredFaultArrive .. => true
  | .faultResolveResume .. => true
  | .memoryAccessPerform .. => true
  | .gangRetire .. => true
  | .teamAdmit .. => true
  | .teamEvict .. => true
  | .teamRestore .. => true
  | .jumpTableEntryReturn .. => true
  | .mmaRetire .. => true
  | .accwinPerform .. => true
  | .codebookBankWrite .. => true
  | .spurPartnerWork .. => true
  | .spurStatusReady .. => true
  | .copyStart .. => true
  | .copyGranuleDeliver .. => true
  | .copyEnd .. => true
  | .rasterSampleWrite .. => true
  | .flushClassesArrive .. => true
  | .rayqDeliver .. => true
  | .clockHandAdvance .. => true
  | .wallowerFire .. => true
  | .attrsetPageComplete .. => true
  | .firmcallReturn .. => true
  | .gets .. => true
  | .getm .. => true
  | .homeAtomic .. => true
  | .engineLineRequest .. => true
  | .putsPute .. => true
  | .putmPuto .. => true
  | .l2EvictRecall .. => true
  | .probeAck .. => true
  | .engineLineRelease .. => true
  | .watchNotice .. => true
  | .translationWalk .. => true
  | .dieLinkFail .. => true
  | .sramUncorrectable .. => true
  | .l2Uncorrectable .. => true
  | .queueAccept .. => true
  | .gridEligible .. => true
  | .gridRetire .. => true
  | .watchdogExpire .. => true
  | .hostMemAccess .. => true
  | .remoteRequestArrive .. => true
  | .remoteReplyArrive .. => true
  | .remoteTimeout .. => true
  | .flitReplay .. => true
  | .portRetrain .. => true
  | .portDown .. => true
  | .coldReset .. => true
  | .startStageComplete .. => true
  | .startWatchdogExpire .. => true
  | .hostReset .. => true
  | .vfFlr .. => true
  | .thermalTrip .. => true
  | .getstatus .. => true
  | .restart .. => true
  | .imgwrite .. => true
  | .imgselect .. => true
  | .partcreate .. => true
  | .partdestroy .. => true
  | .partreset .. => true
  | .preemptCmd .. => true
  | .queueset .. => true
  | .poolon .. => true
  | .pooloff .. => true
  | .viewset .. => true
  | .pagegive .. => true
  | .pagetake .. => true
  | .drresume .. => true
  | .evring .. => true
  | .svnraise .. => true
  | .dbgattach .. => true
  | .dbglist .. => true
  | .dbgread .. => true
  | .dbgwrite .. => true
  | .dbgstep .. => true
  | .dbgresume .. => true
  | .dbghalt .. => true
  | .dbgbkpt .. => true
  | .regread .. => true
  | .regwrite .. => true
  | .registerWrite .. => true
  | .thermalTripClear .. => true
  | .portTrained .. => true
  | .engineFirmwareServiceDone .. => true
  | .switchUndeliverable .. => true
  | _ => false

end Sys2Proof
end

