-- ==== Sys2Proof/Machine/Bits.lean ====
section
/-! DEFINITION. Bit fields, byte order, and the sparse tables the state is made of: a table is a list of keys and
values with strictly rising keys, and a key that is not listed has the value its reader names. -/

namespace Sys2Proof

/-- Field [hi:lo] of a number (R5). -/
def bitsOf (x hi lo : Nat) : Nat := (x >>> lo) % 2 ^ (hi + 1 - lo)

/-- Bit b of a number. -/
def bitOf (x b : Nat) : Bool := x.testBit b

/-- `sext(x, n)` of R10, from the low w bits of x, as an exact integer. -/
def sext (x w : Nat) : Int :=
  let y := x % 2 ^ w
  if 2 * y < 2 ^ w then (y : Int) else (y : Int) - (2 : Int) ^ w

/-- An exact integer modulo 2^w. -/
def wrapTo (x : Int) (w : Nat) : Nat := (x % (2 : Int) ^ w).toNat

/-- Little-endian bytes of a number (R5). -/
def leBytes : Nat → Nat → List Byte
  | 0, _ => []
  | n + 1, x => BitVec.ofNat 8 x :: leBytes n (x / 256)

/-- The number whose little-endian bytes are given (R5). -/
def leNat : List Byte → Nat
  | [] => 0
  | b :: bs => b.toNat + 256 * leNat bs

/-- ⌈a ÷ b⌉. -/
def ceilDiv (a b : Nat) : Nat := (a + b - 1) / b

/-- A sparse table. -/
abbrev Table (α : Type) := List (Nat × α)

/-- The value listed for a key. -/
def Table.get? {α : Type} : Table α → Nat → Option α
  | [], _ => none
  | (k, v) :: t, x => if x == k then some v else Table.get? t x

/-- The value listed for a key, or `d`. -/
def Table.getD {α : Type} (t : Table α) (k : Nat) (d : α) : α := (Table.get? t k).getD d

/-- The table with a key's value replaced or added; rising keys stay rising. -/
def Table.put {α : Type} : Table α → Nat → α → Table α
  | [], x, v => [(x, v)]
  | (k, w) :: t, x, v =>
    if x < k then (x, v) :: (k, w) :: t
    else if x == k then (x, v) :: t
    else (k, w) :: Table.put t x v

/-- The table without a key. -/
def Table.del {α : Type} (t : Table α) (k : Nat) : Table α := t.filter fun p => p.1 != k

/-- The table with the value of a listed key changed; a key that is not listed stays unlisted. -/
def Table.modify {α : Type} (t : Table α) (k : Nat) (f : α → α) : Table α :=
  match Table.get? t k with
  | some v => Table.put t k (f v)
  | none => t

/-- Element n of a list, or `d` past its end. -/
def nth {α : Type} (l : List α) (n : Nat) (d : α) : α := (l[n]?).getD d

/-- The n elements of a list with element k replaced; an element that the list lacks is `d`. -/
def setAt {α : Type} (n : Nat) (l : List α) (k : Nat) (x d : α) : List α :=
  (List.range n).map fun i => if i == k then x else nth l i d

/-- The word a lane has after a list of lane writes, the last of which counts. -/
def laneWord : List (Nat × Word) → Nat → Word → Word
  | [], _, old => old
  | (j, w) :: ws, i, old => laneWord ws i (if j == i then w else old)

/-- The lanes of a mask, in increasing order. -/
def Lanes.toList (m : Lanes) : List Nat := (List.range 128).filter (fun i => m.getLsbD i)

/-- The mask of one lane. -/
def Lanes.one (i : Nat) : Lanes := BitVec.ofNat 128 (2 ^ i)

/-- The mask of lanes 0 to n − 1. -/
def Lanes.below (n : Nat) : Lanes := BitVec.ofNat 128 (2 ^ n - 1)

/-- The mask of the lanes that a test picks. -/
def Lanes.ofPred (w : Nat) (p : Nat → Bool) : Lanes :=
  (List.range w).foldl (fun m i => if p i then m ||| Lanes.one i else m) 0

/-- The lowest lane of a mask. -/
def Lanes.lowest (m : Lanes) : Option Nat := (Lanes.toList m).head?

/-- How many lanes a mask has. -/
def Lanes.count (m : Lanes) : Nat := (Lanes.toList m).length

/-- The inserted list with x put at its place among strictly rising numbers. -/
def insertNat (x : Nat) : List Nat → List Nat
  | [] => [x]
  | y :: t => if x < y then x :: y :: t else if x == y then y :: t else y :: insertNat x t

/-- Bytes that a remote request reads or writes (R415, R416). -/
def RemoteOp.bytes : RemoteOp → Nat
  | .load n => n
  | .store d => d.length
  | .atomic _ t _ _ => match t with
    | .b64 | .i64 | .n64 | .f64 => 8
    | _ => 4
  | .woreset n => 65536 * n
  | .reduce _ d => d.length

/-- The union of two lists of strictly rising numbers. -/
def unionNat (a b : List Nat) : List Nat := a.foldl (fun acc x => insertNat x acc) b

end Sys2Proof
end

