-- ==== Sys2Proof/Machine/Num.lean ====
section
/-! DEFINITION. Numbers bit by bit (chapter 4): the float formats, exact values, the one rounding of R89 and R91, the
arithmetic of the float instructions, and the conversions of R94 and R95. -/

namespace Sys2Proof.Machine

/-- What an exponent field of all ones means (R87). -/
inductive Specials where
  | ieee | e4m3 | none
  deriving DecidableEq, Repr

/-- A float format: exponent bits, fraction bits, bias and specials (R87). -/
structure Fmt where
  e : Nat
  m : Nat
  bias : Nat
  sp : Specials
  deriving DecidableEq, Repr

def Fmt.f64 : Fmt := { e := 11, m := 52, bias := 1023, sp := .ieee }
def Fmt.f32 : Fmt := { e := 8, m := 23, bias := 127, sp := .ieee }
def Fmt.f16 : Fmt := { e := 5, m := 10, bias := 15, sp := .ieee }
def Fmt.bf16 : Fmt := { e := 8, m := 7, bias := 127, sp := .ieee }
def Fmt.e4m3 : Fmt := { e := 4, m := 3, bias := 7, sp := .e4m3 }
def Fmt.e5m2 : Fmt := { e := 5, m := 2, bias := 15, sp := .ieee }
def Fmt.e3m2 : Fmt := { e := 3, m := 2, bias := 3, sp := .none }
def Fmt.e2m3 : Fmt := { e := 2, m := 3, bias := 1, sp := .none }
def Fmt.e2m1 : Fmt := { e := 2, m := 1, bias := 1, sp := .none }

/-- The format of one element of a float type (R84, R87); E8M0 and the integer types have none. -/
def fmtOf : Ty → Option Fmt
  | .f64 => some .f64
  | .f32 => some .f32
  | .f16 | .f16x2 => some .f16
  | .bf16 | .bf16x2 => some .bf16
  | .e4m3 => some .e4m3
  | .e5m2 => some .e5m2
  | .e3m2 => some .e3m2
  | .e2m3 => some .e2m3
  | .e2m1 => some .e2m1
  | _ => none

/-- Bits of an encoding. -/
def Fmt.width (f : Fmt) : Nat := 1 + f.e + f.m

/-- The value of an encoding: a NaN, signalling or not; an infinity; or (−1)^neg × mant × 2^exp. -/
inductive FVal where
  | nan (signalling : Bool)
  | inf (neg : Bool)
  | fin (neg : Bool) (mant : Nat) (exp : Int)
  deriving DecidableEq, Repr

/-- The five exception flags, NV DZ OF UF NX from bit 4 to bit 0 (R96, R181). -/
abbrev Flags := BitVec 5

def flagNV : Flags := 0b10000
def flagDZ : Flags := 0b01000
def flagOF : Flags := 0b00100
def flagUF : Flags := 0b00010
def flagNX : Flags := 0b00001

/-- R87: the value of an encoding. -/
def Fmt.decode (f : Fmt) (bits : Nat) : FVal :=
  let frac := bits % 2 ^ f.m
  let ex := (bits / 2 ^ f.m) % 2 ^ f.e
  let neg := bits.testBit (f.e + f.m)
  let top := 2 ^ f.e - 1
  if ex == top && f.sp == .ieee then
    if frac == 0 then .inf neg else .nan (!frac.testBit (f.m - 1))
  else if ex == top && f.sp == .e4m3 && frac == 2 ^ f.m - 1 then .nan false
  else if ex == 0 then .fin neg frac (1 - (f.bias : Int) - (f.m : Int))
  else .fin neg (2 ^ f.m + frac) ((ex : Int) - (f.bias : Int) - (f.m : Int))

/-- A sign bit in its place. -/
def Fmt.signBit (f : Fmt) (neg : Bool) : Nat := if neg then 2 ^ (f.e + f.m) else 0

/-- The canonical quiet NaN (R92); a format with no NaN gives +0. -/
def Fmt.qnan (f : Fmt) : Nat :=
  match f.sp with
  | .ieee => (2 ^ f.e - 1) * 2 ^ f.m + 2 ^ (f.m - 1)
  | .e4m3 => 2 ^ (f.e + f.m) - 1
  | .none => 0

/-- The largest finite magnitude (R87). -/
def Fmt.maxBits (f : Fmt) : Nat :=
  match f.sp with
  | .ieee => (2 ^ f.e - 1) * 2 ^ f.m - 1
  | .e4m3 => 2 ^ (f.e + f.m) - 2
  | .none => 2 ^ (f.e + f.m) - 1

def Fmt.maxFinite (f : Fmt) (neg : Bool) : Nat := f.signBit neg + f.maxBits

/-- The encoding of an infinity in a format that has one. -/
def Fmt.infBits (f : Fmt) (neg : Bool) : Nat := f.signBit neg + (2 ^ f.e - 1) * 2 ^ f.m

/-- A rounding mode in the encoding of `RND` 1 to 4 (R64). -/
inductive Mode where
  | rne | rz | rp | rm
  deriving DecidableEq, Repr

/-- The mode of a 3-bit `RND` or `RM` value (R64, R89). -/
def modeOf (n : BitVec 3) : Mode :=
  match n.toNat with
  | 2 => .rz
  | 3 => .rp
  | 4 => .rm
  | _ => .rne

/-- The mode an instruction rounds in: its `RND`, or `GMODE.RM` when that is 0 (R89). -/
def modeFor (rnd rm : BitVec 3) : Mode := if rnd == 0 then modeOf rm else modeOf rnd

/-- Whether a magnitude rounds up from the multiple k below it, by how far it lies above it. -/
def roundsUp (mode : Mode) (neg : Bool) (k rem half : Nat) : Bool :=
  match mode with
  | .rne => decide (half < rem) || (rem == half && k % 2 == 1)
  | .rz => false
  | .rp => rem != 0 && !neg
  | .rm => rem != 0 && neg

/-- mant × 2^exp rounded to a multiple k of 2^q: k, and whether that is inexact. -/
def roundAt (mode : Mode) (neg : Bool) (mant : Nat) (exp q : Int) : Nat × Bool :=
  if q ≤ exp then (mant * 2 ^ (exp - q).toNat, false)
  else
    let sh := (q - exp).toNat
    let k := mant / 2 ^ sh
    let rem := mant % 2 ^ sh
    (if roundsUp mode neg k rem (2 ^ (sh - 1)) then k + 1 else k, rem != 0)

/-- Whether overflow in this mode stays at the largest finite value (R91). -/
def towardZero (mode : Mode) (neg : Bool) : Bool :=
  match mode with
  | .rne => false
  | .rz => true
  | .rp => neg
  | .rm => !neg

/-- The result of an overflow (R91). -/
def Fmt.overflow (f : Fmt) (mode : Mode) (sat neg : Bool) : Nat × Flags :=
  let v :=
    if sat || towardZero mode neg then f.maxFinite neg
    else
      match f.sp with
      | .ieee => f.infBits neg
      | .e4m3 => f.signBit neg + f.qnan
      | .none => f.maxFinite neg
  (v, flagOF ||| flagNX)

/-- R89 and R91: a nonzero exact magnitude mant × 2^exp rounded once into a format. The lowest bit of `mant` may stand
for everything below it when `mant` has at least two bits more than the format. -/
def Fmt.round (f : Fmt) (mode : Mode) (sat neg : Bool) (mant : Nat) (exp : Int) : Nat × Flags :=
  if mant == 0 then (f.signBit neg, 0)
  else
    let top := exp + (Nat.log2 mant : Int)
    let emin := 1 - (f.bias : Int)
    let q := (if top < emin then emin else top) - (f.m : Int)
    let (k, inexact) := roundAt mode neg mant exp q
    let (k, q) := if k == 2 ^ (f.m + 1) then (2 ^ f.m, q + 1) else (k, q)
    let (ku, _) := roundAt mode neg mant exp (top - (f.m : Int))
    let tiny := decide (top < emin - 1) || (decide (top = emin - 1) && decide (ku < 2 ^ (f.m + 1)))
    let ef := if k < 2 ^ f.m then 0 else (q + (f.m : Int) + (f.bias : Int)).toNat
    let mag := if k < 2 ^ f.m then k else ef * 2 ^ f.m + (k - 2 ^ f.m)
    if f.maxBits < mag then f.overflow mode sat neg
    else
      (f.signBit neg + mag,
       (if inexact then flagNX else 0) ||| (if inexact && tiny then flagUF else 0))

/-- An exactly infinite result (R91): an infinity, or the largest finite value with NX under `SAT`. -/
def Fmt.infinite (f : Fmt) (sat neg : Bool) : Nat × Flags :=
  if sat || f.sp != .ieee then (f.maxFinite neg, flagNX) else (f.infBits neg, 0)

/-! ### Exact arithmetic -/

/-- A finite value as an exact integer times 2^exp. -/
def signed (neg : Bool) (mant : Nat) : Int := if neg then -(mant : Int) else (mant : Int)

/-- x × 2^a as an integer multiple of 2^b, for b ≤ a. -/
def alignTo (x : Int) (a b : Int) : Int := x * (2 : Int) ^ (a - b).toNat

/-- The sum of two exact values x × 2^a and y × 2^b. -/
def addExact (x : Int) (a : Int) (y : Int) (b : Int) : Int × Int :=
  let q := if a ≤ b then a else b
  (alignTo x a q + alignTo y b q, q)

/-- The sign of an exact zero sum of two terms with the signs given (R93). -/
def zeroSign (mode : Mode) (s t : Bool) : Bool := if s == t then s else mode == .rm

/-- Whether a value is a signalling NaN. -/
def FVal.sig : FVal → Bool
  | .nan b => b
  | _ => false

def FVal.isNan : FVal → Bool
  | .nan _ => true
  | _ => false

def FVal.isZero : FVal → Bool
  | .fin _ m _ => m == 0
  | _ => false

def FVal.isInf : FVal → Bool
  | .inf _ => true
  | _ => false

def FVal.neg : FVal → FVal
  | .nan b => .nan b
  | .inf s => .inf (!s)
  | .fin s m e => .fin (!s) m e

def FVal.sign : FVal → Bool
  | .nan _ => false
  | .inf s => s
  | .fin s _ _ => s

/-- 1. -/
def FVal.one : FVal := .fin false 1 0

/-- A NaN result: canonical, with NV when a signalling NaN or an invalid case made it (R92, R96). -/
def Fmt.nanOut (f : Fmt) (nv : Bool) : Nat × Flags := (f.qnan, if nv then flagNV else 0)

/-- a × b + c, rounded once (R144); a 0 × ∞ product is invalid whatever c is (R96). -/
def fmaRound (f : Fmt) (mode : Mode) (sat : Bool) (a b c : FVal) : Nat × Flags :=
  let sig := a.sig || b.sig || c.sig
  let zinf := (a.isZero && b.isInf) || (a.isInf && b.isZero)
  if zinf then f.nanOut true
  else if a.isNan || b.isNan || c.isNan then f.nanOut sig
  else
    match a, b, c with
    | .fin sa ma ea, .fin sb mb eb, .fin sc mc ec =>
      let sp := sa != sb
      let (x, e) := addExact (signed sp (ma * mb)) (ea + eb) (signed sc mc) ec
      if x == 0 then (f.signBit (if ma * mb == 0 && mc == 0 then zeroSign mode sp sc else mode == .rm), 0)
      else f.round mode sat (decide (x < 0)) x.natAbs e
    | _, _, .inf sc =>
      if (a.isInf || b.isInf) && (a.sign != b.sign) != sc then f.nanOut true else f.infinite sat sc
    | _, _, _ => f.infinite sat (a.sign != b.sign)

/-- a + b, rounded once (R144). -/
def addRound (f : Fmt) (mode : Mode) (sat : Bool) (a b : FVal) : Nat × Flags := fmaRound f mode sat a .one b

/-- a × b, rounded once (R144). -/
def mulRound (f : Fmt) (mode : Mode) (sat : Bool) (a b : FVal) : Nat × Flags :=
  let zinf := (a.isZero && b.isInf) || (a.isInf && b.isZero)
  if zinf then f.nanOut true
  else if a.isNan || b.isNan then f.nanOut (a.sig || b.sig)
  else
    match a, b with
    | .fin sa ma ea, .fin sb mb eb => f.round mode sat (sa != sb) (ma * mb) (ea + eb)
    | _, _ => f.infinite sat (a.sign != b.sign)

/-- Comparison of two values that are not NaNs: −1, 0 or 1; −0 equals +0 (R146). -/
def cmpVal (a b : FVal) : Int :=
  match a, b with
  | .inf s, .inf t => if s == t then 0 else if s then -1 else 1
  | .inf s, _ => if s then -1 else 1
  | _, .inf t => if t then 1 else -1
  | .fin sa ma ea, .fin sb mb eb => (addExact (signed sa ma) ea (-(signed sb mb)) eb).1.sign
  | _, _ => 0

/-- VFMIN and VFMAX (R145). -/
def minMax (f : Fmt) (max : Bool) (x y : Nat) : Nat × Flags :=
  let a := f.decode x
  let b := f.decode y
  let nv : Flags := if a.sig || b.sig then flagNV else 0
  if a.isNan && b.isNan then (f.qnan, nv)
  else if a.isNan then (y, nv)
  else if b.isNan then (x, nv)
  else
    let c := cmpVal a b
    let less := decide (c < 0) || (c == 0 && a.sign && !b.sign)
    (if less != max then x else y, nv)

/-- The square root's bits below bit k, found from the top down, added to r. -/
def isqrtBits (n : Nat) : Nat → Nat → Nat
  | 0, r => r
  | k + 1, r => isqrtBits n k (if (r + 2 ^ k) * (r + 2 ^ k) ≤ n then r + 2 ^ k else r)

/-- The largest number whose square is at most n. -/
def isqrt (n : Nat) : Nat := isqrtBits n (Nat.log2 n / 2 + 1) 0

/-- A quotient of positive exact values with `p` bits of precision, its lowest bit standing for the rest. -/
def divSticky (p n d : Nat) : Nat × Int :=
  let sh := p + Nat.log2 d + 1
  let q := n * 2 ^ sh / d
  let r := n * 2 ^ sh % d
  (2 * q + (if r == 0 then 0 else 1), -(sh : Int) - 1)

/-! ### Integers and conversions -/

/-- The bits of an integer type's element, and whether it is signed (R84). -/
def intOf : Ty → Option (Nat × Bool)
  | .i32 => some (32, true)
  | .n32 => some (32, false)
  | .i64 => some (64, true)
  | .n64 => some (64, false)
  | .i16x2 => some (16, true)
  | .n16x2 => some (16, false)
  | .i8x4 | .i8 => some (8, true)
  | .n8x4 | .n8 => some (8, false)
  | .i4 => some (4, true)
  | .n4 => some (4, false)
  | _ => none

/-- The value of an integer element. -/
def intVal (w : Nat) (sgn : Bool) (bits : Nat) : Int := if sgn then sext bits w else ((bits % 2 ^ w : Nat) : Int)

/-- `sat(x, T)` for an integer type (R10). -/
def satInt (w : Nat) (sgn : Bool) (x : Int) : Int :=
  let lo : Int := if sgn then -((2 : Int) ^ (w - 1)) else 0
  let hi : Int := if sgn then (2 : Int) ^ (w - 1) - 1 else (2 : Int) ^ w - 1
  if x < lo then lo else if hi < x then hi else x

/-- An exact value rounded to an integer in a mode: the integer, and whether that is inexact. -/
def roundInt (mode : Mode) (neg : Bool) (mant : Nat) (exp : Int) : Int × Bool :=
  let (k, nx) := roundAt mode neg mant exp 0
  (signed neg k, nx)

/-- Float to integer (R94). -/
def floatToInt (mode : Mode) (w : Nat) (sgn : Bool) (v : FVal) : Nat × Flags :=
  match v with
  | .nan _ => (0, flagNV)
  | .inf s => (wrapTo (satInt w sgn (if s then -((2 : Int) ^ 70) else (2 : Int) ^ 70)) w, flagNV)
  | .fin s m e =>
    let (x, nx) := roundInt mode s m e
    if satInt w sgn x == x then (wrapTo x w, if nx then flagNX else 0)
    else (wrapTo (satInt w sgn x) w, flagNV)

/-- Integer to float (R94). -/
def intToFloat (f : Fmt) (mode : Mode) (sat : Bool) (x : Int) : Nat × Flags :=
  f.round mode sat (decide (x < 0)) x.natAbs 0

/-- Float to float (R91, R92, R93). -/
def floatToFloat (f : Fmt) (mode : Mode) (sat : Bool) (v : FVal) : Nat × Flags :=
  match v with
  | .nan sig => (f.qnan, if sig || f.sp == .none then flagNV else 0)
  | .inf s =>
    match f.sp with
    | .ieee => if sat then (f.maxFinite s, flagNX) else (f.infBits s, 0)
    | .e4m3 => if sat then (f.maxFinite s, flagNX) else (f.signBit s + f.qnan, flagNV)
    | .none => (f.maxFinite s, flagNX)
  | .fin s m e => f.round mode sat s m e

/-- The value of an E8M0 encoding (R88). -/
def e8m0Val (bits : Nat) : FVal :=
  if bits % 256 == 255 then .nan false else .fin false 1 ((bits % 256 : Nat) - (127 : Int))

/-- R95: an exact value to E8M0. -/
def toE8m0 (mode : Mode) (sat : Bool) (v : FVal) : Nat × Flags :=
  match v with
  | .nan _ => (0xFF, flagNV)
  | .inf _ => if sat then (0xFE, flagNX) else (0xFF, flagNV)
  | .fin _ m e =>
    if m == 0 then (0, flagUF ||| flagNX)
    else
      let l := Nat.log2 m
      let lo : Int := e + (l : Int)
      let exact := m == 2 ^ l
      let k : Int :=
        if exact then lo
        else
          match mode with
          | .rz | .rm => lo
          | .rp => lo + 1
          | .rne => if 3 * 2 ^ l ≤ 2 * m then lo + 1 else lo
      if k > 127 then (if sat then 0xFE else 0xFF, flagOF ||| flagNX)
      else if k < -127 then (0, flagUF ||| flagNX)
      else ((k + 127).toNat, if exact then 0 else flagNX)

/-- An integer constant in a float type, exactly (R60). -/
def intConst (f : Fmt) (x : Int) : Nat := (intToFloat f .rne false x).1

/-- The inline float constants of R59: sign, mantissa and exponent, an infinity, or the canonical NaN. -/
def floatConst (n : BitVec 4) : FVal :=
  match n.toNat with
  | 0 => .fin false 1 (-1)
  | 1 => .fin true 1 (-1)
  | 2 => .fin false 1 0
  | 3 => .fin true 1 0
  | 4 => .fin false 1 1
  | 5 => .fin true 1 1
  | 6 => .fin false 1 2
  | 7 => .fin true 1 2
  | 8 => .fin false 1 (-2)
  | 9 => .fin false 1 3
  | 10 => .fin false 1 (-3)
  | 11 => .fin false 1 4
  | 12 => .fin false 1 (-4)
  | 13 => .fin true 0 0
  | 14 => .inf false
  | _ => .nan false

/-- A float constant's encoding in a format (R59). -/
def floatConstBits (f : Fmt) (n : BitVec 4) : Nat := (floatToFloat f .rne false (floatConst n)).1

end Sys2Proof.Machine
end

