-- ==== Sys2Proof/Config.lean ====
section
/-! DEFINITION. What the manual leaves to an implementation, and the free values: constants with no body, so that nothing
can be proved of them beyond their type. -/

namespace Sys2Proof.Config

/-- A free 32-bit word (log entry 7). -/
opaque freeWord : Nat → BitVec 32

/-- A free 64-bit word (log entry 7). -/
opaque freeDWord : Nat → BitVec 64

/-- Whether a fetch returns the new value of a word that has changed since it was fetched first (R44), by the number of
the free value and the word's address. -/
opaque freeFetch : Nat → Nat → Bool

/-- Whether a scratchpad operand read returns the new value of a word that an outstanding write of its team stores (R51), by
the number of the free value, the write's number, the reading instruction's address and the word. -/
opaque freeRace : Nat → Nat → Nat → Nat → Bool

/-- Which entry of a full TLB unit a fill replaces (R320 gives no rule), by the number of the free value. -/
opaque tlbVictim : Nat → Nat

/-- Which up port carries the requests of one gang (core and slot) to one target device (R410): a choice among the
ports that are up, by their count. -/
opaque portHash : Nat → Nat → Nat → Nat

/-- The ASID under which the scheduler reads a partition's node table (R374 gives its VA alone), by partition. -/
opaque nodeTableAsid : Nat → Nat

/-- The ASID under which the scheduler writes and reads a partition's context frames (R364 gives their VA alone), by
partition. -/
opaque frameAsid : Nat → Nat

/-- The base of the ASID table of VMID 0xFF, under which the heap window is translated (R321, R337): firmware sets it,
through no register that R401 names. -/
opaque heapAsidTable : Nat

/-- The device identity that firmware writes at start stage 5 (R411). -/
opaque deviceId : BitVec 16

/-- The bytes of host-managed memory that firmware has the HDM decoder map (R396), at most 576 GiB. -/
opaque hdmWindow : Nat

/-- The MSI-X vector of a function that a partition reset raises (R392), and the one of a full dirty ring (R393): no rule
gives their numbers. -/
opaque errorVector : Nat
opaque ringVector : Nat

/-- The SHA-384 of the firmware key that is fused at manufacture (R403). -/
opaque fusedKeyHash : Nat

/-- The version number of a running firmware image, by its security version (R399: `GETSTATUS` returns it, and no rule
gives it a place in the image). -/
opaque firmwareVersion : Nat → BitVec 32

end Sys2Proof.Config
end

