-- ==== Sys2Proof/Machine/State.lean ====
section
/-! DEFINITION. The state of the whole device as plain data: gangs and sub-gangs, cores, clusters, the memory side, the
Millpond, the package, the host's side and the fabric; the reasons a step can stop; and the state after reset. -/

namespace Sys2Proof.Machine

/-- Why a step stops with a fault. -/
inductive Fault where
  /-- Raised by a meaning that is asked to run an instruction word where no gang issues one. No step does this: a step
  runs a word only for the gang of a pipe. Safe: the device has no such event. -/
  | noIssuer
  deriving DecidableEq, Repr

/-- Why a step has no meaning. -/
inductive Refusal where
  /-- Raised by an arm of exec whose instruction has no meaning yet. Safe: nothing can be proved of such a step. -/
  | notModelled (mnemonic : String)
  deriving DecidableEq, Repr

/-! ### The gang -/

/-- A fault record (R178, R212). `code` is none while `FLTCODE` reads 0. -/
structure FaultRec where
  code : Option Code
  pc : BitVec 56
  addr : DWord
  lanes : Lanes
  aux : Word
  deriving DecidableEq, Repr

/-- The fault record at launch: every field zero (R178). -/
def FaultRec.zero : FaultRec := { code := none, pc := 0, addr := 0, lanes := 0, aux := 0 }

/-- Values on their way to registers: v slots with their lanes' words, s registers of the issuing sub-gang's
descendants, one predicate's lanes, scratchpad bytes (lane, address, bytes), and the exception flags NV, DZ, OF, UF, NX
in bits 4 to 0 (R46, R97, R181). -/
structure Out where
  vregs : List (Nat × List (Nat × Word))
  sregs : List (Nat × Word)
  pred : Option (Nat × Lanes)
  mem : List (Nat × Nat × List Byte)
  flags : BitVec 5
  deriving DecidableEq, Repr

/-- Nothing on its way. -/
def Out.none : Out := { vregs := [], sregs := [], pred := Option.none, mem := [], flags := 0 }

/-- The memory instructions that hold an entry of the restartable access list (R187, R213). -/
inductive MemKind where
  | ld | st | sld | lds | sts | atom | atoms | fence | fec | woreset
  deriving DecidableEq, Repr

/-- A request that a release rule can make wait (R211, R221). -/
inductive Request where
  | cpy (desc unit : Nat) (rel : Bool)
  | arrive (bar count : Nat) (err wait : Bool)
  | txfill (token image : Nat) (mask : DWord) (shared : Bool) (bytes : List Byte)
  | txinvKey (pool lo hi : Nat)
  | txinvInfl (pool : Nat) (mask : DWord)
  | attrset (vmid asid va stop : Nat) (owner : Nat) (attr : Attr)
  | tlbshoot (sub : Nat) (va units vmid asid : Nat)
  | cacheop (sub : Nat) (va lines vmid asid : Nat)
  | spuracc
  deriving DecidableEq, Repr

/-- The queue instructions, with the node or launch queue they name (R377). -/
inductive QueueOp where
  | push (node : Nat)
  | pop (node : Nat)
  | amplify (node : Nat)
  | launch (queue : Nat)
  deriving DecidableEq, Repr

/-- What an outstanding long-class instruction still has to do before its result arrives (R46). -/
inductive POp where
  /-- Its result is known and only has to arrive. -/
  | result
  /-- An access of the restartable access list (R213). -/
  | mem (k : MemKind) (f : MForm)
  /-- An accumulator, codebook, window or Spur operation of the core or cluster, by its number. -/
  | unit
  /-- A wait for phase `phase` of barrier `bar` (R281); `d` is 1 once a restore has brought it back (R283). -/
  | barrier (bar phase : Nat) (d : Nat)
  /-- A request that has not been sent to its unit, or whose unit has not finished. -/
  | request (r : Request)
  /-- Occlusion words to load: tag and predicate (R294). -/
  | occq (tag : BitVec 31) (pred : Option Nat)
  /-- Ray queries: flags and root; each active lane's ray stands in `data` (R296). -/
  | rayq (any cullb : Bool) (root : Nat)
  /-- A RAYWAIT for the RAYQs named (R298). -/
  | raywait (ids : List Nat)
  /-- A TXREQ; each active lane's key stands in `data` (R346). -/
  | txreq (probe : Bool)
  /-- A TXWAIT; each active lane's token stands in `data` (R348). -/
  | txwait
  /-- A TXFRAME of a pool (R351). -/
  | txframe (pool : Nat)
  /-- A TXPIN that sets or clears; its key stands in `data` (R352). -/
  | txpin (on : Bool)
  /-- A SYSRD of a register into s register `d` (R390). -/
  | sysrd (sel d : Nat)
  /-- A SYSWR of a register (R390). -/
  | syswr (sel : Nat) (w : Word)
  /-- A QPUSH, QPOP, AMPLIFY or LAUNCH that writes a predicate; each active lane's image or address stands in `data` or
  `addrs` (R378). -/
  | queue (q : QueueOp) (pred : Nat)
  /-- A FIRMCALL awaiting its service (R391). -/
  | firmcall (service : Nat) (args : List Word)
  /-- A PRIM whose classes have been decided but wait for the flush (R292), or that has not reached the Weir. -/
  | prim (flush : Bool)
  deriving DecidableEq, Repr

/-- How an outstanding instruction stands to faults (R203, R210, R211). -/
inductive PState where
  | pending
  /-- A unit has answered with a fault whose report has not arrived. -/
  | failing (code : Code) (lanes : Lanes) (addr : DWord) (rcode : BitVec 8)
  /-- The report has arrived: off its counter, destinations marked faulted, not yet reported. -/
  | faulted (code : Code) (lanes : Lanes) (addr : DWord) (rcode : BitVec 8)
  /-- Reported to a sub-gang and waiting for its disposition. -/
  | reported (code : Code) (lanes : Lanes) (addr : DWord) (rcode : BitVec 8)
  /-- A load held with the faulted load of that number (R203). -/
  | behind (id : Nat)
  deriving DecidableEq, Repr

/-- One outstanding long-class instruction of a gang: the restartable access list of R213 and the results of the other
counters, in issue order. `got` holds what a load has taken, by element (8 × lane + element), and of a store the lanes whose
remote request has been sent; `firm` names the elements whose value a later load has relied on (R196). `done` lists what has
performed. `fails` lists the lanes that a unit or a target has refused, each with its code, its address and the target's code.
-/
structure Pending where
  id : Nat
  ctr : Ctr
  word : DWord
  pc : BitVec 56
  sub : Nat
  lanes : Lanes
  live : Lanes
  vdst : List Nat
  sdst : List Nat
  pdst : Option Nat
  addrs : Table Nat
  data : Table (List Word)
  got : Table DWord
  firm : List Nat
  done : List Nat
  fails : Table (Code × Nat × BitVec 8)
  passed : Bool
  sent : Bool
  st : PState
  out : Out
  op : POp
  deriving DecidableEq, Repr

/-- Why a sub-gang is parked (R29). The waits of BARW, BARAW, TXWAIT, RAYWAIT, FIRMCALL and `.fe` are the list `waits` of the
sub-gang, which parks it at a clause boundary while one of them is outstanding (R67). A sub-gang that waits for reissued accesses
(R214) parks for a `PARK` bit after them where `park` is set (R50). -/
inductive Park where
  | run
  | parkBit
  | register (order : Nat) (slots : List Nat)
  | fault (id : Option Nat) (fr : FaultRec)
  | behindFault
  | jumpTable (id : Nat) (call : Bool) (shift : Nat) (header clauseEnd : DWord) (base : Nat) (entries : Table Nat)
      (guarded : Lanes)
  | reissue (ids : List Nat) (park : Bool)
  deriving DecidableEq, Repr

/-- Handler context of a sub-gang (R387): the resume point, where `eret.skip` resumes after a precise fault, the WB of
the interrupted code, the deferred entry that was reported, and the clause it was stopped inside. `since` is the number that the
device's next creation had at the entry: what the handler issues is numbered from there (log entry 16). -/
structure Handler where
  since : Nat
  hret : DWord
  skip : DWord
  wb : BitVec 10
  entry : Option Nat
  inClause : Option (DWord × BitVec 56)
  deriving DecidableEq, Repr

/-- A sub-gang (R16, R17): its key, fibres and uniform registers, its pass-over count (R23), what it waits for, and the
header and header address of the clause it stands inside (R50). `anc` numbers the sub-gangs it descends from (R193).
`others` gives fibres that joined it from another handler context their own (R20, R387; log entry 23).
`pc` has 56 bits, and above them the bits of a branch target that the next fetch refuses (R109). -/
structure SubGang where
  id : Nat
  anc : List Nat
  fibres : Lanes
  pc : DWord
  turn : BitVec 16
  wb : BitVec 10
  sregs : List Word
  passOver : Nat
  yielded : Bool
  park : Park
  waits : List Nat
  inClause : Option (DWord × BitVec 56)
  handler : Option Handler
  others : List (Lanes × Option Handler)
  deriving DecidableEq, Repr

/-- Debug state of a gang (R36, R37): the stop requested at the end of the clause, with its sub-gang; whether the gang is
halted; the sub-gang being stepped, and whether it waits for reconvergence; the fibres that stood at a header when an address
breakpoint stopped the gang there, until each has issued (log entry 52). -/
structure DebugState where
  request : Option (Nat × FaultRec)
  halted : Bool
  stepping : Option Nat
  waitingReconverge : Bool
  passed : List (Lanes × DWord)
  deriving DecidableEq, Repr

/-- A gang (R16). `slots` lists the written rename slots only, each with W words (R162). -/
structure Gang where
  team : Nat
  number : Nat
  width : Nat
  slots : Table (List Word)
  preds : List Lanes
  handlerPreds : List Lanes
  subs : List SubGang
  counters : List Nat
  accBase : Nat
  accLim : Nat
  usplit : Bool
  rpark : Bool
  restored : Bool
  rm : BitVec 3
  flags : BitVec 5
  frec : FaultRec
  pending : List Pending
  dbg : DebugState
  passOver : Nat
  yielded : Bool
  order : Nat
  deriving DecidableEq, Repr

/-! ### The core -/

/-- A granule's state (R173). -/
inductive Granule where
  | empty | full | poison
  deriving DecidableEq, Repr

/-- One codebook bank: entries that are not zero, and the valid ones (R161, R177, R251). -/
structure Bank where
  entries : Table Word
  valid : List Nat
  deriving DecidableEq, Repr

/-- A resident or saved team (R31, R160, R184). `scratch` lists the bytes that are not zero, `granules` the granules
that are not full, `acc` the accumulator rows that have been written, 32 words each. `stopping` is set once a priority
pre-emption has begun to stop the team (R384). -/
structure Team where
  uid : Nat
  grid : Nat
  linear : Nat
  tx : Nat
  ty : Nat
  tz : Nat
  ngang : Nat
  width : Nat
  scratchBytes : Nat
  scratchAt : Nat
  scratch : Table Byte
  granules : Table Granule
  accRows : Nat
  accAt : Nat
  acc : Table (List Word)
  banks : List Bank
  bindings : List Nat
  started : Bool
  order : Nat
  killed : Bool
  stopping : Bool
  deriving DecidableEq, Repr

/-- A clause in issue on a pipe (R43, R45): the gang's slot, the sub-gang, the header, its address, the instruction
words, and the number of the next one. -/
structure Clause where
  gang : Nat
  sub : Nat
  header : DWord
  haddr : BitVec 56
  words : List DWord
  idx : Nat
  deriving DecidableEq, Repr

/-- An accumulator operation in flight (R244, R245), with what it read at issue. -/
inductive AccKind where
  | mma (f : XForm)
  | zero (dbl : Bool)
  | ld (dbl : Bool)
  | st (dbl : Bool) (addr : Nat)
  | out (src : Ty) (f : RForm)
  deriving DecidableEq, Repr

/-- An accumulator operation, by the number of its entry: its gang's slot, team, row set, lanes, and the operand words it
read: for an MMA the fragments, the scales and the codebook bank. `base` is its first team row. -/
structure AccOp where
  id : Nat
  gang : Nat
  team : Nat
  kind : AccKind
  base : Nat
  rows : List Nat
  lanes : Lanes
  a : Table (List Word)
  b : Table (List Word)
  sa : Table Word
  sb : Table Word
  bank : Bank
  rm : BitVec 3
  deriving DecidableEq, Repr

/-- A CBLOAD or CBVALID that has issued and not yet changed its bank (R252), by the number of its entry: `words` are
those a CBLOAD read, `valid` what becomes of the valid bits. -/
structure BankOp where
  id : Nat
  gang : Nat
  team : Nat
  bank : Nat
  first : Nat
  count : Nat
  words : Option (List Word)
  valid : Option Bool
  deriving DecidableEq, Repr

/-- An ACCWIN that has issued and not yet performed (R250), by the number of its entry; `target` is a gang number. -/
structure WinOp where
  id : Nat
  gang : Nat
  team : Nat
  target : Nat
  base : Nat
  lim : Nat
  deriving DecidableEq, Repr

/-- A Spur reservation (R254), by the number of its SPURACC's entry: the issuing gang's slot and team, its rows by their
first row and count, the A region, the barrier to signal, and whether it has been posted. -/
structure Reservation where
  id : Nat
  tag : Nat
  gang : Nat
  team : Nat
  ta : Ty
  acct : Nat
  base : Nat
  rows : Nat
  region : Nat
  barrier : Nat
  posted : Bool
  deriving DecidableEq, Repr

/-- The state of an L1 copy (R310); `wo`, `ip` and `remote` copies are unknown to the directory (R310, R418). -/
inductive L1St where
  | s | e | m | o | wo | ip | remote
  deriving DecidableEq, Repr

/-- The permissions and attribute that a fill brought (R203, R322). `many` marks a frame with several mappings, which
only loads may use (R235). -/
structure Perms where
  r : Bool
  w : Bool
  x : Bool
  attr : Attr
  owner : Nat
  many : Bool
  deriving DecidableEq, Repr

/-- A line of a core's L1, keyed by the address space's tag and the line address. `lost` follows an uncorrectable error in a
dirty line (R175); `dirty` bytes stand in `data`. -/
structure L1Line where
  tag : Nat
  line : Nat
  pline : Nat
  st : L1St
  data : List Byte
  dirty : Bool
  lost : Bool
  perms : Perms
  deriving DecidableEq, Repr

/-- An instruction-fetch copy of a line: its 16 words as they were when it was fetched (R44). -/
structure FetchCopy where
  tag : Nat
  line : Nat
  words : List DWord
  deriving DecidableEq, Repr

/-- A line that a PREF asked for (R208), with its `HINT` and `W`. -/
structure Pref where
  asid : Nat
  line : Nat
  hint : Nat
  w : Bool
  deriving DecidableEq, Repr

/-- An address breakpoint (R178, R400). -/
structure Breakpoint where
  enable : Bool
  addr : BitVec 56
  deriving DecidableEq, Repr

/-- A core (R160 to R182). -/
structure Core where
  teams : Table Team
  gangs : Table Gang
  pipe0 : Option Clause
  pipe1 : Option Clause
  cyc : DWord
  govbub : DWord
  sramerr : Word
  govcap : BitVec 5
  coreHalt : Bool
  bkaddr : List Breakpoint
  split : Nat
  l1 : List L1Line
  fetched : List FetchCopy
  prefs : List Pref
  accOps : List AccOp
  bankOps : List BankOp
  winOps : List WinOp
  reservations : List Reservation
  deriving DecidableEq, Repr

/-- A core after a cold reset (R9, R169, R178). -/
def Core.reset : Core :=
  { teams := [], gangs := [], pipe0 := none, pipe1 := none, cyc := 0, govbub := 0, sramerr := 0, govcap := 16,
    coreHalt := false, bkaddr := List.replicate 4 { enable := false, addr := 0 }, split := 0, l1 := [], fetched := [],
    prefs := [], accOps := [], bankOps := [], winOps := [], reservations := [] }

/-! ### The cluster -/

/-- A process-group table with this device's rank (R412, R413). Entries are (TASID, TVMID, TDEV, TBASE). -/
structure Group where
  aplog : Nat
  apbase : Nat
  rdbase : Nat
  gtag : Nat
  ranks : List (Nat × Nat × Nat × Nat)
  rank : Nat
  deriving DecidableEq, Repr

/-- A copy descriptor as R268 lays it out. -/
structure CopyDesc where
  src : Nat
  dst : Nat
  dlt : Nat
  cols : Nat
  rows : Nat
  bar : Bool
  bnum : Nat
  etype : Nat
  dsp : Bool
  sfmt : Nat
  dcnt : Nat
  pitch : Nat
  reservedSet : Bool
  deriving DecidableEq, Repr

/-- `STATE` of a copy in the layout of CPYSTAT (R275). -/
inductive CopyState where
  | queued | running | done | failed
  deriving DecidableEq, Repr

/-- A copy a Leat has accepted (R267 to R275): who asked (`gang` is the issuing gang's slot and number, none for a binding,
R410), where its descriptor lies, the descriptor once read, and its progress. `staged` holds the granules of one destination
line that have been read and not yet written (R316). `recs` counts the delta records read, `last` is the element of the last
one applied, and `ahead` the element and delta of one read and not yet applied (R271, R272). `got` holds remote source bytes
of the next granule by element, and `sent` says that the granule is on its way to another device (R421). `waitCode` is a fault
the Leat waits for firmware to resolve (R273). -/
structure Copy where
  seq : Nat
  core : Nat
  gang : Option (Nat × Nat)
  team : Nat
  grid : Nat
  vmid : Nat
  asid : Nat
  group : Option Group
  descAddr : Nat
  binding : Bool
  st : CopyState
  desc : Option CopyDesc
  granules : Nat
  staged : List (List Byte)
  recs : Nat
  last : Option Nat
  ahead : Option (Nat × Word)
  got : Table DWord
  sent : Bool
  derr : Bool
  code : Option Code
  waitCode : Option (Code × Nat)
  deriving DecidableEq, Repr

/-- A Leat: the sequence number of the next copy, and its 256 most recent copies, oldest first (R267, R275). -/
structure Leat where
  nextSeq : Nat
  copies : List Copy
  deriving DecidableEq, Repr

/-- A barrier (R277). `last` is the status pair of the most recent completion, low word first. -/
structure Barrier where
  target : Nat
  arrived : Nat
  phase : BitVec 8
  errp : Bool
  ovrp : Bool
  gsum : Nat
  last : Word × Word
  deriving DecidableEq, Repr

/-- A barrier after a reset: disabled, with phase 0 (R264). -/
def Barrier.reset : Barrier :=
  { target := 0, arrived := 0, phase := 0, errp := false, ovrp := false, gsum := 0, last := (0, 0) }

/-- A Damsel slot (R284). -/
structure DamselSlot where
  next : Nat
  stop : Nat
  minc : Nat
  kf : Nat
  pw : Nat
  deriving DecidableEq, Repr

/-- An empty Damsel slot (R264, R284). -/
def DamselSlot.empty : DamselSlot := { next := 0, stop := 0, minc := 1, kf := 1, pw := 1 }

/-- A draw context as R287 lays it out, with where it was read. -/
structure DrawCtx where
  addr : Nat
  vmid : Nat
  asid : Nat
  group : Option Group
  vbase : Nat
  vpitch : Nat
  hgt : Nat
  wid : Nat
  obase : Nat
  cw : Bool
  cullb : Bool
  ftag : Nat
  deriving DecidableEq, Repr

/-- A triangle the Weir took for the fixed rasteriser (R288, R291), with the tile references it holds. -/
structure Tri where
  ctx : DrawCtx
  verts : List Word
  inst : Nat
  prim : Nat
  test : Bool
  refs : Nat
  deriving DecidableEq, Repr

/-- The visibility unit (R286, R291, R292): the held triangles in submission order, the references in use, the
triangles being rasterised with the next pixel of the first, the gate of a pre-emption (R384), whether the emptying is an
overflow's, the PRIM that the Weir is taking, and the write that the rasteriser waits on or the first that it dropped. -/
structure Vis where
  weirthr : Word
  binflush : Word
  held : List Tri
  refs : Nat
  job : List Tri
  cursor : Nat
  gateClosed : Bool
  overflow : Bool
  taking : Option (Nat × Nat × Nat)
  waitCode : Option (Code × Nat)
  dropped : Option (Code × Nat)
  deriving DecidableEq, Repr

/-- The visibility unit after a reset (R264, R286). -/
def Vis.reset : Vis :=
  { weirthr := 0x41800000, binflush := 0, held := [], refs := 0, job := [], cursor := 0, gateClosed := false,
    overflow := false, taking := none, waitCode := none, dropped := none }

/-- A Spur operation in flight (R255 to R257), by the number of its entry: the driver's core and gang slot, its B
fragments by lane, and each partner's report. -/
structure SpurOp where
  id : Nat
  core : Nat
  gang : Nat
  tb : Ty
  acct : Nat
  ovw : Bool
  neg : Bool
  tag : Nat
  steps : Nat
  partners : List Nat
  b : Table (List Word)
  reports : Table (Option Code)
  flags : BitVec 5
  deriving DecidableEq, Repr

/-- A cluster's shared units (R264). -/
structure Cluster where
  leat0 : Leat
  leat1 : Leat
  barriers : Table Barrier
  damsel : Table DamselSlot
  vis : Vis
  spurs : List SpurOp
  deriving DecidableEq, Repr

/-- A cluster's units after a cold reset (R264). -/
def Cluster.reset : Cluster :=
  { leat0 := { nextSeq := 0, copies := [] }, leat1 := { nextSeq := 0, copies := [] }, barriers := [], damsel := [],
    vis := Vis.reset, spurs := [] }

/-! ### The memory side -/

/-- Metadata of a line of memory (R307). -/
structure LineMeta where
  lost : Bool
  watch : Bool
  womask : BitVec 8
  deriving DecidableEq, Repr

/-- Metadata of a line nothing has marked. -/
def LineMeta.zero : LineMeta := { lost := false, watch := false, womask := 0 }

/-- `STATE` of a directory entry (R310). -/
inductive DirState where
  | i | s | e | m | o | en
  deriving DecidableEq, Repr

/-- A directory entry (R310). `ptrs` are the pointers in use, at most four; `coarse` is the coarse vector. -/
structure DirEntry where
  st : DirState
  owner : Nat
  crs : Bool
  ptrs : List Nat
  coarse : BitVec 64
  eown : Nat
  deriving DecidableEq, Repr

/-- The directory entry of a line with no L1 copy. -/
def DirEntry.empty : DirEntry := { st := .i, owner := 0, crs := false, ptrs := [], coarse := 0, eown := 0 }

/-- A line of the L2 (R304): its tag (an address space's, or `physAsid`'s in memory-side mode), VMID, line, physical line,
permissions and filling way mask, data, directory entry, way in its set, use order (greater is more recent) and evict-last
mark. -/
structure L2Line where
  tag : Nat
  vmid : Nat
  line : Nat
  pline : Nat
  perms : Perms
  mask : BitVec 16
  data : List Byte
  dirty : Bool
  dir : DirEntry
  slice : Nat
  set : Nat
  way : Nat
  used : Nat
  evictLast : Bool
  remote : Bool
  deriving DecidableEq, Repr

/-- What the frame descriptor of a 64 KiB frame says (R324). -/
structure FrameBits where
  host : Bool
  aclass : Nat
  acount : Nat
  bad : Bool
  deriving DecidableEq, Repr

/-- A TLB entry (R320, R324), of a 64 KiB page or, when `big`, of a 64 MiB page: `page` is VA[55:16] and `frame` PA[51:16] of
the page's start, `perms` and `log` are the leaf's, `frames` the descriptors read so far, by 64 KiB unit of the page. `logged`
lists the units that stand in the dirty ring since the fill (R393). -/
structure TlbEntry where
  vmid : Nat
  asid : Nat
  page : Nat
  big : Bool
  frame : Nat
  perms : Perms
  log : Bool
  frames : Table FrameBits
  logged : List Nat
  deriving DecidableEq, Repr

/-- `WALKERR` of a translation unit (R323), and the malformed entries found while `VALID` was set. -/
structure WalkErr where
  valid : Bool
  level : Nat
  pa : Nat
  later : Nat
  deriving DecidableEq, Repr

/-- What a home transaction waiting for acknowledgements will do (R311, R313). -/
inductive TxnKind where
  | getm (core : Nat)
  | write (core gang id : Nat)
  | engine (cluster unit : Nat)
  deriving DecidableEq, Repr

/-- A home transaction in progress: its line, what it does, and the cores whose acknowledgements it waits for. -/
structure Txn where
  tag : Nat
  line : Nat
  kind : TxnKind
  waiting : List Nat
  deriving DecidableEq, Repr

/-- A claim that a store holds on granules of a WO line (R207), by the physical line. -/
structure Claim where
  pline : Nat
  mask : BitVec 8
  core : Nat
  gang : Nat
  id : Nat
  deriving DecidableEq, Repr

/-- Code that has been written and not made known to instruction fetch (R44): a physical line, its words before the write,
whether a CACHEOP `.iinv` of the line has followed, and the FENCEs after it: scope and core. -/
structure StaleCode where
  pline : Nat
  words : List DWord
  inv : Bool
  fences : List (Nat × Nat)
  deriving DecidableEq, Repr

/-- An access of a gang that has gone ahead of earlier ones which a narrower scope than system orders before it (R218, R222):
its line, gang and number, whether it wrote, the scope, and the entries it went ahead of. Until these have finished, no agent
within the scope sees the access. -/
structure Hold where
  tag : Nat
  line : Nat
  core : Nat
  gang : Nat
  id : Nat
  wrote : Bool
  scope : Nat
  ahead : List Nat
  deriving DecidableEq, Repr

/-- The memory side of the package (R304 to R331). `hbm` is physical memory, device memory and, with bit 51 of the
address set, host memory (R396). `claims` are the WO claims not yet confirmed, `notices` the watched lines whose write
the scheduler has not noticed (R317), `errors` each die's count of uncorrectable errors (R308). -/
structure MemSide where
  hbm : List Host.Cell
  lines : Table LineMeta
  l2 : List L2Line
  tlb : List TlbEntry
  walkerr : Table WalkErr
  txns : List Txn
  claims : List Claim
  notices : List Nat
  failedLinks : List (Nat × Nat)
  useClock : Nat
  stale : List StaleCode
  holds : List Hold
  errors : Table Nat
  deriving DecidableEq, Repr

/-! ### The Millpond -/

/-- `ST` of a Millpond entry (R334); an invalid entry keeps its `SEQ`. -/
inductive PondSt where
  | invalid | inFlight | valid | doomed
  deriving DecidableEq, Repr

/-- A Millpond entry (R334). -/
structure PondEntry where
  key : BitVec 81
  st : PondSt
  seq : BitVec 10
  shared : Bool
  act : BitVec 16
  ownvm : BitVec 8
  pin : Bool
  lhf : BitVec 16
  infl : DWord
  tile : Nat
  deriving DecidableEq, Repr

/-- The entry of a way that has never been allocated (R334). -/
def PondEntry.reset : PondEntry :=
  { key := 0, st := .invalid, seq := 0, shared := false, act := 0, ownvm := 0, pin := false, lhf := 0, infl := 0,
    tile := 0 }

/-- A pool (R336): whether it is enabled, its record as read at the enable, its frame counter, free list and
quarantine (tile and frame of its freeing), its status counts (R358), records pushed, and each die's clock hand (R354):
the next set, the sets passed since its last eviction, and whether it has stopped. -/
structure Pool where
  enabled : Bool
  hbase : Nat
  strict : Bool
  big : Bool
  hcount : Nat
  qlog : Nat
  qbase : Nat
  agethr : Nat
  inflim : Nat
  wmark : Nat
  frame : BitVec 16
  free : List Nat
  quar : List (Nat × BitVec 16)
  noallocs : Word
  sluiceovf : Word
  qtail : Nat
  hands : Table (Nat × Nat × Bool)
  deriving DecidableEq, Repr

/-- A heap tile's guard (R338). -/
structure HeapGuard where
  live : Bool
  shared : Bool
  pool : Nat
  ownvm : BitVec 8
  act : BitVec 16
  deriving DecidableEq, Repr

/-- What an L2 line of the heap recorded when it was filled or written (R338, R340): its line address, its tile's guard, and the
outcome of the guard check for each VM there was. -/
structure LineGuard where
  line : Nat
  guard : HeapGuard
  judged : Table Bool
  deriving DecidableEq, Repr

/-- The Millpond (R332 to R358): entries by way number ((die × 65,536 + set) × 16 + way), pools, guards by
pool × 2^23 + tile, and what the L2's lines of heap tiles recorded, by physical line. -/
structure Pond where
  entries : Table PondEntry
  pools : Table Pool
  guards : Table HeapGuard
  lineGuards : Table LineGuard
  deriving DecidableEq, Repr

/-! ### The package -/

/-- The parent of a record that LAUNCH wrote (R33, R378): its grid and team, and the grid's depth and class. -/
structure ParentRef where
  grid : Nat
  team : Nat
  depth : Nat
  prio : Nat
  deriving DecidableEq, Repr

/-- A launch queue: its descriptor (R365); whether the scheduler has taken `QHEAD`, and its own counts; the numbers of
accepted records that have ended; whether a notice asks for a read of the header, and whether the last read faulted (R429);
whether a reset's `QHEAD` is still to be written (R392); the physical line watched; and for each record that LAUNCH wrote its
parent, none once a reset has ended the parent's grid (R392). -/
structure Queue where
  desc : BitVec 128
  head : Nat
  tail : Nat
  done : Nat
  ended : List Nat
  opened : Bool
  notice : Bool
  unread : Bool
  rewind : Bool
  watched : Option Nat
  parents : Table (Option ParentRef)
  deriving DecidableEq, Repr

/-- A queue that has never been set (R365). -/
def Queue.reset : Queue :=
  { desc := 0, head := 0, tail := 0, done := 0, ended := [], opened := false, notice := false, unread := false,
    rewind := false, watched := none, parents := [] }

/-- A kernel descriptor as R368 lays it out. -/
structure KDesc where
  entry : Nat
  handler : Nat
  scr : Nat
  acc : Nat
  cbk : Nat
  rpeak : Nat
  rest : Nat
  ngm1 : Nat
  wid : Nat
  hws : Nat
  tb : List Nat
  reservedSet : Bool
  deriving DecidableEq, Repr

/-- A launch record as R367 lays it out. -/
structure LaunchRec where
  kdesc : Nat
  gx : Nat
  gy : Nat
  gz : Nat
  gridid : Word
  prio : Nat
  child : Bool
  prs : Bool
  pin : Bool
  occ : Nat
  faddr : Nat
  fval : Nat
  saddr : Nat
  sval : Nat
  eraddr : Nat
  oaddr : Nat
  place : Nat
  pgt : Nat
  xb : List Nat
  otag : Nat
  args : List Word
  reservedSet : Bool
  deriving DecidableEq, Repr

/-- Where a grid stands between acceptance and its end (R370, R371). -/
inductive GridSt where
  | accepted | eligible | ending
  deriving DecidableEq, Repr

/-- A grid (R31, R366 to R373). `unretired` lists the teams admitted and not retired, by team number, each with whether it has
retired its gangs; a child grid names its parent grid and team (R33). -/
structure Grid where
  pid : Nat
  queue : Option (Nat × Nat)
  parent : Option (Nat × Nat)
  depth : Nat
  prio : Nat
  eff : Nat
  passes : Nat
  lr : LaunchRec
  kd : KDesc
  group : Option Group
  sys : Bool
  asid : Nat
  vmid : Nat
  args : List Word
  st : GridSt
  nextTeam : Nat
  unretired : List (Nat × Bool)
  status : Nat
  frec : FaultRec
  fteam : Nat
  fgang : Nat
  node : Option (Nat × Nat)
  watched : Option Nat
  deriving DecidableEq, Repr

/-- A node queue descriptor as R374 lays it out, whether it is enabled and well formed, its consumer's descriptor, and the
counts of the head cache and the Wallower (R375, R376): reserve, head, refused records not yet added to `QOVF`, and take
count. `takes` lists what outstanding teams took, oldest first: grid, first record past the take, whether retired. -/
structure Node where
  nbase : Nat
  nasid : Nat
  nqlog : Nat
  rsz : Nat
  wl : Bool
  nen : Bool
  nprio : Nat
  wmax : Nat
  wcd : Nat
  nkd : Nat
  nargs : List Word
  usable : Bool
  kd : Option KDesc
  reserve : Nat
  head : Nat
  qovf : Nat
  take : Nat
  takes : List (Nat × Nat × Bool)
  deriving DecidableEq, Repr

/-- A saved team in a context frame (R183, R184, R383): the team, its gangs that have not retired, and the cluster whose
pre-emption saved it, if one did (R384). -/
structure Frame where
  team : Team
  gangs : List Gang
  cut : Option Nat
  deriving DecidableEq, Repr

/-- A partition (R364, R319, R340, R393, R401, R411). -/
structure Partition where
  cmask : BitVec 64
  vmid : Nat
  spect : Nat
  fdisp : BitVec 256
  fbase : Nat
  fcnt : Nat
  fsize : Nat
  wdlim : Nat
  agen : Nat
  preempt : Bool
  waymask : BitVec 16
  pondview : DWord
  asidBase : Nat
  nodeTable : Nat
  drbase : Nat
  drlog : Nat
  fxctl : Word
  queues : Table Queue
  nodes : Table Node
  frames : Table Frame
  paused : Bool
  preempting : BitVec 64
  debugger : Bool
  deriving DecidableEq, Repr

/-- A partition just created: every register at its after-reset value (R364, R319, R411). -/
def Partition.reset : Partition :=
  { cmask := 0, vmid := 0, spect := 0, fdisp := 0, fbase := 0, fcnt := 0, fsize := 0, wdlim := 0, agen := 16,
    preempt := false, waymask := 0xFFFF, pondview := 0, asidBase := 0, nodeTable := 0, drbase := 0, drlog := 0,
    fxctl := 0, queues := [], nodes := [], frames := [], paused := false, preempting := 0, debugger := false }

/-- The kinds of event of R399. -/
inductive EventKind where
  | migration | hostViolation | gridError | dirtyRing | thermalTrip | malformedNode | queueError | heapFault | debugStop
  deriving DecidableEq, Repr

/-- An event posted to a function's event ring (R399). -/
structure Event where
  kind : EventKind
  pid : Nat
  addr : Nat
  deriving DecidableEq, Repr

/-- A mailbox (R398), its event ring (R399) and the events posted to it, and the MSI-X vectors raised. Payload bytes that are
not zero are listed. `arrival` numbers the doorbells of all functions in the order in which they came, and `posted` counts the
events written to the ring since it was set. -/
structure Mailbox where
  db : Bool
  arrival : Nat
  len : Word
  opc : BitVec 16
  rlen : Word
  rc : BitVec 16
  payload : Table Byte
  ring : Option (Nat × Nat)
  posted : Nat
  events : List Event
  irqs : List Nat
  deriving DecidableEq, Repr

/-- A mailbox after reset (R398). -/
def Mailbox.reset : Mailbox :=
  { db := false, arrival := 0, len := 0, opc := 0, rlen := 0, rc := 0, payload := [], ring := none,
    posted := 0, events := [], irqs := [] }

/-- A firmware image slot of the module's flash (R403): its bytes that are not zero. -/
abbrev Image := Table Byte

/-- Start and boot state (R403 to R406). `entry` is where the primary control core begins the image that was loaded; what it
runs is no part of the model (log entry 11). -/
structure Boot where
  stage : Nat
  minimal : Bool
  fails : Nat
  slot : Bool
  cause : BitVec 8
  detail : BitVec 8
  stopped : Bool
  preferred : Bool
  options : BitVec 32
  memSide : Bool
  imageA : Option Image
  imageB : Option Image
  fusedSvn : Nat
  runningSvn : Nat
  entry : Nat
  askMinimal : Bool
  deriving DecidableEq, Repr

/-- What the device answers a host access (R229, R236): the bytes read, whether they are poisoned, and the code that a refusal
reports. -/
structure HostReply where
  pa : Nat
  data : List Byte
  poison : Bool
  code : Option Code
  deriving DecidableEq, Repr

/-- The package registers of R337, R401 and R397, the thermal state (R407), the bytes that the HDM decoder maps (R396), and the
answer to the host's last access that has one. -/
structure Pkg where
  heapwin : DWord
  hdm : Nat
  poolTable : DWord
  frameTable : DWord
  hvValid : Bool
  hvWr : Bool
  hvCount : Word
  hvAddr : Nat
  pwrcap : DWord
  hot : Bool
  hostReply : Option HostReply
  deriving DecidableEq, Repr

/-! ### The fabric -/

/-- A Herlet port (R411): `STATE`, `RETRAIN`, `REPLAY`, and the replays since it was trained, up to 16 (R409). -/
structure Port where
  st : Nat
  retrain : BitVec 8
  replay : BitVec 16
  tries : Nat
  deriving DecidableEq, Repr

/-- A port after reset (R411). -/
def Port.reset : Port := { st := 0, retrain := 0, replay := 0, tries := 0 }

/-- Who waits for a remote reply: a lane of a gang's access, or a source element of a Leat's copy by its number in the
granule, its granule being number 16 (R414, R421); nobody, once a reset has dropped the copy (R264). -/
inductive Waiter where
  | gang (core gang id key : Nat)
  | leat (cluster unit seq key : Nat)
  | nobody
  deriving DecidableEq, Repr

/-- A request sent to a device that has no reply yet (R410, R415, R423): the port it left by (none for the device's own
rank, R414), the initiator's ASID and aperture address, and the request. `keep` says that a copy which the reply carries may be
kept (R418). -/
structure Outgoing where
  waiter : Waiter
  port : Option Nat
  tdev : Nat
  asid : Nat
  va : Nat
  req : RemoteRequest
  keep : Bool
  deriving DecidableEq, Repr

/-- A reply this device has sent to a requester (R419, R422). -/
structure SentReply where
  dst : Nat
  reply : RemoteReply
  deriving DecidableEq, Repr

/-- The fabric registers and what is in flight (R408 to R424). `routes` keeps the port of each gang's requests to a device
(R410): team, gang number, device, port. -/
structure Fabric where
  routes : List (Nat × Nat × Nat × Nat)
  devid : BitVec 16
  tmo : BitVec 24
  logValid : Bool
  logCode : BitVec 8
  logSrc : BitVec 16
  logVa : BitVec 56
  ports : Table Port
  out : Table Outgoing
  replies : List SentReply
  deriving DecidableEq, Repr

/-! ### The machine -/

/-- Who moves next: the clause on a pipe of a core, or an event. -/
inductive Turn where
  | pipe (core p : Nat)
  | event (e : Instr)
  deriving DecidableEq, Repr

/-- The whole device. `agenda`, `cur` and `free` are the model's own: what moves next, the pipe whose gang issues, and
the number of the next free value; `next` numbers what the device creates, in order. -/
structure State where
  agenda : List Turn
  cur : Nat × Nat
  free : Nat
  next : Nat
  cores : Table Core
  clusters : Table Cluster
  mem : MemSide
  pond : Pond
  parts : Table Partition
  grids : Table Grid
  mailboxes : Table Mailbox
  boot : Boot
  pkg : Pkg
  fabric : Fabric
  deriving DecidableEq, Repr

/-- The memory side after a cold reset: nothing cached, nothing translated (R9). -/
def MemSide.reset : MemSide :=
  { hbm := [], lines := [], l2 := [], tlb := [], walkerr := [], txns := [], claims := [], notices := [], failedLinks := [],
    useClock := 0, stale := [], holds := [], errors := [] }

/-- The boot state after a cold reset with an empty boot record and no image (R404, R405). -/
def Boot.reset : Boot :=
  { stage := 0, minimal := false, fails := 0, slot := false, cause := 0, detail := 0, stopped := false,
    preferred := false, options := 0, memSide := false, imageA := none, imageB := none, fusedSvn := 0, runningSvn := 0,
    entry := 0, askMinimal := false }

/-- The package registers after a cold reset (R337, R397, R401, R407). -/
def Pkg.reset : Pkg :=
  { heapwin := 0, hdm := 0, poolTable := 0, frameTable := 0, hvValid := false, hvWr := false, hvCount := 0, hvAddr := 0,
    pwrcap := 0, hot := false, hostReply := none }

/-- The fabric after a cold reset (R411). -/
def Fabric.reset : Fabric :=
  { routes := [], devid := 0, tmo := 0x000400, logValid := false, logCode := 0, logSrc := 0, logVa := 0, ports := [], out := [],
    replies := [] }

/-- The device after a cold reset (R9): every unit at its after-reset value and memory with nothing listed. -/
def State.reset : State :=
  { agenda := [], cur := (0, 0), free := 0, next := 1, cores := [], clusters := [], mem := MemSide.reset,
    pond := { entries := [], pools := [], guards := [], lineGuards := [] }, parts := [], grids := [], mailboxes := [],
    boot := Boot.reset, pkg := Pkg.reset, fabric := Fabric.reset }

end Sys2Proof.Machine
end

