-- ==== Sys2Proof/Machine/Elems.lean ====
section
/-! DEFINITION. Elements of a type, integer results, and the values of atomic operations (R84, R128, R138, R188, R200). -/

namespace Sys2Proof.Machine

/-- Bits of one element of a vector type, and how many the register or pair holds (R84). -/
def elemShape : Ty → Nat × Nat
  | .b64 | .i64 | .n64 | .f64 => (64, 1)
  | .i16x2 | .n16x2 | .f16x2 | .bf16x2 => (16, 2)
  | .i8x4 | .n8x4 => (8, 4)
  | .f16 | .bf16 => (16, 1)
  | .e4m3 | .e5m2 | .i8 | .n8 | .e8m0 => (8, 1)
  | .e3m2 | .e2m3 => (6, 1)
  | .e2m1 | .i4 | .n4 => (4, 1)
  | _ => (32, 1)

/-- Element k of a value of a type. -/
def elemOf (t : Ty) (x k : Nat) : Nat := x / 2 ^ ((elemShape t).1 * k) % 2 ^ (elemShape t).1

/-- The value whose elements are given by number. -/
def packElems (t : Ty) (f : Nat → Nat) : Nat :=
  ((List.range (elemShape t).2).map fun k => (f k % 2 ^ (elemShape t).1) * 2 ^ ((elemShape t).1 * k)).sum

/-- The result of an integer operation of a type: wrapped, or with `SAT` clamped to the type's range (R128, R138). -/
def intResult (t : Ty) (sat : Bool) (x : Int) : Nat :=
  match intOf t with
  | some (w, sgn) => wrapTo (if sat then satInt w sgn x else x) w
  | none => 0

/-- An integer operation of a type on operand bits (R128, R138). -/
def intOp (t : Ty) (sat : Bool) (op : Int → Int → Int) (a b : Nat) : Nat :=
  match intOf t with
  | some (w, sgn) => intResult t sat (op (intVal w sgn a) (intVal w sgn b))
  | none => 0

/-- The lesser or greater of two integer elements (R138). -/
def intMinMax (t : Ty) (max : Bool) (a b : Nat) : Nat :=
  match intOf t with
  | some (w, sgn) => if decide (intVal w sgn a < intVal w sgn b) != max then a else b
  | none => 0

/-- Size k of an element, and count n of elements (R188). -/
def MForm.size (f : MForm) : Nat := f.t.accessSize
def MForm.count (f : MForm) : Nat := elemCount f.sub

/-- Bytes [off, off + n) of a line. -/
def slice (data : List Byte) (off n : Nat) : List Byte := (data.drop off).take n

/-- Bytes of a lane's data, low byte first. -/
def Pending.bytesOf (p : Pending) (n lane : Nat) : List Byte :=
  let ws := Table.getD p.data lane []
  (ws.flatMap fun (w : Word) => leBytes 4 w.toNat).take n

/-- The new value of a word of memory from the old one and the data (R200). -/
def atomNew (op : Nat) (t : Ty) (m d0 d1 : Nat) : Nat :=
  match op with
  | 0 => intOp t false (· + ·) m d0
  | 1 => intMinMax t false m d0
  | 2 => intMinMax t true m d0
  | 3 => m &&& d0
  | 4 => m ||| d0
  | 5 => m ^^^ d0
  | 6 => d0
  | 7 => if m == d0 then d1 else m
  | 8 =>
    match fmtOf t with
    | some fm => packElems t fun e => (addRound fm .rne false (fm.decode (elemOf t m e)) (fm.decode (elemOf t d0 e))).1
    | none => m
  | n =>
    match fmtOf t with
    | some fm => (minMax fm (n == 10) m d0).1
    | none => m

/-- The data of a lane of an atomic: d, or d0 and d1 (R200). -/
def Pending.atomData (p : Pending) (f : MForm) (lane : Nat) : Nat × Nat :=
  let bs := p.bytesOf (2 * MForm.size f) lane
  (leNat (slice bs 0 (MForm.size f)), leNat (slice bs (MForm.size f) (MForm.size f)))

end Sys2Proof.Machine
end

