-- ==== Sys2Proof/Machine/Ops.lean ====
section
/-! DEFINITION. The named operations over the state: reading and changing its parts, memory bytes, the gang that issues,
registers and readiness, the end of a clause, and taking a fault. -/

namespace Sys2Proof.Machine

/-! ### Parts of the state -/

/-- A core, at its reset values until something changes it. -/
def State.core (s : State) (c : Nat) : Core := Table.getD s.cores c Core.reset

def State.setCore (s : State) (c : Nat) (k : Core) : State := { s with cores := Table.put s.cores c k }

def State.modCore (s : State) (c : Nat) (f : Core → Core) : State := s.setCore c (f (s.core c))

/-- A cluster, by 16 × die + cluster. -/
def State.cluster (s : State) (c : Nat) : Cluster := Table.getD s.clusters c Cluster.reset

def State.setCluster (s : State) (c : Nat) (k : Cluster) : State := { s with clusters := Table.put s.clusters c k }

def State.modCluster (s : State) (c : Nat) (f : Cluster → Cluster) : State := s.setCluster c (f (s.cluster c))

/-- The cluster of a core numbered as `OWNER` (R310). -/
def clusterOf (core : Nat) : Nat := core / 16

/-- The die of a core numbered as `OWNER` (R310). -/
def dieOf (core : Nat) : Nat := core / 256

def State.gang? (s : State) (c g : Nat) : Option Gang := Table.get? (s.core c).gangs g

def State.setGang (s : State) (c g : Nat) (x : Gang) : State :=
  s.modCore c fun k => { k with gangs := Table.put k.gangs g x }

def State.modGang (s : State) (c g : Nat) (f : Gang → Gang) : State :=
  s.modCore c fun k => { k with gangs := Table.modify k.gangs g f }

def State.team? (s : State) (c t : Nat) : Option Team := Table.get? (s.core c).teams t

def State.modTeam (s : State) (c t : Nat) (f : Team → Team) : State :=
  s.modCore c fun k => { k with teams := Table.modify k.teams t f }

def State.part? (s : State) (p : Nat) : Option Partition := Table.get? s.parts p

def State.modPart (s : State) (p : Nat) (f : Partition → Partition) : State :=
  { s with parts := Table.modify s.parts p f }

def State.grid? (s : State) (g : Nat) : Option Grid := Table.get? s.grids g

def State.modGrid (s : State) (g : Nat) (f : Grid → Grid) : State := { s with grids := Table.modify s.grids g f }

def State.mailbox (s : State) (fn : Nat) : Mailbox := Table.getD s.mailboxes fn Mailbox.reset

def State.modMailbox (s : State) (fn : Nat) (f : Mailbox → Mailbox) : State :=
  { s with mailboxes := Table.put s.mailboxes fn (f (s.mailbox fn)) }

def State.setMem (s : State) (m : MemSide) : State := { s with mem := m }

def State.modMem (s : State) (f : MemSide → MemSide) : State := { s with mem := f s.mem }

def State.modPond (s : State) (f : Pond → Pond) : State := { s with pond := f s.pond }

/-- The partition that holds a VM, with its number (R364). -/
def State.partOfVm (s : State) (vmid : Nat) : Option (Nat × Partition) :=
  s.parts.find? fun p => p.2.vmid == vmid

/-- The partition that holds a cluster (R364). -/
def State.partOfCluster (s : State) (cl : Nat) : Option (Nat × Partition) :=
  s.parts.find? fun p => p.2.cmask.getLsbD cl

/-- The function of a partition (R395): the VF that serves it. -/
def Partition.fn (p : Partition) : Nat := p.spect + 1

/-- A number nothing has had before. -/
def State.fresh (s : State) : Nat × State := (s.next, { s with next := s.next + 1 })

/-- The number of a free value nothing has taken before (log entry 7). -/
def State.takeFree (s : State) : Nat × State := (s.free, { s with free := s.free + 1 })

/-- An MSI-X vector raised at a function. -/
def State.raiseIrq (s : State) (fn vec : Nat) : State := s.modMailbox fn fun m => { m with irqs := m.irqs ++ [vec] }

/-! ### Bytes of memory: cells in rising address order, none equal to what an unlisted address reads as -/

/-- What an address that no cell lists reads as (log entry 4). -/
def Memory.fill : Byte := 0

/-- The byte at an address. -/
def Memory.read (m : List Host.Cell) (a : Nat) : Byte := Table.getD m a Memory.fill

/-- The memory with one byte written; a byte equal to the fill is not listed. -/
def Memory.write (m : List Host.Cell) (a : Nat) (b : Byte) : List Host.Cell :=
  if b == Memory.fill then Table.del m a else Table.put m a b

/-- The bytes of a range. -/
def Memory.readN (m : List Host.Cell) (a n : Nat) : List Byte := (List.range n).map fun i => Memory.read m (a + i)

/-- The memory with a list of bytes written from an address up. -/
def Memory.writeN : List Host.Cell → Nat → List Byte → List Host.Cell
  | m, _, [] => m
  | m, a, b :: bs => Memory.writeN (Memory.write m a b) (a + 1) bs

/-- Cells in strictly rising address order, none equal to the fill. -/
def Memory.wf : List Host.Cell → Bool
  | [] => true
  | [(_, b)] => b != Memory.fill
  | (a, b) :: (a', b') :: t => b != Memory.fill && decide (a < a') && Memory.wf ((a', b') :: t)

/-! ### Event rings (R394, R399) -/

/-- The number of an event's kind, in the order of R399 from 1 (log entry 14). -/
def EventKind.num : EventKind → Nat
  | .migration => 1
  | .hostViolation => 2
  | .gridError => 3
  | .dirtyRing => 4
  | .thermalTrip => 5
  | .malformedNode => 6
  | .queueError => 7
  | .heapFault => 8
  | .debugStop => 9

/-- The 32 bytes of an event: kind, partition and address (R399; their places are the model's, log entry 14). -/
def Event.bytes (e : Event) : List Byte :=
  leBytes 4 e.kind.num ++ leBytes 4 e.pid ++ leBytes 8 e.addr ++ List.replicate 16 0

/-- The physical address of the next event of a mailbox's ring in host memory (R394, R396); none with no ring. -/
def Mailbox.eventAt (m : Mailbox) : Option Nat :=
  match m.ring with
  | some (base, n) => if n == 0 then none else some (2 ^ 51 + (base + 32 * (m.posted % n)) % 2 ^ 51)
  | none => none

/-- EVENT_POST (R399): one event, written to its function's ring in host memory. -/
def State.post (s : State) (fn : Nat) (e : Event) : State :=
  let at_ := (s.mailbox fn).eventAt
  let s := s.modMailbox fn fun m =>
    { m with
      events := m.events ++ [e]
      posted := if at_.isSome then m.posted + 1 else m.posted }
  s.setMem { s.mem with hbm := match at_ with
    | some pa => Memory.writeN s.mem.hbm pa e.bytes
    | none => s.mem.hbm }

/-! ### The scratchpad of a team (R172, R173) -/

/-- A byte of the team's scratchpad. -/
def Team.byte (t : Team) (a : Nat) : Byte := Table.getD t.scratch a 0

/-- The state of a granule of the team's scratchpad. -/
def Team.granule (t : Team) (n : Nat) : Granule := Table.getD t.granules n .full

def Team.setGranule (t : Team) (n : Nat) (g : Granule) : Team :=
  { t with granules := if g == .full then Table.del t.granules n else Table.put t.granules n g }

def Team.writeByte (t : Team) (a : Nat) (b : Byte) : Team :=
  { t with scratch := if b == 0 then Table.del t.scratch a else Table.put t.scratch a b }

/-- Bytes stored by a vector instruction or STS: granule states stay (R173). -/
def Team.store (t : Team) (a : Nat) : List Byte → Team
  | [] => t
  | b :: bs => (t.writeByte a b).store (a + 1) bs

def Team.bytes (t : Team) (a n : Nat) : List Byte := (List.range n).map fun i => t.byte (a + i)

/-- An engine write of one whole granule: its 16 bytes, and the granule becomes full (R173, R174). -/
def Team.engineWrite (t : Team) (granule : Nat) (bs : List Byte) : Team :=
  (t.store (16 * granule) bs).setGranule granule .full

/-- The granules that a range of bytes meets. -/
def granulesOf (a n : Nat) : List Nat :=
  if n == 0 then [] else (List.range ((a + n - 1) / 16 - a / 16 + 1)).map fun i => a / 16 + i

/-- Whether a range of bytes meets a poisoned granule. -/
def Team.meetsPoison (t : Team) (a n : Nat) : Bool := (granulesOf a n).any fun g => t.granule g == .poison

/-- An accumulator row: 32 words, zero until written (R161). -/
def Team.row (t : Team) (r : Nat) : List Word := Table.getD t.acc r (List.replicate 32 0)

def Team.setRow (t : Team) (r : Nat) (ws : List Word) : Team := { t with acc := Table.put t.acc r ws }

/-- Whether the instruction is still counted on its counter (R210). -/
def Pending.counted (p : Pending) : Bool :=
  match p.st with
  | .pending | .failing .. => true
  | _ => false

/-- The lanes of an ATOMS that have not performed. -/
def Pending.atomsLeft (p : Pending) : Table Nat := p.addrs.filter fun x => !p.done.contains x.1

/-- The team after the lanes of an ATOMS that are left, in increasing lane order (R202). -/
def Team.atoms (t : Team) (f : MForm) (p : Pending) : Team :=
  p.atomsLeft.foldl (fun t x =>
    let d := p.atomData f x.1
    t.store x.2 (leBytes (MForm.size f) (atomNew (MForm.atomOp f) f.t (leNat (t.bytes x.2 (MForm.size f))) d.1 d.2))) t

/-- What an STS has left to store: address and bytes of each element (R194, R204). -/
def Pending.stsLeft (p : Pending) (f : MForm) : List (Nat × List Byte) :=
  let k := MForm.size f
  p.addrs.flatMap fun x => (List.range (MForm.count f)).filterMap fun j =>
    if p.done.contains (8 * x.1 + j) then none
    else some (x.2 + k * j, slice (p.bytesOf (k * MForm.count f) x.1) (k * j) k)

/-- Whether an ATOMS may still change the scratchpad: it has passed its check, or would pass it now (R202). -/
def Pending.atomsGoes (p : Pending) (t : Team) (f : MForm) : Bool :=
  p.passed || !p.addrs.any fun x => t.meetsPoison x.2 (MForm.size f)

/-- The bytes of its team's scratchpad that an outstanding instruction has still to write, and the team once it has (R50, R51): an
STS, an ATOMS, or a vector result on its way. One that has faulted writes nothing before its reissue. -/
def Pending.scratchWrite (p : Pending) (t : Team) : List (Nat × Nat) × Team :=
  let stores := fun (ws : List (Nat × List Byte)) =>
    (ws.map fun w => (w.1, w.2.length), ws.foldl (fun t w => t.store w.1 w.2) t)
  if !p.counted then ([], t)
  else
    match p.op with
    | .mem .sts f => stores (p.stsLeft f)
    | .mem .atoms f =>
      if p.atomsGoes t f then (p.atomsLeft.map fun x => (x.2, MForm.size f), t.atoms f p) else ([], t)
    | _ => stores ((p.out.mem.filter fun w => p.live.getLsbD w.1).map fun w => w.2)

/-- The bytes of a lane's rows that ACCST writes. -/
def Team.rowBytes (t : Team) (base : Nat) (dbl : Bool) (lane : Nat) : List Byte :=
  let rows := if dbl then [base + 2 * lane, base + 2 * lane + 1] else [base + lane]
  rows.flatMap fun r => (t.row r).flatMap fun w => leBytes 4 w.toNat

/-- What an ACCST stores at its retirement: address and bytes of each lane's rows (R247, R248). -/
def AccOp.stores (o : AccOp) (t : Team) : List (Nat × List Byte) :=
  match o.kind with
  | .st dbl addr => o.lanes.toList.map fun i => (addr + (if dbl then 256 else 128) * i, t.rowBytes o.base dbl i)
  | _ => []

/-- Whether two lists of rows meet. -/
def meetRows (a b : List Nat) : Bool := a.any fun x => b.contains x

/-- Whether an accumulator operation may retire: no earlier one of its team meets its rows (R245). -/
def Core.retires (k : Core) (o : AccOp) : Bool :=
  !k.accOps.any fun e => decide (e.id < o.id) && e.team == o.team && meetRows e.rows o.rows

/-- The 4-byte words that a range of bytes meets. -/
def wordsOf (a n : Nat) : List Nat :=
  if n == 0 then [] else (List.range ((a + n - 1) / 4 - a / 4 + 1)).map fun i => a / 4 + i

/-- The scratchpad as a read at an address may find it beside one outstanding write (R51): each word that the write stores is
old or new by a free value. `w` are the ranges that the write stores and the team once it has. -/
def Team.mixed (t : Team) (free id pc : Nat) (w : List (Nat × Nat) × Team) : Team :=
  (w.1.flatMap fun x => wordsOf x.1 x.2).foldl (fun t' n =>
    if Config.freeRace free id pc n then t'.store (4 * n) (w.2.bytes (4 * n) 4) else t') t

/-- The scratchpad beside the accumulator stores of a team that may retire (R51, R248). -/
def Core.besideAcc (k : Core) (free pc uid : Nat) (t : Team) : Team :=
  (k.accOps.filter fun o => o.team == uid && k.retires o).foldl (fun t o =>
    let ws := o.stores t
    t.mixed free o.id pc (ws.map fun w => (w.1, w.2.length), ws.foldl (fun t w => t.store w.1 w.2) t)) t

/-- The team as scratchpad operands of its gangs read it while writes of the team are outstanding (R51). An engine writes a
granule, and a vector instruction of class 0 its destination, in one step: such a write is never seen in part (log entry 69). -/
def Core.racing (k : Core) (free pc uid : Nat) (t : Team) : Team :=
  k.besideAcc free pc uid ((k.gangs.filter fun g => g.2.team == uid).foldl (fun t g =>
    g.2.pending.foldl (fun t p => t.mixed free p.id pc (p.scratchWrite t)) t) t)

/-! ### The gang that issues -/

/-- The gang, sub-gang, team and clause that a pipe runs, with the grid of the team, and the team as scratchpad operands read
it (R51). -/
structure Issuer where
  core : Nat
  pipe : Nat
  clause : Clause
  gang : Gang
  sub : SubGang
  team : Team
  seen : Team
  grid : Grid
  deriving DecidableEq, Repr

/-- The address of instruction idx of a clause (R109). -/
def Clause.pc (x : Clause) : BitVec 56 := x.haddr + BitVec.ofNat 56 (8 * (x.idx + 1))

def Core.pipe? (k : Core) (p : Nat) : Option Clause := if p == 0 then k.pipe0 else k.pipe1

def Core.setPipe (k : Core) (p : Nat) (c : Option Clause) : Core :=
  if p == 0 then { k with pipe0 := c } else { k with pipe1 := c }

def Gang.sub? (g : Gang) (id : Nat) : Option SubGang := g.subs.find? fun x => x.id == id

def Gang.modSub (g : Gang) (id : Nat) (f : SubGang → SubGang) : Gang :=
  { g with subs := g.subs.map fun x => if x.id == id then f x else x }

/-- Who issues on a pipe of a core. -/
def State.issuerAt (s : State) (c p : Nat) : Option Issuer :=
  match (s.core c).pipe? p with
  | none => none
  | some cl =>
    match s.gang? c cl.gang with
    | none => none
    | some g =>
      match g.sub? cl.sub, s.team? c g.team with
      | some sb, some t =>
        match s.grid? t.grid with
        | some gr =>
          some
            { core := c, pipe := p, clause := cl, gang := g, sub := sb, team := t,
              seen := (s.core c).racing s.free cl.pc.toNat g.team t, grid := gr }
        | none => none
      | _, _ => none

/-- The gang that issues now. -/
def State.issuer (s : State) : Option Issuer := s.issuerAt s.cur.1 s.cur.2

namespace Issuer

/-- The slot of the issuing gang. -/
def slot (c : Issuer) : Nat := c.clause.gang

/-- The address of the clause's header. -/
def header (c : Issuer) : BitVec 56 := c.clause.haddr

/-- The address of the instruction's word (R109). -/
def pc (c : Issuer) : BitVec 56 := c.clause.pc

/-- `clause_end` (R110): the word after the clause's last instruction. -/
def clauseEnd (c : Issuer) : DWord := c.clause.haddr.setWidth 64 + BitVec.ofNat 64 (8 * (c.clause.words.length + 1))

/-- The instruction's address as a place a sub-gang stands at. -/
def at64 (c : Issuer) : DWord := c.pc.setWidth 64

/-- The word being issued. -/
def word (c : Issuer) : DWord := nth c.clause.words c.clause.idx 0

/-- The lanes whose guard is true (R63). -/
def guardLanes (c : Issuer) : Guard → Lanes
  | .always => BitVec.allOnes 128
  | .pred neg n => if neg then ~~~(nth c.gang.preds n.val 0) else nth c.gang.preds n.val 0

/-- The active lanes of an instruction (R10, R133): present, with a true guard. -/
def active (c : Issuer) (g : Guard) : Lanes := c.sub.fibres &&& c.guardLanes g

/-- The rename slot of a v register (R12, R116). -/
def slotOf (c : Issuer) (v : Nat) : Nat := c.sub.wb.toNat + v

end Issuer

/-! ### Registers -/

/-- The word a slot holds in a lane; an unwritten slot reads as zero (R162). -/
def Gang.slotWord (g : Gang) (slot lane : Nat) : Word :=
  match Table.get? g.slots slot with
  | some ws => nth ws lane 0
  | none => 0

/-- A v register of the issuing sub-gang, in a lane. -/
def Issuer.vreg (c : Issuer) (v lane : Nat) : Word := c.gang.slotWord (c.slotOf v) lane

/-- A uniform register of the issuing sub-gang's copy (R24). -/
def Issuer.sreg (c : Issuer) (n : Nat) : Word := nth c.sub.sregs n 0

/-- A pair of uniform registers, low word first. -/
def Issuer.spair (c : Issuer) (n : Nat) : Nat := (c.sreg n).toNat + 2 ^ 32 * (c.sreg (n + 1)).toNat

/-- Physical registers that a gang holds (R162). -/
def Gang.physical (g : Gang) : Nat := g.slots.length * (g.width / 32)

/-- `REGFREE`: the core's free physical registers (R162, R178). -/
def Core.regFree (k : Core) : Nat := 1536 - (k.gangs.map fun p => p.2.physical).sum

/-- Physical registers that writing a list of slots would take (R162, R163). -/
def Gang.slotsNeed (g : Gang) (slots : List Nat) : Nat :=
  (slots.eraseDups.filter fun n => (Table.get? g.slots n).isNone).length * (g.width / 32)

/-- A slot with some lanes written; lanes of a fresh slot that are not written read as zero (R163). -/
def Gang.writeSlot (g : Gang) (slot : Nat) (ws : List (Nat × Word)) : Gang :=
  let old := Table.getD g.slots slot []
  { g with slots := Table.put g.slots slot ((List.range g.width).map fun i => laneWord ws i (nth old i 0)) }

/-- A slot becomes unwritten for the whole gang (R164, R158). -/
def Gang.release (g : Gang) (slot : Nat) : Gang := { g with slots := Table.del g.slots slot }

/-- A predicate's lanes written where `mask` is set. -/
def Gang.writePred (g : Gang) (p : Nat) (mask vals : Lanes) : Gang :=
  { g with preds := setAt 7 g.preds p ((nth g.preds p 0 &&& ~~~mask) ||| (vals &&& mask)) 0 }

/-- A uniform register of one sub-gang's copy written. -/
def Gang.writeSreg (g : Gang) (sub n : Nat) (w : Word) : Gang :=
  g.modSub sub fun x => { x with sregs := setAt 64 x.sregs n w 0 }

/-! ### Outstanding instructions, counters and readiness (R46 to R48) -/

/-- The place of a wait counter in a gang's list of six. -/
def ctrIndex : Ctr → Nat
  | .ldc => 0
  | .stc => 1
  | .sfc => 2
  | .xlc => 3
  | .mxc => 4
  | .enc => 5

def Gang.counter (g : Gang) (k : Ctr) : Nat := nth g.counters (ctrIndex k) 0

def Gang.addCounter (g : Gang) (k : Ctr) (up : Bool) : Gang :=
  { g with counters := setAt 6 g.counters (ctrIndex k) (if up then g.counter k + 1 else g.counter k - 1) 0 }

def Gang.pending? (g : Gang) (id : Nat) : Option Pending := g.pending.find? fun p => p.id == id

def Gang.modPending (g : Gang) (id : Nat) (f : Pending → Pending) : Gang :=
  { g with pending := g.pending.map fun p => if p.id == id then f p else p }

def Gang.dropPending (g : Gang) (id : Nat) : Gang := { g with pending := g.pending.filter fun p => p.id != id }

/-- A fault that has been reported to the gang's list and not to a sub-gang (R210). -/
def Pending.unreported (p : Pending) : Bool :=
  match p.st with
  | .faulted .. => true
  | _ => false

/-- A fault that a sub-gang or the gang's list has (R211). -/
def Pending.answered (p : Pending) : Bool :=
  match p.st with
  | .faulted .. | .reported .. => true
  | _ => false

/-- Whether the instruction's destinations are marked faulted (R203, R210). -/
def Pending.destFaulted (p : Pending) : Bool :=
  match p.st with
  | .faulted .. | .reported .. | .behind _ => true
  | _ => false

/-- Registers and predicates that an instruction reads or writes: v register numbers, s registers, predicates. -/
structure Touch where
  v : List Nat
  s : List Nat
  p : List Nat
  deriving DecidableEq, Repr

/-- The outstanding instructions whose destinations an instruction touches (R47). -/
def Issuer.blockers (c : Issuer) (t : Touch) : List Pending :=
  let slots := t.v.map c.slotOf
  c.gang.pending.filter fun p =>
    (p.vdst.any fun d => slots.contains d) || (p.sdst.any fun d => t.s.contains d)
    || (match p.pdst with
        | some d => t.p.contains d
        | none => false)

/-- How an instruction ends when it does not commit: a precise fault, a report point of R211, a hold at issue (R48,
R170), or a park on the register pool (R165). -/
inductive Stop where
  | fault (r : FaultRec)
  | report
  | hold
  | regPark (slots : List Nat)
  deriving DecidableEq, Repr

/-- A precise fault's record at the instruction that issues (R136, R266). -/
def Issuer.record (c : Issuer) (code : Code) (lanes : Lanes) (addr : Nat) (aux : Nat) : FaultRec :=
  { code := some code, pc := c.pc, addr := BitVec.ofNat 64 addr, lanes := lanes, aux := BitVec.ofNat 32 aux }

/-- The fibres of a sub-gang by their handler context (R387): one group, unless others have joined it (R20). -/
def SubGang.contexts (b : SubGang) : List (Lanes × Option Handler) :=
  let rest := b.others.foldl (fun (m : Lanes) x => m &&& ~~~x.1) b.fibres
  ((rest, b.handler) :: b.others).filter fun x => x.1 != 0

/-- The sub-gang with some of its fibres, each in its own context. -/
def SubGang.restrict (b : SubGang) (m : Lanes) : SubGang :=
  let b' := { b with
    fibres := m
    others := (b.others.map fun (x : Lanes × Option Handler) => (x.1 &&& m, x.2)).filter fun x => x.1 != 0 }
  match b'.contexts with
  | [] => b'
  | (_, h) :: rest => { b' with handler := h, others := rest }

/-- Whether a fibre of the sub-gang is in handler context, and whether every one is (R386, R388). -/
def SubGang.inHandler (b : SubGang) : Bool := b.handler.isSome || b.others.any fun x => x.2.isSome
def SubGang.allHandler (b : SubGang) : Bool := b.handler.isSome && b.others.all fun x => x.2.isSome

/-- Whether the sub-gang runs the handler of a deferred fault (R387): its reports wait for its ERET (log entry 16). -/
def SubGang.inReport (b : SubGang) : Bool :=
  let deferred := fun (h : Option Handler) => match h with
    | some h => h.entry.isSome
    | none => false
  deferred b.handler || b.others.any fun x => deferred x.2

/-- Whether an entry of the gang was issued in the handler of a deferred fault that has not been left (log entry 16). -/
def Gang.handling (g : Gang) (p : Pending) : Bool :=
  g.subs.any fun b => b.anc.contains p.sub && b.contexts.any fun x => match x.2 with
    | some h => h.entry.isSome && decide (h.since ≤ p.id)
    | none => false

/-- WINDOW_OVERFLOW (R116), then CLAUSE_HAZARD (R47), or a report point where a touched destination is marked faulted
(R211, point 1). In the handler of a deferred fault such a destination is a hazard. `aux` is `FLTAUX` of a hazard; a
window overflow's is 0 (R166). -/
def Issuer.checkTouch (c : Issuer) (lanes : Lanes) (t : Touch) (aux : Nat := 0) : Except Stop Unit :=
  if t.v.any fun v => decide (1023 < c.slotOf v) then .error (.fault (c.record .windowOverflow lanes 0 0))
  else
    match c.blockers t with
    | [] => .ok ()
    | bs => if bs.any Pending.destFaulted && !c.sub.inReport then .error .report
            else .error (.fault (c.record .clauseHazard lanes 0 aux))

/-- A sub-gang's place among register parks: its order and its slots, if it is parked so. -/
def SubGang.regPark? (b : SubGang) : Option (Nat × List Nat) :=
  match b.park with
  | .register order slots => some (order, slots)
  | _ => none

/-- The register parks of a core: order, registers needed, gang slot and sub-gang. -/
def Core.regParks (k : Core) : List (Nat × Nat × Nat × SubGang) :=
  k.gangs.flatMap fun (g : Nat × Gang) =>
    g.2.subs.filterMap fun b => b.regPark?.map fun o => (o.1, g.2.slotsNeed o.2, g.1, b)

/-- The oldest register park of a core (R165). -/
def Core.oldestPark (k : Core) : Option (Nat × Nat × Nat × SubGang) :=
  k.regParks.foldl (fun m x => match m with
    | none => some x
    | some y => if x.1 < y.1 then some x else some y) none

/-- R165: the slots an instruction writes need registers that the pool must have; what the pool holds belongs to the register
parks that stand, oldest first (DEDUCED, log entry 56). -/
def Issuer.checkPool (c : Issuer) (s : State) (vdst : List Nat) : Except Stop Unit :=
  let need := c.gang.slotsNeed (vdst.map c.slotOf)
  let k := s.core c.core
  if need == 0 || (k.regParks.isEmpty && decide (need ≤ k.regFree)) then .ok () else .error (.regPark (vdst.map c.slotOf))

/-- The outstanding instructions of a counter, with those that a fault has taken off it (R203, R210). -/
def Gang.onList (g : Gang) (k : Ctr) : Nat := (g.pending.filter fun p => p.ctr == k).length

/-- R48: a counter at 63 holds the instruction, and so does a list of 63 entries (R213). Where faulted entries fill the list, the
instruction is a report point, but not in the handler of a deferred fault (DESIGN CHOICE, log entry 68). -/
def Issuer.checkCounter (c : Issuer) (k : Ctr) : Except Stop Unit :=
  if decide (c.gang.counter k < 63) && decide (c.gang.onList k < 63) then .ok ()
  else if decide (c.gang.counter k < 63) && !c.sub.inReport then .error .report
  else .error .hold

/-! ### The end of a clause -/

/-- A sub-gang's key (R17). -/
structure Key where
  pc : DWord
  turn : BitVec 16
  wb : BitVec 10
  deriving DecidableEq, Repr

/-- Fibres put under their keys, keys in the order of their lowest lane. -/
def addToKey (k : Key) (lane : Nat) : List (Key × Lanes) → List (Key × Lanes)
  | [] => [(k, Lanes.one lane)]
  | (k', m) :: t => if k == k' then (k', m ||| Lanes.one lane) :: t else (k', m) :: addToKey k lane t

/-- The fibres of a mask grouped by the key each arrives at (R18). -/
def groupByKey (m : Lanes) (keyOf : Nat → Key) : List (Key × Lanes) :=
  m.toList.foldl (fun acc i => addToKey (keyOf i) i acc) []

/-- The sub-gang that one group of fibres forms; a split gives each a number of its own (R18). -/
def SubGang.moved (b : SubGang) (k : Key) (m : Lanes) (newId : Option Nat) : SubGang :=
  { b.restrict m with
    id := newId.getD b.id
    anc := match newId with
      | some n => n :: b.anc
      | none => b.anc
    pc := k.pc, turn := k.turn, wb := k.wb, inClause := none }

/-- The sub-gangs that replace one whose fibres move, numbered from `n`. -/
def splitSub (b : SubGang) (groups : List (Key × Lanes)) (n : Nat) : List SubGang :=
  match groups with
  | [(k, m)] => [b.moved k m none]
  | gs => (gs.zip (List.range gs.length)).map fun (g, i) => b.moved g.1 g.2 (some (n + i))

/-- The gang with sub-gang `id` replaced. -/
def Gang.replaceSub (g : Gang) (id : Nat) (bs : List SubGang) : Gang :=
  { g with subs := g.subs.flatMap fun x => if x.id == id then bs else [x] }

/-- Whether the header's `PARK` bit is set (R39). -/
def headerPark (h : DWord) : Bool := h.getLsbD 44

/-- Whether the header's `JOIN` bit is set (R39). -/
def headerJoin (h : DWord) : Bool := h.getLsbD 43

/-- Released core storage, and the grid's note that the team's gangs have retired (R33, R171). The scratchpad share
shrinks to what the remaining regions need. -/
def splitFor (teams : Table Team) : Nat :=
  teams.foldl (fun m p => max m (ceilDiv (p.2.scratchAt + p.2.scratchBytes) 32768)) 0

/-- A copy of a team to its own scratchpad that has not ended keeps the team on its core (R274). -/
def Leat.holds (l : Leat) (team : Nat) : Bool :=
  l.copies.any fun c => c.team == team && (match c.desc with
    | some d => d.dsp
    | none => true) && (c.st == .queued || c.st == .running)

/-- TEAM_RETIRE (R33): a team none of whose gangs is left releases its core, unless a copy to its scratchpad still
runs (R274). A Spur reservation of the team is cancelled (R258). -/
def State.releaseTeam (s : State) (c t : Nat) : State :=
  match s.team? c t with
  | none => s
  | some tm =>
    let cl := s.cluster (clusterOf c)
    if (s.core c).gangs.any (fun g => g.2.team == t) || cl.leat0.holds t || cl.leat1.holds t then s
    else
      let s := s.modCore c fun k =>
        let teams := Table.del k.teams t
        { k with
          teams := teams
          split := splitFor teams
          reservations := k.reservations.filter (fun r => r.team != t)
          accOps := k.accOps.filter fun o => o.team != t
          bankOps := k.bankOps.filter fun o => o.team != t
          winOps := k.winOps.filter fun o => o.team != t }
      s.modGrid tm.grid fun g =>
        { g with unretired := g.unretired.map fun u => if u.1 == t then (t, true) else u }

/-- A gang leaves its core: its access list is discarded with it, and its claims on WO lines with that (R207, R386,
R26). -/
def State.dropGang (s : State) (c g : Nat) : State :=
  match s.gang? c g with
  | none => s
  | some x =>
    let s := s.modCore c fun k => { k with gangs := Table.del k.gangs g }
    let claims := s.mem.claims.filter fun y => !(y.core == c && y.gang == g)
    (s.setMem { s.mem with claims := claims }).releaseTeam c x.team

/-- Whether a gang has a clause on a pipe. -/
def Core.inIssue (k : Core) (g : Nat) : Bool :=
  (match k.pipe0 with
   | some c => c.gang == g
   | none => false) ||
  (match k.pipe1 with
   | some c => c.gang == g
   | none => false)

/-! ### Faults (R385 to R387) -/

/-- The number of a fault code (R385). -/
def codeNum : Code → Nat
  | .illegalOp => 0x01 | .reservedField => 0x02 | .clauseForm => 0x03 | .clauseHazard => 0x04
  | .lpadMismatch => 0x05 | .jumpTableBound => 0x06 | .priv => 0x07 | .windowOverflow => 0x08
  | .align => 0x10 | .scratchBound => 0x11 | .fePoison => 0x12 | .addrNoncanon => 0x13
  | .pageNotPresent => 0x20 | .pageProtection => 0x21 | .attrIllegalOp => 0x22 | .woRewrite => 0x23
  | .ipOwner => 0x24 | .aliasConflict => 0x25 | .hostOwned => 0x26 | .lineLost => 0x27
  | .accWindow => 0x30 | .cbInvalidIndex => 0x31 | .formatUnsupported => 0x32 | .spurPartner => 0x33
  | .pondAccess => 0x40 | .remoteFault => 0x50 | .remoteTimeout => 0x51 | .linkDown => 0x52
  | .debug => 0x70 | .watchdog => 0x7F

/-- The number a record's `FLTCODE` reads as: 0 for none (R178). -/
def FaultRec.number (f : FaultRec) : Nat :=
  match f.code with
  | some c => codeNum c
  | none => 0

/-- What is done with a fault (R386). -/
inductive Disposition where
  | resolve | handler | kill
  deriving DecidableEq, Repr

/-- Whether firmware may take a code (R385, column RESOLVE). -/
def mayResolve : Code → Bool
  | .pageNotPresent | .pageProtection | .ipOwner | .aliasConflict | .hostOwned | .formatUnsupported | .debug => true
  | _ => false

/-- The default disposition (R385). -/
def defaultDisposition : Code → Disposition
  | .pageNotPresent | .hostOwned | .formatUnsupported => .resolve
  | _ => .kill

/-- The disposition that a partition's `FDISP` names for a code (R364, R385). -/
def Partition.disposition (p : Partition) (c : Code) : Disposition :=
  match bitsOf p.fdisp.toNat (2 * codeNum c + 1) (2 * codeNum c) with
  | 1 => .resolve
  | 2 => .handler
  | 3 => .kill
  | _ => defaultDisposition c

def State.dispositionFor (s : State) (pid : Nat) (c : Code) : Disposition :=
  match s.part? pid with
  | some p => p.disposition c
  | none => defaultDisposition c

/-- Whether grid `g` is `top` or descends from it, looking at most `fuel` parents up (R32: at most 10). -/
def State.descends (s : State) (top : Nat) : Nat → Nat → Bool
  | 0, _ => false
  | fuel + 1, g => g == top ||
      (match s.grid? g with
       | some x => (match x.parent with
         | some (p, _) => s.descends top fuel p
         | none => false)
       | none => false)

/-- A team stops (R386): a gang with a clause on a pipe at the end of that clause, every other gang at once. -/
def State.stopTeam (s : State) (c t : Nat) : State :=
  let s := s.modTeam c t fun x => { x with killed := true }
  let gangs := ((s.core c).gangs.filter fun g => g.2.team == t).map fun g => g.1
  let s := gangs.foldl (fun s g => if (s.core c).inIssue g then s else s.dropGang c g) s
  s.releaseTeam c t

/-- The grid ended with a status and the record of a faulting gang; no further team of it is admitted. -/
def Grid.ended (g : Grid) (status : Nat) (fr : FaultRec) (team gang : Nat) : Grid :=
  { g with
    st := .ending
    status := status
    frec := fr
    fteam := team
    fgang := gang
    nextTeam := g.lr.gx * g.lr.gy * g.lr.gz }

/-- Saved teams of the grids named are discarded (R386): their frames are free and their gangs count as retired. -/
def State.discardFrames (s : State) (doomed : List Nat) : State :=
  let lost := s.parts.flatMap fun p =>
    (p.2.frames.filter fun f => doomed.contains f.2.team.grid).map fun f => f.2.team.uid
  let keep := fun (p : Partition) => { p with frames := p.frames.filter fun f => !doomed.contains f.2.team.grid }
  let mark := fun (g : Grid) =>
    { g with unretired := g.unretired.map fun u => (u.1, u.2 || lost.contains u.1) }
  { s with
    parts := s.parts.map fun p => (p.1, keep p.2)
    grids := s.grids.map fun g => (g.1, mark g.2) }

/-- GRID_KILL (R379, R386): the grid and every descendant end with status 3 and the faulting gang's record; their
resident teams stop and their saved teams are discarded. -/
def State.killGrid (s : State) (g : Nat) (fr : FaultRec) (team gang : Nat) : State :=
  let doomed := (s.grids.filter fun x => s.descends g 12 x.1).map fun x => x.1
  let finish := fun (x : Nat × Grid) =>
    (x.1, if doomed.contains x.1 && x.2.status == 0 then x.2.ended 3 fr team gang else x.2)
  let s := State.discardFrames { s with grids := s.grids.map finish } doomed
  let teams := s.cores.flatMap fun (k : Nat × Core) =>
    (k.2.teams.filter fun t => doomed.contains t.2.grid).map fun t => (k.1, t.1)
  teams.foldl (fun (s : State) (ct : Nat × Nat) => s.stopTeam ct.1 ct.2) s

/-- Where a stopped sub-gang stands: inside a clause, or at its header; and the deferred entry, if any, that is being
reported. -/
structure StopAt where
  pc : DWord
  inClause : Option (DWord × BitVec 56)
  entry : Option Nat
  deriving DecidableEq, Repr

/-- Where `eret.skip` resumes after a precise fault (R388): the word after the faulting instruction; a trap or a
breakpoint stands past it already. -/
def skipPoint (place : StopAt) (fr : FaultRec) : DWord :=
  match place.inClause with
  | some _ => place.pc + 8
  | none => if fr.code == some .debug then place.pc else fr.pc.setWidth 64 + 8

/-- HANDLER_ENTRY (R387): predicates saved, WB moved by 8 × `HWS`, PC at the handler. -/
def Gang.enterHandler (g : Gang) (sub : Nat) (place : StopAt) (fr : FaultRec) (handler hws since : Nat) : Gang :=
  let m := match g.sub? sub with
    | some b => b.fibres
    | none => 0
  let g := { g with handlerPreds := (List.range 7).map fun p =>
    (nth g.handlerPreds p 0 &&& ~~~m) ||| (nth g.preds p 0 &&& m) }
  g.modSub sub fun b =>
    { b with
      handler := some
        { since := since, hret := place.pc, skip := skipPoint place fr, wb := b.wb, entry := place.entry, inClause := place.inClause }
      wb := b.wb + BitVec.ofNat 10 (8 * hws)
      pc := BitVec.ofNat 64 handler
      inClause := none
      park := .run }

/-- The migration request of a fault HOST_OWNED on a gang's access (R236, R399). -/
def State.gangMigration (s : State) (c g : Nat) (fr : FaultRec) : State :=
  if fr.code != some .hostOwned then s
  else
    match ((s.gang? c g).bind fun x => s.team? c x.team).bind fun t => s.grid? t.grid with
    | some gr =>
      match s.part? gr.pid with
      | some p => s.post p.fn { kind := .migration, pid := gr.pid, addr := fr.addr.toNat }
      | none => s
    | none => s

/-- The gang writes its fault record (R386). -/
def State.writeRecord (s : State) (c g : Nat) (fr : FaultRec) : State :=
  (s.gangMigration c g fr).modGang c g fun x => { x with frec := fr }

/-- DEBUG_HALT (R36, R400): the gang halts and a debug event is posted. -/
def State.haltGang (s : State) (c g : Nat) : State :=
  let s' := s.modGang c g fun x => { x with dbg := { x.dbg with halted := true } }
  match s.gang? c g with
  | none => s
  | some x =>
    match s.team? c x.team with
    | none => s'
    | some t =>
      match s.grid? t.grid with
      | none => s'
      | some gr =>
        match s.part? gr.pid with
        | some p => s'.post p.fn { kind := .debugStop, pid := gr.pid, addr := x.frec.pc.toNat }
        | none => s'

/-- A disposition carried out on a stopped sub-gang (R386). RESOLVE parks it; HANDLER enters the handler; KILL ends the
grid, and so does HANDLER where there is no handler, in handler context, or past the last window. -/
def State.dispose (s : State) (c g sub : Nat) (d : Disposition) (fr : FaultRec) (place : StopAt) : State :=
  match s.gang? c g with
  | none => s
  | some x =>
    match s.team? c x.team with
    | none => s
    | some t =>
      let kill := s.killGrid t.grid fr t.linear x.number
      match d with
      | .kill => kill
      | .resolve =>
        let park := fun (b : SubGang) => if fr.code == some .debug then b.park else Park.fault place.entry fr
        let s := s.modGang c g fun x => x.modSub sub fun b =>
          { b with park := park b, pc := place.pc, inClause := place.inClause }
        if fr.code == some .debug then s.haltGang c g else s
      | .handler =>
        match s.grid? t.grid, x.sub? sub with
        | some gr, some b =>
          if gr.kd.handler == 0 || b.inHandler || decide (1016 < b.wb.toNat + 8 * gr.kd.hws) then kill
          else s.modGang c g fun x => x.enterHandler sub place fr gr.kd.handler gr.kd.hws s.next
        | _, _ => kill

/-- The disposition of a code for the gang's partition. While no debugger is attached, firmware declines RESOLVE for
DEBUG, and the kernel's handler, or KILL, takes the stop (R386, R400). -/
def State.gangDisposition (s : State) (c g : Nat) (code : Code) : Disposition :=
  match s.gang? c g with
  | none => .kill
  | some x =>
    match s.team? c x.team with
    | none => .kill
    | some t =>
      match s.grid? t.grid with
      | none => .kill
      | some gr =>
        let d := s.dispositionFor gr.pid code
        if code == .debug && d == .resolve then
          match s.part? gr.pid with
          | some p => if p.debugger then .resolve else .handler
          | none => .handler
        else d

/-- A pipe that held a sub-gang's clause is free. -/
def Core.freePipe (k : Core) (g sub : Nat) : Core :=
  let off := fun (cl : Option Clause) => match cl with
    | some x => if x.gang == g && x.sub == sub then none else some x
    | none => none
  { k with pipe0 := off k.pipe0, pipe1 := off k.pipe1 }

/-- A sub-gang stops with a fault (R386): the gang writes its record, and the partition's disposition for the code is carried
out. The pipe that held the sub-gang's clause is free. -/
def State.stopSub (s : State) (c g sub : Nat) (fr : FaultRec) (place : StopAt) : State :=
  let s := (s.writeRecord c g fr).modCore c fun k => k.freePipe g sub
  let d := match fr.code with
    | some code => s.gangDisposition c g code
    | none => .kill
  s.dispose c g sub d fr place

/-- Whether a sub-gang stands inside a clause that goes on by itself (R45): it may issue there, or waits for registers, for
jump-table entries, for reissued loads or for its counters. -/
def SubGang.goesOn (b : SubGang) : Bool :=
  b.inClause.isSome && (match b.park with
    | .run | .register .. | .jumpTable .. | .reissue .. | .parkBit => true
    | _ => false)

/-- A debug stop that a BKPT requested (R36): it takes effect once no sub-gang of the gang goes on inside a clause; one
stopped there by a fault keeps its place (log entry 53). -/
def State.debugRequest (s : State) (c g : Nat) (x : Gang) (t : Team) : State :=
  match x.dbg.request with
  | none => s
  | some (sub, fr) =>
    if x.subs.any SubGang.goesOn then s
    else
      let s := s.modGang c g fun x => { x with dbg := { x.dbg with request := none } }
      let heir := match x.subs.find? fun b => b.anc.contains sub && (b.fibres &&& fr.lanes) != 0 with
        | some b => some b
        | none => x.subs.find? fun b => b.anc.contains sub
      match heir with
      | some b => s.stopSub c g b.id fr { pc := b.pc, inClause := b.inClause, entry := none }
      | none =>
        match s.gangDisposition c g .debug with
        | .resolve => (s.writeRecord c g fr).haltGang c g
        | _ => (s.writeRecord c g fr).killGrid t.grid fr t.linear x.number

/-- Whether an enabled address breakpoint of the core matches a header (R36, R400). -/
def Core.breakAt (k : Core) (pc : DWord) : Bool := k.bkaddr.any fun x => x.enable && x.addr.setWidth 64 == pc

/-- The fibres of a gang that an address breakpoint has stopped at a header already (log entry 52). -/
def Gang.passedAt (g : Gang) (pc : DWord) : Lanes :=
  g.dbg.passed.foldl (fun (m : Lanes) x => if x.2 == pc then m ||| x.1 else m) 0

/-- The sub-gangs that stand at a header which an address breakpoint matches (R36): where the stop halts the gang every one
counts, else those that are not parked. -/
def Gang.broken (g : Gang) (k : Core) (halts : Bool) : List SubGang :=
  g.subs.filter fun b =>
    b.inClause.isNone && k.breakAt b.pc && (b.fibres &&& ~~~(g.passedAt b.pc)) != 0
      && (halts || (b.park == .run && b.waits.isEmpty))

/-- The sub-gang of a list that holds the lowest fibre. -/
def lowestSub (bs : List SubGang) : Option SubGang :=
  bs.foldl (fun m b => match m with
    | none => some b
    | some x => if (Lanes.lowest b.fibres).getD 128 < (Lanes.lowest x.fibres).getD 128 then some b else some x) none

/-- An address breakpoint stops a gang whose fibres have reached its header (R36, R124), with the record of the sub-gang that
holds the lowest of them. Where it halts the gang, all that stand at such a header have been stopped there (DESIGN CHOICE, log
entry 52). -/
def State.breakpoint (s : State) (c g : Nat) : State :=
  match s.gang? c g with
  | none => s
  | some x =>
    let halts := s.gangDisposition c g .debug == .resolve
    let bs := x.broken (s.core c) halts
    match lowestSub bs with
    | none => s
    | some b =>
      if x.dbg.halted then s
      else
        let fr : FaultRec :=
          { code := some .debug, pc := b.pc.setWidth 56, addr := 0, lanes := b.fibres, aux := BitVec.ofNat 32 (2 ^ 30) }
        let marks := (if halts then bs else [b]).map fun b => (b.fibres, b.pc)
        let s := s.modGang c g fun x => { x with dbg := { x.dbg with passed := x.dbg.passed ++ marks } }
        s.stopSub c g b.id fr { pc := b.pc, inClause := none, entry := none }

/-- A clause boundary of a gang, at which sub-gang `sub` has ended its clause or stopped: a stopped team's gang ends (R386),
the single step of that sub-gang is over (R37), core-halt mode halts the gang once no sub-gang goes on inside a clause (log
entry 53), and a requested debug halt or an address breakpoint takes effect (R36). Nothing happens while another clause of the
gang is in issue. -/
def State.boundary (s : State) (c g sub : Nat) : State :=
  match s.gang? c g with
  | none => s
  | some x =>
    match s.team? c x.team with
    | none => s
    | some t =>
      if (s.core c).inIssue g then s
      else if t.killed then s.dropGang c g
      else
        let inside := x.subs.any fun b => b.id == sub && b.inClause.isSome
        let halts := (!inside && x.dbg.stepping == some sub) || ((s.core c).coreHalt && !x.subs.any SubGang.goesOn)
        let s := if halts then
            s.modGang c g fun x => { x with dbg := { x.dbg with
              halted := true
              stepping := if x.dbg.stepping == some sub then none else x.dbg.stepping } }
          else s
        (s.debugRequest c g x t).breakpoint c g

/-- TAKING A FAULT (R386): the sub-gang stops where `place` says, the gang writes its record, the partition's disposition for
the code is carried out, and the gang stands at a boundary. -/
def State.takeFault (s : State) (c g sub : Nat) (fr : FaultRec) (place : StopAt) : State :=
  (s.stopSub c g sub fr place).boundary c g sub

/-- A precise fault of the instruction that issues: the sub-gang stops at it, inside its clause (R50). -/
def State.faultHere (s : State) (c : Issuer) (fr : FaultRec) : State :=
  s.takeFault c.core c.slot c.sub.id fr
    { pc := c.at64, inClause := some (c.clause.header, c.clause.haddr), entry := none }

/-! ### Reporting a deferred fault (R211, R212) -/

/-- The OP byte of a word. -/
def opByte (w : DWord) : Nat := bitsOf w.toNat 63 56

/-- The record of a deferred fault (R212): `PEND`, `DEF`, `OPB` and `RCODE` in `FLTAUX`. -/
def deferredRecord (p : Pending) (code : Code) (lanes : Lanes) (addr : DWord) (rcode : BitVec 8) (more : Bool) :
    FaultRec :=
  { code := some code, pc := p.pc, addr := addr, lanes := lanes,
    aux := BitVec.ofNat 32 ((if more then 2 ^ 17 else 0) + 2 ^ 16 + 256 * opByte p.word + rcode.toNat) }

/-- The oldest fault of the gang's list that has not been reported. -/
def Gang.oldestFault (g : Gang) : Option Pending := g.pending.find? Pending.unreported

/-- Whether a fault of the gang has been reported and not yet disposed (R211). -/
def Gang.faultUnresolved (g : Gang) : Bool :=
  g.pending.any (fun p => match p.st with
    | .reported .. => true
    | _ => false) || g.subs.any (fun b => match b.park with
    | .fault (some _) _ => true
    | _ => b.inReport)

/-- R215: an entry that failed remotely is removed when it is reported; its destinations become ready. -/
def removedOnReport : Code → Bool
  | .remoteFault | .remoteTimeout | .linkDown => true
  | _ => false

/-- A sub-gang that reaches a report point while a fault is unresolved parks there (R211). -/
def State.parkBehind (s : State) (c g sub : Nat) (place : StopAt) : State :=
  ((s.modCore c fun k => k.freePipe g sub).modGang c g fun x => x.modSub sub fun b =>
    { b with park := .behindFault, pc := place.pc, inClause := place.inClause }).boundary c g sub

/-- FAULT_REPORT (R211): the oldest faulted access of the gang is reported to a sub-gang that stops at `place`. While a
fault is unresolved, another sub-gang that reaches a report point parks there and writes no record. -/
def State.report (s : State) (c g sub : Nat) (place : StopAt) : State :=
  match s.gang? c g with
  | none => s
  | some x =>
    match x.oldestFault with
    | some p =>
      if x.faultUnresolved then s.parkBehind c g sub place
      else
        match p.st with
        | .faulted code lanes addr rcode =>
          let more := x.pending.any fun q => q.id != p.id && q.unreported
          let fr := deferredRecord p code lanes addr rcode more
          let s := s.modGang c g fun x =>
            if removedOnReport code then x.dropPending p.id
            else x.modPending p.id fun q => { q with st := .reported code lanes addr rcode }
          s.takeFault c g sub fr { place with entry := some p.id }
        | _ => s
    | none => s.parkBehind c g sub place

/-- A report point at the instruction that issues, which then does not execute. -/
def State.reportHere (s : State) (c : Issuer) : State :=
  s.report c.core c.slot c.sub.id
    { pc := c.at64, inClause := some (c.clause.header, c.clause.haddr), entry := none }

/-! ### Clause boundaries -/

/-- The end of the clause on a pipe: the sub-gang's fibres stand at the keys given, each group a sub-gang; with `PARK`
set they park (R49); the pipe is free. -/
def State.endClause (s : State) (c : Issuer) (groups : List (Key × Lanes)) : State :=
  let n := s.next
  let bs := splitSub c.sub groups n
  let bs := if headerPark c.clause.header then bs.map (fun b => { b with park := .parkBit }) else bs
  let s := { s with next := n + groups.length }
  let s := s.modCore c.core fun k => k.setPipe c.pipe none
  let s := s.modGang c.core c.slot fun g => g.replaceSub c.sub.id bs
  s.boundary c.core c.slot c.sub.id

/-- Fall-through (R41): every fibre stands at the word after the clause. -/
def State.fallThrough (s : State) (c : Issuer) : State :=
  s.endClause c [({ pc := c.clauseEnd, turn := c.sub.turn, wb := c.sub.wb }, c.sub.fibres)]

/-- The instruction has committed: the next word of the clause, or its end. -/
def State.advance (s : State) (c : Issuer) : State :=
  if c.clause.idx + 1 < c.clause.words.length then
    s.modCore c.core fun k => k.setPipe c.pipe (some { c.clause with idx := c.clause.idx + 1 })
  else
    match s.issuerAt c.core c.pipe with
    | some c' => s.fallThrough c'
    | none => s

/-! ### Running an instruction -/

/-- R165: a sub-gang parks at an instruction that needs registers for slots the pool cannot hold; `RPARK` is set, and the pipe
is free. -/
def State.parkForRegisters (s : State) (c g sub : Nat) (slots : List Nat) (pc : DWord) (inClause : Option (DWord × BitVec 56)) :
    State :=
  let (order, s) := s.fresh
  (s.modGang c g fun g =>
    { (g.modSub sub fun b => { b with park := .register order slots, pc := pc, inClause := inClause }) with
      rpark := true }).modCore c fun k => k.freePipe g sub

/-- A gang not in issue all of whose sub-gangs are parked, one at least on registers (R166); a sub-gang that a requested debug
stop holds back counts as parked. -/
def Gang.regParked (g : Gang) : Bool :=
  g.subs.any (fun b => b.regPark?.isSome)
  && g.subs.all fun b => b.park != .run || (b.inClause.isNone && (!b.waits.isEmpty || g.dbg.request.isSome))

/-- REGISTER_DEADLOCK (R166): where the only resident team of a core has every gang that has not retired parked, one at least
on registers, and the pool cannot hold what the oldest register park needs, that sub-gang faults with WINDOW_OVERFLOW,
`FLTAUX` 1. -/
def State.registerDeadlock (s : State) (c : Nat) : State :=
  let k := s.core c
  if k.teams.length != 1 || k.gangs.isEmpty || !k.gangs.all (fun g => g.2.regParked && !k.inIssue g.1) then s
  else
    match k.oldestPark with
    | some (_, need, g, b) =>
      if need ≤ k.regFree then s
      else
        s.takeFault c g b.id
          { code := some .windowOverflow, pc := b.pc.setWidth 56, addr := 0, lanes := b.fibres, aux := 1 }
          { pc := b.pc, inClause := b.inClause, entry := none }
    | none => s

/-- What a stop of the issuing instruction does to the state. -/
def State.stopped (s : State) (c : Issuer) : Stop → State
  | .fault fr => s.faultHere c fr
  | .report => s.reportHere c
  | .hold => s
  | .regPark slots =>
    (s.parkForRegisters c.core c.slot c.sub.id slots c.at64 (some (c.clause.header, c.clause.haddr))).registerDeadlock c.core

/-- Every instruction runs so: for the gang that issues, to its commit or its stop. -/
def runInstr (s : State) (k : Issuer → Except Stop State) : Host.Outcome State Fault Refusal :=
  match s.issuer with
  | none => .fault .noIssuer
  | some c =>
    match k c with
    | .ok t => .next t
    | .error e => .next (s.stopped c e)

/-! ### What an instruction writes -/

/-- A commit (R164): slots released, v registers, s registers, predicates and scratchpad bytes written, flags merged
(R97). -/
structure Effect where
  rel : List Nat
  v : List (Nat × List (Nat × Word))
  s : List (Nat × Word)
  p : List (Nat × Lanes × Lanes)
  mem : List (Nat × List Byte)
  flags : BitVec 5
  deriving DecidableEq, Repr

/-- A commit that changes nothing. -/
def Effect.none : Effect := { rel := [], v := [], s := [], p := [], mem := [], flags := 0 }

/-- The gang after a commit; v registers are numbered in the issuing sub-gang's window. -/
def Issuer.applyGang (c : Issuer) (e : Effect) (g : Gang) : Gang :=
  let g := e.rel.foldl (fun g v => g.release (c.slotOf v)) g
  let g := e.v.foldl (fun g w => g.writeSlot (c.slotOf w.1) w.2) g
  let g := e.s.foldl (fun g w => g.writeSreg c.sub.id w.1 w.2) g
  let g := e.p.foldl (fun g w => g.writePred w.1 w.2.1 w.2.2) g
  { g with flags := g.flags ||| e.flags }

/-- The state after a commit, before the clause goes on. -/
def State.applyEffect (s : State) (c : Issuer) (e : Effect) : State :=
  let s := s.modGang c.core c.slot (c.applyGang e)
  if e.mem.isEmpty then s
  else s.modTeam c.core c.gang.team fun t => e.mem.foldl (fun t w => t.store w.1 w.2) t

/-- A short-class instruction commits and the clause goes on (R46). -/
def State.commit (s : State) (c : Issuer) (e : Effect) : State := (s.applyEffect c e).advance c

/-- A long-class instruction issues (R46): its releases take effect, its destination slots are allocated, its counter
rises, and it joins the gang's outstanding instructions. `mk` completes an entry that names no effect yet. -/
def State.issue (s : State) (c : Issuer) (k : Ctr) (rel vdst sdst : List Nat) (pdst : Option Nat) (lanes : Lanes)
    (mk : Pending → Pending) : State :=
  let (id, s) := s.fresh
  let slots := vdst.map c.slotOf
  let base : Pending :=
    { id := id, ctr := k, word := c.word, pc := c.pc, sub := c.sub.id, lanes := lanes, live := lanes, vdst := slots,
      sdst := sdst, pdst := pdst, addrs := [], data := [], got := [], firm := [], done := [], fails := [], passed := false, sent := true,
      st := .pending, out := Out.none, op := .result }
  s.modGang c.core c.slot fun g =>
    let g := rel.foldl (fun g v => g.release (c.slotOf v)) g
    let g := slots.foldl (fun g d => g.writeSlot d []) g
    { g.addCounter k true with pending := g.pending ++ [mk base] }

/-- The number that the next issued instruction receives. -/
def State.nextId (s : State) : Nat := s.next

/-- The sub-gang with s registers of its copy written. -/
def SubGang.setSregs (b : SubGang) (ws : List (Nat × Word)) : SubGang :=
  { b with sregs := ws.foldl (fun r w => setAt 64 r w.1 w.2 0) b.sregs }

/-- A result arrives (R46): values are written in the lanes whose fibres have not ended since the issue (R121), s
registers in the copies of the issuing sub-gang's descendants (R193), flags merge (R97), the counter falls. -/
def Gang.deliver (g : Gang) (p : Pending) (o : Out) : Gang :=
  let keep := fun (ws : List (Nat × Word)) => ws.filter fun w => p.live.getLsbD w.1
  let g := o.vregs.foldl (fun g w => g.writeSlot w.1 (keep w.2)) g
  let heir := fun (b : SubGang) => if b.anc.contains p.sub then b.setSregs o.sregs else b
  let g := { g with subs := g.subs.map heir }
  let g := match o.pred with
    | some (n, vals) => g.writePred n p.live vals
    | none => g
  let g := { g with flags := g.flags ||| o.flags }
  let g := if p.counted then g.addCounter p.ctr false else g
  let g := g.dropPending p.id
  let awake := fun (b : SubGang) => { b with waits := b.waits.filter fun w => w != p.id }
  { g with subs := g.subs.map awake }

/-- The result of an outstanding instruction delivered to its gang, and its scratchpad bytes to the team. The bytes of lanes whose
fibres have ended are discarded, as R121 says of slots (DESIGN CHOICE, log entry 22). -/
def State.deliver (s : State) (c g id : Nat) (o : Out) : State :=
  match s.gang? c g with
  | none => s
  | some x =>
    match x.pending? id with
    | none => s
    | some p =>
      let s := s.modGang c g fun y => y.deliver p o
      if o.mem.isEmpty then s
      else
        s.modTeam c x.team fun t =>
          o.mem.foldl (fun t w => if p.live.getLsbD w.1 then t.store w.2.1 w.2.2 else t) t

end Sys2Proof.Machine
end

