-- ==== Sys2Proof/Machine/Operands.lean ====
section
/-! DEFINITION. Operand forms (R58 to R63, R134, R135): which registers an operand names, what it reads in a lane, where a
result goes, and the checks of scratchpad operands. -/

namespace Sys2Proof.Machine

/-- The value of an inline integer constant: 0 to 31, then −16 to −1 (R58). -/
def immVal (n : Fin 48) : Int := if n.val < 32 then (n.val : Int) else (n.val : Int) - 48

/-- An inline integer constant in an operand of a type (R60); one of type E8M0 is the encoding itself, and one that a narrow
float cannot hold is rounded (DESIGN CHOICE, log entry 54). -/
def immBits (t : Ty) (n : Fin 48) : Nat :=
  match fmtOf t with
  | some f => packElems t fun _ => intConst f (immVal n)
  | none => packElems t fun _ => wrapTo (immVal n) (elemShape t).1

/-- An inline float constant in an operand of a type (R59). -/
def fltBits (t : Ty) (n : BitVec 4) : Nat :=
  match fmtOf t with
  | some f => packElems t fun _ => floatConstBits f n
  | none => 0

/-- Bytes of a scratchpad element (R58, R135). -/
def elemBytes (t : Ty) : Nat := if t.wide then 8 else 4

/-- The scratchpad address of element operand s(n) in a lane, before its checks (R135): an exact sum (R10). -/
def Issuer.spAddr (c : Issuer) (t : Ty) (n : BitVec 6) (lane : Nat) : Nat :=
  (c.sreg n.toNat).toNat + elemBytes t * lane

/-- What an operand reads in a lane, as a value of type `t` (R58 to R60, R133 to R135). The lane index reads as its number's
bits in an operand of any type (DESIGN CHOICE, log entry 54). -/
def Issuer.read (c : Issuer) (t : Ty) (o : Opd) (lane : Nat) : Nat :=
  match o with
  | .v n =>
    if t.wide then (c.vreg n.toNat lane).toNat + 2 ^ 32 * (c.vreg (n.toNat + 1) lane).toNat
    else (c.vreg n.toNat lane).toNat
  | .s n => if t.wide then c.spair n.toNat else (c.sreg n.toNat).toNat
  | .imm n => immBits t n
  | .flt n => fltBits t n
  | .sp n => leNat (c.seen.bytes (c.spAddr t n lane) (elemBytes t))
  | .lane => lane
  | .none => 0

/-- The v registers that an operand of a type names: one, or a pair (R61). -/
def opdV (t : Ty) : Opd → List Nat
  | .v n => if t.wide then [n.toNat, n.toNat + 1] else [n.toNat]
  | _ => []

/-- The s registers that a source names: one or a pair, or the base of a scratchpad element. -/
def opdS (t : Ty) : Opd → List Nat
  | .s n => if t.wide then [n.toNat, n.toNat + 1] else [n.toNat]
  | .sp n => [n.toNat]
  | _ => []

/-- The predicate that a guard names (R63). -/
def guardP : Guard → List Nat
  | .always => []
  | .pred _ n => [n.val]

/-- The predicate that a predicate code 0x140 + p names. -/
def predOf : Opd → Option Nat
  | .imm n => some n.val
  | _ => none

/-- v registers released by an `LR` bit on an operand of a type (R62, R164). -/
def lrRel (lr : Bool) (t : Ty) (o : Opd) : List Nat := if lr then opdV t o else []

/-- A use of an operand: its code, its type, and whether it is read. -/
structure Use where
  o : Opd
  t : Ty
  reads : Bool
  deriving DecidableEq, Repr

/-- The registers that a list of operand uses and a guard touch, for R47 and R116. -/
def touchOf (us : List Use) (g : Guard) (preds : List Nat) : Touch :=
  { v := us.flatMap fun u => opdV u.t u.o
    s := us.flatMap fun u => opdS u.t u.o
    p := guardP g ++ preds }

/-- The scratchpad accesses of a list of operand uses: address, bytes, and whether read, lane by lane. -/
def Issuer.spUses (c : Issuer) (us : List Use) (lanes : Lanes) : List (Nat × Nat × Nat × Bool) :=
  let sps := us.filterMap fun u => match u.o with
    | .sp n => some (n, u.t, u.reads)
    | _ => none
  lanes.toList.flatMap fun i => sps.map fun x => (i, c.spAddr x.2.1 x.1 i, elemBytes x.2.1, x.2.2)

/-- The precise fault that a test finds among scratchpad accesses: the lanes that meet it, and the lowest one's address
(R136). -/
def Issuer.spFault (c : Issuer) (code : Code) (xs : List (Nat × Nat × Nat × Bool))
    (bad : Nat × Nat × Nat × Bool → Bool) : Option FaultRec :=
  match xs.filter bad with
  | [] => none
  | x :: rest =>
    some (c.record code ((x :: rest).foldl (fun m y => m ||| Lanes.one y.1) 0) x.2.1 0)

/-- ALIGN, SCRATCH_BOUND and FE_POISON of scratchpad accesses, in the order of R136. -/
def Issuer.checkSp (c : Issuer) (xs : List (Nat × Nat × Nat × Bool)) : Except Stop Unit :=
  match c.spFault .align xs (fun x => x.2.1 % x.2.2.1 != 0) with
  | some r => .error (.fault r)
  | none =>
    match c.spFault .scratchBound xs (fun x => decide (c.team.scratchBytes < x.2.1 + x.2.2.1) || decide (2 ^ 18 ≤ x.2.1)) with
    | some r => .error (.fault r)
    | none =>
      match c.spFault .fePoison xs (fun x => x.2.2.2 && c.team.meetsPoison x.2.1 x.2.2.1) with
      | some r => .error (.fault r)
      | none => .ok ()

/-- The precise checks of a vector instruction, in the order of R136. -/
def Issuer.checkUses (c : Issuer) (us : List Use) (g : Guard) (preds : List Nat) : Except Stop Unit :=
  match c.checkTouch (c.active g) (touchOf us g preds) with
  | .error e => .error e
  | .ok () => c.checkSp (c.spUses us (c.active g))

/-- The v registers that a destination of a type writes. -/
def dstV (t : Ty) (o : Opd) : List Nat := opdV t o

/-- Lane values of a type written to a destination: a register, a pair, a scratchpad element, or nowhere (R58, R135). -/
def Issuer.writeDst (c : Issuer) (t : Ty) (o : Opd) (vals : List (Nat × Nat)) (e : Effect) : Effect :=
  match o with
  | .v n =>
    let lo := vals.map fun (x : Nat × Nat) => (x.1, BitVec.ofNat 32 x.2)
    if t.wide then
      { e with v := e.v ++ [(n.toNat, lo), (n.toNat + 1, vals.map fun (x : Nat × Nat) => (x.1, BitVec.ofNat 32 (x.2 / 2 ^ 32)))] }
    else { e with v := e.v ++ [(n.toNat, lo)] }
  | .sp n => { e with mem := e.mem ++ vals.map fun (x : Nat × Nat) => (c.spAddr t n x.1, leBytes (elemBytes t) x.2) }
  | _ => e

/-- The same result as values on their way, with absolute slots (R46). -/
def Issuer.outDst (c : Issuer) (t : Ty) (o : Opd) (vals : List (Nat × Nat)) (x : Out) : Out :=
  match o with
  | .v n =>
    let lo := vals.map fun (y : Nat × Nat) => (y.1, BitVec.ofNat 32 y.2)
    if t.wide then
      { x with
        vregs := x.vregs ++ [(c.slotOf n.toNat, lo),
          (c.slotOf (n.toNat + 1), vals.map fun (y : Nat × Nat) => (y.1, BitVec.ofNat 32 (y.2 / 2 ^ 32)))] }
    else { x with vregs := x.vregs ++ [(c.slotOf n.toNat, lo)] }
  | .sp n => { x with mem := x.mem ++ vals.map fun (y : Nat × Nat) => (y.1, c.spAddr t n y.1, leBytes (elemBytes t) y.2) }
  | _ => x

/-- The mask of the lanes of a list of lane truths. -/
def maskOf (xs : List (Nat × Bool)) : Lanes :=
  xs.foldl (fun m x => if x.2 then m ||| Lanes.one x.1 else m) 0

end Sys2Proof.Machine
end

