-- ==== Sys2Proof/Machine/Flags.lean ====
section
/-! DEFINITION. Conditions and flags: the compare conditions of R130, R142 and R146, the flags a compare raises, the class of
a float (R147), and the words `GSTAT` and `GMODE` (R180, R181). -/

namespace Sys2Proof.Machine

/-- The six integer conditions: equal, not equal, less, less or equal, greater, greater or equal (R130, R142). -/
def intCond (fn : Nat) (a b : Int) : Bool :=
  match fn with
  | 0 => a == b
  | 1 => a != b
  | 2 => decide (a < b)
  | 3 => decide (a ≤ b)
  | 4 => decide (b < a)
  | 5 => decide (b ≤ a)
  | _ => false

/-- The eight float conditions, and the flags of the compare (R146). -/
def floatCond (fn : Nat) (a b : FVal) : Bool × Flags :=
  let nan := a.isNan || b.isNan
  let sig := a.sig || b.sig
  let ordered := decide (2 ≤ fn) && decide (fn ≤ 5)
  let nv : Flags := if (ordered && nan) || sig then flagNV else 0
  let v :=
    match fn with
    | 6 => nan
    | 7 => !nan
    | 1 => nan || cmpVal a b != 0
    | _ => !nan && intCond fn (cmpVal a b) 0
  (v, nv)

/-- The conditions of BRC on its source word (R110). -/
def brCond (aux : Nat) (w : Word) : Bool :=
  match aux with
  | 0 => true
  | 1 => w != 0
  | 2 => w == 0
  | 3 => w.msb
  | _ => !w.msb

/-- VFCLASS (R147). -/
def classBit (f : Fmt) (bits : Nat) : Nat :=
  match f.decode bits with
  | .nan sig => if sig then 8 else 9
  | .inf s => if s then 0 else 7
  | .fin s m _ =>
    if m == 0 then (if s then 3 else 4)
    else if bits / 2 ^ f.m % 2 ^ f.e == 0 then (if s then 2 else 5)
    else (if s then 1 else 6)

/-- `NLIVE`: live fibres of the gang (R180). -/
def Gang.nlive (g : Gang) : Nat := (g.subs.map fun b => Lanes.count b.fibres).sum

/-- The word `GSTAT` reads as (R180). -/
def Gang.gstat (g : Gang) : Word :=
  BitVec.ofNat 32 (g.nlive * 2 ^ 16 + g.subs.length * 2 ^ 8 + (if g.restored then 4 else 0) + (if g.rpark then 2 else 0)
    + (if g.usplit then 1 else 0))

/-- `GSTAT` read: its RC bits clear (R180). -/
def Gang.clearGstat (g : Gang) : Gang := { g with restored := false, rpark := false, usplit := false }

/-- The word `GMODE` reads as (R181). -/
def Gang.gmode (g : Gang) : Word := BitVec.ofNat 32 (g.flags.toNat * 2 ^ 4 + g.rm.toNat)

/-- `GMODE` read: its flags clear (R181). -/
def Gang.clearGmode (g : Gang) : Gang := { g with flags := 0 }

/-- A write of `RM`: 0, 5, 6 and 7 leave it unchanged (R181). -/
def Gang.setRm (g : Gang) (w : BitVec 3) : Gang :=
  if w == 0 || decide (5 ≤ w.toNat) then g else { g with rm := w }

end Sys2Proof.Machine
end

