-- ==== Sys2Proof/Machine/Special.lean ====
section
/-! DEFINITION. The special registers (R178 to R182, R286, R387, R411): what each reads as, what a read clears, and what a
write changes. -/

namespace Sys2Proof.Machine

/-- The word of a pair that a selector names: 0 the low word, 1 the high. -/
def half (x k : Nat) : Word := BitVec.ofNat 32 (x / 2 ^ (32 * k))

/-- The linear team number (R178). -/
def Team.linearNo (t : Team) : Nat := t.linear

/-- A breakpoint register's words (R178, R400). -/
def Breakpoint.word (b : Breakpoint) (high : Bool) : Word :=
  if high then half b.addr.toNat 1
  else BitVec.ofNat 32 (bitsOf b.addr.toNat 31 3 * 8 + (if b.enable then 1 else 0))

/-- A breakpoint register's low or high word written; its reserved bits are ignored (R8, R178). -/
def Breakpoint.setWord (b : Breakpoint) (high : Bool) (w : Word) : Breakpoint :=
  if high then { b with addr := BitVec.ofNat 56 (bitsOf w.toNat 23 0 * 2 ^ 32 + bitsOf b.addr.toNat 31 0) }
  else
    { b with
      addr := BitVec.ofNat 56 (bitsOf b.addr.toNat 55 32 * 2 ^ 32 + bitsOf w.toNat 31 3 * 8)
      enable := w.getLsbD 0 }

/-- A core's registers of selectors 0x0400 and above (R178). -/
def Core.special (k : Core) (sel : Nat) : Word :=
  if sel == 0x400 then k.govcap.setWidth 32
  else if sel == 0x401 then BitVec.ofNat 32 k.split
  else if sel == 0x402 then BitVec.ofNat 32 k.regFree
  else if sel == 0x403 then (if k.coreHalt then 1 else 0)
  else if 0x410 ≤ sel && sel ≤ 0x417 then
    (nth k.bkaddr ((sel - 0x410) / 2) { enable := false, addr := 0 }).word (sel % 2 == 1)
  else 0

/-- `GOVCAP` takes 8 to 16 (R169). -/
def govcapOk (w : Word) : Bool := decide (8 ≤ bitsOf w.toNat 4 0) && decide (bitsOf w.toNat 4 0 ≤ 16)

/-- Core-halt mode set or cleared (R36): set, every gang with no clause in issue and no sub-gang that goes on inside one halts at
once. -/
def Core.setHalt (k : Core) (on : Bool) : Core :=
  let stop := fun (g : Gang) => { g with dbg := { g.dbg with halted := true } }
  let halt := fun (x : Nat × Gang) => (x.1, if on && !k.inIssue x.1 && !x.2.subs.any SubGang.goesOn then stop x.2 else x.2)
  { k with
    coreHalt := on
    gangs := k.gangs.map halt }

/-- A write of a core register; RO fields stay (R178). -/
def Core.setSpecial (k : Core) (sel : Nat) (w : Word) : Core :=
  if sel == 0x400 then (if govcapOk w then { k with govcap := BitVec.ofNat 5 w.toNat } else k)
  else if sel == 0x403 then k.setHalt (w.getLsbD 0)
  else if 0x410 ≤ sel && sel ≤ 0x417 then
    let n := (sel - 0x410) / 2
    let b := (nth k.bkaddr n { enable := false, addr := 0 }).setWord (sel % 2 == 1) w
    { k with bkaddr := setAt 4 k.bkaddr n b { enable := false, addr := 0 } }
  else k

/-- A port's register (R411). -/
def Port.word (p : Port) : Word :=
  BitVec.ofNat 32 (p.st * 2 ^ 30 + p.retrain.toNat * 2 ^ 16 + p.replay.toNat)

/-- The package's fabric registers (R411). -/
def Fabric.special (f : Fabric) (sel : Nat) : Word :=
  if sel == 0x600 then f.devid.setWidth 32
  else if sel == 0x601 then f.tmo.setWidth 32
  else if sel == 0x602 then
    BitVec.ofNat 32 ((if f.logValid then 2 ^ 31 else 0) + f.logCode.toNat * 2 ^ 16 + f.logSrc.toNat)
  else if sel == 0x603 then half f.logVa.toNat 0
  else if sel == 0x604 then half f.logVa.toNat 1
  else (Table.getD f.ports (sel - 0x640) Port.reset).word

/-- A write of a package fabric register: `FABTMO` is RW, `FXLOG0.VALID` W1C, the rest RO (R411). -/
def Fabric.setSpecial (f : Fabric) (sel : Nat) (w : Word) : Fabric :=
  if sel == 0x601 then { f with tmo := BitVec.ofNat 24 w.toNat }
  else if sel == 0x602 then { f with logValid := f.logValid && !w.getLsbD 31 }
  else f

/-- The registers that a fibre or a sub-gang owns (R132, R178, R387). -/
def SubGang.owns (sel : Nat) : Bool := sel == 0x00 || sel == 0x0B || sel == 0x0E || sel == 0x90 || sel == 0x91

/-- A fibre's or sub-gang's register; LANEID is that of the lowest live fibre (R132). -/
def SubGang.special (b : SubGang) (sel : Nat) : Word :=
  if sel == 0x00 then BitVec.ofNat 32 ((Lanes.lowest b.fibres).getD 0)
  else if sel == 0x0B then b.turn.setWidth 32
  else if sel == 0x0E then b.wb.setWidth 32
  else
    match b.handler with
    | some h => half (bitsOf h.hret.toNat 55 0) (sel % 2)
    | none => 0

/-- A gang's fault record (R178). -/
def FaultRec.special (f : FaultRec) (sel : Nat) : Word :=
  if sel == 0x80 then BitVec.ofNat 32 f.number
  else if sel == 0x81 || sel == 0x82 then half f.pc.toNat (sel - 0x81)
  else if sel == 0x83 || sel == 0x84 then half f.addr.toNat (sel - 0x83)
  else if sel == 0x89 then f.aux
  else half f.lanes.toNat (sel - 0x85)

/-- A gang's register, with the team, grid and core it belongs to (R178, R411). -/
def gangSpecial (k : Core) (g : Gang) (t : Team) (gr : Grid) (sel : Nat) : Word :=
  if sel == 0x01 then BitVec.ofNat 32 g.number
  else if sel == 0x02 then half t.linear 0
  else if sel == 0x03 then BitVec.ofNat 32 t.tx
  else if sel == 0x04 then BitVec.ofNat 32 t.ty
  else if sel == 0x05 then BitVec.ofNat 32 t.tz
  else if sel == 0x06 then BitVec.ofNat 32 gr.lr.gx
  else if sel == 0x07 then BitVec.ofNat 32 gr.lr.gy
  else if sel == 0x08 then BitVec.ofNat 32 gr.lr.gz
  else if sel == 0x09 then gr.lr.gridid
  else if sel == 0x0A then BitVec.ofNat 32 gr.depth
  else if sel == 0x0C then BitVec.ofNat 32 g.width
  else if sel == 0x0D then BitVec.ofNat 32 t.ngang
  else if sel == 0x0F then BitVec.ofNat 32 (bitsOf t.linear 47 32)
  else if sel == 0x10 then (match gr.group with
    | some p => BitVec.ofNat 32 p.rank
    | none => 0xFFFFFFFF)
  else if sel == 0x11 then (match gr.group with
    | some p => BitVec.ofNat 32 p.ranks.length
    | none => 0)
  else if sel == 0x40 then g.gstat
  else if sel == 0x41 then g.gmode
  else if sel == 0x42 then BitVec.ofNat 32 (g.accBase % 512)
  else if sel == 0x43 then BitVec.ofNat 32 g.accLim
  else if sel == 0x60 || sel == 0x61 then half k.cyc.toNat (sel - 0x60)
  else if sel == 0x62 || sel == 0x63 then half k.govbub.toNat (sel - 0x62)
  else if sel == 0x64 then k.sramerr
  else g.frec.special sel

/-- A core's own register (R178); in memory-side mode `SPSPLIT` reads as the whole array (R309). -/
def State.coreSpecial (s : State) (core sel : Nat) : Word :=
  if sel == 0x401 && s.boot.memSide then 8 else (s.core core).special sel

/-- A special register as a gang of a core reads it (R132, R178, R390). -/
def State.special (s : State) (core : Nat) (g : Gang) (b : SubGang) (t : Team) (gr : Grid) (sel : Nat) : Word :=
  if SubGang.owns sel then b.special sel
  else if sel < 0x400 then gangSpecial (s.core core) g t gr sel
  else if sel < 0x500 then s.coreSpecial core sel
  else if sel == 0x500 then (s.cluster (clusterOf core)).vis.weirthr
  else if sel == 0x501 then (s.cluster (clusterOf core)).vis.binflush
  else if sel == 0x610 then (match s.part? gr.pid with
    | some p => p.fxctl
    | none => 0)
  else s.fabric.special sel

/-- SRAM errors counted: `SRAMERR` saturates (R175, R178). -/
def Core.countErrors (k : Core) (n : Nat) : Core :=
  { k with sramerr := BitVec.ofNat 32 (min 0xFFFFFFFF (k.sramerr.toNat + n)) }

/-- CYC and GOVBUB have advanced by some number of clocks when they are read, and SRAMERR by the errors that were corrected: how
many is free (R175, R178, R182, log entry 6). -/
def State.tick (s : State) (core sel : Nat) : State :=
  if sel == 0x60 || sel == 0x61 then
    let (n, s) := s.takeFree
    s.modCore core fun k => { k with cyc := k.cyc + Config.freeDWord n }
  else if sel == 0x62 || sel == 0x63 then
    let (n, s) := s.takeFree
    s.modCore core fun k => { k with govbub := k.govbub + Config.freeDWord n }
  else if sel == 0x64 then
    let (n, s) := s.takeFree
    s.modCore core fun k => k.countErrors (Config.freeWord n).toNat
  else s

/-- The RC fields of a special register clear when it is read (R7, R180, R181). -/
def State.afterRead (s : State) (core slot sel : Nat) : State :=
  if sel == 0x40 then s.modGang core slot Gang.clearGstat
  else if sel == 0x41 then s.modGang core slot Gang.clearGmode
  else s

/-- The fields of `FXCTL` that a write sets (R411). -/
def fxctlMask : Word := 0x8000FFFF

/-- A special register written by a gang of a core (R178, R390): RO and RC fields stay, reserved bits are ignored. -/
def State.writeSpecial (s : State) (core slot pid sel : Nat) (w : Word) : State :=
  if sel == 0x41 then s.modGang core slot fun g => g.setRm (BitVec.ofNat 3 w.toNat)
  else if sel < 0x400 then s
  else if sel < 0x500 then s.modCore core fun k => k.setSpecial sel w
  else if sel == 0x500 then
    s.modCluster (clusterOf core) fun cl => { cl with vis := { cl.vis with weirthr := w } }
  else if sel == 0x501 then s
  else if sel == 0x610 then s.modPart pid fun p => { p with fxctl := w &&& fxctlMask }
  else { s with fabric := s.fabric.setSpecial sel w }

end Sys2Proof.Machine
end

