-- ==== Sys2Proof/Machine/Block.lean ====
section
/-! DEFINITION. The bytes of a gang block (R383), as a context frame holds it and `DBGREAD` returns it (R400). -/

namespace Sys2Proof.Machine

/-! ### The size of a frame -/

/-- Bytes rounded up to the next 64-byte boundary. -/
def up64 (n : Nat) : Nat := (n + 63) / 64 * 64

/-- Bytes of a gang block (R383). -/
def Gang.blockBytes (g : Gang) : Nat :=
  let entry := fun (p : Pending) => match p.op with
    | .mem .. => 48 + 24 * g.width
    | .rayq .. => 48 + 32 * g.width
    | _ => 0
  1024 + 320 * g.subs.length + 4 * g.width * g.slots.length + (g.pending.map entry).sum

/-- Bytes of a frame (R383). -/
def frameBytes (t : Team) (gangs : List Gang) : Nat :=
  256 + (gangs.map fun g => up64 g.blockBytes).sum
  + up64 (t.scratchBytes + ceilDiv t.scratchBytes 64 + 128 * t.accRows + 1056 * t.banks.length)

/-- The frame that a team takes: the lowest free one of its partition, if it is large enough (R380, R383). -/
def Partition.freeFrame (p : Partition) (bytes : Nat) : Option Nat :=
  if p.fsize < bytes then none else (List.range p.fcnt).find? fun n => (Table.get? p.frames n).isNone

/-- The teams of a core that may be saved now: a frame holds each, and one is free (R380, R383). -/
def Core.framed (k : Core) (p : Partition) (team : Nat) : Bool :=
  match Table.get? k.teams team with
  | some t => (p.freeFrame (frameBytes t ((k.gangs.filter fun g => g.2.team == team).map fun g => g.2))).isSome
  | none => false

/-- The codes of R385. -/
def allCodes : List Code :=
  [.illegalOp, .reservedField, .clauseForm, .clauseHazard, .lpadMismatch, .jumpTableBound, .priv, .windowOverflow,
   .align, .scratchBound, .fePoison, .addrNoncanon, .pageNotPresent, .pageProtection, .attrIllegalOp, .woRewrite,
   .ipOwner, .aliasConflict, .hostOwned, .lineLost, .accWindow, .cbInvalidIndex, .formatUnsupported, .spurPartner,
   .pondAccess, .remoteFault, .remoteTimeout, .linkDown, .debug, .watchdog]

/-- The code with a number (R385). -/
def codeOf (n : Nat) : Option Code := allCodes.find? fun c => codeNum c == n

/-! ### Gang blocks -/

/-- A list cut or filled with zero bytes to n. -/
def padTo (n : Nat) (bs : List Byte) : List Byte := (bs ++ List.replicate (n - bs.length) 0).take n

/-- A bitmap of 1,024 slots. -/
def slotMap (test : Nat → Bool) : List Byte :=
  (List.range 128).map fun k =>
    BitVec.ofNat 8 (((List.range 8).map fun b => if test (8 * k + b) then 2 ^ b else 0).sum)

/-- Seven predicates, one byte for each of 128 lanes, with `p0` in bit 0. -/
def predBytes (ps : List Lanes) : List Byte :=
  (List.range 128).map fun i =>
    BitVec.ofNat 8 (((List.range 7).map fun n => if (nth ps n 0).getLsbD i then 2 ^ n else 0).sum)

/-- A mark for each predicate that a test names. -/
def predMarks (test : Nat → Bool) : Nat := ((List.range 7).map fun n => if test n then 2 ^ n else 0).sum

/-- Whether a gang's slot or predicate awaits a result, or is marked faulted (R47, R203). -/
def Gang.slotMarked (g : Gang) (faulted : Bool) (n : Nat) : Bool :=
  g.pending.any fun p => p.vdst.contains n && (if faulted then p.destFaulted else p.counted)
def Gang.predMarked (g : Gang) (faulted : Bool) (n : Nat) : Bool :=
  g.pending.any fun p => p.pdst == some n && (if faulted then p.destFaulted else p.counted)

/-- The park cause of a sub-gang (R383, item 5). -/
def Gang.parkCause (g : Gang) (b : SubGang) : Nat :=
  let waiting : Option POp := (g.pending.find? fun p => b.waits.contains p.id).map fun p => p.op
  match b.park, waiting with
  | .register .., _ => 6
  | .fault .., _ => 7
  | .behindFault, _ => 7
  | .parkBit, _ => 5
  | _, some (.barrier ..) => 1
  | _, some .txwait => 2
  | _, some (.raywait _) => 3
  | _, some (.mem ..) => 4
  | _, _ => 0

/-- The phase of the barrier that a sub-gang waits for. -/
def Gang.waitPhase (g : Gang) (b : SubGang) : Nat :=
  let waiting : Option POp := (g.pending.find? fun p => b.waits.contains p.id).map fun p => p.op
  match waiting with
  | some (.barrier _ phase _) => phase
  | _ => 0

/-- A sub-gang's entry of 320 bytes. -/
def Gang.subEntry (g : Gang) (b : SubGang) : List Byte :=
  let h := match b.handler with
    | some h => (1, h.hret.toNat, h.wb.toNat)
    | none => (0, 0, 0)
  let clause := match b.inClause with
    | some (header, _) => header.toNat
    | none => 0
  padTo 64 (leBytes 8 b.pc.toNat ++ leBytes 2 b.turn.toNat ++ leBytes 2 b.wb.toNat ++ leBytes 1 b.passOver
    ++ leBytes 1 (g.parkCause b) ++ leBytes 1 (g.waitPhase b) ++ leBytes 1 h.1 ++ leBytes 16 b.fibres.toNat
    ++ leBytes 8 h.2.1 ++ leBytes 2 h.2.2 ++ leBytes 8 clause)
  ++ b.sregs.flatMap fun w => leBytes 4 w.toNat

/-- The state and code of an access-list entry; how the state is numbered is the model's choice (log entry 18). -/
def PState.numbers : PState → Nat × Nat
  | .pending => (0, 0)
  | .failing code .. => (0, codeNum code)
  | .faulted code .. => (1, codeNum code)
  | .reported code .. => (2, codeNum code)
  | .behind _ => (3, 0)

/-- An access-list entry of 48 + 24W bytes. -/
def Gang.accessEntry (g : Gang) (p : Pending) : List Byte :=
  let st := p.st.numbers
  let data := fun i => padTo 16 ((Table.getD p.data i []).flatMap fun (w : Word) => leBytes 4 w.toNat)
  leBytes 8 p.word.toNat ++ leBytes 8 p.pc.toNat ++ leBytes 16 p.live.toNat ++ leBytes 8 (st.1 + 256 * st.2)
  ++ leBytes 4 (p.vdst.headD 0) ++ leBytes 4 p.vdst.length
  ++ ((List.range g.width).flatMap fun i => leBytes 8 (Table.getD p.addrs i 0))
  ++ (List.range g.width).flatMap data

/-- A pending RAYQ's entry of 48 + 32W bytes. -/
def Gang.rayEntry (g : Gang) (p : Pending) (any cullb : Bool) (root : Nat) : List Byte :=
  let flags := (if any then 1 else 0) + (if cullb then 2 else 0)
  padTo 48 (leBytes 8 root ++ leBytes 8 flags ++ leBytes 8 (p.vdst.headD 0))
  ++ (List.range g.width).flatMap fun i => padTo 32 ((Table.getD p.data i []).flatMap fun (w : Word) => leBytes 4 w.toNat)

/-- A gang's block (R383), in the order of its eight items. -/
def gangBlock (k : Core) (g : Gang) (t : Team) (gr : Grid) : List Byte :=
  let word := fun sel => leBytes 4 (gangSpecial k g t gr sel).toNat
  let live := g.subs.foldl (fun (m : Lanes) b => m ||| b.fibres) 0
  let status := padTo 64 ([0x40, 0x41, 0x42, 0x43].flatMap word
    ++ ((List.range 10).flatMap fun j => word (0x80 + j)) ++ g.counters.flatMap fun n => leBytes 1 n)
  let stepped := match g.dbg.stepping with
    | some id => (g.subs.map fun b => b.id).idxOf id
    | none => 0
  let debug := (if g.dbg.halted then 1 else 0) + (if g.dbg.stepping.isSome then 2 else 0) + 4 * (stepped % 128)
  let marks := predMarks (g.predMarked false) + 256 * predMarks (g.predMarked true)
  let rays := g.pending.flatMap fun p => match p.op with
    | .rayq any cullb root => g.rayEntry p any cullb root
    | _ => []
  let accesses := g.pending.flatMap fun p => match p.op with
    | .mem .. => g.accessEntry p
    | _ => []
  padTo 1024 (status ++ leBytes 16 live.toNat ++ predBytes g.preds ++ predBytes g.handlerPreds
    ++ slotMap (fun n => (Table.get? g.slots n).isSome) ++ slotMap (g.slotMarked false) ++ slotMap (g.slotMarked true)
    ++ leBytes 8 marks ++ leBytes 8 debug)
  ++ g.subs.flatMap g.subEntry
  ++ (g.slots.flatMap fun (x : Nat × List Word) => x.2.flatMap fun w => leBytes 4 w.toNat)
  ++ accesses ++ rays

end Sys2Proof.Machine
end

