-- ==== Sys2Proof/Machine/Crypto.lean ====
section
/-! DEFINITION. What an image's check computes (R403): SHA-384, and ECDSA on the curve P-384. The rule names the two; their
steps and constants are those of the standards it names, PRESUMED (log entry 70). -/

namespace Sys2Proof.Machine

/-! ### SHA-384 -/

/-- A number of bytes, most significant first. -/
def beNat (bs : List Byte) : Nat := bs.foldl (fun (n : Nat) b => 256 * n + b.toNat) 0

/-- The round constants: the fractional parts of the cube roots of the first 80 primes. -/
def shaConstants : List DWord :=
  [0x428A2F98D728AE22, 0x7137449123EF65CD, 0xB5C0FBCFEC4D3B2F, 0xE9B5DBA58189DBBC, 0x3956C25BF348B538,
    0x59F111F1B605D019, 0x923F82A4AF194F9B, 0xAB1C5ED5DA6D8118, 0xD807AA98A3030242, 0x12835B0145706FBE,
    0x243185BE4EE4B28C, 0x550C7DC3D5FFB4E2, 0x72BE5D74F27B896F, 0x80DEB1FE3B1696B1, 0x9BDC06A725C71235,
    0xC19BF174CF692694, 0xE49B69C19EF14AD2, 0xEFBE4786384F25E3, 0x0FC19DC68B8CD5B5, 0x240CA1CC77AC9C65]
  ++ [0x2DE92C6F592B0275, 0x4A7484AA6EA6E483, 0x5CB0A9DCBD41FBD4, 0x76F988DA831153B5, 0x983E5152EE66DFAB,
    0xA831C66D2DB43210, 0xB00327C898FB213F, 0xBF597FC7BEEF0EE4, 0xC6E00BF33DA88FC2, 0xD5A79147930AA725,
    0x06CA6351E003826F, 0x142929670A0E6E70, 0x27B70A8546D22FFC, 0x2E1B21385C26C926, 0x4D2C6DFC5AC42AED,
    0x53380D139D95B3DF, 0x650A73548BAF63DE, 0x766A0ABB3C77B2A8, 0x81C2C92E47EDAEE6, 0x92722C851482353B]
  ++ [0xA2BFE8A14CF10364, 0xA81A664BBC423001, 0xC24B8B70D0F89791, 0xC76C51A30654BE30, 0xD192E819D6EF5218,
    0xD69906245565A910, 0xF40E35855771202A, 0x106AA07032BBD1B8, 0x19A4C116B8D2D0C8, 0x1E376C085141AB53,
    0x2748774CDF8EEB99, 0x34B0BCB5E19B48A8, 0x391C0CB3C5C95A63, 0x4ED8AA4AE3418ACB, 0x5B9CCA4F7763E373,
    0x682E6FF3D6B2B8A3, 0x748F82EE5DEFB2FC, 0x78A5636F43172F60, 0x84C87814A1F0AB72, 0x8CC702081A6439EC]
  ++ [0x90BEFFFA23631E28, 0xA4506CEBDE82BDE9, 0xBEF9A3F7B2C67915, 0xC67178F2E372532B, 0xCA273ECEEA26619C,
    0xD186B8C721C0C207, 0xEADA7DD6CDE0EB1E, 0xF57D4F7FEE6ED178, 0x06F067AA72176FBA, 0x0A637DC5A2C898A6,
    0x113F9804BEF90DAE, 0x1B710B35131C471B, 0x28DB77F523047D84, 0x32CAAB7B40C72493, 0x3C9EBE0A15C9BEBC,
    0x431D67C49C100D4C, 0x4CC5D4BECB3E42B6, 0x597F299CFC657E2A, 0x5FCB6FAB3AD6FAEC, 0x6C44198C4A475817]

/-- The initial state: the fractional parts of the square roots of the ninth to the sixteenth prime. -/
def shaInitial : List DWord :=
  [0xCBBB9D5DC1059ED8, 0x629A292A367CD507, 0x9159015A3070DD17, 0x152FECD8F70E5939, 0x67332667FFC00B31,
    0x8EB44A8768581511, 0xDB0C2E0D64F98FA7, 0x47B5481DBEFA4FA4]

/-- The exclusive or of three rotations, or of two and a shift. -/
def shaSum (a b c : Nat) (x : DWord) : DWord := x.rotateRight a ^^^ x.rotateRight b ^^^ x.rotateRight c
def shaMix (a b c : Nat) (x : DWord) : DWord := x.rotateRight a ^^^ x.rotateRight b ^^^ (x >>> c)

/-- The 80 words of a block's schedule from its 128 bytes. -/
def shaSchedule (block : List Byte) : List DWord :=
  let first := (List.range 16).map fun k => BitVec.ofNat 64 (beNat (slice block (8 * k) 8))
  ((List.range 64).foldl (fun (ws : List DWord) _ =>
    (shaMix 19 61 6 (nth ws 1 0) + nth ws 6 0 + shaMix 1 8 7 (nth ws 14 0) + nth ws 15 0) :: ws) first.reverse).reverse

/-- One round: the state's eight words, with a constant and a word of the schedule. -/
def shaRound (st : List DWord) (x : DWord × DWord) : List DWord :=
  match st with
  | [a, b, c, d, e, f, g, h] =>
    let t := h + shaSum 14 18 41 e + ((e &&& f) ^^^ (~~~e &&& g)) + x.1 + x.2
    let u := shaSum 28 34 39 a + ((a &&& b) ^^^ (a &&& c) ^^^ (b &&& c))
    [t + u, a, b, c, d + t, e, f, g]
  | _ => st

/-- A block of 128 bytes taken into the state. -/
def shaBlock (st : List DWord) (block : List Byte) : List DWord :=
  let out := (shaConstants.zip (shaSchedule block)).foldl shaRound st
  (st.zip out).map fun x => x.1 + x.2

/-- A message with its padding: a one bit, zeros, and its length in bits in 16 bytes. -/
def shaPadded (msg : List Byte) : List Byte :=
  let n := msg.length
  msg ++ [0x80] ++ List.replicate ((239 - n % 128) % 128) 0
    ++ (List.range 16).map fun k => BitVec.ofNat 8 (8 * n / 256 ^ (15 - k))

/-- SHA-384, as a number of 384 bits. -/
def sha384 (msg : List Byte) : Nat :=
  let bs := shaPadded msg
  let st := (List.range (bs.length / 128)).foldl (fun (st : List DWord) k => shaBlock st (slice bs (128 * k) 128)) shaInitial
  (st.take 6).foldl (fun (n : Nat) w => 2 ^ 64 * n + w.toNat) 0

/-! ### ECDSA on P-384 -/

/-- The field's prime, the curve's coefficient b (its a is -3), and the order of its base point. -/
def p384 : Nat := 2 ^ 384 - 2 ^ 128 - 2 ^ 96 + 2 ^ 32 - 1
def p384B : Nat :=
  0xB3312FA7E23EE7E4988E056BE3F82D19181D9C6EFE8141120314088F5013875AC656398D8A2ED19D2A85C8EDD3EC2AEF
def p384N : Nat :=
  0xFFFFFFFFFFFFFFFFFFFFFFFFFFFFFFFFFFFFFFFFFFFFFFFFC7634D81F4372DDF581A0DB248B0A77AECEC196ACCC52973

/-- A point of the curve; none is the point at infinity. -/
abbrev EcPoint := Option (Nat × Nat)

/-- The base point. -/
def p384Base : EcPoint := some
  (0xAA87CA22BE8B05378EB1C71EF320AD746E1D3B628BA79B9859F741E082542A385502F25DBF55296C3A545E3872760AB7,
   0x3617DE4A96262C6F5D9E98BF9292DC29F8F41DBD289A147CE9DA3113B5F0B8C00A60B1CE1D7E819D7A431D7C90EA0E5F)

/-- A power modulo m, for exponents below 2^384. -/
def powMod (m b e : Nat) : Nat :=
  (List.range 384).foldl (fun (x : Nat) k =>
    let y := x * x % m
    if e.testBit (383 - k) then y * b % m else y) 1

/-- The inverse modulo a prime. -/
def invMod (m x : Nat) : Nat := powMod m x (m - 2)

/-- A difference modulo p384. -/
def subField (x y : Nat) : Nat := (x + p384 - y % p384) % p384

/-- The sum of two points. -/
def ecAdd : EcPoint → EcPoint → EcPoint
  | none, y => y
  | x, none => x
  | some (x1, y1), some (x2, y2) =>
    if x1 == x2 && (y1 + y2) % p384 == 0 then none
    else
      let slope := if x1 == x2 then subField (3 * x1 * x1) 3 * invMod p384 (2 * y1)
        else subField y2 y1 * invMod p384 (subField x2 x1)
      let x := subField (subField (slope * slope) x1) x2
      some (x, subField (slope * subField x1 x) y1)

/-- A multiple of a point, for factors below 2^384. -/
def ecMul (k : Nat) (q : EcPoint) : EcPoint :=
  (List.range 384).foldl (fun (x : EcPoint) j =>
    let y := ecAdd x x
    if k.testBit (383 - j) then ecAdd y q else y) none

/-- Whether a point given by its coordinates lies on the curve. -/
def onCurve (x y : Nat) : Bool :=
  decide (x < p384) && decide (y < p384) && y * y % p384 == (subField (x * x * x) (3 * x) + p384B) % p384

/-- Whether a signature of a message is correct under a public key: r and s of 48 bytes each, and an uncompressed point of 97
(R403). -/
def ecdsaOk (key sig msg : List Byte) : Bool :=
  let x := beNat (slice key 1 48)
  let y := beNat (slice key 49 48)
  let r := beNat (slice sig 0 48)
  let s := beNat (slice sig 48 48)
  let inv := invMod p384N s
  let sum := ecAdd (ecMul (sha384 msg * inv % p384N) p384Base) (ecMul (r * inv % p384N) (some (x, y)))
  nth key 0 0 == 4 && onCurve x y && decide (1 ≤ r) && decide (r < p384N) && decide (1 ≤ s) && decide (s < p384N)
  && (match sum with
      | some q => q.1 % p384N == r
      | none => false)

end Sys2Proof.Machine
end

