-- ==== Sys2Proof/Machine/Launch.lean ====
section
/-! DEFINITION. The state a team, its gangs and their first sub-gangs have at admission (R15, R160, R161, R176). -/

namespace Sys2Proof.Machine

/-- The width that `WID` of a kernel descriptor names (R368). -/
def KDesc.width (k : KDesc) : Nat :=
  match k.wid with
  | 0 => 32
  | 1 => 64
  | _ => 128

/-- Gangs of a team (R368). -/
def KDesc.ngang (k : KDesc) : Nat := k.ngm1 + 1

/-- Scratchpad bytes of a team (R368). -/
def KDesc.scratch (k : KDesc) : Nat := 16 * k.scr

/-- Uniform registers at launch: the argument words in `s0` to `s11`, the rest zero (R367). -/
def launchSregs (args : List Word) : List Word :=
  (List.range 64).map fun n => if n < 12 then nth args n 0 else 0

/-- The one sub-gang of a gang at launch (R15). -/
def launchSub (id : Nat) (width entry : Nat) (args : List Word) : SubGang :=
  { id := id, anc := [id], fibres := Lanes.below width, pc := BitVec.ofNat 64 entry, turn := 0, wb := 0,
    sregs := launchSregs args, passOver := 0, yielded := false, park := .run, waits := [], inClause := none,
    handler := none, others := [] }

/-- A gang at launch (R15, R176, R180, R181): gang 0 holds the window of all the team's rows, every other an empty
one. -/
def launchGang (team number width accRows order : Nat) (sub : SubGang) : Gang :=
  { team := team, number := number, width := width, slots := [], preds := List.replicate 7 0,
    handlerPreds := List.replicate 7 0, subs := [sub], counters := List.replicate 6 0, accBase := 0,
    accLim := if number == 0 then accRows else 0, usplit := false, rpark := false, restored := false, rm := 1,
    flags := 0, frec := FaultRec.zero, pending := [],
    dbg := { request := none, halted := false, stepping := none, waitingReconverge := false, passed := [] }, passOver := 0,
    yielded := false, order := order }

/-- A codebook bank at admission: every entry zero and invalid (R161). -/
def Bank.empty : Bank := { entries := [], valid := [] }

/-- A team at admission (R161): its scratchpad zero and full, its rows zero, its banks invalid. -/
def launchTeam (uid grid linear : Nat) (r : LaunchRec) (k : KDesc) (scratchAt accAt : Nat) (bindings : List Nat) :
    Team :=
  { uid := uid, grid := grid, linear := linear, tx := linear % r.gx, ty := linear / r.gx % r.gy,
    tz := linear / (r.gx * r.gy), ngang := k.ngang, width := k.width, scratchBytes := k.scratch,
    scratchAt := scratchAt, scratch := [], granules := [], accRows := k.acc, accAt := accAt, acc := [],
    banks := List.replicate k.cbk Bank.empty, bindings := bindings, started := bindings.isEmpty,
    order := uid, killed := false, stopping := false }

/-- A launch record that asks for one team and nothing else. -/
def LaunchRec.one : LaunchRec :=
  { kdesc := 0, gx := 1, gy := 1, gz := 1, gridid := 0, prio := 0, child := false, prs := false, pin := false, occ := 0,
    faddr := 0, fval := 0, saddr := 0, sval := 0, eraddr := 0, oaddr := 0, place := 0, pgt := 0, xb := [0, 0, 0, 0],
    otag := 0, args := List.replicate 12 0, reservedSet := false }

/-- A kernel descriptor of one gang of width 32 with the whole scratchpad, every accumulator row and four banks. -/
def KDesc.one : KDesc :=
  { entry := 0, handler := 0, scr := 16384, acc := 512, cbk := 4, rpeak := 0, rest := 0, ngm1 := 0, wid := 0, hws := 0,
    tb := [0, 0, 0, 0], reservedSet := false }

/-- A grid as acceptance makes it (R366, R372). -/
def Grid.accepted (pid : Nat) (queue : Option (Nat × Nat)) (parent : Option (Nat × Nat)) (depth prio : Nat)
    (r : LaunchRec) (k : KDesc) (group : Option Group) (sys : Bool) (asid vmid : Nat) : Grid :=
  { pid := pid, queue := queue, parent := parent, depth := depth, prio := prio, eff := prio, passes := 0, lr := r,
    kd := k, group := group, sys := sys, asid := asid, vmid := vmid, args := r.args, st := .accepted, nextTeam := 0,
    unretired := [], status := 0, frec := FaultRec.zero, fteam := 0, fgang := 0, node := none, watched := none }

end Sys2Proof.Machine
end

