-- ==== Sys2Proof/Machine/Trans.lean ====
section
/-! DEFINITION. Translation and the checks of an access (R203, R206, R235, R236, R320 to R324, R337, R338, R396, R414): where an
address leads, which line it reaches, and the fault that stops it. -/

namespace Sys2Proof.Machine

/-! ### Physical memory -/

/-- Bytes of device memory (R306, R396). -/
def State.deviceBytes (s : State) : Nat := if s.boot.minimal then 144 * 2 ^ 30 else 576 * 2 ^ 30

/-- A physical address of host memory (R396). -/
def isHostPa (pa : Nat) : Bool := pa.testBit 51

/-- Whether a physical address is backed (R396). -/
def State.backed (s : State) (pa : Nat) : Bool :=
  decide (pa < s.deviceBytes) || (isHostPa pa && !s.boot.minimal)

/-- A little-endian number in physical memory. -/
def State.physNat (s : State) (pa n : Nat) : Nat := leNat (Memory.readN s.mem.hbm pa n)

/-- Bytes written to physical memory. -/
def State.physWrite (s : State) (pa : Nat) (bs : List Byte) : State :=
  { s with mem := { s.mem with hbm := Memory.writeN s.mem.hbm pa bs } }

/-- Metadata of a physical line (R307). -/
def State.lineMeta (s : State) (pline : Nat) : LineMeta := Table.getD s.mem.lines pline LineMeta.zero

def State.setLineMeta (s : State) (pline : Nat) (m : LineMeta) : State :=
  { s with mem := { s.mem with
      lines := if m == LineMeta.zero then Table.del s.mem.lines pline else Table.put s.mem.lines pline m } }

/-! ### Tables and the walk (R321 to R324) -/

/-- Where a walk ends: at a leaf, or with a code, and for a malformed entry its level and address (R323). -/
inductive Walk where
  | leaf (entry pa frame : Nat) (big : Bool)
  | fail (code : Code) (bad : Option (Nat × Nat))
  deriving DecidableEq, Repr

/-- A table pointer's reserved bits and the alignment of the table it names (R322, R323). -/
def pointerOk (e align : Nat) : Bool :=
  bitsOf e 62 61 == 0 && bitsOf e 59 52 == 0 && bitsOf e 6 0 == 0 && bitsOf e 51 7 * 128 % align == 0

/-- The table a pointer names. -/
def tableAddr (e : Nat) : Nat := bitsOf e 51 7 * 128

/-- A leaf's reserved bits (R322). -/
def leafOk (e : Nat) (big : Bool) : Bool :=
  bitsOf e 55 52 == 0 && bitsOf e 5 0 == 0 && (!big || bitsOf e 25 16 == 0)

/-- The last step of a walk: a leaf entry at a level (R322, R323, R396). -/
def State.walkLeaf (s : State) (e pa level va : Nat) (big : Bool) : Walk :=
  let frame := bitsOf e 51 16 + (if big then bitsOf va 25 16 else 0)
  if leafOk e big && s.backed (frame * 2 ^ 16) then .leaf e pa frame big
  else .fail .pageNotPresent (some (level, pa))

/-- One entry of a table above level 0: the next table's address, or the end of the walk. -/
def State.walkPointer (s : State) (level pa align : Nat) : Except Walk Nat :=
  let e := s.physNat pa 8
  if !e.testBit 63 then .error (.fail .pageNotPresent none)
  else if e.testBit 60 || !pointerOk e align then .error (.fail .pageNotPresent (some (level, pa)))
  else .ok (tableAddr e)

/-- The base of a VM's ASID table (R321): its partition's register, or for VMID 0xFF, which is no VM's, firmware's own
(R337). -/
def State.asidTable (s : State) (vmid : Nat) : Option Nat :=
  match s.partOfVm vmid with
  | some (_, p) => some p.asidBase
  | none => if vmid == 0xFF then some Config.heapAsidTable else none

/-- The walk for a page (R321). -/
def State.walk (s : State) (vmid asid va : Nat) : Walk :=
  match s.asidTable vmid with
  | none => .fail .pageNotPresent none
  | some base =>
    let steps : Except Walk Walk := do
      let root ← s.walkPointer 4 (base + 8 * asid) 128
      let l2 ← s.walkPointer 3 (root + 8 * bitsOf va 55 52) 65536
      let l1 ← s.walkPointer 2 (l2 + 8 * bitsOf va 51 39) 65536
      let a1 := l1 + 8 * bitsOf va 38 26
      let e1 := s.physNat a1 8
      if !e1.testBit 63 then .error (.fail .pageNotPresent none)
      if e1.testBit 60 then .error (s.walkLeaf e1 a1 1 va true)
      let l0 ← s.walkPointer 1 a1 8192
      let a0 := l0 + 8 * bitsOf va 25 16
      let e0 := s.physNat a0 8
      if !e0.testBit 63 then .error (.fail .pageNotPresent none)
      if e0.testBit 60 then .ok (s.walkLeaf e0 a0 0 va false)
      else .ok (.fail .pageNotPresent (some (0, a0)))
    match steps with
    | .ok w => w
    | .error w => w

/-- The attribute of a leaf (R322). -/
def attrOf (n : Nat) : Attr :=
  match n with
  | 0 => .sc
  | 1 => .rc
  | 2 => .wo
  | _ => .ip

/-- A frame descriptor (R324). -/
def State.frameBits (s : State) (frame : Nat) : FrameBits :=
  let d := s.physNat (s.pkg.frameTable.toNat + 4 * frame) 4
  { host := d.testBit 31, aclass := bitsOf d 30 29, acount := bitsOf d 15 0, bad := bitsOf d 28 16 != 0 }

/-- The permissions of a leaf (R322). -/
def leafPerms (e : Nat) : Perms :=
  { r := e.testBit 59, w := e.testBit 58, x := e.testBit 57, attr := attrOf (bitsOf e 62 61), owner := bitsOf e 15 6,
    many := false }

/-- The permissions of a leaf on one of its frames (R235, R324). -/
def Perms.onFrame (p : Perms) (b : FrameBits) : Perms := { p with many := decide (2 ≤ b.acount) }

/-- The entry that a walk's leaf makes (R320 to R322): of the whole page, with no frame descriptor read yet. -/
def entryOf (vmid asid page e frame : Nat) (big : Bool) : TlbEntry :=
  let off := if big then page % 1024 else 0
  { vmid := vmid, asid := asid, page := page - off, big := big, frame := frame - off, perms := leafPerms e, log := e.testBit 56,
    frames := [], logged := [] }

/-- Whether an entry translates a unit of an address space (R320). -/
def TlbEntry.covers (e : TlbEntry) (vmid asid page : Nat) : Bool :=
  e.vmid == vmid && e.asid == asid && decide (e.page ≤ page) && decide (page < e.page + (if e.big then 1024 else 1))

/-- The TLB's entry for a unit (R320). -/
def State.tlb? (s : State) (vmid asid page : Nat) : Option TlbEntry := s.mem.tlb.find? fun e => e.covers vmid asid page

/-- The unit that translates a page (R320). -/
def unitOf (asid va : Nat) : Nat := (bitsOf va 55 26 ^^^ asid) % 12

/-- What the translation of an address says: its frame, permissions and descriptor, and `LOG`. -/
structure Xlat where
  frame : Nat
  perms : Perms
  log : Bool
  bits : FrameBits
  deriving DecidableEq, Repr

/-- A unit of an entry's page: the descriptor as the entry keeps it, or as it stands (R324). -/
def State.xlatOf (s : State) (e : TlbEntry) (page : Nat) : Xlat :=
  let frame := e.frame + (page - e.page)
  let b := (Table.get? e.frames (page - e.page)).getD (s.frameBits frame)
  { frame := frame, perms := e.perms.onFrame b, log := e.log, bits := b }

/-- A translation from the TLB, or from a walk made now. -/
def State.translate (s : State) (vmid asid va : Nat) : Except Walk Xlat :=
  match s.tlb? vmid asid (va / 65536) with
  | some e => .ok (s.xlatOf e (va / 65536))
  | none =>
    match s.walk vmid asid va with
    | .leaf e _ frame big => .ok (s.xlatOf (entryOf vmid asid (va / 65536) e frame big) (va / 65536))
    | w => .error w

/-- An entry added to the TLB of its unit; a unit that holds 32,768 gives up one of them (R320), by a free value. -/
def State.addTlb (s : State) (e : TlbEntry) : State :=
  let u := unitOf e.asid (65536 * e.page)
  let mine := s.mem.tlb.filter fun x => unitOf x.asid (65536 * x.page) == u
  if mine.length < 32768 then { s with mem := { s.mem with tlb := s.mem.tlb ++ [e] } }
  else
    let (n, s) := s.takeFree
    let gone := mine[Config.tlbVictim n % mine.length]?
    { s with mem := { s.mem with tlb := (s.mem.tlb.filter fun x => some x != gone) ++ [e] } }

/-- The translation of a unit kept, with its frame's descriptor, once an access has passed its checks (R323, R324). -/
def State.keepTlb (s : State) (vmid asid va : Nat) : State :=
  let page := va / 65536
  let note := fun (s : State) (e : TlbEntry) =>
    if (Table.get? e.frames (page - e.page)).isSome then e
    else { e with frames := Table.put e.frames (page - e.page) (s.frameBits (e.frame + (page - e.page))) }
  match s.tlb? vmid asid page with
  | some e =>
    { s with mem := { s.mem with tlb := s.mem.tlb.map fun x => if x == e then note s x else x } }
  | none =>
    match s.walk vmid asid va with
    | .leaf e _ frame big => s.addTlb (note s (entryOf vmid asid page e frame big))
    | _ => s

/-- A malformed entry recorded in `WALKERR` of its unit; while one stands there, counted (R323). -/
def State.recordWalk (s : State) (asid va : Nat) : Walk → State
  | .fail _ (some (level, pa)) =>
    let u := unitOf asid va
    let put := fun (w : WalkErr) => { s with mem := { s.mem with walkerr := Table.put s.mem.walkerr u w } }
    match Table.get? s.mem.walkerr u with
    | some w => put (if w.valid then { w with later := w.later + 1 } else { w with valid := true, level := level, pa := pa })
    | none => put { valid := true, level := level, pa := pa, later := 0 }
  | _ => s

/-! ### Lines -/

/-- What an access does, for its checks (R203, R206, R229). `windowRead` is an engine's read that may be one of the heap
window: of a copy's source, or of a node queue, which may be a sluice queue (R337, R374). -/
inductive Acc where
  | load | store | atomic | woreset | fetch | engineRead | windowRead | engineWrite
  deriving DecidableEq, Repr

def Acc.writes : Acc → Bool
  | .store | .atomic | .woreset | .engineWrite => true
  | _ => false

def Acc.engine : Acc → Bool
  | .engineRead | .windowRead | .engineWrite => true
  | _ => false

/-- The tag of an address space in the caches (R304): its VMID and ASID as one number. -/
def tagOf (vmid asid : Nat) : Nat := vmid * 2 ^ 20 + asid

/-- The heap's ASID and its tag (R337), and the tag of physically tagged lines in memory-side mode (R309). -/
def heapAsid : Nat := 0xFFFF
def heapTag : Nat := tagOf 0xFF heapAsid
def physAsid : Nat := 0x10000

/-- The tag of an address space's copies of other devices' lines (R418): no local line has it. -/
def remoteTag (tag : Nat) : Nat := 0x20000 + tag

/-- The line that an access reaches: its name, its physical line, what its fill brings or brought, and the frame's
descriptor where this access is the fill. -/
structure Ln where
  vmid : Nat
  tag : Nat
  line : Nat
  pline : Nat
  perms : Perms
  log : Bool
  heap : Bool
  fill : Option FrameBits
  deriving DecidableEq, Repr

/-- A core's L1 copy of a line. -/
def Core.l1? (k : Core) (tag line : Nat) : Option L1Line := k.l1.find? fun x => x.tag == tag && x.line == line

/-- Whether a core's L1 holds lines: not in memory-side mode, nor when the scratchpads take the whole array (R171,
R309). -/
def State.l1On (s : State) (core : Nat) : Bool := !s.boot.memSide && decide ((s.core core).split < 8)

/-- The L2's copy of a line: by tag and line, or by physical line in memory-side mode (R304, R309). -/
def State.l2? (s : State) (tag line pline : Nat) : Option L2Line :=
  if s.boot.memSide then s.mem.l2.find? fun x => x.tag == physAsid && x.line == pline
  else s.mem.l2.find? fun x => x.tag == tag && x.line == line

/-- The line of an address: from the core's L1, from the L2, or translated (R203, R305). -/
def State.lineAt (s : State) (core : Option Nat) (vmid asid va : Nat) (heap : Bool) : Except Walk Ln :=
  let line := va / 128
  let tag := tagOf vmid asid
  let own := match core with
    | some c => if s.l1On c && !heap then ((s.core c).l1? tag line).map fun x => (x.pline, x.perms) else none
    | none => none
  let cached := if s.boot.memSide then none
    else (s.mem.l2.find? fun x => x.tag == tag && x.line == line).map fun x => (x.pline, x.perms)
  match (match own with
    | some x => some x
    | none => cached) with
  | some x =>
    .ok { vmid := vmid, tag := tag, line := line, pline := x.1, perms := x.2, log := false, heap := heap, fill := none }
  | none =>
    match s.translate vmid asid va with
    | .error w => .error w
    | .ok e =>
      .ok { vmid := vmid, tag := tag, line := line, pline := e.frame * 512 + bitsOf va 15 7, perms := e.perms,
            log := e.log, heap := heap, fill := some e.bits }

/-- The permission check (R322). -/
def Perms.permits (p : Perms) : Acc → Bool
  | .load | .engineRead | .windowRead => p.r
  | .fetch => p.x
  | .atomic => p.r && p.w
  | _ => p.w

/-- The permission check of an access to a frame: host memory takes no write (R396). -/
def Perms.permitsOn (p : Perms) (k : Acc) (frame : Nat) : Bool := p.permits k && !(k.writes && isHostPa (frame * 2 ^ 16))

/-- The rules of a page's consistency model for an access by a core, or by an engine or an outside agent (R206, R229). -/
def Perms.attrFault (p : Perms) (k : Acc) (core : Option Nat) : Option Code :=
  match k with
  | .fetch => none
  | .woreset => if p.attr == .wo then none else some .attrIllegalOp
  | _ =>
    if k == .atomic && p.attr == .wo then some .attrIllegalOp
    else if p.attr == .ip && core != some p.owner then some .ipOwner
    else none

/-- Whether an access is a load of R235: an engine's read counts as one (log entry 57), a fetch does not. -/
def Acc.loads : Acc → Bool
  | .load | .engineRead | .windowRead => true
  | _ => false

/-- The frame checks at a fill (R235, R236, R324): of the accesses to a frame with several mappings R324 allows loads alone. -/
def FrameBits.fault (b : FrameBits) (k : Acc) : Option Code :=
  if b.host then some .hostOwned
  else if b.bad then some .aliasConflict
  else if 2 ≤ b.acount && !((b.aclass == 1 || b.aclass == 2) && k.loads) then some .aliasConflict
  else none

/-- The checks of an access to a line, in the order of R203: permission, page rules, frame, several mappings, LOST. -/
def State.lineFault (s : State) (k : Acc) (core : Option Nat) (l : Ln) : Option Code :=
  if !l.perms.permitsOn k (l.pline / 512) then some .pageProtection
  else
    match l.perms.attrFault k core with
    | some c => some c
    | none =>
      match l.fill.bind (fun b => b.fault k) with
      | some c => some c
      | none =>
        if l.perms.many && !k.loads then some .aliasConflict
        else if k == .fetch then none
        else if (s.lineMeta l.pline).lost then some .lineLost
        else
          match core with
          | some c =>
            match (s.core c).l1? l.tag l.line with
            | some x => if x.lost && !l.heap then some .lineLost else none
            | none => none
          | none => none

/-! ### Routes: local memory, the heap window, another rank -/

/-- Where a global address leads (R337, R414). -/
inductive Route where
  | local_
  | heap
  | remote (rank : Nat) (tdev tvmid tasid tva gtag : Nat)
  | reduce (rank : Nat) (tdev tvmid tasid tva gtag : Nat)
  deriving DecidableEq, Repr

/-- Whether an address lies in the heap window (R337). -/
def State.inHeap (s : State) (va : Nat) : Bool :=
  let h := s.pkg.heapwin.toNat
  let base := bitsOf h 55 26
  h.testBit 63 && decide (base ≤ va / 2 ^ 26) && decide (va / 2 ^ 26 < base + bitsOf h 7 0)

/-- The rank and target of an address in an aperture of a process group (R414). -/
def Group.lookup (g : Group) (base va : Nat) : Option (Nat × Nat × Nat × Nat × Nat) :=
  if base ≤ va && va < base + g.ranks.length * 2 ^ g.aplog then
    let j := (va - base) / 2 ^ g.aplog
    match g.ranks[j]? with
    | some (tasid, tvmid, tdev, tbase) => some (j, tdev, tvmid, tasid, tbase + (va - base) % 2 ^ g.aplog)
    | none => none
  else none

/-- The route of an address under a process-group table. -/
def State.routeIn (s : State) (group : Option Group) (va : Nat) : Route :=
  if s.inHeap va then .heap
  else
    match group with
    | none => .local_
    | some g =>
      match g.lookup g.apbase va with
      | some (j, tdev, tvmid, tasid, tva) => .remote j tdev tvmid tasid tva g.gtag
      | none =>
        if g.rdbase == 0 then .local_
        else
          match g.lookup g.rdbase va with
          | some (j, tdev, tvmid, tasid, tva) => .reduce j tdev tvmid tasid tva g.gtag
          | none => .local_

/-- The route of an address of a grid. -/
def State.route (s : State) (gr : Grid) (va : Nat) : Route := s.routeIn gr.group va

/-- Whether an address of a grid leads to this device's memory or heap: no other address is translated here (R414). -/
def State.routedHere (s : State) (gr : Grid) (va : Nat) : Bool :=
  match s.route gr va with
  | .local_ | .heap => true
  | _ => false

/-! ### The heap's guards (R338, R340) -/

/-- The view entry of a VM for a pool: `V`, `F`, `I`, `T` and `ACT` (R340). -/
structure ViewEntry where
  v : Bool
  f : Bool
  i : Bool
  t : Bool
  act : BitVec 16
  deriving DecidableEq, Repr

/-- The bytes of a physical line as the last write that has performed left them: in an L1 that holds them dirty under the
directory, in the L2, or in memory (R219). -/
def State.performedLine (s : State) (pline : Nat) : List Byte :=
  let owner := s.cores.findSome? fun (k : Nat × Core) => k.2.l1.find? fun x => x.pline == pline && (x.st == .m || x.st == .o)
  match owner with
  | some x => x.data
  | none =>
    match s.mem.l2.find? fun x => x.pline == pline && !x.remote with
    | some x => x.data
    | none => Memory.readN s.mem.hbm (128 * pline) 128

/-- A view entry from its word; all clear where a reserved bit is set (R340). -/
def viewOf (e : Nat) : ViewEntry :=
  if bitsOf e 27 16 != 0 then { v := false, f := false, i := false, t := false, act := 0 }
  else { v := e.testBit 31, f := e.testBit 30, i := e.testBit 29, t := e.testBit 28, act := BitVec.ofNat 16 e }

/-- The word of a VM's view entry for a pool; 0 where the VM has no view (R340). -/
def State.viewWord (s : State) (vmid pool : Nat) : Nat :=
  match s.partOfVm vmid with
  | none => 0
  | some (_, p) =>
    let r := p.pondview.toNat
    let pa := bitsOf r 51 10 * 1024 + 4 * pool
    if r.testBit 63 then leNat (slice (s.performedLine (pa / 128)) (pa % 128) 4) else 0

/-- A VM's view entry for a pool as it stands (R340). -/
def State.view (s : State) (vmid pool : Nat) : ViewEntry := viewOf (s.viewWord vmid pool)

/-- Bytes of a pool's tiles (R336). -/
def Pool.tileBytes (p : Pool) : Nat := if p.big then 1024 else 512

/-- What an address of the heap window is: a heap tile of an enabled pool, or its sluice header or ring (R336, R338). -/
inductive HeapPlace where
  | tile (pool index : Nat)
  | sluice (pool offset : Nat)
  | nothing
  deriving DecidableEq, Repr

def State.heapPlace (s : State) (va : Nat) : HeapPlace :=
  let tile := s.pond.pools.find? fun (x : Nat × Pool) =>
    x.2.enabled && decide (x.2.hbase ≤ va) && decide (va < x.2.hbase + x.2.hcount * x.2.tileBytes)
  match tile with
  | some (p, r) => .tile p ((va - r.hbase) / r.tileBytes)
  | none =>
    let ring := s.pond.pools.find? fun (x : Nat × Pool) =>
      x.2.enabled && decide (x.2.qbase ≤ va) && decide (va < x.2.qbase + 64 + 32 * 2 ^ x.2.qlog)
    match ring with
    | some (p, r) => .sluice p (va - r.qbase)
    | none => .nothing

/-- A guard that is not live. -/
def HeapGuard.dead : HeapGuard := { live := false, shared := false, pool := 0, ownvm := 0, act := 0 }

/-- The guard of a tile (R338). -/
def State.guardOf (s : State) (pool index : Nat) : HeapGuard :=
  Table.getD s.pond.guards (pool * 2 ^ 23 + index) HeapGuard.dead

/-- Whether a VM passes a guard (R338). -/
def State.guardPasses (s : State) (vmid : Nat) (g : HeapGuard) : Bool :=
  let e := s.view vmid g.pool
  g.live && e.v && (if g.shared then e.act == g.act else g.ownvm.toNat == vmid)

/-- The guard check of a heap read by a VM (R338, R340): a line that the L2 holds keeps the outcome of its check. `rec_` is what
that line recorded. -/
def State.heapReadOk (s : State) (vmid va : Nat) (rec_ : Option LineGuard) : Bool :=
  match s.heapPlace va, rec_ with
  | .nothing, _ => false
  | .sluice pool _, _ => (s.view vmid pool).v
  | .tile .., some x => (Table.get? x.judged vmid).getD (s.guardPasses vmid x.guard)
  | .tile pool index, none => s.guardPasses vmid (s.guardOf pool index)

/-- The exception of R337: a VM may write the `QHEAD` word of a sluice queue of a pool in its view. -/
def State.heapWriteOk (s : State) (vmid va n : Nat) : Bool :=
  match s.heapPlace va with
  | .sluice pool off => decide (8 ≤ off) && decide (off + n ≤ 16) && (s.view vmid pool).v
  | _ => false

/-! ### The check of one access -/

/-- An access of n bytes of a VM's address space, checked: the line it reaches, or the code that stops it (R203, R229,
R337, R338). `core` is the core of a gang's access, none for an engine or an outside agent. -/
def State.access (s : State) (k : Acc) (core : Option Nat) (vmid asid va n : Nat) : Except Code Ln :=
  let heap := s.inHeap va
  let banned := heap && (match k with
    | .load | .windowRead => false
    | .store | .atomic => !s.heapWriteOk vmid va n
    | _ => true)
  if banned then .error .pageProtection
  else
    match s.lineAt core (if heap then 0xFF else vmid) (if heap then heapAsid else asid) va heap with
    | .error (.fail code _) => .error code
    | .error (.leaf ..) => .error .pageNotPresent
    | .ok l =>
      match s.lineFault k core l with
      | some c => .error c
      | none =>
        let recorded := (s.l2? l.tag l.line l.pline).bind fun _ => Table.get? s.pond.lineGuards l.pline
        if heap && !k.writes && !s.heapReadOk vmid va recorded then .error .pondAccess else .ok l

/-- What the failing walk of an access of an engine, or of a core, leaves in `WALKERR` (R323). -/
def State.noteWalk (s : State) (vmid asid va : Nat) (core : Option Nat := none) : State :=
  let heap := s.inHeap va
  let vm := if heap then 0xFF else vmid
  let as_ := if heap then heapAsid else asid
  match s.lineAt core vm as_ va heap with
  | .error w => s.recordWalk as_ va w
  | .ok _ => s

end Sys2Proof.Machine
end

