-- ==== Sys2Proof/Machine/Uniform.lean ====
section
/-! DEFINITION. The uniform instructions (R127 to R132): once for the issuing sub-gang, on its own s registers. -/

namespace Sys2Proof.Machine

/-- A uniform operand's value of a type: an s register or pair, or a constant (R127). 0x1FF reads as zero. -/
def Issuer.uread (c : Issuer) (t : Ty) (o : Opd) : Nat := c.read t o 0

/-- s registers that a uniform destination of a type names. -/
def uDstS (wide : Bool) : Opd → List Nat
  | .s n => if wide then [n.toNat, n.toNat + 1] else [n.toNat]
  | _ => []

/-- A value written to a uniform destination. -/
def uWrite (wide : Bool) (o : Opd) (x : Nat) : List (Nat × Word) :=
  match o with
  | .s n =>
    if wide then [(n.toNat, BitVec.ofNat 32 x), (n.toNat + 1, BitVec.ofNat 32 (x / 2 ^ 32))]
    else [(n.toNat, BitVec.ofNat 32 x)]
  | _ => []

/-- A uniform instruction (R127): its s registers must be ready; it writes `val` to its destination and goes on. -/
def uniform (f : RForm) (bT cT : Ty) (dWide : Bool) (val : Issuer → Nat) (s : State) :
    Host.Outcome State Fault Refusal :=
  runInstr s fun c => do
    c.checkTouch c.sub.fibres
      { v := [], s := uDstS dWide f.d ++ opdS f.t f.a ++ opdS bT f.b ++ opdS cT f.c, p := [] }
    .ok (s.commit c { Effect.none with s := uWrite dWide f.d (val c) })

/-- A uniform instruction whose operands and result all have its type. -/
def uniformT (f : RForm) (val : Nat → Nat → Nat) (s : State) : Host.Outcome State Fault Refusal :=
  uniform f f.t .n32 f.t.wide (fun c => val (c.uread f.t f.a) (c.uread f.t f.b)) s

/-- The low or high half of a product (R128, R138). -/
def intMul (t : Ty) (sat high : Bool) (a b : Nat) : Nat :=
  match intOf t with
  | some (w, sgn) =>
    let p := intVal w sgn a * intVal w sgn b
    if high then wrapTo (p / (2 : Int) ^ w) w else intResult t sat p
  | none => 0

/-- Shifts (R129): left, logical right, arithmetic right, of a value of w bits. -/
def shiftLeft (w a n : Nat) : Nat := if w ≤ n then 0 else a * 2 ^ n % 2 ^ w
def shiftRight (w a n : Nat) : Nat := if w ≤ n then 0 else a % 2 ^ w / 2 ^ n
def shiftArith (w a n : Nat) : Nat := wrapTo (sext a w / (2 : Int) ^ (min n w)) w

/-- SMOV (R128). -/
def execSmov (f : RForm) (s : State) : Host.Outcome State Fault Refusal := uniformT f (fun a _ => a) s

/-- SMOVI (R131). -/
def execSmovi (f : IForm) (s : State) : Host.Outcome State Fault Refusal :=
  runInstr s fun c => do
    c.checkTouch c.sub.fibres { v := [], s := uDstS false f.d, p := [] }
    .ok (s.commit c { Effect.none with s := uWrite false f.d f.imm.toNat })

/-- SADD (R128). -/
def execSadd (f : RForm) (s : State) : Host.Outcome State Fault Refusal := uniformT f (intOp f.t f.sat (· + ·)) s

/-- SSUB (R128). -/
def execSsub (f : RForm) (s : State) : Host.Outcome State Fault Refusal := uniformT f (intOp f.t f.sat (· - ·)) s

/-- SMUL (R128). -/
def execSmul (f : RForm) (s : State) : Host.Outcome State Fault Refusal := uniformT f (intMul f.t f.sat (f.fn == 1)) s

/-- SAND (R128). -/
def execSand (f : RForm) (s : State) : Host.Outcome State Fault Refusal := uniformT f (fun a b => a &&& b) s

/-- SOR (R128). -/
def execSor (f : RForm) (s : State) : Host.Outcome State Fault Refusal := uniformT f (fun a b => a ||| b) s

/-- SXOR (R128). -/
def execSxor (f : RForm) (s : State) : Host.Outcome State Fault Refusal := uniformT f (fun a b => a ^^^ b) s

/-- The shift amount is read as N32 (R129). -/
def uniformShift (f : RForm) (sh : Nat → Nat → Nat → Nat) (s : State) : Host.Outcome State Fault Refusal :=
  uniform f .n32 .n32 f.t.wide (fun c => sh (elemShape f.t).1 (c.uread f.t f.a) (c.uread .n32 f.b)) s

/-- SSHL (R129). -/
def execSshl (f : RForm) (s : State) : Host.Outcome State Fault Refusal := uniformShift f shiftLeft s

/-- SSHR (R129). -/
def execSshr (f : RForm) (s : State) : Host.Outcome State Fault Refusal := uniformShift f shiftRight s

/-- SSAR (R129). -/
def execSsar (f : RForm) (s : State) : Host.Outcome State Fault Refusal := uniformShift f shiftArith s

/-- An integer compare of a type's operand bits under `FN` (R130, R142). -/
def intCompare (t : Ty) (fn a b : Nat) : Bool :=
  match intOf t with
  | some (w, sgn) => intCond fn (intVal w sgn a) (intVal w sgn b)
  | none => false

/-- SCMP (R130): 1 or 0 in one s register. -/
def execScmp (f : RForm) (s : State) : Host.Outcome State Fault Refusal :=
  uniform f f.t .n32 false
    (fun c => if intCompare f.t f.fn.toNat (c.uread f.t f.a) (c.uread f.t f.b) then 1 else 0) s

/-- SSEL (R128). -/
def execSsel (f : RForm) (s : State) : Host.Outcome State Fault Refusal :=
  uniform f f.t .n32 f.t.wide
    (fun c => if c.uread .n32 f.c != 0 then c.uread f.t f.a else c.uread f.t f.b) s

/-- SRD (R132): a special register into an s register; its RC fields clear. -/
def execSrd (f : YForm) (s : State) : Host.Outcome State Fault Refusal :=
  runInstr s fun c => do
    c.checkTouch c.sub.fibres { v := [], s := uDstS false f.d, p := [] }
    let s := s.tick c.core f.sel.toNat
    let w := s.special c.core c.gang c.sub c.team c.grid f.sel.toNat
    let s := s.afterRead c.core c.slot f.sel.toNat
    .ok (s.commit c { Effect.none with s := uWrite false f.d w.toNat })

end Sys2Proof.Machine
end

