-- ==== Sys2Proof/Machine/MemInstr.lean ====
section
/-! DEFINITION. Memory instructions at issue (R187 to R191, R210 to R213): addresses, the precise checks, the data saved, and
the entry of the restartable access list. -/

namespace Sys2Proof.Machine

/-- `FE`, `CLR` and `FRAG` of an LDS (R204). -/
def MForm.fe (f : MForm) : Bool := f.sub.getLsbD 2
def MForm.clr (f : MForm) : Bool := f.sub.getLsbD 3
def MForm.frag (f : MForm) : Bool := f.sub.getLsbD 4

/-- Whether `ORD` orders as an acquire, and as a release (R55). -/
def MForm.acq (f : MForm) : Bool := f.ord.getLsbD 0
def MForm.rel (f : MForm) : Bool := f.ord.getLsbD 1

/-- Granules of each lane of an FEC (R205). -/
def MForm.fecCount (f : MForm) : Nat := f.sub.toNat / 4 + 1

/-- Whether an instruction works on the scratchpad. -/
def MemKind.scratch : MemKind → Bool
  | .lds | .sts | .atoms | .fec => true
  | _ => false

/-- Whether an instruction acts once for its sub-gang (R191). -/
def MemKind.once : MemKind → Bool
  | .sld | .fence | .woreset => true
  | _ => false

/-- The factor of `OFF` (R189). -/
def MemKind.scale (k : MemKind) (f : MForm) : Nat :=
  match k with
  | .fec => 16
  | .woreset | .fence => 1
  | .lds => if MForm.frag f then 32 else MForm.size f
  | _ => MForm.size f

/-- Bytes of each lane's access. -/
def MemKind.bytes (k : MemKind) (f : MForm) : Nat :=
  match k with
  | .fec => 16 * MForm.fecCount f
  | .woreset => 1
  | .fence => 0
  | .lds => if MForm.frag f then 32 else MForm.size f * MForm.count f
  | .atom | .atoms => MForm.size f
  | _ => MForm.size f * MForm.count f

/-- The alignment of each lane's address (R189, R209). -/
def MemKind.unit (k : MemKind) (f : MForm) : Nat :=
  match k with
  | .fec => 16
  | .woreset => 65536
  | .fence => 1
  | _ => k.bytes f

/-- Registers of data of each lane that the instruction reads (R188, R200). -/
def MemKind.dataRegs (k : MemKind) (f : MForm) : Nat :=
  match k with
  | .st | .sts => (MForm.size f * MForm.count f + 3) / 4
  | .atom | .atoms => MForm.size f / 4 * (if MForm.atomOp f == 7 then 2 else 1)
  | .woreset => 1
  | _ => 0

/-- Registers of result of each lane (R188, R200, R204). -/
def MemKind.resultRegs (k : MemKind) (f : MForm) : Nat :=
  match k with
  | .ld | .sld => (MForm.size f * MForm.count f + 3) / 4
  | .lds => if MForm.frag f then 8 else (MForm.size f * MForm.count f + 3) / 4
  | .atom | .atoms => if MForm.ret f then MForm.size f / 4 else 0
  | _ => 0

/-- The counter of a memory instruction (R187). -/
def MemKind.counter (k : MemKind) (f : MForm) : Ctr :=
  match k with
  | .ld | .sld | .lds => .ldc
  | .atom | .atoms => if MForm.ret f then .ldc else .stc
  | _ => .stc

/-- `FLTAUX` of a precise memory fault: `OPB` (R212). -/
def Issuer.memAux (c : Issuer) : Nat := 256 * opByte c.word

/-- `count` registers from the one an operand names. -/
def regRun (count : Nat) : Opd → List Nat
  | .v n => (List.range count).map fun j => n.toNat + j
  | .s n => (List.range count).map fun j => n.toNat + j
  | _ => []

/-- A lane's address (R189): of the virtual address space, or of the scratchpad, where a fragment load with an s register
adds 32 bytes a lane (R204). -/
def Issuer.memAddr (c : Issuer) (k : MemKind) (f : MForm) (lane : Nat) : Nat :=
  let off := sext f.off.toNat 12 * (k.scale f : Int)
  if k.scratch then
    let step := if k == .lds && MForm.frag f && isS f.a then 32 * lane else 0
    wrapTo ((c.read .n32 f.a lane : Int) + off + (step : Int)) 32
  else wrapTo ((c.read .n64 f.a lane : Int) + off) 64

/-- Where the instruction accesses memory: each lane with its address; an instruction that acts once has the key 0. -/
def Issuer.memAddrs (c : Issuer) (k : MemKind) (f : MForm) : Table Nat :=
  if k == .fence then []
  else if k.once then [(0, c.memAddr k f 0)]
  else (c.active f.g).toList.map fun i => (i, c.memAddr k f i)

/-- Registers that the instruction touches (R47). -/
def memTouch (k : MemKind) (f : MForm) : Touch :=
  let dn := max (k.dataRegs f) (k.resultRegs f)
  let at_ := if k.scratch then Ty.n32 else .n64
  { v := opdV at_ f.a ++ (if isV f.d then regRun dn f.d else [])
    s := opdS at_ f.a ++ (if isS f.d then regRun dn f.d else [])
    p := guardP f.g }

/-- The first precise fault that a test finds among addresses: its lanes, and the lowest one's address (R136, R212). -/
def Issuer.memFault (c : Issuer) (k : MemKind) (code : Code) (addrs : Table Nat) (bad : Nat → Bool) : Option FaultRec :=
  match addrs.filter fun x => bad x.2 with
  | [] => none
  | x :: rest =>
    let lanes := if k.once then 0 else (x :: rest).foldl (fun (m : Lanes) y => m ||| Lanes.one y.1) 0
    some (c.record code lanes x.2 c.memAux)

/-- ALIGN, then ADDR_NONCANON or SCRATCH_BOUND, of every lane before any access (R189). -/
def Issuer.checkAddrs (c : Issuer) (k : MemKind) (f : MForm) (addrs : Table Nat) : Except Stop Unit :=
  match c.memFault k .align addrs fun a => a % k.unit f != 0 with
  | some r => .error (.fault r)
  | none =>
    if k.scratch then
      match c.memFault k .scratchBound addrs (fun a => decide (c.team.scratchBytes < a + k.bytes f) || decide (2 ^ 18 ≤ a)) with
      | some r => .error (.fault r)
      | none => .ok ()
    else
      match c.memFault k .addrNoncanon addrs (fun a => decide (2 ^ 56 ≤ a)) with
      | some r => .error (.fault r)
      | none => .ok ()

/-- R211, points 2 and 6: a FENCE, and a release toward the gang's earlier accesses, report a faulted access instead of
executing; not in the handler of a deferred fault (log entry 16). -/
def Issuer.checkReport (c : Issuer) : Except Stop Unit :=
  if !c.sub.inReport && (c.gang.oldestFault.isSome || c.gang.faultUnresolved) then .error .report else .ok ()

/-- Whether a memory instruction is a report point of itself (R211, points 2 and 6). -/
def MemKind.reports (k : MemKind) (f : MForm) : Bool :=
  match k with
  | .fence => true
  | .st | .sts | .atom | .atoms | .woreset => MForm.rel f
  | _ => false

/-- Data saved for each lane: the words of the data registers (R213). -/
def Issuer.memData (c : Issuer) (k : MemKind) (f : MForm) (addrs : Table Nat) : Table (List Word) :=
  let n := k.dataRegs f
  if n == 0 then []
  else
    addrs.map fun (x : Nat × Nat) =>
      (x.1, (List.range n).map fun j => match f.d with
        | .v r => c.vreg (r.toNat + j) x.1
        | .s r => c.sreg (r.toNat + j)
        | _ => 0)

/-- v registers that the `LR` bits release (R188). -/
def memRel (k : MemKind) (f : MForm) : List Nat :=
  lrRel f.lrA (if k.scratch then .n32 else .n64) f.a ++ (if f.lrD && isV f.d then regRun (k.dataRegs f) f.d else [])

/-- Granules that an access of n bytes at each address meets. -/
def addrGranules (addrs : Table Nat) (n : Nat) : List Nat := addrs.flatMap fun x => granulesOf x.2 n

/-- Issue of a memory instruction (R46, R189, R213). An LDS with `.fe` that meets an empty granule parks its sub-gang at
the next clause boundary (R204). -/
def memIssue (k : MemKind) (f : MForm) (s : State) : Host.Outcome State Fault Refusal :=
  runInstr s fun c => do
    let act := c.active f.g
    let lanes := if k.once then 0 else act
    let addrs := c.memAddrs k f
    c.checkTouch lanes (memTouch k f) c.memAux
    if k.reports f then c.checkReport
    c.checkAddrs k f addrs
    c.checkCounter (k.counter f)
    let vdst := if k != .sld && isV f.d then regRun (k.resultRegs f) f.d else []
    let sdst := if k == .sld then regRun (k.resultRegs f) f.d else []
    c.checkPool s vdst
    let data := c.memData k f addrs
    let id := s.nextId
    let s := s.issue c (k.counter f) (memRel k f) vdst sdst none lanes fun p =>
      { p with addrs := addrs, data := data, op := .mem k f }
    let blocked := k == .lds && MForm.fe f
      && (addrGranules addrs (k.bytes f)).any (fun n => c.team.granule n == .empty)
    let s := if blocked then
        s.modGang c.core c.slot fun g => g.modSub c.sub.id fun b => { b with waits := b.waits ++ [id] }
      else s
    .ok (s.advance c)

/-- LD (R192). -/
def execLd (f : MForm) (s : State) : Host.Outcome State Fault Refusal := memIssue .ld f s

/-- ST (R192). -/
def execSt (f : MForm) (s : State) : Host.Outcome State Fault Refusal := memIssue .st f s

/-- SLD (R193). -/
def execSld (f : MForm) (s : State) : Host.Outcome State Fault Refusal := memIssue .sld f s

/-- LDS (R204). -/
def execLds (f : MForm) (s : State) : Host.Outcome State Fault Refusal := memIssue .lds f s

/-- STS (R204). -/
def execSts (f : MForm) (s : State) : Host.Outcome State Fault Refusal := memIssue .sts f s

/-- ATOM (R200). -/
def execAtom (f : MForm) (s : State) : Host.Outcome State Fault Refusal := memIssue .atom f s

/-- ATOMS (R202). -/
def execAtoms (f : MForm) (s : State) : Host.Outcome State Fault Refusal := memIssue .atoms f s

/-- FENCE (R198). -/
def execFence (f : MForm) (s : State) : Host.Outcome State Fault Refusal := memIssue .fence f s

/-- FEC (R205). -/
def execFec (f : MForm) (s : State) : Host.Outcome State Fault Refusal := memIssue .fec f s

/-- WORESET (R209). -/
def execWoreset (f : MForm) (s : State) : Host.Outcome State Fault Refusal := memIssue .woreset f s

/-- The lines that a PREF asks for (R208): those of its active lanes' addresses in the canonical space, but none of another
device's window (R416). -/
def Issuer.prefLines (c : Issuer) (s : State) (f : MForm) : List Pref :=
  (c.memAddrs .ld f).filterMap fun x =>
    if x.2 < 2 ^ 56 && s.routedHere c.grid x.2 then
      some { asid := c.grid.asid, line := x.2 / 128, hint := f.hint.toNat, w := f.sub.getLsbD 0 }
    else none

/-- PREF (R208): its operands are checked, and its lines are asked for, which GETS and GETM bring as `HINT` and `W` say. A
lane whose access would fault brings nothing. -/
def execPref (f : MForm) (s : State) : Host.Outcome State Fault Refusal :=
  runInstr s fun c => do
    c.checkTouch (c.active f.g) (memTouch .ld f) c.memAux
    let asked := c.prefLines s f
    let s := s.modCore c.core fun k => { k with prefs := k.prefs ++ asked.filter fun x => !k.prefs.contains x }
    .ok (s.commit c { Effect.none with rel := lrRel f.lrA .n64 f.a })

/-! ### Outstanding memory instructions -/

/-- The load that an OCCQ makes (R294): 4 bytes at package scope with `ORD` acquire. -/
def occqForm : MForm :=
  { t := .n32, d := .none, a := .none, off := 0, scope := 4, ord := 1, hint := 0, lrA := false, lrD := false, g := .always,
    sub := 0 }

/-- The load of a jump-table entry (R114): 8 bytes, plain, at gang scope. -/
def tableForm : MForm := { occqForm with t := .n64, scope := 0, ord := 0 }

/-- An outstanding memory instruction's kind and fields. An OCCQ counts as its load (R294). -/
def Pending.mem? (p : Pending) : Option (MemKind × MForm) :=
  match p.op with
  | .mem k f => some (k, f)
  | .occq .. => some (.ld, occqForm)
  | _ => none

/-- Size and count of the elements of an access, each an access of its own (R188, R194, R217); a fragment's are its eight
words. -/
def MemKind.elems (k : MemKind) (f : MForm) : Nat × Nat :=
  match k with
  | .lds => if MForm.frag f then (4, 8) else (MForm.size f, MForm.count f)
  | .atom | .atoms => (MForm.size f, 1)
  | _ => (MForm.size f, MForm.count f)

/-- Whether a load reads one location for all its lanes (R192). -/
def MemKind.shared (k : MemKind) (f : MForm) : Bool := (k == .ld || (k == .lds && !MForm.frag f)) && isS f.a

/-- Whether an instruction is a load. -/
def MemKind.load (k : MemKind) : Bool :=
  match k with
  | .ld | .sld | .lds => true
  | _ => false

/-- Whether an element of a load has neither a value nor a refusal. -/
def Pending.elemOpen (p : Pending) (key : Nat) : Bool :=
  (Table.get? p.got key).isNone && (Table.get? p.fails (key / 8)).isNone

/-- The elements of lanes, each by its key (8 × lane + element) and its address. -/
def elemsAt (k : MemKind) (f : MForm) (lanes : Table Nat) : List (Nat × Nat) :=
  let e := k.elems f
  lanes.flatMap fun x => (List.range e.2).map fun j => (8 * x.1 + j, x.2 + e.1 * j)

/-- The lanes whose elements a load reads: one for all where it reads one location. -/
def Pending.readers (p : Pending) (k : MemKind) (f : MForm) : Table Nat :=
  if k.shared f then p.addrs.take 1 else p.addrs

/-- The elements that a load has still to take. -/
def Pending.openElems (p : Pending) (k : MemKind) (f : MForm) : List (Nat × Nat) :=
  (elemsAt k f (p.readers k f)).filter fun x => p.elemOpen x.1

/-- Lanes of a load that lack a value and have not been refused, of a store whose line has not performed, and of any other
instruction that have not performed. -/
def Pending.open_ (p : Pending) (k : MemKind) (f : MForm) : Table Nat :=
  match k with
  | .st => p.addrs.filter fun x => !p.done.contains (x.2 / 128)
  | .ld | .sld | .lds => p.addrs.filter fun x => (elemsAt k f [x]).any fun e => p.elemOpen e.1
  | .sts => p.addrs.filter fun x => (elemsAt k f [x]).any fun e => !p.done.contains e.1
  | .atom | .atoms => p.addrs.filter fun x => !p.done.contains x.1
  | _ => p.addrs

/-- The count of 64 KiB units of a WORESET (R209). -/
def Pending.units (p : Pending) : Nat := ((Table.getD p.data 0 []).headD 0).toNat

/-- The bytes that an entry has still to read or write, as first address and length. -/
def Pending.openSpans (p : Pending) (k : MemKind) (f : MForm) : List (Nat × Nat) :=
  if k.load then (p.openElems k f).map fun x => (x.2, (k.elems f).1)
  else if k == .woreset then p.addrs.map fun (x : Nat × Nat) => (x.2, 65536 * p.units)
  else (p.open_ k f).map fun x => (x.2, k.bytes f)

/-- The jump-table entries that sub-gangs of a gang read (R114), as loads in issue order. -/
def Gang.tableReads (g : Gang) : List Pending :=
  g.subs.filterMap fun b =>
    match b.park with
    | .jumpTable id _ _ _ _ base entries act =>
      some { id := id, ctr := .ldc, word := 0, pc := b.pc.setWidth 56, sub := b.id, lanes := act, live := act, vdst := [],
             sdst := [], pdst := none, addrs := entries.map fun (x : Nat × Nat) => (x.1, (base + 8 * x.2) % 2 ^ 64), data := [],
             got := [], firm := [], done := [], fails := [], passed := false, sent := true, st := .pending, out := Out.none,
             op := .mem .ld tableForm }
    | _ => none

/-- Accesses of the gang issued before one, in issue order. -/
def Gang.earlier (g : Gang) (p : Pending) : List Pending :=
  (g.pending ++ g.tableReads).filter fun q => decide (q.id < p.id)

/-- Who runs an entry: its core, gang slot, gang, team and grid. -/
structure Runner where
  core : Nat
  slot : Nat
  gang : Gang
  team : Team
  grid : Grid
  deriving DecidableEq, Repr

/-- The gang, team and grid in a slot of a core. -/
def State.runner? (s : State) (core slot : Nat) : Option Runner :=
  match s.gang? core slot with
  | none => none
  | some g =>
    match s.team? core g.team with
    | none => none
    | some t => (s.grid? t.grid).map fun gr => { core := core, slot := slot, gang := g, team := t, grid := gr }

end Sys2Proof.Machine
end

