-- ==== Sys2Proof/Machine/Lines.lean ====
section
/-! DEFINITION. Cached lines (R304 to R319): the bytes an agent reads, the writes at the home, the directory and its
transactions, fills, evictions and the events of the home. -/

namespace Sys2Proof.Machine

/-! ### Bytes of a line -/

/-- A list with bytes replaced from an offset. -/
def patch (data : List Byte) (off : Nat) (bs : List Byte) : List Byte :=
  data.take off ++ bs ++ data.drop (off + bs.length)

/-- The home's bytes of a line: the L2's, or memory's. -/
def State.homeData (s : State) (tag line pline : Nat) : List Byte :=
  match s.l2? tag line pline with
  | some x => x.data
  | none => Memory.readN s.mem.hbm (128 * pline) 128

/-- Whether an L1 state is tracked by the directory (R310). -/
def L1St.tracked : L1St → Bool
  | .s | .e | .m | .o => true
  | _ => false

/-- The core that holds a line dirty under the directory, with its copy. -/
def State.dirtyOwner (s : State) (tag line : Nat) : Option (Nat × L1Line) :=
  s.cores.findSome? fun (k : Nat × Core) =>
    match k.2.l1? tag line with
    | some x => if x.st == .m || x.st == .o then some (k.1, x) else none
    | none => none

/-- The value of a line that has performed: the dirty owner's bytes, or the home's (R219, R311). -/
def State.coherentData (s : State) (tag line pline : Nat) : List Byte :=
  match s.dirtyOwner tag line with
  | some (_, x) => x.data
  | none => s.homeData tag line pline

/-- A core's own L1 copy of a line; a heap line has none (R337). -/
def State.ownL1 (s : State) (core : Nat) (l : Ln) : Option L1Line :=
  if s.l1On core && !l.heap then (s.core core).l1? l.tag l.line else none

/-! ### Changing copies -/

/-- The L2's copy of a line changed. -/
def State.modL2 (s : State) (tag line pline : Nat) (f : L2Line → L2Line) : State :=
  let key := if s.boot.memSide then (physAsid, pline) else (tag, line)
  let one := fun (x : L2Line) => if x.tag == key.1 && x.line == key.2 then f x else x
  s.modMem fun m => { m with l2 := m.l2.map one }

/-- A core's L1 copy of a line changed. -/
def State.modL1 (s : State) (core tag line : Nat) (f : L1Line → L1Line) : State :=
  let one := fun (x : L1Line) => if x.tag == tag && x.line == line then f x else x
  s.modCore core fun k => { k with l1 := k.l1.map one }

/-- A core's L1 copy of a line added in place of any other. -/
def State.putL1 (s : State) (core : Nat) (x : L1Line) : State :=
  s.modCore core fun k =>
    { k with l1 := k.l1.filter (fun y => !(y.tag == x.tag && y.line == x.line)) ++ [x] }

/-- A core's L1 copy of a line removed, its bytes lost. -/
def State.delL1 (s : State) (core tag line : Nat) : State :=
  s.modCore core fun k => { k with l1 := k.l1.filter fun y => !(y.tag == tag && y.line == line) }

/-- A write to a watched line leaves a notice for the scheduler (R317). -/
def State.notify (s : State) (pline : Nat) : State :=
  if (s.lineMeta pline).watch then s.modMem fun m => { m with notices := insertNat pline m.notices } else s

/-- Bytes written at the home of a line (R219, R311). -/
def State.writeHome (s : State) (tag line pline off : Nat) (bs : List Byte) : State :=
  let s := match s.l2? tag line pline with
    | some _ => s.modL2 tag line pline fun x =>
        { x with
          data := patch x.data off bs
          dirty := true }
    | none => s.physWrite (128 * pline + off) bs
  s.notify pline

/-- A core's L1 copy of a line invalidated; a dirty copy goes to the home first, unless the line is lost (R313, R327). A
copy that an error made lost gives up its place in the directory alone, and is remembered until a CACHEOP invalidates it
(R175). -/
def State.dropL1 (s : State) (core tag line : Nat) : State :=
  match (s.core core).l1? tag line with
  | none => s
  | some x =>
    if x.lost then s.modL1 core tag line fun y => { y with st := .ip }
    else
      let s := s.delL1 core tag line
      if x.dirty && !(s.lineMeta x.pline).lost then s.writeHome tag line x.pline 0 x.data else s

/-- Every core's tracked copy of a line invalidated. -/
def State.dropTracked (s : State) (tag line : Nat) : State :=
  s.cores.foldl (fun s (k : Nat × Core) =>
    match k.2.l1? tag line with
    | some x => if x.st.tracked then s.dropL1 k.1 tag line else s
    | none => s) s

/-- Every core's copy of a line invalidated, tracked or not. -/
def State.dropAllL1 (s : State) (tag line : Nat) : State :=
  s.cores.foldl (fun s (k : Nat × Core) => s.dropL1 k.1 tag line) s

/-! ### The directory -/

/-- Cores of a coarse vector (R313). -/
def coarseCores (v : BitVec 64) : List Nat :=
  (List.range 64).flatMap fun c => if v.getLsbD c then (List.range 16).map fun k => 16 * c + k else []

/-- The cores that an entry's sharer field names (R312). -/
def DirEntry.sharers (d : DirEntry) : List Nat := if d.crs then coarseCores d.coarse else d.ptrs

/-- The cores that an invalidation probes (R313): all but the requester, which engine requests and atomics do not have. -/
def DirEntry.probes (d : DirEntry) (requester : Option Nat) : List Nat :=
  let base := match d.st with
    | .e | .m => [d.owner]
    | .o => insertNat d.owner d.sharers
    | .s => d.sharers
    | _ => []
  base.filter fun c => some c != requester

/-- A sharer added (R312). -/
def DirEntry.addSharer (d : DirEntry) (core : Nat) : DirEntry :=
  if d.crs then { d with coarse := d.coarse ||| BitVec.ofNat 64 (2 ^ clusterOf core) }
  else if d.ptrs.contains core then d
  else if d.ptrs.length < 4 then { d with ptrs := insertNat core d.ptrs }
  else
    { d with
      crs := true
      ptrs := []
      coarse := (insertNat core d.ptrs).foldl (fun (v : BitVec 64) c => v ||| BitVec.ofNat 64 (2 ^ clusterOf c)) 0 }

/-- A sharer's pointer removed; a coarse entry keeps its bits (R311, R314). -/
def DirEntry.dropSharer (d : DirEntry) (core : Nat) : DirEntry :=
  if d.crs then d
  else
    let ptrs := d.ptrs.filter fun c => c != core
    { d with
      ptrs := ptrs
      st := if d.st == .s && ptrs.isEmpty then .i else d.st }

/-- The entry when one core holds the line in E or M. -/
def DirEntry.owned (st : DirState) (core : Nat) : DirEntry := { DirEntry.empty with st := st, owner := core }

/-- The directory entry of a line: of its L2 copy. -/
def State.dir (s : State) (tag line pline : Nat) : DirEntry :=
  match s.l2? tag line pline with
  | some x => x.dir
  | none => DirEntry.empty

def State.setDir (s : State) (tag line pline : Nat) (d : DirEntry) : State :=
  s.modL2 tag line pline fun x => { x with dir := d }

/-- The home transaction in progress on a line. -/
def State.txn? (s : State) (tag line : Nat) : Option Txn :=
  s.mem.txns.find? fun t => t.tag == tag && t.line == line

/-- Whether a request to a line waits: a transaction is in progress, or an engine owns the line (R311, R316). -/
def State.lineBusy (s : State) (tag line pline : Nat) : Bool :=
  (s.txn? tag line).isSome || (s.dir tag line pline).st == .en

def State.openTxn (s : State) (t : Txn) : State := s.modMem fun m => { m with txns := m.txns ++ [t] }

def State.closeTxn (s : State) (tag line : Nat) : State :=
  s.modMem fun m => { m with txns := m.txns.filter fun t => !(t.tag == tag && t.line == line) }

/-! ### The L2: places, fills and evictions -/

/-- The home slice of a line, as 128 × die + slice (R305). -/
def homeSlice (tag line : Nat) : Nat :=
  let asid := tag % 2 ^ 16
  let f := fun hi lo => bitsOf line (hi - 7) (lo - 7)
  128 * f 27 26 + (f 13 7 ^^^ f 20 14 ^^^ f 25 21 ^^^ f 34 28 ^^^ f 41 35 ^^^ f 48 42 ^^^ f 55 49
    ^^^ bitsOf asid 6 0 ^^^ bitsOf asid 13 7 ^^^ bitsOf asid 15 14)

/-- The set of a line in its slice (R305). -/
def homeSet (tag line : Nat) : Nat := bitsOf line 14 7 ^^^ bitsOf tag 7 0

/-- The slice of a physical line in memory-side mode (R306, R309). -/
def physSlice (pline : Nat) : Nat :=
  let g := pline / (48 * 2 ^ 30 / 128)
  let l := pline % (48 * 2 ^ 30 / 128)
  128 * (g / 3 % 4) + (bitsOf l 6 0 ^^^ bitsOf l 13 7 ^^^ bitsOf l 20 14)

/-- Slice and set of a line; the set of a physical line is the model's choice (log entry 12). -/
def State.placeOf (s : State) (tag line pline : Nat) : Nat × Nat :=
  if s.boot.memSide then (physSlice pline, pline / 128 % 256) else (homeSlice tag line, homeSet tag line)

/-- The L2 loses a line: tracked L1 copies are invalidated first, and dirty bytes go to memory (R311). -/
def State.evictL2 (s : State) (x : L2Line) : State :=
  let s := if x.tag == physAsid then s else s.dropTracked x.tag x.line
  let now := (s.mem.l2.find? fun y => y.tag == x.tag && y.line == x.line).getD x
  let s := s.modMem fun m => { m with l2 := m.l2.filter fun y => !(y.tag == x.tag && y.line == x.line) }
  let s := if x.tag == heapTag || x.tag == physAsid then { s with pond := { s.pond with
      lineGuards := Table.del s.pond.lineGuards x.pline } } else s
  if now.dirty then s.physWrite (128 * now.pline) now.data else s

/-- The way mask that a fill uses: 0 acts as every way (R319). -/
def waysOf (m : BitVec 16) : List Nat := (List.range 16).filter fun w => m == 0 || m.getLsbD w

/-- The way that a fill takes: the lowest invalid one, else the least recently used not marked evict-last, else the
least recently used (R319). -/
def chooseWay (ways : List Nat) (set : List L2Line) : Option (Nat × Option L2Line) :=
  let inWay := fun w => set.find? fun x => x.way == w
  match ways.find? fun w => (inWay w).isNone with
  | some w => some (w, none)
  | none =>
    let lines := ways.filterMap inWay
    let pick := fun (l : List L2Line) => l.foldl (fun (b : Option L2Line) x => match b with
      | none => some x
      | some y => if x.used < y.used then some x else some y) none
    let best := match pick (lines.filter fun x => !x.evictLast) with
      | some x => some x
      | none => pick lines
    best.map fun x => (x.way, some x)

/-- The line marked most recently used. -/
def State.touchL2 (s : State) (tag line pline : Nat) : State :=
  let s := s.modMem fun m => { m with useClock := m.useClock + 1 }
  s.modL2 tag line pline fun x => { x with used := s.mem.useClock }

/-- A line that the L2 holds is the most recently used once an access has hit it (R319). -/
def State.touchLine (s : State) (l : Ln) : State :=
  if (s.l2? l.tag l.line l.pline).isSome then s.touchL2 l.tag l.line l.pline else s

/-- What a heap line that has been filled or written records (R338, R340): its tile's guard, and the outcome of the check for
every VM. -/
def State.recordGuard (s : State) (line pline : Nat) : State :=
  match s.heapPlace (128 * line) with
  | .tile pool index =>
    let g := s.guardOf pool index
    let judged := s.parts.foldl (fun (t : Table Bool) (p : Nat × Partition) => Table.put t p.2.vmid (s.guardPasses p.2.vmid g)) []
    { s with pond := { s.pond with lineGuards := Table.put s.pond.lineGuards pline { line := line, guard := g, judged := judged } } }
  | _ => s

/-- A line filled into the L2 by a partition with a way mask (R304, R319); none while its victim is busy. `hint` is
R190's. -/
def State.fillL2 (s : State) (l : Ln) (mask : BitVec 16) (hint : Nat) : Option State :=
  match s.l2? l.tag l.line l.pline with
  | some _ => some (s.touchL2 l.tag l.line l.pline)
  | none =>
    let (sl, set) := s.placeOf l.tag l.line l.pline
    match chooseWay (waysOf mask) (s.mem.l2.filter fun x => x.slice == sl && x.set == set) with
    | none => none
    | some (way, victim) =>
      let blocked := match victim with
        | some v => s.lineBusy v.tag v.line v.pline
        | none => false
      if blocked then none
      else
        let s := match victim with
          | some v => s.evictL2 v
          | none => s
        let s := s.modMem fun m => { m with useClock := m.useClock + 1 }
        let cold := hint == 2 || hint == 3
        let older := fun (x : L2Line) => if cold && x.slice == sl && x.set == set then { x with used := x.used + 1 } else x
        let key := if s.boot.memSide then (physAsid, l.pline) else (l.tag, l.line)
        let x : L2Line :=
          { tag := key.1, vmid := l.vmid, line := key.2, pline := l.pline, perms := l.perms, mask := mask,
            data := Memory.readN s.mem.hbm (128 * l.pline) 128, dirty := false, dir := DirEntry.empty, slice := sl,
            set := set, way := way, used := if cold then 0 else s.mem.useClock, evictLast := hint == 4, remote := false }
        let s := s.modMem fun m => { m with l2 := m.l2.map older ++ [x] }
        some (if l.heap then s.recordGuard l.line l.pline else s)

/-- The way mask of a VM's partition. -/
def State.maskOfVm (s : State) (vmid : Nat) : BitVec 16 :=
  match s.partOfVm vmid with
  | some (_, p) => p.waymask
  | none => 0xFFFF

/-! ### Events of the home -/

/-- The VM of a core's partition. -/
def State.vmOfCore (s : State) (core : Nat) : Option Nat := (s.partOfCluster (clusterOf core)).map fun p => p.2.vmid

/-- An L1 copy as a fill makes it. -/
def Ln.l1Copy (l : Ln) (st : L1St) (data : List Byte) : L1Line :=
  { tag := l.tag, line := l.line, pline := l.pline, st := st, data := data, dirty := false, lost := false,
    perms := l.perms }

/-! ### Writes at the home (R201, R219, R311, R317) -/

/-- The words of a line's bytes. -/
def wordIn (data : List Byte) (va : Nat) : DWord := BitVec.ofNat 64 (leNat (slice data (va % 128 / 8 * 8) 8))
def lineWords (data : List Byte) : List DWord := (List.range 16).map fun j => wordIn data (8 * j)

/-- The words of a physical line before a write of it (R44): fetches may return them for as long as no `.iinv` and FENCE have
followed. -/
def State.noteStale (s : State) (pline : Nat) (ws : List DWord) : State :=
  if s.mem.stale.any fun x => x.pline == pline && x.words == ws && !x.inv then s
  else s.modMem fun m => { m with stale := m.stale ++ [{ pline := pline, words := ws, inv := false, fences := [] }] }

/-- A line about to be written: it may hold code, which a fetch need not see written (R44). -/
def State.staleCode (s : State) (l : Ln) : State :=
  s.noteStale l.pline (lineWords (s.coherentData l.tag l.line l.pline))

/-- Bytes written to a line at its home, by their offset: no L1 has a tracked copy any more, and the entry goes to I. -/
def State.writeAtHome (s : State) (l : Ln) (ws : List (Nat × List Byte)) : State :=
  let s := s.staleCode l
  let s := (s.dropTracked l.tag l.line).touchL2 l.tag l.line l.pline
  let s := ws.foldl (fun s w => s.writeHome l.tag l.line l.pline w.1 w.2) s
  s.setDir l.tag l.line l.pline DirEntry.empty

/-! ### Misses (R190, R208, R311) -/

/-- The hint under which an outstanding access misses a line in its L1: a load of it, a store that needs it in M, or on an IP
page a store or atomic, which performs in the owner's L1 alone (R190, R206). -/
def Pending.wants (p : Pending) (line : Nat) (attr : Attr) (write : Bool) : Option Nat :=
  match p.mem? with
  | none => none
  | some (k, f) =>
    let inL1 := attr == .ip && (k == .st || k == .atom)
    let kind := inL1 || (if write then attr != .ip && k == .st else k.load)
    if p.counted && kind && !k.scratch && (p.openSpans k f).any (fun x => x.1 / 128 == line) then
      some (if inL1 && f.hint == 1 then 0 else f.hint.toNat)
    else none

/-- Whether a request serves a PREF: one with `W` asks for ownership, which a WO or IP page does not know (R206, R208). -/
def Pref.fits (x : Pref) (asid line : Nat) (attr : Attr) (write : Bool) : Bool :=
  let tracked := attr == .sc || attr == .rc
  x.asid == asid && x.line == line && (x.w && tracked) == write

/-- Why a core asks the home for a line of its VM: the hint of the oldest access that misses it, or of a PREF. -/
def State.missHint (s : State) (core asid line : Nat) (attr : Attr) (write : Bool) : Option Nat :=
  let mine := fun (g : Gang) => match (s.team? core g.team).bind fun t => s.grid? t.grid with
    | some gr => gr.asid == asid && s.routedHere gr (128 * line)
    | none => false
  let asked := (s.core core).gangs.findSome? fun (g : Nat × Gang) =>
    if mine g.2 then (g.2.pending ++ g.2.tableReads).findSome? fun p => p.wants line attr write else none
  match asked with
  | some h => some h
  | none => ((s.core core).prefs.find? fun x => x.fits asid line attr write).map fun x => x.hint

/-- What a PREF asked for has come, or is dropped. -/
def State.dropPref (s : State) (core asid line : Nat) (attr : Attr) (write : Bool) : State :=
  s.modCore core fun k => { k with prefs := k.prefs.filter fun x => !x.fits asid line attr write }

/-- The PREFs of a line whose access would fault do nothing (R208). -/
def State.dropPrefs (s : State) (core asid line : Nat) : State :=
  s.modCore core fun k => { k with prefs := k.prefs.filter fun x => !(x.asid == asid && x.line == line) }

/-- The line that a GETS asks for: of a load, or of a store of an IP page's owner, which needs its line in the L1 (R206); true for
a store's. -/
def State.getsLine (s : State) (core vmid asid line : Nat) : Option (Ln × Bool) :=
  match s.access .load (some core) vmid asid (128 * line) 1 with
  | .ok l => some (l, false)
  | .error _ =>
    match s.access .store (some core) vmid asid (128 * line) 1 with
    | .ok l => if l.perms.attr == .ip then some (l, true) else none
    | .error _ => none

/-- Whether a core's L1 has no room for a line (R171): 32 KiB that the scratchpad does not take are 256 lines. A line that is
on its way in M has its place, and a lost copy holds none. -/
def State.l1Full (s : State) (core : Nat) : Bool :=
  let k := s.core core
  let coming := s.mem.txns.filter fun t => t.kind == .getm core
  decide ((8 - k.split) * 256 ≤ (k.l1.filter fun x => !x.lost).length + coming.length)

/-- The translation that an access made, kept (R203, R323): none where a cache held the line. -/
def State.keepFill (s : State) (l : Ln) (va : Nat) : State :=
  if l.fill.isSome then s.keepTlb l.vmid (l.tag % 2 ^ 20) va else s

/-! ### Events of the home -/

/-- GetS at the home (R311, R317): the data to the requester's L1, and the entry's new state. -/
def State.grantS (s : State) (core : Nat) (l : Ln) : State :=
  let data := s.coherentData l.tag l.line l.pline
  match l.perms.attr with
  | .wo => s.putL1 core (l.l1Copy .wo data)
  | .ip => s.putL1 core (l.l1Copy .ip data)
  | _ =>
    let d := s.dir l.tag l.line l.pline
    let watched := (s.lineMeta l.pline).watch
    match d.st with
    | .i =>
      if watched then
        (s.putL1 core (l.l1Copy .s data)).setDir l.tag l.line l.pline
          ({ DirEntry.empty with st := .s }.addSharer core)
      else (s.putL1 core (l.l1Copy .e data)).setDir l.tag l.line l.pline (DirEntry.owned .e core)
    | .e =>
      let s := s.modL1 d.owner l.tag l.line fun x => { x with st := .s }
      (s.putL1 core (l.l1Copy .s data)).setDir l.tag l.line l.pline
        (({ DirEntry.empty with st := .s }.addSharer d.owner).addSharer core)
    | .m =>
      let s := s.modL1 d.owner l.tag l.line fun x => { x with st := .o }
      (s.putL1 core (l.l1Copy .s data)).setDir l.tag l.line l.pline ({ d with st := .o }.addSharer core)
    | _ => (s.putL1 core (l.l1Copy .s data)).setDir l.tag l.line l.pline (d.addSharer core)

/-- GETS (R311): a load or PREF miss of a core, or its miss of a line of an IP page that it owns (R206), of its own VM's line
(R318). A heap line fills the L2 alone (R337), and so
does hint 1 (R190). -/
def execGets (core asid line : Nat) (s : State) : Host.Outcome State Fault Refusal :=
  match s.vmOfCore core with
  | none => .next s
  | some vmid =>
    match s.getsLine core vmid asid line with
    | none => .next (s.dropPrefs core asid line)
    | some (l, write) =>
      match s.missHint core asid line l.perms.attr write with
      | none => .next s
      | some hint =>
        let l2Only := l.heap || hint == 1 || !s.l1On core
        if s.lineBusy l.tag l.line l.pline || ((s.core core).l1? l.tag line).isSome || (!l2Only && s.l1Full core) then
          .next s
        else
          match (s.keepFill l (128 * line)).fillL2 l (s.maskOfVm vmid) hint with
          | none => .next s
          | some s =>
            let s := s.dropPref core asid line l.perms.attr write
            .next (if l2Only then s else s.grantS core l)

/-- The requester receives the line in M (R311, R312). -/
def State.grantM (s : State) (core : Nat) (l : Ln) : State :=
  let data := s.coherentData l.tag l.line l.pline
  let s := s.dropTracked l.tag l.line
  (s.putL1 core { l.l1Copy .m data with dirty := true }).setDir l.tag l.line l.pline (DirEntry.owned .m core)

/-- GETM (R311): a store miss, an upgrade or a PREF with `W`. Copies in S and O are invalidated through probes; a line
that the scheduler watches is never granted (R317). Hint 1 brings the line no closer than the L2 (R190), where the store
performs. -/
def execGetm (core asid line : Nat) (s : State) : Host.Outcome State Fault Refusal :=
  match s.vmOfCore core with
  | none => .next s
  | some vmid =>
    match s.access .store (some core) vmid asid (128 * line) 1 with
    | .error _ => .next (s.modCore core fun k => { k with prefs := k.prefs.filter fun x =>
        !(x.asid == asid && x.line == line && x.w) })
    | .ok l =>
      let tracked := l.perms.attr == .sc || l.perms.attr == .rc
      match s.missHint core asid line l.perms.attr true with
      | none => .next s
      | some hint =>
        let room := ((s.core core).l1? l.tag line).isSome || !s.l1Full core
        if s.lineBusy l.tag l.line l.pline || l.heap || !tracked || !s.l1On core || (s.lineMeta l.pline).watch
          || (hint != 1 && !room) then .next s
        else
          match (s.keepFill l (128 * line)).fillL2 l (s.maskOfVm vmid) hint with
          | none => .next s
          | some s =>
            let s := s.dropPref core asid line l.perms.attr true
            let d := s.dir l.tag l.line l.pline
            let waiting := if d.st == .s || d.st == .o then d.probes (some core) else []
            if hint == 1 then .next s
            else if waiting.isEmpty then .next (s.grantM core l)
            else .next (s.openTxn { tag := l.tag, line := line, kind := .getm core, waiting := waiting })

/-- A clean copy leaves an L1 (R311, R314). During a fan-out on the line the home drops the message, and the core's
acknowledgement still counts. -/
def State.putClean (s : State) (core tag line : Nat) (x : L1Line) : State :=
  let s' := s.delL1 core tag line
  if !x.st.tracked || (s.txn? tag line).isSome then s'
  else
    let d := s'.dir tag line x.pline
    s'.setDir tag line x.pline (if d.st == .e && d.owner == core then DirEntry.empty else d.dropSharer core)

/-- A dirty copy leaves an L1, and its bytes go to the home unless they are lost (R175, R311, R314). -/
def State.putDirty (s : State) (core tag line : Nat) (x : L1Line) : State :=
  let s' := s.delL1 core tag line
  let s' := if x.lost then s' else s'.writeHome tag line x.pline 0 x.data
  if !x.st.tracked then s'
  else
    let d := s'.dir tag line x.pline
    s'.setDir tag line x.pline (if d.st == .o then { d with st := .s, owner := 0 } else DirEntry.empty)

/-- Whether a copy leaves as a dirty one. -/
def L1Line.leavesDirty (x : L1Line) : Bool := x.dirty || x.st == .m || x.st == .o

/-- A copy leaves an L1. A lost one gives up its place alone: the core remembers it until a CACHEOP invalidates it (R175). -/
def State.putLine (s : State) (core : Nat) (x : L1Line) : State :=
  let t := if x.leavesDirty then s.putDirty core x.tag x.line x else s.putClean core x.tag x.line x
  if x.lost then t.putL1 core { x with st := .ip } else t

/-- PUTS_PUTE (R311, R314). -/
def execPutsPute (core tag line : Nat) (s : State) : Host.Outcome State Fault Refusal :=
  match (s.core core).l1? tag line with
  | none => .next s
  | some x => .next (if x.leavesDirty then s else s.putClean core tag line x)

/-- PUTM_PUTO (R311, R314). A lost copy stays until a CACHEOP invalidates it (R175). -/
def execPutmPuto (core tag line : Nat) (s : State) : Host.Outcome State Fault Refusal :=
  match (s.core core).l1? tag line with
  | none => .next s
  | some x => .next (if x.leavesDirty && !x.lost then s.putDirty core tag line x else s)

/-- L2_EVICT_RECALL (R311). A line with a transaction in progress, or owned by an engine, stays. -/
def execL2EvictRecall (tag line : Nat) (s : State) : Host.Outcome State Fault Refusal :=
  match s.mem.l2.find? fun x => x.tag == tag && x.line == line with
  | none => .next s
  | some x => .next (if s.lineBusy x.tag x.line x.pline then s else s.evictL2 x)

/-- The kinds of access to a page, by core or engine (R322). -/
def allAccs : List Acc := [.load, .store, .atomic, .woreset, .fetch, .engineRead, .windowRead, .engineWrite]

/-- TRANSLATION_WALK (R321, R323): a walk fills the TLB where some kind of access passes its permission and frame checks, or
records a malformed entry. No failed walk fills. -/
def execTranslationWalk (vmid asid page : Nat) (s : State) : Host.Outcome State Fault Refusal :=
  if (s.tlb? vmid asid page).isSome then .next s
  else
    match s.walk vmid asid (65536 * page), s.translate vmid asid (65536 * page) with
    | .leaf .., .ok x =>
      let passes := fun (k : Acc) => x.perms.permitsOn k x.frame && (x.bits.fault k).isNone
      .next (if allAccs.any passes then s.keepTlb vmid asid (65536 * page) else s)
    | w, _ => .next (s.recordWalk asid (65536 * page) w)

end Sys2Proof.Machine
end

