-- ==== Sys2Proof/Machine/MemOrder.lean ====
section
/-! DEFINITION. When a memory access may perform or take its value (R195 to R199, R203, R206, R218, R221 to R225, R419): the
checks of every lane, the orders within a gang, the scopes of these orders, and what completing an acquire does. -/

namespace Sys2Proof.Machine

/-- Whether an entry asks an engine to read or write memory (R221). -/
def Pending.engineRequest (p : Pending) : Bool :=
  match p.op with
  | .request _ => true
  | .prim _ => true
  | .rayq .. => true
  | .txreq _ => true
  | .queue .. => true
  | _ => false

/-- Whether two byte ranges meet. -/
def rangesMeet (x y : Nat × Nat) : Bool := decide (x.1 < y.1 + y.2) && decide (y.1 < x.1 + x.2)

/-! ### The checks of R203 -/

/-- What an access of a kind of instruction does. -/
def MemKind.acc : MemKind → Acc
  | .st => .store
  | .atom => .atomic
  | .woreset => .woreset
  | _ => .load

/-- The check of one local access: the line it reaches, or its code. An address above the 56-bit space is on no page. -/
def State.accessOf (s : State) (r : Runner) (k : MemKind) (va n : Nat) : Except Code Ln :=
  if 2 ^ 56 ≤ va then .error .pageNotPresent else s.access k.acc (some r.core) r.grid.vmid r.grid.asid va n

/-- The code that stops a lane's access: none for an access that passes and for a remote address, which its target
checks (R415, R416). -/
def State.laneCode (s : State) (r : Runner) (k : MemKind) (va n : Nat) : Option Code :=
  match s.route r.grid va with
  | .remote .. => none
  | .reduce .. => some .pageProtection
  | _ =>
    match s.accessOf r k va n with
    | .ok _ => none
    | .error c => some c

/-- The first unit of a WORESET that fails here, looking at `n` units from an address (R209); a target checks its own (R416). -/
def State.firstBadUnit (s : State) (r : Runner) : Nat → Nat → Option (Nat × Code)
  | 0, _ => none
  | n + 1, va =>
    match s.laneCode r .woreset va 1 with
    | some c => some (va, c)
    | none => s.firstBadUnit r n (va + 65536)

/-- The failing lanes of an entry, with address and code. Lanes that have performed, or have their value, are done; the lanes
of an ATOMS that has begun have all passed (R202). -/
def State.laneFaults (s : State) (r : Runner) (p : Pending) : List (Nat × Nat × Code) :=
  match p.mem? with
  | none => []
  | some (k, f) =>
    match k with
    | .fence | .sts | .fec => []
    | .lds | .atoms =>
      if p.passed then []
      else
        p.addrs.filterMap fun x =>
          if r.team.meetsPoison x.2 (k.bytes f) then some (x.1, x.2, .fePoison) else none
    | .woreset =>
      p.addrs.filterMap fun x =>
        (s.firstBadUnit r p.units x.2).map fun y => (x.1, y.1, y.2)
    | _ => (p.open_ k f).filterMap fun x => (s.laneCode r k x.2 (k.bytes f)).map fun c => (x.1, x.2, c)

/-- The translations that an entry's local lanes made, kept (R321, R323). -/
def State.fillTlb (s : State) (r : Runner) (p : Pending) : State :=
  match p.mem? with
  | none => s
  | some (k, f) =>
    p.addrs.foldl (fun s x =>
      match s.route r.grid x.2, s.accessOf r k x.2 (k.bytes f) with
      | .remote .., _ => s
      | .reduce .., _ => s
      | _, .ok l => s.keepFill l x.2
      | _, .error _ => s) s

/-- An entry has passed its checks. -/
def State.markPassed (s : State) (r : Runner) (p : Pending) : State :=
  (s.fillTlb r p).modGang r.core r.slot fun g => g.modPending p.id fun q => { q with passed := true }

/-- Whether an entry may go on: nothing has failed, now or before. -/
def State.passes (s : State) (r : Runner) (p : Pending) : Bool := p.st == .pending && (s.laneFaults r p).isEmpty

/-- Whether an entry has not reported a fault. -/
def Pending.going (p : Pending) : Bool :=
  match p.st with
  | .pending | .failing .. => true
  | _ => false

/-- Whether an address of an entry lies in another rank's window (R414). -/
def State.isRemote (s : State) (r : Runner) (va : Nat) : Bool :=
  match s.route r.grid va with
  | .remote .. => true
  | _ => false

/-- The codes that a lane's remote access ends with (R215). -/
def remoteCode : Code → Bool
  | .remoteFault | .remoteTimeout | .linkDown => true
  | _ => false

/-- Whether lanes of an entry may perform (R203, R416): every local lane has passed its checks, or all of them are remote.
Remote lanes that were refused hold no other lane back. -/
def State.mayGo (s : State) (r : Runner) (p : Pending) (lanes : Table Nat) : Bool :=
  let remote := lanes.all fun x => s.isRemote r x.2
  match p.st with
  | .pending => remote || (s.laneFaults r p).isEmpty
  | .failing code .. => remote || (remoteCode code && (s.laneFaults r p).isEmpty)
  | _ => false

/-! ### Page attributes of an entry -/

/-- The attribute of the page that a local access reaches, whatever its checks say; none where it has no translation. -/
def State.attrAt (s : State) (r : Runner) (va : Nat) : Option Attr :=
  let heap := s.inHeap va
  if 2 ^ 56 ≤ va then none
  else
    match s.lineAt (some r.core) (if heap then 0xFF else r.grid.vmid) (if heap then heapAsid else r.grid.asid) va heap with
    | .ok l => some l.perms.attr
    | .error _ => none

/-- Whether an entry orders as an SC access: a lane of it lies on an SC page (R206), also while its check fails (R223). A
remote page gives no SC order here (R417). -/
def State.isSc (s : State) (r : Runner) (p : Pending) : Bool :=
  match p.mem? with
  | none => false
  | some (k, _) =>
    !k.scratch && k != .fence && k != .woreset
      && p.addrs.any fun x => !s.isRemote r x.2 && s.attrAt r x.2 == some .sc

/-- Whether an earlier entry may turn out to be an SC access: a lane of it has no translation yet. -/
def State.maySc (s : State) (r : Runner) (p : Pending) : Bool :=
  s.isSc r p || (match p.mem? with
    | some (k, _) => !k.scratch && k != .fence && p.addrs.any fun x => !s.isRemote r x.2 && s.attrAt r x.2 == none
    | none => false)

/-! ### What has finished -/

/-- A load, or an atomic that returns a value. -/
def isReadEntry (k : MemKind) (f : MForm) : Bool :=
  match k with
  | .ld | .sld | .lds => true
  | .atom | .atoms => MForm.ret f
  | _ => false

/-- A store, an atomic, a WORESET or a granule change. -/
def isWriteEntry (k : MemKind) : Bool :=
  match k with
  | .st | .sts | .atom | .atoms | .fec | .woreset => true
  | _ => false

/-- An entry of the store queue (R195). -/
def inStoreQueue (k : MemKind) : Bool :=
  match k with
  | .st | .atom | .woreset => true
  | _ => false

/-- Whether a request of an entry is still unanswered, in a lane if one is named. -/
def State.awaits (s : State) (core slot id : Nat) (lane : Option Nat) : Bool :=
  s.fabric.out.any fun (x : Nat × Outgoing) =>
    match x.2.waiter with
    | .gang c g i l => c == core && g == slot && i == id && (lane.isNone || lane == some l)
    | _ => false

/-- Whether every part of a memory instruction has taken its value or performed (R221): what then still stands on its counter
is its delivery alone. -/
def State.over (s : State) (r : Runner) (q : Pending) : Bool :=
  q.st == .pending && (match q.mem? with
    | some (k, f) =>
      !q.addrs.isEmpty && (q.open_ k f).isEmpty && k != .fec && !s.awaits r.core r.slot q.id none
    | none => false)

/-! ### Scopes (R218, R222) -/

/-- Who reads or writes memory in its own order (R216). -/
inductive Agent where
  | gang (core team slot : Nat)
  | clusterEngine (cluster : Nat)
  | dieEngine (die : Nat)
  | scheduler
  | outside
  deriving DecidableEq, Repr

/-- The cluster and die where an agent stands, if it stands in one (R216). -/
def Agent.cluster : Agent → Option Nat
  | .gang core _ _ => some (clusterOf core)
  | .clusterEngine c => some c
  | _ => none
def Agent.die : Agent → Option Nat
  | .gang core _ _ => some (dieOf core)
  | .clusterEngine c => some (c / 16)
  | .dieEngine d => some d
  | .scheduler => some 0
  | .outside => none

/-- Whether an agent lies within a scope of an access by a gang (R218). -/
def inScope (core team slot scope : Nat) (a : Agent) : Bool :=
  match scope with
  | 0 => a == .gang core team slot
  | 1 => (match a with
    | .gang c t _ => c == core && t == team
    | _ => false)
  | 2 => a.cluster == some (clusterOf core)
  | 3 => a.die == some (dieOf core)
  | 4 => a != .outside
  | _ => true

/-- The gang that runs an entry, as an agent. -/
def Runner.agent (r : Runner) : Agent := .gang r.core r.gang.team r.slot

/-- Whether a hold still stands: an entry that its access went ahead of has not finished (R222). -/
def State.holdStands (s : State) (h : Hold) : Bool :=
  match s.runner? h.core h.gang with
  | none => false
  | some r => r.gang.pending.any fun q => h.ahead.contains q.id && !s.over r q

/-- Whether an access of an agent to a line must wait for a hold (R222): it would read what the hold's access wrote, or write
what the hold's access read or wrote. -/
def State.held (s : State) (a : Agent) (tag line : Nat) (write : Bool) : Bool :=
  s.mem.holds.any fun h =>
    h.tag == tag && h.line == line && (h.wrote || write)
    && (match s.gang? h.core h.gang with
        | some g => inScope h.core g.team h.gang h.scope a
        | none => false)
    && s.holdStands h

/-- Whether an access of a gang that went ahead of others is still held. -/
def State.heldOwn (s : State) (r : Runner) (id : Nat) : Bool :=
  s.mem.holds.any fun h => h.core == r.core && h.gang == r.slot && h.id == id && s.holdStands h

/-- Whether an entry has finished: it is over, and nothing that it went ahead of is left (R221). -/
def State.finished (s : State) (r : Runner) (q : Pending) : Bool := s.over r q && !s.heldOwn r q.id

/-! ### Orders within the gang (R195 to R199, R206, R221) -/

/-- The scope of an entry's orders (R218): as encoded, or the system's where a lane of it is remote (R416). -/
def State.scopeOf (s : State) (r : Runner) (p : Pending) (f : MForm) : Nat :=
  if p.addrs.any fun x => s.isRemote r x.2 then 5 else f.scope.toNat

/-- The scope at which a request is a release, if it is one: a CPY with `REL` and an arrival in the cluster (R231, R279), what
acts on the Millpond in the package (R349, R356), a SPURACC in the team (R254), the system requests everywhere (R328). -/
def Request.scope : Request → Option Nat
  | .cpy _ _ rel => if rel then some 2 else none
  | .arrive .. => some 2
  | .txfill .. => some 4
  | .txinvKey .. => some 4
  | .txinvInfl .. => some 4
  | .attrset .. => some 5
  | .tlbshoot .. => some 5
  | .cacheop .. => some 5
  | .spuracc => some 1

/-- Whether an entry is a release, and at which scope (R195, R221). -/
def State.release (s : State) (r : Runner) (p : Pending) : Option Nat :=
  match p.op with
  | .mem k f => if isWriteEntry k && MForm.rel f then some (s.scopeOf r p f) else none
  | .request q => q.scope
  | _ => none

/-- The engine that an entry's request of a core reaches, as the scope that a FENCE must have to order the gang's stores before it
(R231): a cluster's for its Leat, Spur, barriers and Weir, a die's for the Millpond, and for the queues the die's where the
scheduler stands, else the package's (R216). -/
def Pending.engineScope (core : Nat) (p : Pending) : Nat :=
  match p.op with
  | .request (.txfill ..) => 3
  | .request (.txinvKey ..) => 3
  | .request (.txinvInfl ..) => 3
  | .txreq _ => 3
  | .queue .. => if dieOf core == 0 then 3 else 4
  | _ => 2

/-- Whether two entries of one address space touch a common byte in what is still open, such that the later one must wait
(R195, R196, R199, R221, R223): it writes, or both read, or the earlier one is no store whose bytes it may take. The bytes of
a store to a WO page are not taken before its claims stand (R207, R223). A load does not wait for a faulted one: it is held
with it once it has taken a value (R203). Two points that the spec leaves open are the model's: which of the entries before
the report of a fault its handler's loads wait for (`State.before`, log entry 16), and that a look-up behind a faulted store
is a report point (`State.lookupStuck`, log entry 60). -/
def State.byteOrder (s : State) (r : Runner) (q p : Pending) (spans : List (Nat × Nat)) : Bool :=
  match q.mem?, p.mem? with
  | some (kq, fq), some (kp, _) =>
    let meets := fun (y : Nat × Nat) => spans.any (rangesMeet y)
    let meet := (q.openSpans kq fq).any meets
    let remote := q.addrs.any fun y => s.isRemote r y.2 && meets (y.2, kq.bytes fq)
    let claims := (q.openSpans kq fq).any fun y => meets y && s.attrAt r y.1 == some .wo
    if kq.scratch != kp.scratch || kq == .fence || kp == .fence then false
    else if kp.scratch then !s.over r q
    else if kp.load && kq == .st then meet && (remote || claims || !s.passes r q)
    else if kp.load && kq.load && q.answered then false
    else meet
  | _, _ => false

/-- What an earlier entry's orders toward every later access hold back (R221): an acquire that has not taken its value, the
acquire half of a FENCE, a read that is or may turn out to be an SC one, a barrier wait of the gang (R281), an ATTRSET (R232). The
answer is the scope of the order. -/
def State.acquireHolds (s : State) (r : Runner) (q : Pending) : Option Nat :=
  match q.mem?, q.op with
  | some (k, f), _ =>
    if s.finished r q then none
    else if (isReadEntry k f || k == .atom) && s.maySc r q then some 5
    else if (isReadEntry k f || (k == .fence && !q.passed)) && MForm.acq f then some (s.scopeOf r q f)
    else none
  | none, .barrier .. => some 2
  | none, .request (.arrive _ _ _ wait) => if wait then some 2 else none
  | none, .request (.attrset ..) => some 5
  | none, _ => none

/-- The release half of an earlier FENCE (R198): it holds back later writes, and requests to engines that its scope covers
(R231). The answer is its scope. -/
def fenceHolds (core : Nat) (q p : Pending) : Option Nat :=
  match q.mem? with
  | some (.fence, f) =>
    let covers := match p.mem? with
      | some (k, _) => isWriteEntry k
      | none => p.engineRequest && decide (p.engineScope core ≤ f.scope.toNat)
    if MForm.rel f && covers then some f.scope.toNat else none
  | _ => none

/-- Whether a release or a FENCE waits for an entry that has not finished: a memory instruction, or a request that has not
been carried out. -/
def State.unfinished (s : State) (r : Runner) (q : Pending) : Bool :=
  match q.op with
  | .mem .. | .occq .. => !s.finished r q
  | .request _ => true
  | _ => false

/-- Whether an entry writes the team's scratchpad when it arrives: a SPURACC orders it before itself (R254). -/
def Pending.writesScratch (q : Pending) : Bool :=
  match q.op with
  | .unit => opByte q.word == 0x83 || ((opByte q.word == 0x84 || opByte q.word == 0x88) && q.vdst.isEmpty)
  | .result => !q.out.mem.isEmpty
  | _ => false

/-- The orders of an SC access toward earlier ones (R206, R221). -/
def State.scWaits (s : State) (r : Runner) (q p : Pending) : Bool :=
  match q.mem?, p.mem? with
  | some (kq, _), some (kp, _) =>
    s.isSc r p && kq != .fence && !kq.scratch && !s.finished r q && !(kq == .st && kp.load && !s.maySc r q)
  | _, _ => false

/-- R195: a store or atomic waits until an earlier entry of the queue has passed its checks. -/
def State.queueWaits (s : State) (r : Runner) (q p : Pending) : Bool :=
  match q.mem?, p.mem? with
  | some (kq, _), some (kp, _) => inStoreQueue kq && inStoreQueue kp && !s.passes r q
  | _, _ => false

/-- Whether an entry is an arrival at a barrier: no access, so that nothing which orders later accesses orders it (R217, R281). -/
def Pending.arrival (p : Pending) : Bool :=
  match p.op with
  | .request (.arrive ..) => true
  | _ => false

/-- The orders of R221 that a scope narrows: of an earlier entry that acquires, of a FENCE, and of a release, with their
scopes. Scope 0 orders nothing that another agent could see (log entry 59). -/
def State.scopedOrders (s : State) (r : Runner) (q p : Pending) : List Nat :=
  let acq := if p.arrival then none else s.acquireHolds r q
  let rel := match s.release r p with
    | some n => if s.unfinished r q then [n] else []
    | none => []
  (acq.toList ++ (fenceHolds r.core q p).toList ++ rel).filter fun n => n != 0

/-- A release of any scope performs ahead of no earlier entry that has faulted, or that is held with one that has (R211). -/
def State.faultHolds (s : State) (r : Runner) (q p : Pending) : Bool := (s.release r p).isSome && q.st != .pending

/-- Whether an earlier entry holds a later one back whatever the scopes: by an order of system scope, the store queue, a
common byte, a fault before a release, or a scratchpad write before a SPURACC. -/
def State.strictOrder (s : State) (r : Runner) (q p : Pending) (spans : List (Nat × Nat)) : Bool :=
  (s.scopedOrders r q p).contains 5 || s.scWaits r q p || s.queueWaits r q p || s.byteOrder r q p spans
  || s.faultHolds r q p || (p.op == .request .spuracc && q.writesScratch)

/-- Whether an earlier entry holds a later one back, in the bytes of it that are named. -/
def State.blocks (s : State) (r : Runner) (q p : Pending) (spans : List (Nat × Nat)) : Bool :=
  s.strictOrder r q p spans || !(s.scopedOrders r q p).isEmpty

/-- The bytes that an entry has left to do. -/
def Pending.rest (p : Pending) : List (Nat × Nat) :=
  match p.mem? with
  | some (k, f) => p.openSpans k f
  | none => []

/-- The entries that cannot complete before one that a test picks is disposed: a load held with it, and whatever an earlier such
entry holds back. -/
def State.stuckIds (s : State) (r : Runner) (root : Pending → Bool) : List Nat :=
  r.gang.pending.foldl (fun acc p =>
    let behind := match p.st with
      | .behind _ => true
      | _ => false
    let waits := r.gang.pending.any fun q =>
      decide (q.id < p.id) && (root q || acc.contains q.id)
        && (s.blocks r q p p.rest || (p.mem?.any (fun x => x.1 == .fence) && s.unfinished r q))
    if !root p && (behind || waits) then acc ++ [p.id] else acc) []

/-- The entries that an entry may have to wait for. What the handler of a deferred fault issues does not wait for that fault, nor
for what is stuck behind it, but for the store queue's order and for a release's (DESIGN CHOICE, log entry 16). -/
def State.before (s : State) (r : Runner) (p : Pending) : List Pending :=
  let all := r.gang.earlier p
  if r.gang.handling p && (s.release r p).isNone then
    let queued := fun (q : Pending) => match q.mem? with
      | some (k, _) => inStoreQueue k
      | none => false
    let stuck := s.stuckIds r Pending.destFaulted
    all.filter fun q => (queued q && queued p) || !(q.destFaulted || stuck.contains q.id)
  else all

/-- Whether an entry must wait for an earlier one. -/
def State.blocked (s : State) (r : Runner) (p : Pending) (spans : List (Nat × Nat)) : Bool :=
  (s.before r p).any fun q => s.blocks r q p spans

/-! ### Going ahead of a narrower order (R218, R222) -/

/-- Whether nothing of an entry can fail or leave the device. -/
def State.calm (s : State) (r : Runner) (q : Pending) : Bool :=
  match q.mem? with
  | some _ => s.passes r q && q.addrs.all fun x => !s.isRemote r x.2
  | none => true

/-- Whether an entry of a gang touches a line of its address space in what it has left. -/
def Runner.touches (r : Runner) (q : Pending) (tag line : Nat) : Bool :=
  tagOf r.grid.vmid r.grid.asid == tag && q.rest.any fun x => rangesMeet x (128 * line, 128)

/-- Whether two gangs would wait for each other's holds: a gang with a hold waits for this line, or an entry that would be
overtaken waits for a held line. -/
def State.crosses (s : State) (r : Runner) (tag line : Nat) (ahead : List Pending) : Bool :=
  s.mem.holds.any fun h =>
    s.holdStands h && !(h.core == r.core && h.gang == r.slot)
    && (ahead.any (fun q => r.touches q h.tag h.line)
        || (match s.runner? h.core h.gang with
            | some r' => r'.gang.pending.any fun q => decide (q.id < h.id) && !s.over r' q && r'.touches q tag line
            | none => false))

/-- The entries and the scope of what a local load, store or lane of an atomic may go ahead of: none where it must wait, an
empty list where nothing holds it back (R222: an outcome whose cycle leaves a scope is not forbidden). It goes ahead of orders
narrower than the system's alone, where no earlier access of the gang can fail. -/
def State.gate (s : State) (r : Runner) (p : Pending) (spans : List (Nat × Nat)) (tag line : Nat) : Option (List Nat × Nat) :=
  let before := s.before r p
  if !s.blocked r p spans then some ([], 0)
  else if before.any fun q => s.strictOrder r q p spans then none
  else
    let passed := before.filter fun q => !(s.scopedOrders r q p).isEmpty
    let left := before.filter fun q => s.unfinished r q || !(s.scopedOrders r q p).isEmpty
    let scope := (passed.flatMap fun q => s.scopedOrders r q p).foldl max 0
    if s.isSc r p || !before.all (s.calm r) || s.crosses r tag line left then none
    else some (left.map fun q => q.id, scope)

/-- The hold of an access that goes ahead (R222); nothing where it went ahead of nothing. Holds that no longer stand are
dropped. -/
def State.addHold (s : State) (r : Runner) (p : Pending) (tag line : Nat) (wrote : Bool) (g : List Nat × Nat) : State :=
  if g.1.isEmpty then s
  else
    let other := fun (h : Hold) => !(h.core == r.core && h.gang == r.slot && h.id == p.id && h.tag == tag && h.line == line)
    s.modMem fun m => { m with holds := (m.holds.filter fun h => s.holdStands h && other h) ++
      [{ tag := tag, line := line, core := r.core, gang := r.slot, id := p.id, wrote := wrote, scope := g.2, ahead := g.1 }] }

/-! ### Held entries (R49, R203) -/

/-- The entries held behind a faulted access that has not been reported (R49, R203): a load held with it, and whatever
cannot complete before it. -/
def State.heldIds (s : State) (r : Runner) : List Nat := s.stuckIds r Pending.unreported

/-- Whether a counter counts nothing that is not held (R49). -/
def State.onlyHeld (s : State) (r : Runner) (k : Ctr) : Bool :=
  let held := s.heldIds r
  r.gang.pending.all fun p => p.ctr != k || !p.counted || held.contains p.id

/-- Every earlier entry of the store queue marked as passed, as R195 has it when a later one performs. -/
def State.passEarlier (s : State) (r : Runner) (p : Pending) : State :=
  (r.gang.earlier p).foldl (fun s q =>
    match q.mem? with
    | some (k, _) => if inStoreQueue k && !q.passed then s.markPassed r q else s
    | none => s) s

/-! ### Acquires (R197, R206, R227, R418) -/

/-- Of the requests that are outstanding, those that a test picks bring no copy to keep: what their replies carry may be older
than what has happened since (R418). -/
def State.keepNoCopy (s : State) (test : Outgoing → Bool) : State :=
  let one := fun (o : Outgoing) => if test o then { o with keep := false } else o
  { s with fabric := { s.fabric with out := s.fabric.out.map fun x => (x.1, one x.2) } }

/-- An acquire takes effect (R227, R418): wider than team scope it drops the core's copies of WO lines, at system scope
the copies of other devices' lines too. -/
def State.acquired (s : State) (r : Runner) (scope : Nat) : State :=
  if scope < 2 then s
  else
    let keep := fun (x : L1Line) => x.st != .wo && !(x.st == .remote && scope == 5)
    let s := s.modCore r.core fun k => { k with l1 := k.l1.filter keep }
    if scope == 5 then
      (s.modMem fun m => { m with l2 := m.l2.filter fun x => !(x.tag == remoteTag (tagOf r.grid.vmid r.grid.asid)) }).keepNoCopy
        fun o => o.asid == r.grid.asid
    else s

/-- What an entry whose value is taken does as an acquire: by its `ORD`, as an SC access (R206, R227), and at system scope
where a lane of it read another device's memory (R416). -/
def State.acquireOf (s : State) (r : Runner) (p : Pending) : State :=
  match p.mem? with
  | none => s
  | some (k, f) =>
    if s.isSc r p then s.acquired r 5
    else if MForm.acq f && (isReadEntry k f || k == .fence) then s.acquired r (s.scopeOf r p f)
    else s

/-- An entry just changed: an acquire takes effect when the last of its values has been taken (R197). -/
def State.afterTake (s : State) (r : Runner) (id : Nat) : State :=
  match (s.gang? r.core r.slot).bind fun g => g.pending? id with
  | some q => if s.over r q then s.acquireOf r q else s
  | none => s

end Sys2Proof.Machine
end

