-- ==== Sys2Proof/Machine/Sfu.lean ====
section
/-! DEFINITION. The special functions (R90, R150). VRCP, VRSQ, VSQRT and VDIV round an exact quotient or root. VEXP2, VLOG2,
VSINPI and VCOSPI round an irrational value found to more than 300 bits, with a bit below it that stands for the rest:
exact rounding of every operand, unless a value lies within 2^−300 of the middle of two neighbours (log entry 9). -/

namespace Sys2Proof.Machine

/-- Fraction bits of the fixed-point values here. -/
def fixP : Nat := 320

/-- 1 in fixed point. -/
def fixOne : Int := (2 : Int) ^ fixP

/-- A product in fixed point. -/
def fixMul (a b : Int) : Int := a * b / fixOne

/-- Σ term_k ÷ (2k + 1) with term_{k+1} = term_k × z2: the odd series of atanh, and with a negative z2 of atan. -/
def oddSeries (z2 : Int) : Nat → Nat → Int → Int → Int
  | 0, _, _, acc => acc
  | fuel + 1, k, term, acc => oddSeries z2 fuel (k + 1) (fixMul term z2) (acc + term / ((2 * k + 1 : Nat) : Int))

/-- atanh of a fixed-point z with |z| ≤ 1/3. -/
def fixAtanh (z : Int) : Int := oddSeries (fixMul z z) 110 0 z 0

/-- atan of 1 ÷ n. -/
def fixAtanInv (n : Nat) : Int := oddSeries (-(fixOne / ((n * n : Nat) : Int))) 80 0 (fixOne / (n : Int)) 0

/-- π, by Machin's formula. -/
def fixPi : Int := 16 * fixAtanInv 5 - 4 * fixAtanInv 239

/-- ln 2 = 2 atanh(1/3). -/
def fixLn2 : Int := 2 * fixAtanh (fixOne / 3)

/-- Σ x^k ÷ k!. -/
def expSeries (x : Int) : Nat → Nat → Int → Int → Int
  | 0, _, _, acc => acc
  | fuel + 1, k, term, acc => expSeries x fuel (k + 1) (fixMul term x / ((k + 1 : Nat) : Int)) (acc + term)

/-- Σ (−y)^k ÷ (2k + 1)!, which is sin(√y) ÷ √y. -/
def sincSeries (y : Int) : Nat → Nat → Int → Int → Int
  | 0, _, _, acc => acc
  | fuel + 1, k, term, acc =>
    sincSeries y fuel (k + 1) (-(fixMul term y) / (((2 * k + 2) * (2 * k + 3) : Nat) : Int)) (acc + term)

/-- An irrational positive value x × 2^e rounded, with a bit below it for the rest. -/
def Fmt.roundSticky (f : Fmt) (neg : Bool) (x : Nat) (e : Int) : Nat × Flags := f.round .rne false neg (2 * x + 1) (e - 1)

/-- a ÷ b of nonzero magnitudes, rounded once (R90). -/
def Fmt.quotient (f : Fmt) (neg : Bool) (ma : Nat) (ea : Int) (mb : Nat) (eb : Int) : Nat × Flags :=
  let (q, e) := divSticky 64 ma mb
  f.round .rne false neg q (e + ea - eb)

/-- √(m × 2^e), or its reciprocal, rounded once (R90). -/
def Fmt.root (f : Fmt) (recip : Bool) (m : Nat) (e : Int) : Nat × Flags :=
  let odd := e % 2 != 0
  let m := if odd then 2 * m else m
  let e := if odd then e - 1 else e
  if recip then
    let k := 64 + Nat.log2 m
    let x := 2 ^ (2 * k) / m
    let r := isqrt x
    let st := if r * r * m == 2 ^ (2 * k) then 0 else 1
    f.round .rne false false (2 * r + st) (-(k : Int) - e / 2 - 1)
  else
    let x := m * 2 ^ 128
    let r := isqrt x
    f.round .rne false false (2 * r + (if r * r == x then 0 else 1)) (e / 2 - 65)

/-- 2^x of x = n × 2^e, n ≠ 0 (R150). Beyond ±2^12 the result is that of ±2^12. -/
def Fmt.exp2 (f : Fmt) (neg : Bool) (m : Nat) (e : Int) : Nat × Flags :=
  let den := 2 ^ (-e).toNat
  let num := signed neg (m * 2 ^ e.toNat)
  let num := if (4096 * den : Nat) ≤ num.natAbs then signed neg (4096 * den) else num
  let n := num / (den : Int)
  let r := (num % (den : Int)).toNat
  if r == 0 then f.round .rne false false 1 n
  else
    let x := fixMul (((r * 2 ^ fixP / den : Nat) : Int)) fixLn2
    f.roundSticky false (expSeries x 90 0 fixOne 0).toNat (n - (fixP : Int))

/-- log2 of m × 2^e, m ≠ 0 (R150). -/
def Fmt.log2 (f : Fmt) (m : Nat) (e : Int) : Nat × Flags :=
  let l := Nat.log2 m
  let k := e + (l : Int)
  if m == 2 ^ l then f.round .rne false (decide (k < 0)) k.natAbs 0
  else
    let big := decide (3 * 2 ^ l ≤ 2 * m)
    let k := if big then k + 1 else k
    let d : Nat := if big then 2 ^ (l + 1) else 2 ^ l
    let z := ((m : Int) - (d : Int)) * fixOne / ((m + d : Nat) : Int)
    let v := k * fixOne + 2 * fixAtanh z * fixOne / fixLn2
    f.roundSticky (decide (v < 0)) v.natAbs (-(fixP : Int))

/-- sin(π × num ÷ 2^q): none for an exact zero, else the rounded value (R150). The argument is reduced exactly. -/
def Fmt.sinPi (f : Fmt) (num : Int) (q : Nat) : Option (Nat × Flags) :=
  let den := 2 ^ q
  let r := (num % ((2 * den : Nat) : Int)).toNat
  let neg := decide (den ≤ r)
  let r := if neg then r - den else r
  let r := if den < 2 * r then den - r else r
  if r == 0 then none
  else if 2 * r == den then some (f.round .rne false neg 1 0)
  else
    let x := ((r * 2 ^ fixP / den : Nat) : Int)
    let p := fixMul fixPi fixPi
    let s := fixMul fixPi (sincSeries (fixMul p (fixMul x x)) 60 0 fixOne 0)
    some (f.roundSticky neg (s.toNat * r) (-(fixP : Int) - (q : Int)))

/-- The eight special functions. -/
inductive SfuOp where
  | rcp | rsq | sqrt | div | exp2 | log2 | sinpi | cospi
  deriving DecidableEq, Repr

/-- VDIV (R150). -/
def Fmt.divide (f : Fmt) (a b : FVal) : Nat × Flags :=
  match a, b with
  | .nan s, y => f.nanOut (s || y.sig)
  | x, .nan s => f.nanOut (s || x.sig)
  | .inf _, .inf _ => f.nanOut true
  | .inf s, y => (f.infBits (s != y.sign), 0)
  | x, .inf t => (f.signBit (x.sign != t), 0)
  | .fin s m e, .fin t n k =>
    if n == 0 then (if m == 0 then f.nanOut true else (f.infBits (s != t), flagDZ))
    else if m == 0 then (f.signBit (s != t), 0)
    else f.quotient (s != t) m e n k

/-- The table of R150 for the special functions of one operand. -/
def Fmt.special1 (f : Fmt) (op : SfuOp) (a : FVal) : Nat × Flags :=
  let one := f.round .rne false false 1 0
  match a with
  | .nan s => f.nanOut s
  | .inf s =>
    match op with
    | .rcp => (f.signBit s, 0)
    | .rsq => if s then f.nanOut true else (0, 0)
    | .sqrt | .log2 => if s then f.nanOut true else (f.infBits false, 0)
    | .exp2 => if s then (0, 0) else (f.infBits false, 0)
    | _ => f.nanOut true
  | .fin s m e =>
    if m == 0 then
      match op with
      | .rcp | .rsq => (f.infBits s, flagDZ)
      | .sqrt | .sinpi => (f.signBit s, 0)
      | .log2 => (f.infBits true, flagDZ)
      | _ => one
    else
      let num := signed s (m * 2 ^ e.toNat)
      let q := (-e).toNat
      match op with
      | .rsq => if s then f.nanOut true else f.root true m e
      | .sqrt => if s then f.nanOut true else f.root false m e
      | .log2 => if s then f.nanOut true else f.log2 m e
      | .exp2 => f.exp2 s m e
      | .sinpi => (f.sinPi num q).getD (f.signBit s, 0)
      | .cospi => (f.sinPi (2 * num + (2 : Int) ^ q) (q + 1)).getD (0, 0)
      | _ => f.quotient s 1 0 m e

/-- A special function of operand bits in a format (R90, R150). -/
def Fmt.special (f : Fmt) (op : SfuOp) (x y : Nat) : Nat × Flags :=
  match op with
  | .div => f.divide (f.decode x) (f.decode y)
  | _ => f.special1 op (f.decode x)

end Sys2Proof.Machine
end

