-- ==== Sys2Proof/Machine/VecInt.lean ====
section
/-! DEFINITION. The vector integer, move and select instructions (R138 to R143, R152, R158), and the shared form of a short
vector instruction: operands read in each active lane, and one result written in each (R133 to R136). -/

namespace Sys2Proof.Machine

/-- The operands of an R-form, as uses: A, B, C read in their types, then D written in its type. -/
def rUses (f : RForm) (ta tb tc td : Ty) : List Use :=
  [{ o := f.a, t := ta, reads := true }, { o := f.b, t := tb, reads := true }, { o := f.c, t := tc, reads := true },
   { o := f.d, t := td, reads := false }]

/-- The registers that an R-form's `LR` bits release (R62, R164). -/
def rRel (f : RForm) (ta tb tc : Ty) : List Nat :=
  lrRel f.lrA ta f.a ++ lrRel f.lrB tb f.b ++ lrRel f.lrC tc f.c

/-- A value for each active lane. -/
def Issuer.perLane {α : Type} (c : Issuer) (g : Guard) (val : Nat → α) : List (Nat × α) :=
  (c.active g).toList.map fun i => (i, val i)

/-- A short vector instruction on an R-form (R133 to R136, R164): the precise checks, then one commit. -/
def vecShort (f : RForm) (ta tb tc td : Ty) (preds : List Nat) (eff : Issuer → Effect) (s : State) :
    Host.Outcome State Fault Refusal :=
  runInstr s fun c => do
    c.checkUses (rUses f ta tb tc td) f.g preds
    c.checkPool s (dstV td f.d)
    .ok (s.commit c { eff c with rel := rRel f ta tb tc })

/-- A short vector instruction that writes one value of type `td` in each active lane. -/
def vecMap (f : RForm) (ta tb tc td : Ty) (val : Issuer → Nat → Nat) (s : State) : Host.Outcome State Fault Refusal :=
  vecShort f ta tb tc td [] (fun c => c.writeDst td f.d (c.perLane f.g (val c)) Effect.none) s

/-- The same, element by element, with A, B, C and D all of the instruction's type. -/
def vecElem (f : RForm) (op : Nat → Nat → Nat → Nat) (s : State) : Host.Outcome State Fault Refusal :=
  vecMap f f.t f.t f.t f.t
    (fun c i => packElems f.t fun k =>
      op (elemOf f.t (c.read f.t f.a i) k) (elemOf f.t (c.read f.t f.b i) k) (elemOf f.t (c.read f.t f.c i) k)) s

/-- a × b + c of two's complement or unsigned elements, clamped under SAT (R138). -/
def intMad (t : Ty) (sat : Bool) (a b c : Nat) : Nat :=
  match intOf t with
  | some (w, sgn) => intResult t sat (intVal w sgn a * intVal w sgn b + intVal w sgn c)
  | none => 0

/-- Set bits of a value of w bits (R140). -/
def popCount (w a : Nat) : Nat := ((List.range w).filter fun b => a.testBit b).length

/-- Zeros above the highest set bit of a value of w bits (R140). -/
def leadingZeros (w a : Nat) : Nat := if a % 2 ^ w == 0 then w else w - 1 - Nat.log2 (a % 2 ^ w)

/-- Zeros below the lowest set bit of a value of w bits (R140). -/
def trailingZeros (w a : Nat) : Nat := ((List.range w).takeWhile fun b => !a.testBit b).length

/-- The offset and length of a field descriptor (R141). -/
def fieldDesc (w d : Nat) : Nat × Nat := (bitsOf d 7 0, min (bitsOf d 15 8) w)

/-- VBFE's value (R141). -/
def bitExtract (t : Ty) (a d : Nat) : Nat :=
  match intOf t with
  | some (w, sgn) =>
    let (o, n) := fieldDesc w d
    let x := wrapTo (intVal w sgn a / (2 : Int) ^ o) n
    if n == 0 then 0 else if sgn then wrapTo (sext x n) w else x
  | none => 0

/-- VBFI's value of w bits (R141). -/
def bitInsert (w a b d : Nat) : Nat :=
  let (o, n) := fieldDesc w d
  let mask := 2 ^ n * 2 ^ o - 2 ^ o
  ((a % 2 ^ w &&& (2 ^ w - 1 - mask % 2 ^ w)) ||| (b * 2 ^ o &&& mask)) % 2 ^ w

/-- The lane truths of a compare: a mask in D, a predicate in C (R142). -/
def compareEffect (f : RForm) (c : Issuer) (truth : Nat → Nat → Bool) (e : Effect) : Effect :=
  let mask := fun i => packElems f.t fun k => if truth i k then 2 ^ (elemShape f.t).1 - 1 else 0
  let e := c.writeDst f.t f.d (c.perLane f.g mask) e
  match predOf f.c with
  | some p => { e with p := e.p ++ [(p, c.active f.g, maskOf (c.perLane f.g fun i => truth i 0))] }
  | none => e

/-- VADD (R138). -/
def execVadd (f : RForm) (s : State) : Host.Outcome State Fault Refusal :=
  vecElem f (fun a b _ => intOp f.t f.sat (· + ·) a b) s

/-- VADDC (R139): unsigned, with the carry in predicate `FN`, or none for 7. -/
def execVaddc (f : RForm) (s : State) : Host.Outcome State Fault Refusal :=
  let p := f.fn.toNat
  let preds := if p == 7 then [] else [p]
  vecShort f f.t f.t f.t f.t preds (fun c =>
    let sum := fun i => c.read f.t f.a i + c.read f.t f.b i
      + (if p != 7 && (nth c.gang.preds p 0).getLsbD i then 1 else 0)
    let w := (elemShape f.t).1
    let e := c.writeDst f.t f.d (c.perLane f.g fun i => sum i % 2 ^ w) Effect.none
    if p == 7 then e
    else { e with p := [(p, c.active f.g, maskOf (c.perLane f.g fun i => decide (2 ^ w ≤ sum i)))] }) s

/-- VSUB (R138). -/
def execVsub (f : RForm) (s : State) : Host.Outcome State Fault Refusal :=
  vecElem f (fun a b _ => intOp f.t f.sat (· - ·) a b) s

/-- VMUL (R138). -/
def execVmul (f : RForm) (s : State) : Host.Outcome State Fault Refusal :=
  vecElem f (fun a b _ => intMul f.t f.sat (f.fn == 1) a b) s

/-- VMAD (R138). -/
def execVmad (f : RForm) (s : State) : Host.Outcome State Fault Refusal := vecElem f (intMad f.t f.sat) s

/-- VMIN (R138). -/
def execVmin (f : RForm) (s : State) : Host.Outcome State Fault Refusal :=
  vecElem f (fun a b _ => intMinMax f.t false a b) s

/-- VMAX (R138). -/
def execVmax (f : RForm) (s : State) : Host.Outcome State Fault Refusal :=
  vecElem f (fun a b _ => intMinMax f.t true a b) s

/-- VAND (R140). -/
def execVand (f : RForm) (s : State) : Host.Outcome State Fault Refusal := vecElem f (fun a b _ => a &&& b) s

/-- VOR (R140). -/
def execVor (f : RForm) (s : State) : Host.Outcome State Fault Refusal := vecElem f (fun a b _ => a ||| b) s

/-- VXOR (R140). -/
def execVxor (f : RForm) (s : State) : Host.Outcome State Fault Refusal := vecElem f (fun a b _ => a ^^^ b) s

/-- VNOT (R140). -/
def execVnot (f : RForm) (s : State) : Host.Outcome State Fault Refusal :=
  vecElem f (fun a _ _ => 2 ^ (elemShape f.t).1 - 1 - a) s

/-- A vector shift: the amount is read as N32 (R134, R140). -/
def vecShift (f : RForm) (sh : Nat → Nat → Nat → Nat) (s : State) : Host.Outcome State Fault Refusal :=
  vecMap f f.t .n32 .n32 f.t (fun c i => sh (elemShape f.t).1 (c.read f.t f.a i) (c.read .n32 f.b i)) s

/-- VSHL (R140). -/
def execVshl (f : RForm) (s : State) : Host.Outcome State Fault Refusal := vecShift f shiftLeft s

/-- VSHR (R140). -/
def execVshr (f : RForm) (s : State) : Host.Outcome State Fault Refusal := vecShift f shiftRight s

/-- VSAR (R140). -/
def execVsar (f : RForm) (s : State) : Host.Outcome State Fault Refusal := vecShift f shiftArith s

/-- A count of bits, written as N32 to one register (R134, R140). -/
def vecCount (f : RForm) (count : Nat → Nat → Nat) (s : State) : Host.Outcome State Fault Refusal :=
  vecMap f f.t .n32 .n32 .n32 (fun c i => count (elemShape f.t).1 (c.read f.t f.a i)) s

/-- VPOPC (R140). -/
def execVpopc (f : RForm) (s : State) : Host.Outcome State Fault Refusal := vecCount f popCount s

/-- VCLZ (R140). -/
def execVclz (f : RForm) (s : State) : Host.Outcome State Fault Refusal := vecCount f leadingZeros s

/-- VCTZ (R140). -/
def execVctz (f : RForm) (s : State) : Host.Outcome State Fault Refusal := vecCount f trailingZeros s

/-- VBFE (R141): the descriptor is B. -/
def execVbfe (f : RForm) (s : State) : Host.Outcome State Fault Refusal :=
  vecMap f f.t .n32 .n32 f.t (fun c i => bitExtract f.t (c.read f.t f.a i) (c.read .n32 f.b i)) s

/-- VBFI (R141): the descriptor is C. -/
def execVbfi (f : RForm) (s : State) : Host.Outcome State Fault Refusal :=
  vecMap f f.t f.t .n32 f.t
    (fun c i => bitInsert (elemShape f.t).1 (c.read f.t f.a i) (c.read f.t f.b i) (c.read .n32 f.c i)) s

/-- VCMP (R142). -/
def execVcmp (f : RForm) (s : State) : Host.Outcome State Fault Refusal :=
  vecShort f f.t f.t .n32 f.t (predOf f.c).toList (fun c =>
    compareEffect f c
      (fun i k => intCompare f.t f.fn.toNat (elemOf f.t (c.read f.t f.a i) k) (elemOf f.t (c.read f.t f.b i) k))
      Effect.none) s

/-- VSEL (R143): on a value, or on a predicate. -/
def execVsel (f : RForm) (s : State) : Host.Outcome State Fault Refusal :=
  let preds := if f.fn == 1 then (predOf f.c).toList else []
  vecShort f f.t f.t .n32 f.t preds (fun c =>
    let test := fun i =>
      if f.fn == 1 then (preds.any fun p => (nth c.gang.preds p 0).getLsbD i) else c.read .n32 f.c i != 0
    c.writeDst f.t f.d (c.perLane f.g fun i => if test i then c.read f.t f.a i else c.read f.t f.b i)
      Effect.none) s

/-- VMOV (R143). -/
def execVmov (f : RForm) (s : State) : Host.Outcome State Fault Refusal :=
  vecMap f f.t f.t f.t f.t (fun c i => c.read f.t f.a i) s

/-- VMOVI (R143). -/
def execVmovi (f : IForm) (s : State) : Host.Outcome State Fault Refusal :=
  runInstr s fun c => do
    c.checkUses [{ o := f.d, t := .b32, reads := false }] f.g []
    c.checkPool s (dstV .b32 f.d)
    .ok (s.commit c (c.writeDst .b32 f.d (c.perLane f.g fun _ => f.imm.toNat) Effect.none))

/-- The bits that an element of a packing type carries; a 6-bit element stands in a byte (R85, R152). -/
def packBits (t : Ty) : Nat :=
  match t with
  | .e3m2 | .e2m3 => 6
  | _ => t.packWidth

/-- VPACK's value (R152). -/
def packInto (t : Ty) (j a c : Nat) : Nat :=
  let e := t.packWidth
  let field := (2 ^ e - 1) * 2 ^ (e * j)
  (c &&& (2 ^ 32 - 1 - field)) ||| (a % 2 ^ packBits t * 2 ^ (e * j))

/-- VUNPACK's value (R152). -/
def unpackFrom (t : Ty) (j a : Nat) : Nat :=
  let x := a / 2 ^ (t.packWidth * j) % 2 ^ packBits t
  match t with
  | .i16x2 | .i8x4 => wrapTo (sext x t.packWidth) 32
  | _ => x

/-- VPACK (R152): A and C are read as 32-bit words. -/
def execVpack (f : RForm) (s : State) : Host.Outcome State Fault Refusal :=
  vecMap f .b32 .b32 .b32 .b32 (fun c i => packInto f.t f.fn.toNat (c.read .b32 f.a i) (c.read .b32 f.c i)) s

/-- VUNPACK (R152). -/
def execVunpack (f : RForm) (s : State) : Host.Outcome State Fault Refusal :=
  vecMap f .b32 .b32 .b32 .b32 (fun c i => unpackFrom f.t f.fn.toNat (c.read .b32 f.a i)) s

/-- VFREE (R158): the slots named become unwritten for the whole gang. -/
def execVfree (f : EForm) (s : State) : Host.Outcome State Fault Refusal :=
  runInstr s fun c => do
    let n := match f.b with
      | .imm k => k.val
      | _ => 0
    let regs := match f.a with
      | .v r => (List.range n).map fun k => r.toNat + k
      | _ => []
    c.checkTouch (c.active f.g) { v := regs, s := [], p := guardP f.g }
    .ok (s.commit c { Effect.none with rel := regs })

end Sys2Proof.Machine
end

