-- ==== Sys2Proof/Machine/VecFloat.lean ====
section
/-! DEFINITION. The vector float, special-function and conversion instructions (R144 to R151, R153). -/

namespace Sys2Proof.Machine

/-- The union of the flags of a list. -/
def orFlags (fs : List Flags) : Flags := fs.foldl (fun a b => a ||| b) 0

/-- Per-element values with flags packed into one value, the flags ORed (R144). -/
def packFlags (t : Ty) (op : Nat → Nat × Flags) : Nat × Flags :=
  (packElems t fun k => (op k).1, orFlags ((List.range (elemShape t).2).map fun k => (op k).2))

/-- The rounding mode of an instruction (R89). -/
def Issuer.mode (c : Issuer) (f : RForm) : Mode := modeFor f.rnd c.gang.rm

/-- A short vector instruction whose lane values come with flags. -/
def vecFlags (f : RForm) (ta tb tc td : Ty) (val : Issuer → Nat → Nat × Flags) (s : State) :
    Host.Outcome State Fault Refusal :=
  vecShort f ta tb tc td [] (fun c =>
    let vals := c.perLane f.g (val c)
    c.writeDst td f.d (vals.map fun (x : Nat × Nat × Flags) => (x.1, x.2.1))
      { Effect.none with flags := orFlags (vals.map fun (x : Nat × Nat × Flags) => x.2.2) }) s

/-- A float operation, element by element, in the instruction's type. -/
def vecFloat (f : RForm) (op : Fmt → Mode → Nat → Nat → Nat → Nat × Flags) (s : State) :
    Host.Outcome State Fault Refusal :=
  match fmtOf f.t with
  | none => vecFlags f f.t f.t f.t f.t (fun _ _ => (0, 0)) s
  | some fm =>
    vecFlags f f.t f.t f.t f.t
      (fun c i => packFlags f.t fun k =>
        op fm (c.mode f) (elemOf f.t (c.read f.t f.a i) k) (elemOf f.t (c.read f.t f.b i) k)
          (elemOf f.t (c.read f.t f.c i) k)) s

/-- VFADD (R144). -/
def execVfadd (f : RForm) (s : State) : Host.Outcome State Fault Refusal :=
  vecFloat f (fun fm m a b _ => addRound fm m f.sat (fm.decode a) (fm.decode b)) s

/-- VFSUB (R144). -/
def execVfsub (f : RForm) (s : State) : Host.Outcome State Fault Refusal :=
  vecFloat f (fun fm m a b _ => addRound fm m f.sat (fm.decode a) (fm.decode b).neg) s

/-- VFMUL (R144). -/
def execVfmul (f : RForm) (s : State) : Host.Outcome State Fault Refusal :=
  vecFloat f (fun fm m a b _ => mulRound fm m f.sat (fm.decode a) (fm.decode b)) s

/-- VFMA (R144). -/
def execVfma (f : RForm) (s : State) : Host.Outcome State Fault Refusal :=
  vecFloat f (fun fm m a b c => fmaRound fm m f.sat (fm.decode a) (fm.decode b) (fm.decode c)) s

/-- VFMIN (R145). -/
def execVfmin (f : RForm) (s : State) : Host.Outcome State Fault Refusal :=
  vecFloat f (fun fm _ a b _ => minMax fm false a b) s

/-- VFMAX (R145). -/
def execVfmax (f : RForm) (s : State) : Host.Outcome State Fault Refusal :=
  vecFloat f (fun fm _ a b _ => minMax fm true a b) s

/-- A float compare of operand bits under `FN` (R146). -/
def floatCompare (t : Ty) (fn a b : Nat) : Bool × Flags :=
  match fmtOf t with
  | some fm => floatCond fn (fm.decode a) (fm.decode b)
  | none => (false, 0)

/-- VFCMP (R146). -/
def execVfcmp (f : RForm) (s : State) : Host.Outcome State Fault Refusal :=
  vecShort f f.t f.t .n32 f.t (predOf f.c).toList (fun c =>
    let cmp := fun i k => floatCompare f.t f.fn.toNat (elemOf f.t (c.read f.t f.a i) k) (elemOf f.t (c.read f.t f.b i) k)
    let flags := (c.active f.g).toList.flatMap fun i =>
      (List.range (elemShape f.t).2).map fun k => (cmp i k).2
    compareEffect f c (fun i k => (cmp i k).1) { Effect.none with flags := orFlags flags }) s

/-- VFCLASS (R147). -/
def execVfclass (f : RForm) (s : State) : Host.Outcome State Fault Refusal :=
  match fmtOf f.t with
  | none => vecMap f f.t .n32 .n32 .n32 (fun _ _ => 0) s
  | some fm =>
    vecMap f f.t .n32 .n32 .n32 (fun c i => 2 ^ classBit fm (elemOf f.t (c.read f.t f.a i) 0)) s

/-- VFRACT's value (R148). -/
def fract (fm : Fmt) (mode : Mode) (v : FVal) : Nat × Flags :=
  match v with
  | .nan sig => fm.nanOut sig
  | .inf _ => fm.nanOut true
  | .fin s m e =>
    if 0 ≤ e then (0, 0)
    else
      let d := 2 ^ (-e).toNat
      let r := (signed s m % (d : Int)).toNat
      if r == 0 then (0, 0)
      else
        let (x, fl) := fm.round mode false false r e
        let one := (fm.round .rne false false 1 0).1
        if x == one then (one - 1, fl ||| flagNX) else (x, fl)

/-- VFRACT (R148). -/
def execVfract (f : RForm) (s : State) : Host.Outcome State Fault Refusal :=
  vecFloat f (fun fm m a _ _ => fract fm m (fm.decode a)) s

/-- Whether VFRND rounds a magnitude up from the integer below it (R148): its remainder r of d. -/
def frndUp (fn : Nat) (neg : Bool) (k r d : Nat) : Bool :=
  match fn with
  | 0 => decide (d < 2 * r) || (2 * r == d && k % 2 == 1)
  | 1 => false
  | 2 => neg && r != 0
  | 3 => !neg && r != 0
  | _ => decide (d ≤ 2 * r)

/-- VFRND's value (R148). -/
def frnd (fm : Fmt) (fn bits : Nat) : Nat × Flags :=
  match fm.decode bits with
  | .nan sig => fm.nanOut sig
  | .inf _ => (bits, 0)
  | .fin s m e =>
    if 0 ≤ e || m == 0 then (bits, 0)
    else
      let d := 2 ^ (-e).toNat
      let k := m / d
      ((fm.round .rne false s (if frndUp fn s k (m % d) d then k + 1 else k) 0).1, 0)

/-- VFRND (R148). -/
def execVfrnd (f : RForm) (s : State) : Host.Outcome State Fault Refusal :=
  vecFloat f (fun fm _ a _ _ => frnd fm f.fn.toNat a) s

/-- VLDEXP's value (R149). An exponent past ±2^13 rounds as ±2^13 does. -/
def ldexp (fm : Fmt) (mode : Mode) (sat : Bool) (bits : Nat) (b : Int) : Nat × Flags :=
  let b := if b < -8192 then -8192 else if 8192 < b then 8192 else b
  match fm.decode bits with
  | .nan sig => fm.nanOut sig
  | .inf s => fm.infinite sat s
  | .fin s m e => if m == 0 then (bits, 0) else fm.round mode sat s m (e + b)

/-- VLDEXP (R149): B is read as I32. -/
def execVldexp (f : RForm) (s : State) : Host.Outcome State Fault Refusal :=
  match fmtOf f.t with
  | none => vecFlags f f.t .i32 .n32 f.t (fun _ _ => (0, 0)) s
  | some fm =>
    vecFlags f f.t .i32 .n32 f.t
      (fun c i => ldexp fm (c.mode f) f.sat (elemOf f.t (c.read f.t f.a i) 0) (sext (c.read .i32 f.b i) 32)) s

/-- VFREXP's value (R149): the fraction, or the exponent as I32. The exponent of a signalling NaN raises no flag (DESIGN CHOICE,
log entry 54). -/
def frexp (fm : Fmt) (expo : Bool) (bits : Nat) : Nat × Flags :=
  match fm.decode bits with
  | .nan sig => if expo then (0, 0) else fm.nanOut sig
  | .inf _ => if expo then (0, 0) else (bits, 0)
  | .fin s m e =>
    if m == 0 then (if expo then 0 else bits, 0)
    else if expo then (wrapTo (e + (Nat.log2 m : Int) + 1) 32, 0)
    else fm.round .rne false s m (-(Nat.log2 m : Int) - 1)

/-- VFREXP (R149). -/
def execVfrexp (f : RForm) (s : State) : Host.Outcome State Fault Refusal :=
  let td := if f.fn == 1 then Ty.i32 else f.t
  match fmtOf f.t with
  | none => vecFlags f f.t .n32 .n32 td (fun _ _ => (0, 0)) s
  | some fm => vecFlags f f.t .n32 .n32 td (fun c i => frexp fm (f.fn == 1) (elemOf f.t (c.read f.t f.a i) 0)) s

/-! ### Special functions -/

/-- A long vector instruction of one destination (R46): the checks at issue, its results on their way. -/
def vecLong (f : RForm) (k : Ctr) (us : List Use) (rel : List Nat) (td : Ty) (out : Issuer → Out) (s : State) :
    Host.Outcome State Fault Refusal :=
  runInstr s fun c => do
    c.checkUses us f.g []
    c.checkCounter k
    c.checkPool s (dstV td f.d)
    let s := s.issue c k rel (dstV td f.d) [] none (c.active f.g) fun p => { p with out := out c }
    .ok (s.advance c)

/-- A special function (R150): its values are found at issue and delivered when its result arrives. -/
def vecSpecial (f : RForm) (op : SfuOp) (s : State) : Host.Outcome State Fault Refusal :=
  vecLong f .sfc (rUses f f.t f.t f.t f.t) (rRel f f.t f.t f.t) f.t (fun c =>
    match fmtOf f.t with
    | none => Out.none
    | some fm =>
      let vals := c.perLane f.g fun i =>
        fm.special op (elemOf f.t (c.read f.t f.a i) 0) (elemOf f.t (c.read f.t f.b i) 0)
      c.outDst f.t f.d (vals.map fun (x : Nat × Nat × Flags) => (x.1, x.2.1))
        { Out.none with flags := orFlags (vals.map fun (x : Nat × Nat × Flags) => x.2.2) }) s

/-- VRCP (R150). -/
def execVrcp (f : RForm) (s : State) : Host.Outcome State Fault Refusal := vecSpecial f .rcp s

/-- VRSQ (R150). -/
def execVrsq (f : RForm) (s : State) : Host.Outcome State Fault Refusal := vecSpecial f .rsq s

/-- VSQRT (R150). -/
def execVsqrt (f : RForm) (s : State) : Host.Outcome State Fault Refusal := vecSpecial f .sqrt s

/-- VDIV (R150). -/
def execVdiv (f : RForm) (s : State) : Host.Outcome State Fault Refusal := vecSpecial f .div s

/-- VEXP2 (R150). -/
def execVexp2 (f : RForm) (s : State) : Host.Outcome State Fault Refusal := vecSpecial f .exp2 s

/-- VLOG2 (R150). -/
def execVlog2 (f : RForm) (s : State) : Host.Outcome State Fault Refusal := vecSpecial f .log2 s

/-- VSINPI (R150). -/
def execVsinpi (f : RForm) (s : State) : Host.Outcome State Fault Refusal := vecSpecial f .sinpi s

/-- VCOSPI (R150). -/
def execVcospi (f : RForm) (s : State) : Host.Outcome State Fault Refusal := vecSpecial f .cospi s

/-! ### Conversions -/

/-- An integer converted to a type (R94, R95). -/
def convertInt (dst : Ty) (mode : Mode) (sat : Bool) (ws : Nat) (x : Int) : Nat × Flags :=
  match intOf dst, fmtOf dst with
  | some (w, sgn), _ => (wrapTo (if sat && decide (w ≤ ws) then satInt w sgn x else x) w, 0)
  | none, some fm => intToFloat fm mode sat x
  | none, none => toE8m0 mode sat (.fin (decide (x < 0)) x.natAbs 0)

/-- A float or E8M0 value converted to a type (R91, R92, R94, R95). -/
def convertFloat (dst : Ty) (mode : Mode) (sat : Bool) (v : FVal) : Nat × Flags :=
  match intOf dst, fmtOf dst with
  | some (w, sgn), _ => floatToInt mode w sgn v
  | none, some fm => floatToFloat fm mode sat v
  | none, none => toE8m0 mode sat v

/-- A conversion between the same float type (R151). -/
def convertSame (fm : Fmt) (sat : Bool) (bits : Nat) : Nat × Flags :=
  match fm.decode bits with
  | .nan true => fm.nanOut true
  | .inf s => if sat then (fm.maxFinite s, flagNX) else (bits, 0)
  | _ => (bits, 0)

/-- VCVT's value (R151). E8M0 to E8M0 is a conversion of R95. -/
def convert (dst src : Ty) (mode : Mode) (sat : Bool) (x : Nat) : Nat × Flags :=
  let bits := elemOf src x 0
  match intOf src, fmtOf src with
  | some (w, sgn), _ => convertInt dst mode sat w (intVal w sgn bits)
  | none, some fm => if dst == src then convertSame fm sat bits else convertFloat dst mode sat (fm.decode bits)
  | none, none => convertFloat dst mode sat (e8m0Val bits)

/-- VCVT (R151). -/
def execVcvt (src : Ty) (f : RForm) (s : State) : Host.Outcome State Fault Refusal :=
  vecFlags f src .n32 .n32 f.t (fun c i => convert f.t src (c.mode f) f.sat (c.read src f.a i)) s

/-- VCAMREL (R153): the exact F64 difference rounded once to F32. -/
def execVcamrel (f : RForm) (s : State) : Host.Outcome State Fault Refusal :=
  vecFlags f .f64 .f64 .n32 .f32
    (fun c i => addRound Fmt.f32 (c.mode f) f.sat (Fmt.f64.decode (c.read .f64 f.a i))
      (Fmt.f64.decode (c.read .f64 f.b i)).neg) s

end Sys2Proof.Machine
end

