-- ==== Sys2Proof/Machine/MemPerform.lean ====
section
/-! DEFINITION. Memory accesses performing and taking their values: loads, stores line by line, claims on WO lines (R207),
atomics lane by lane (R200, R201), the scratchpad instructions, WORESET (R209), and the home's transactions
(R311, R313). -/

namespace Sys2Proof.Machine

/-! ### The dirty ring (R393) -/

/-- A write about to perform on a page with `LOG`: its unit enters the dirty ring once for each fill of its TLB entry.
True means that the write may perform; a full ring pauses the partition. The ring is addressed physically (log entry
15). -/
def State.logWrite (s : State) (vmid asid va : Nat) : Bool × State :=
  if s.inHeap va then (true, s)
  else
    match s.translate vmid asid va, s.partOfVm vmid with
    | .ok x, some (pid, p) =>
      let page := va / 65536
      let logged := match s.tlb? vmid asid page with
        | some e => e.logged.contains (page - e.page)
        | none => false
      if !x.log || logged then (true, s)
      else
        let tail := s.physNat p.drbase 8
        let head := s.physNat (p.drbase + 8) 8
        if 2 ^ p.drlog ≤ (tail + 2 ^ 64 - head) % 2 ^ 64 then
          if p.paused then (false, s)
          else
            let s := s.modPart pid fun p => { p with paused := true }
            (false, (s.post 0 { kind := .dirtyRing, pid := pid, addr := p.drbase }).raiseIrq 0 (Config.ringVector % 2048))
        else
          let s := s.physWrite (p.drbase + 64 + 8 * (tail % 2 ^ p.drlog)) (leBytes 8 (page * 65536 + asid))
          let s := s.physWrite p.drbase (leBytes 8 (tail + 1))
          let s := s.keepTlb vmid asid va
          let mark := fun (e : TlbEntry) =>
            if e.covers vmid asid page then { e with logged := insertNat (page - e.page) e.logged } else e
          (true, { s with mem := { s.mem with tlb := s.mem.tlb.map mark } })
    | _, _ => (true, s)

/-! ### Remote requests (R410, R414, R416, R419) -/

/-- The port that carries the requests of a sender to a device (R410): the one it used before, while that is up, else one of
those that are up; none where no port is. A gang is known by its team and number; `h` is what is hashed of it. -/
def State.portFor (s : State) (team number : Nat) (h : Nat × Nat) (tdev : Nat) : Option Nat :=
  let isUp := fun (p : Nat) => (Table.getD s.fabric.ports p Port.reset).st == 2
  let kept := s.fabric.routes.find? fun x => x.1 == team && x.2.1 == number && x.2.2.1 == tdev && isUp x.2.2.2
  match kept with
  | some x => some x.2.2.2
  | none =>
    match (List.range 36).filter isUp with
    | [] => none
    | x :: rest => some (nth (x :: rest) (Config.portHash h.1 h.2 tdev % (rest.length + 1)) x)

/-- The port of a sender's requests to a device kept (R410). -/
def State.keepRoute (s : State) (team number tdev port : Nat) : State :=
  let other := fun (x : Nat × Nat × Nat × Nat) => !(x.1 == team && x.2.1 == number && x.2.2.1 == tdev)
  { s with fabric := { s.fabric with routes := s.fabric.routes.filter other ++ [(team, number, tdev, port)] } }

/-- A request sent to another device, or by the device's own rank to itself, which uses no port (R414); none where no port is up
(R410). -/
def State.sendOut (s : State) (team number : Nat) (h : Nat × Nat) (mk : Option Nat → Outgoing) (tdev : Nat) : Option State :=
  let put := fun (s : State) (port : Option Nat) =>
    let (n, s) := s.fresh
    { s with fabric := { s.fabric with out := Table.put s.fabric.out n (mk port) } }
  if tdev == s.fabric.devid.toNat then some (put s none)
  else (s.portFor team number h tdev).map fun n => put (s.keepRoute team number tdev n) (some n)

/-- The fault of an entry from its failing lanes (R212): the lowest one's code, address and target's code, and every lane
that met the code. -/
def failState (once : Bool) : Table (Code × Nat × BitVec 8) → PState
  | [] => .pending
  | (lane, code, addr, rcode) :: rest =>
    let same := ((lane, code, addr, rcode) :: rest).filter fun x => x.2.1 == code
    .failing code (if once then 0 else same.foldl (fun (m : Lanes) x => m ||| Lanes.one x.1) 0) (BitVec.ofNat 64 addr) rcode

/-- A lane's fault added to its entry (R212, R215, R422). -/
def Pending.addFailure (p : Pending) (once : Bool) (code : Code) (lane addr : Nat) (rcode : BitVec 8) : Pending :=
  if !p.going then p
  else
    let fails := Table.put p.fails lane (code, addr, rcode)
    { p with
      fails := fails
      st := failState once fails }

/-- The lanes that share the access of an element: all of them where a load reads one location (R192). -/
def Pending.sharers (p : Pending) (lane : Nat) : List Nat :=
  match p.mem? with
  | some (k, f) => if k.shared f then p.addrs.map fun x => x.1 else [lane]
  | none => [lane]

/-- A fault of a lane's access (R212, R215): of every lane that shares it. -/
def Pending.failLane (p : Pending) (code : Code) (lane addr : Nat) (rcode : BitVec 8) : Pending :=
  let once := match p.mem? with
    | some (k, _) => k.once
    | none => false
  (p.sharers lane).foldl (fun (q : Pending) i => q.addFailure once code i addr rcode) p

/-- A request sent for an element of an entry (R414); with no port up it ends with LINK_DOWN at once (R410). -/
def State.sendRemote (s : State) (r : Runner) (p : Pending) (key tdev tvmid tasid tva gtag va : Nat) (op : RemoteOp) :
    State :=
  let mk := fun (port : Option Nat) =>
    { waiter := .gang r.core r.slot p.id key, port := port, asid := r.grid.asid, va := va, tdev := tdev,
      req := { src := s.fabric.devid.toNat, inst := p.id, gtag := gtag, vmid := tvmid, asid := tasid, va := tva, op := op },
      keep := true : Outgoing }
  (s.sendOut r.gang.team r.gang.number (r.core, r.slot) mk tdev).getD
    (s.modGang r.core r.slot fun g => g.modPending p.id fun q => q.failLane .linkDown (key / 8) va 0)

/-- R419: a request waits for the answers to the gang's earlier requests to an overlapping byte. -/
def State.remoteBusy (s : State) (r : Runner) (va n : Nat) : Bool :=
  s.fabric.out.any fun (x : Nat × Outgoing) =>
    match x.2.waiter with
    | .gang c g _ _ => c == r.core && g == r.slot && rangesMeet (x.2.va, x.2.req.op.bytes) (va, n)
    | _ => false

/-! ### Loads (R188, R192, R196) -/

/-- The registers that an element's bytes give (R188). -/
def extendElem (t : Ty) (bs : List Byte) : List Word :=
  if t.accessSize == 8 then [BitVec.ofNat 32 (leNat bs), BitVec.ofNat 32 (leNat bs / 2 ^ 32)]
  else if t == .i8 then [BitVec.ofNat 32 (wrapTo (sext (leNat bs) 8) 32)]
  else [BitVec.ofNat 32 (leNat bs)]

/-- The registers that a lane's bytes give: element by element, or the eight words of a fragment (R188, R204). -/
def loadWords (k : MemKind) (f : MForm) (bs : List Byte) : List Word :=
  if k == .lds && MForm.frag f then (List.range 8).map fun j => BitVec.ofNat 32 (leNat (slice bs (4 * j) 4))
  else (List.range (MForm.count f)).flatMap fun j => extendElem f.t (slice bs (MForm.size f * j) (MForm.size f))

/-- The bytes of a lane as numbers under the keys 8 × lane + n, eight bytes each. -/
def Pending.keep (p : Pending) (lane : Nat) (bs : List Byte) : Pending :=
  let one := fun (t : Table DWord) (j : Nat) => Table.put t (8 * lane + j) (BitVec.ofNat 64 (leNat (slice bs (8 * j) 8)))
  { p with got := (List.range ((bs.length + 7) / 8)).foldl one p.got }

/-- The bytes that a lane took. -/
def Pending.kept (p : Pending) (lane n : Nat) : List Byte :=
  ((List.range ((n + 7) / 8)).flatMap fun j => leBytes 8 (Table.getD p.got (8 * lane + j) 0).toNat).take n

/-- An element's bytes taken, for every lane that shares the access (R192). -/
def Pending.keepElem (p : Pending) (key : Nat) (bs : List Byte) : Pending :=
  { p with got := (p.sharers (key / 8)).foldl (fun t i => Table.put t (8 * i + key % 8) (BitVec.ofNat 64 (leNat bs))) p.got }

/-- The bytes of a load's lane, from its elements. -/
def Pending.lane (p : Pending) (k : MemKind) (f : MForm) (lane : Nat) : List Byte :=
  let e := k.elems f
  (List.range e.2).flatMap fun j => leBytes e.1 (Table.getD p.got (8 * lane + j) 0).toNat

/-- One byte of the gang's store queue: the youngest earlier store to it that has not performed (R196). -/
def forwarded (stores : List Pending) (a : Nat) : Option Byte :=
  stores.foldl (fun acc q =>
    match q.mem? with
    | some (.st, f) =>
      (q.open_ .st f).foldl (fun acc x =>
        if x.2 ≤ a && a < x.2 + MemKind.bytes .st f then (q.bytesOf (MemKind.bytes .st f) x.1)[a - x.2]? else acc) acc
    | _ => acc) none

/-- What a core reads from a line: its own L1 copy, unless that may be too old, or the value that has performed (R196, R227). -/
def State.viewData (s : State) (core : Nat) (l : Ln) (fresh : Bool) : List Byte :=
  match s.ownL1 core l with
  | some x => if fresh then s.coherentData l.tag l.line l.pline else x.data
  | none => s.coherentData l.tag l.line l.pline

/-- The bytes that a load takes from a line it may read: the gang's own queued stores that have passed their checks (R195,
R223) over what its core sees. -/
def State.loadBytes (s : State) (r : Runner) (p : Pending) (l : Ln) (va n : Nat) (fresh : Bool) : List Byte :=
  let seen := slice (s.viewData r.core l fresh) (va % 128) n
  let stores := (r.gang.earlier p).filter (s.passes r)
  (List.range n).map fun j => (forwarded stores (va + j)).getD (nth seen j 0)

/-- The state in which a load may read a line (R190, R305, R311): its core's L1 holds it, which a GETS brings about, or, where
it goes no closer than the L2, the L2 has it. None while a transaction or an engine holds the line (R230, R313). -/
def State.readLine (s : State) (core vmid : Nat) (l : Ln) (hint va : Nat) : Option State :=
  if (s.ownL1 core l).isSome then some s
  else if s.lineBusy l.tag l.line l.pline || (s.l1On core && !l.heap && hint != 1) then none
  else (s.keepFill l va).fillL2 l (s.maskOfVm vmid) hint

/-- A copy of another device's line that a load may use (R418). -/
def State.remoteCopy (s : State) (r : Runner) (line : Nat) : Option (List Byte) :=
  let key := remoteTag (tagOf r.grid.vmid r.grid.asid)
  let own := if s.l1On r.core then (s.core r.core).l1? key line else none
  match own with
  | some x => some x.data
  | none => (s.mem.l2.find? fun x => x.tag == key && x.line == line).map fun x => x.data

/-- The elements of earlier loads of a gang that a load of a byte range has relied on: they keep their values (R196). -/
def Gang.relyOn (g : Gang) (id va n : Nat) : Gang :=
  let one := fun (q : Pending) =>
    match q.mem? with
    | some (k, f) =>
      if k.load && !k.scratch && decide (q.id < id) then
        let keys := (elemsAt k f q.addrs).filter fun x =>
          (Table.get? q.got x.1).isSome && rangesMeet (x.2, (k.elems f).1) (va, n)
        { q with firm := unionNat (keys.map fun x => x.1) q.firm }
      else q
    | none => q
  { g with pending := g.pending.map one }

/-- Whether an entry is a later load that is held with a faulted one (R203): it has taken a value, and it reads a byte that the
faulted load reads in any lane. -/
def Pending.follows (q p : Pending) : Bool :=
  match p.mem?, q.mem? with
  | some (kp, fp), some (kq, fq) =>
    kp.load && !kp.scratch && kq.load && !kq.scratch && decide (p.id < q.id) && q.going && !q.got.isEmpty
      && (p.addrs.any fun x => q.addrs.any fun y => rangesMeet (x.2, kp.bytes fp) (y.2, kq.bytes fq))
  | _, _ => false

/-- An entry with the values it has taken discarded, but for those that a later load has relied on (R196). -/
def Pending.discard (q : Pending) : Pending := { q with got := q.got.filter fun x => q.firm.contains x.1 }

/-- A load that has taken a value is held with an earlier faulted load that reads a common byte (R203): it leaves its counter and
its value is discarded. A load of the fault's handler is not (log entry 16). -/
def Gang.joinFault (g : Gang) (id : Nat) : Gang :=
  match g.pending? id with
  | none => g
  | some q =>
    match g.pending.find? fun p => p.answered && q.follows p with
    | some p =>
      if g.handling q then g
      else (g.addCounter q.ctr false).modPending id fun q => { q.discard with st := .behind p.id }
    | none => g

/-- Whether a load must see what has performed at the home of a WO line: it goes ahead of an order, which may be an acquire that
drops the core's copies (R227). -/
def Ln.fresh (l : Ln) (g : List Nat × Nat) : Bool := l.perms.attr == .wo && !g.1.isEmpty

/-- One element of a load takes its value, or its request leaves the package; nothing where it must wait. -/
def State.takeElem (s : State) (r : Runner) (p : Pending) (k : MemKind) (f : MForm) (key va : Nat) : State :=
  let n := (k.elems f).1
  let put := fun (s : State) (bs : List Byte) =>
    s.modGang r.core r.slot fun g => (g.relyOn p.id va n).modPending p.id fun q => q.keepElem key bs
  match s.route r.grid va with
  | .remote _ tdev tvmid tasid tva gtag =>
    if s.blocked r p [(va, n)] then s
    else
      match s.remoteCopy r (va / 128) with
      | some data => put s (slice data (va % 128) n)
      | none => if s.remoteBusy r va n then s else s.sendRemote r p key tdev tvmid tasid tva gtag va (.load n)
  | .reduce .. => s
  | _ =>
    match s.accessOf r k va n with
    | .error _ => s
    | .ok l =>
      match s.gate r p [(va, n)] l.tag l.line, s.readLine r.core r.grid.vmid l f.hint.toNat va with
      | some g, some t =>
        if s.held r.agent l.tag l.line false || (l.fresh g && s.lineBusy l.tag l.line l.pline) then s
        else (put t (t.loadBytes r p l va n (l.fresh g))).addHold r p l.tag l.line false g
      | _, _ => s

/-- What the word of an OCCQ says of its object (R294). -/
def occqSeen (tag : BitVec 31) (w : Word) : Bool := w.toNat == 2 ^ 31 + tag.toNat

/-- The predicate that an OCCQ writes. -/
def occqPred (p : Pending) (word : Nat → Word) : Option (Nat × Lanes) :=
  match p.op with
  | .occq tag (some n) =>
    some (n, p.addrs.foldl (fun (m : Lanes) x => if occqSeen tag (word x.1) then m ||| Lanes.one x.1 else m) 0)
  | _ => none

/-- The result of a load whose lanes all have their values (R192, R193, R294). -/
def loadOut (k : MemKind) (f : MForm) (p : Pending) : Out :=
  let words := fun lane => loadWords k f (p.lane k f lane)
  let pred := occqPred p fun lane => nth (words lane) 0 0
  if k == .sld then { Out.none with sregs := p.sdst.zip (words 0) }
  else
    { Out.none with
      vregs := (p.vdst.zip (List.range p.vdst.length)).map fun (x : Nat × Nat) =>
        (x.1, p.addrs.map fun (a : Nat × Nat) => (a.1, nth (words a.1) x.2 0))
      pred := pred }

/-- An outstanding entry of a gang as it stands. -/
def State.entry? (s : State) (core slot id : Nat) : Option Pending := (s.gang? core slot).bind fun g => g.pending? id

/-- A load whose elements have all been taken delivers its result (R192, R193). -/
def State.loadDeliver (s : State) (r : Runner) (id : Nat) (k : MemKind) (f : MForm) : State :=
  match s.entry? r.core r.slot id with
  | some p => if (p.openElems k f).isEmpty && p.st == .pending then s.deliver r.core r.slot id (loadOut k f p) else s
  | none => s

/-- LD and SLD (R192, R193, R194, R197): the element named takes its value, or all that are left do and the result
arrives. -/
def State.loadArrive (s : State) (r : Runner) (p : Pending) (k : MemKind) (f : MForm) (part : Option Nat) : State :=
  let now := (p.openElems k f).filter fun x =>
    (part.isNone || part == some x.1) && !s.awaits r.core r.slot p.id (some x.1) && s.mayGo r p [(x.1 / 8, x.2)]
  if p.addrs.isEmpty then
    (if s.blocked r p [] then s else (s.acquireOf r p).deliver r.core r.slot p.id (loadOut k f p))
  else
    let s := if now.isEmpty || !s.passes r p then s else s.markPassed r p
    let s := now.foldl (fun s x => s.takeElem r p k f x.1 x.2) s
    let s := if now.isEmpty then s else (s.modGang r.core r.slot fun g => g.joinFault p.id).afterTake r p.id
    if part.isNone then s.loadDeliver r p.id k f else s

/-! ### Atomic operations (R200) -/

/-- The result of a returning atomic: the old values (R200). -/
def atomOut (f : MForm) (p : Pending) : Out :=
  { Out.none with vregs := (p.vdst.zip (List.range p.vdst.length)).map fun (x : Nat × Nat) =>
      (x.1, p.addrs.map fun (a : Nat × Nat) =>
        (a.1, BitVec.ofNat 32 (leNat (p.kept a.1 (MForm.size f)) / 2 ^ (32 * x.2)))) }

/-! ### Scratchpad instructions (R199, R202, R204, R205) -/

/-- The scratchpad as an LDS reads it: an accumulator store of its team may lie before or after it, word by word (R51, R248). -/
def State.ldsSees (s : State) (r : Runner) (p : Pending) : Team :=
  (s.core r.core).besideAcc s.free p.pc.toNat r.gang.team r.team

/-- Elements of an LDS taken from the scratchpad. -/
def State.ldsTake (s : State) (r : Runner) (p : Pending) (f : MForm) (es : List (Nat × Nat)) : State :=
  let n := (MemKind.elems .lds f).1
  s.modGang r.core r.slot fun g => g.modPending p.id fun q =>
    es.foldl (fun (q : Pending) e => q.keepElem e.1 ((s.ldsSees r p).bytes e.2 n)) q

/-- LDS (R204): each element is read by itself (R194), or all that are left are; with `.fe` or `.clr` all in one step, at a
moment when no granule read is empty, and emptying the full ones. -/
def State.ldsArrive (s : State) (r : Runner) (p : Pending) (f : MForm) (part : Option Nat) : State :=
  let gs := addrGranules p.addrs (MemKind.bytes .lds f)
  let whole := MForm.fe f || MForm.clr f
  let now := (p.openElems .lds f).filter fun x => part.isNone || whole || part == some x.1
  if !s.passes r p || s.blocked r p (p.openSpans .lds f) || (MForm.fe f && gs.any fun g => r.team.granule g == .empty) then s
  else
    let clear := fun (t : Team) => gs.foldl (fun t g => if t.granule g == .full then t.setGranule g .empty else t) t
    let s := s.ldsTake r p f now
    let s := if MForm.clr f then s.modTeam r.core r.gang.team clear else s
    let s := if p.addrs.isEmpty then s.acquireOf r p else if now.isEmpty then s else s.afterTake r p.id
    if part.isNone || whole then s.loadDeliver r p.id .lds f else s

/-- The next lane of an ATOMS, in increasing lane order (R200, R202): its word changes and its old value is kept. -/
def State.atomsLane (s : State) (r : Runner) (id : Nat) (f : MForm) (t : Team) (p : Pending) : State :=
  match (p.open_ .atoms f).head? with
  | none => s
  | some x =>
    let n := MForm.size f
    let m := t.bytes x.2 n
    let d := p.atomData f x.1
    let s := s.modTeam r.core r.gang.team fun t =>
      t.store x.2 (leBytes n (atomNew (MForm.atomOp f) f.t (leNat m) d.1 d.2))
    s.modGang r.core r.slot fun g => g.modPending id fun q =>
      { q.keep x.1 m with
        done := insertNat x.1 q.done
        passed := true }

/-- Lanes of an ATOMS, at most `n` of them. -/
def State.atomsLanes (s : State) (r : Runner) (id : Nat) (f : MForm) : Nat → State
  | 0 => s
  | n + 1 =>
    match s.entry? r.core r.slot id, s.team? r.core r.gang.team with
    | some p, some t => (s.atomsLane r id f t p).atomsLanes r id f n
    | _, _ => s

/-- ATOMS (R202): the next lane performs, or all that are left do and the instruction leaves its counter. No lane performs
before every lane has passed its check. -/
def State.atomsPerform (s : State) (r : Runner) (p : Pending) (f : MForm) (one : Bool) : State :=
  if !s.passes r p || s.blocked r p (p.openSpans .atoms f) then s
  else
    let s := s.atomsLanes r p.id f (if one then 1 else (p.open_ .atoms f).length)
    let s := if p.addrs.isEmpty then s.acquireOf r p else s.afterTake r p.id
    match s.entry? r.core r.slot p.id with
    | some q =>
      if one || !(q.open_ .atoms f).isEmpty then s
      else s.deliver r.core r.slot p.id (if MForm.ret f then atomOut f q else Out.none)
    | none => s

/-- STS (R204): the element named is stored by itself (R194), or all that are left are. Where two lanes meet, the
higher-numbered lane's bytes stand (R192): an element waits for those of lower lanes that it overlaps. -/
def State.stsPerform (s : State) (r : Runner) (p : Pending) (f : MForm) (key : Option Nat) : State :=
  let e := MemKind.elems .sts f
  let left := (elemsAt .sts f p.addrs).filter fun x => !p.done.contains x.1
  let free := fun (x : Nat × Nat) => left.all fun y => !(decide (y.1 < x.1) && rangesMeet (x.2, e.1) (y.2, e.1))
  let now := match key with
    | some n => left.filter fun (x : Nat × Nat) => x.1 == n && free x
    | none => left
  if !s.passes r p || s.blocked r p (p.openSpans .sts f) then s
  else
    let bytes := fun (x : Nat × Nat) => slice (p.bytesOf (e.1 * e.2) (x.1 / 8)) (e.1 * (x.1 % 8)) e.1
    let s := s.modTeam r.core r.gang.team fun t => now.foldl (fun t (x : Nat × Nat) => t.store x.2 (bytes x)) t
    if now.length == left.length then s.deliver r.core r.slot p.id Out.none
    else s.modGang r.core r.slot fun g => g.modPending p.id fun q =>
      { q with done := unionNat (now.map fun (x : Nat × Nat) => x.1) q.done }

/-- The granule state that an FEC sets (R205). -/
def fecState (f : MForm) : Granule :=
  match f.sub.toNat % 4 with
  | 0 => .full
  | 1 => .empty
  | _ => .poison

/-- FEC (R205): the granule named changes, or all that are left do. -/
def State.fecPerform (s : State) (r : Runner) (p : Pending) (f : MForm) (granule : Option Nat) : State :=
  let left := (addrGranules p.addrs (MemKind.bytes .fec f)).eraseDups.filter fun g => !p.done.contains g
  let now := match granule with
    | some n => left.filter fun g => g == n
    | none => left
  if !s.passes r p || s.blocked r p p.rest then s
  else
    let s := s.modTeam r.core r.gang.team fun t => now.foldl (fun t g => t.setGranule g (fecState f)) t
    if now.length == left.length then s.deliver r.core r.slot p.id Out.none
    else s.modGang r.core r.slot fun g => g.modPending p.id fun q => { q with done := unionNat now q.done }

/-- Whether the acquire half of a FENCE holds (R198): every earlier load and returning atomic has taken its value. -/
def State.fenceAcquired (s : State) (r : Runner) (p : Pending) : Bool :=
  (r.gang.earlier p).all fun q => match q.mem? with
    | some (k, f) => !isReadEntry k f || s.finished r q
    | none => true

/-- Whether the release half of a FENCE holds (R198): every earlier access has performed at its scope. At gang scope there is
nothing to wait for. -/
def State.fenceReleased (s : State) (r : Runner) (p : Pending) (f : MForm) : Bool :=
  f.scope == 0 || (r.gang.earlier p).all fun q => q.mem?.any (fun x => x.1 == .fence) || !s.unfinished r q

/-- The fences after an `.iinv` make the code known to the cores of their scope (R44). -/
def State.fenceCode (s : State) (core scope : Nat) : State :=
  let one := fun (x : StaleCode) =>
    if !x.inv then some x
    else if 4 ≤ scope then none
    else some { x with fences := x.fences ++ [(scope, core)] }
  s.modMem fun m => { m with stale := m.stale.filterMap one }

/-- FENCE (R198): its acquire half takes effect by itself, and it leaves STC when its ordering holds. -/
def State.fencePerform (s : State) (r : Runner) (p : Pending) (f : MForm) : State :=
  let acq := !MForm.acq f || p.passed
  let now := !acq && s.fenceAcquired r p
  let s := if now then
      (s.acquireOf r p).modGang r.core r.slot fun g => g.modPending p.id fun q => { q with passed := true }
    else s
  if (acq || now) && (!MForm.rel f || s.fenceReleased r p f) then
    (s.fenceCode r.core f.scope.toNat).deliver r.core r.slot p.id Out.none
  else s

/-! ### Stores (R192, R195, R206, R207) -/

/-- The bytes that a store writes in a line: line offset and bytes, in lane order. -/
def Pending.lineWrites (p : Pending) (f : MForm) (line : Nat) : List (Nat × Nat × List Byte) :=
  (p.addrs.filter fun x => x.2 / 128 == line).map fun x => (x.1, x.2 % 128, p.bytesOf (MemKind.bytes .st f) x.1)

/-- A line's bytes with a store's writes. -/
def patchAll (data : List Byte) (ws : List (Nat × Nat × List Byte)) : List Byte :=
  ws.foldl (fun d w => patch d w.2.1 w.2.2) data

/-- The granules of a line that a range of bytes meets, as a mask. -/
def granuleMask (off n : Nat) : BitVec 8 :=
  (granulesOf off n).foldl (fun m g => m ||| BitVec.ofNat 8 (2 ^ g)) 0

/-- The granules that a store writes in a line. -/
def writesMask (ws : List (Nat × Nat × List Byte)) : BitVec 8 :=
  ws.foldl (fun m w => m ||| granuleMask w.2.1 w.2.2.length) 0

/-- The lines of a store that are left. -/
def Pending.linesLeft (p : Pending) (f : MForm) : List Nat := ((p.open_ .st f).map fun x => x.2 / 128).eraseDups

/-- Lines of a store have performed; with the last one, no request unanswered and nothing left of what it went ahead of, the
store leaves its counter (R195). -/
def State.storeDone (s : State) (r : Runner) (p : Pending) (f : MForm) (lines : List Nat) : State :=
  let s := s.modGang r.core r.slot fun g => g.modPending p.id fun q => { q with done := unionNat lines q.done }
  match s.entry? r.core r.slot p.id with
  | some q =>
    if (q.linesLeft f).isEmpty && q.st == .pending && !s.awaits r.core r.slot q.id none && !s.heldOwn r q.id then
      (s.acquireOf r q).deliver r.core r.slot q.id Out.none
    else s
  | none => s

/-- Whether another store holds or has written a granule of a WO line (R207). -/
def State.claimTaken (s : State) (pline : Nat) (mask : BitVec 8) (core slot id : Nat) : BitVec 8 :=
  let others := s.mem.claims.filter fun c => c.pline == pline && !(c.core == core && c.gang == slot && c.id == id)
  (others.foldl (fun (m : BitVec 8) c => m ||| c.mask) (s.lineMeta pline).womask) &&& mask

/-- A store of another device, as the claimer of granules (R417): its claims stand beside the mask, so that the lanes of one
instruction make one claim (R207). -/
def remoteClaimer (core : Nat) : Bool := decide (2 ^ 32 ≤ core)

/-- The claims of a store released (R207). -/
def State.dropClaims (s : State) (core slot id : Nat) : State :=
  s.modMem fun m => { m with claims := m.claims.filter fun c => !(c.core == core && c.gang == slot && c.id == id) }

/-- A WO line written through to its home, with its mask bits, and in the writer's own copy (R206, R207, R227). -/
def State.woWrite (s : State) (core : Option Nat) (l : Ln) (ws : List (Nat × Nat × List Byte)) : State :=
  let s := (s.staleCode l).touchL2 l.tag l.line l.pline
  let s := ws.foldl (fun s w => s.writeHome l.tag l.line l.pline w.2.1 w.2.2) s
  let m := s.lineMeta l.pline
  let s := s.setLineMeta l.pline { m with womask := m.womask ||| writesMask ws }
  match core with
  | some c => s.modL1 c l.tag l.line fun x => if x.st == .wo then { x with data := patchAll x.data ws } else x
  | none => s

/-- The lines of a store that lie on WO pages, with what it writes there. -/
def State.woLines (s : State) (r : Runner) (p : Pending) (f : MForm) : List (Ln × List (Nat × Nat × List Byte)) :=
  (p.linesLeft f).filterMap fun line =>
    match s.route r.grid (128 * line), s.accessOf r .st (128 * line) 1 with
    | .local_, .ok l => if l.perms.attr == .wo then some (l, p.lineWrites f line) else none
    | _, _ => none

/-- The lanes of a store whose claim on a line fails (R207). -/
def State.claimFails (s : State) (r : Runner) (p : Pending) (x : Ln × List (Nat × Nat × List Byte)) :
    List (Nat × Nat × List Byte) :=
  let bad := s.claimTaken x.1.pline (writesMask x.2) r.core r.slot p.id
  x.2.filter fun w => granuleMask w.2.1 w.2.2.length &&& bad != 0

/-- A store whose claim has failed (R207, R212): the claims that are left are tried as well, all are released, and every lane
that met WO_REWRITE is recorded. -/
def State.claimsFailed (s : State) (r : Runner) (p : Pending) (f : MForm) : State :=
  let hits := (s.woLines r p f).flatMap fun x => (s.claimFails r p x).map fun w => (w.1, 128 * x.1.line + w.2.1)
  (s.dropClaims r.core r.slot p.id).modGang r.core r.slot fun g => g.modPending p.id fun q =>
    hits.foldl (fun (q : Pending) w => q.failLane .woRewrite w.1 w.2 0) q

/-- One line's claim (R207): it fails and fails the store, or it stands; the last one confirms them all. -/
def State.claimLine (s : State) (r : Runner) (p : Pending) (f : MForm) (l : Ln) : State :=
  let ws := p.lineWrites f l.line
  if !(s.claimFails r p (l, ws)).isEmpty then s.claimsFailed r p f
  else
    let s := s.modMem fun m =>
      { m with claims := (m.claims.filter fun c => !(c.pline == l.pline && c.core == r.core && c.gang == r.slot && c.id == p.id))
          ++ [{ pline := l.pline, mask := writesMask ws, core := r.core, gang := r.slot, id := p.id }] }
    let lines := s.woLines r p f
    let claimed := fun (x : Ln × List (Nat × Nat × List Byte)) => s.mem.claims.any fun c =>
      c.pline == x.1.pline && c.core == r.core && c.gang == r.slot && c.id == p.id
    let gates := lines.filterMap fun x =>
      let spans := x.2.map fun w => (128 * x.1.line + w.2.1, w.2.2.length)
      if s.held r.agent x.1.tag x.1.line true then none else (s.gate r p spans x.1.tag x.1.line).map fun g => (x.1, x.2, g)
    if lines.all claimed && gates.length == lines.length then
      let s := gates.foldl (fun s x => (s.woWrite (some r.core) x.1 x.2.1).addHold r p x.1.tag x.1.line true x.2.2)
        (s.dropClaims r.core r.slot p.id)
      s.storeDone r p f (lines.map fun x => x.1.line)
    else s

/-- A store's writes to a line performed at its home, whose entry goes to I (R311, R317). -/
def State.storeHome (s : State) (l : Ln) (ws : List (Nat × Nat × List Byte)) : State :=
  s.writeAtHome l (ws.map fun w => w.2)

/-- One line of a store to a page that is not WO (R190, R201, R206, R311, R317): into the owner's L1 on an IP page, into the
core's own L1 that holds the line in M, or at the home once every other copy is gone. `g` is what it goes ahead of (R222). -/
def State.storeLine (s : State) (r : Runner) (p : Pending) (f : MForm) (l : Ln) (g : List Nat × Nat) : State :=
  let ws := p.lineWrites f l.line
  let done := fun (s : State) => (s.addHold r p l.tag l.line true g).storeDone r p f [l.line]
  let own := s.ownL1 r.core l
  let inL1 := (s.staleCode l).modL1 r.core l.tag l.line fun x =>
    { x with
      data := patchAll x.data ws
      dirty := true }
  let atHome := !s.l1On r.core || l.heap || (s.lineMeta l.pline).watch || f.hint == 1
  let writable := own.any fun x => x.st == .m && !(s.lineMeta l.pline).watch
  if l.perms.attr == .ip && s.l1On r.core then (if own.isSome then done inL1 else s)
  else if writable then done inL1
  else if !atHome || s.lineBusy l.tag l.line l.pline then s
  else
    match (s.keepFill l (128 * l.line)).fillL2 l (s.maskOfVm r.grid.vmid) f.hint.toNat with
    | none => s
    | some s =>
      match (s.dir l.tag l.line l.pline).probes none with
      | [] => done (s.storeHome l ws)
      | ps => s.openTxn { tag := l.tag, line := l.line, kind := .write r.core r.slot p.id, waiting := ps }

/-- The lanes of a store in a line of another device, each sent as one request (R416); a lane waits for the answers to earlier
requests that it overlaps, and for lower lanes of its own instruction (R192, R419). `got` notes the lanes sent. -/
def State.storeRemote (s : State) (r : Runner) (p : Pending) (f : MForm) (line : Nat) : State :=
  let n := MemKind.bytes .st f
  let lanes := (p.addrs.filter fun x => x.2 / 128 == line && (Table.get? p.got (8 * x.1)).isNone)
  let waits := fun (s : State) (x : Nat × Nat) => s.remoteBusy r x.2 n || lanes.any fun y =>
    decide (y.1 < x.1) && rangesMeet (x.2, n) (y.2, n) && (match s.entry? r.core r.slot p.id with
      | some q => (Table.get? q.got (8 * y.1)).isNone
      | none => true)
  let s := lanes.foldl (fun s x =>
    match s.route r.grid x.2 with
    | .remote _ tdev tvmid tasid tva gtag =>
      if waits s x then s
      else
        (s.modGang r.core r.slot fun g => g.modPending p.id fun q => { q with got := Table.put q.got (8 * x.1) 1 }).sendRemote
          r p (8 * x.1) tdev tvmid tasid tva gtag x.2 (.store (p.bytesOf n x.1))
    | _ => s) s
  let sent := match s.entry? r.core r.slot p.id with
    | some q => lanes.all fun x => (Table.get? q.got (8 * x.1)).isSome
    | none => false
  if sent then s.storeDone r p f [line] else s

/-- An entry that begins to perform has passed its checks, with every earlier one of the store queue (R195); remote lanes
say nothing of the local ones. -/
def State.passAll (s : State) (r : Runner) (p : Pending) : State :=
  let s := s.passEarlier r p
  if (s.laneFaults r p).isEmpty then s.markPassed r p else s

/-- ST, one local line (R192, R195, R203, R207): every lane has passed its checks, the orders hold or the store goes ahead of
narrower ones (R222), and a line that is not WO waits until the WO lines are confirmed. -/
def State.storeLocal (s : State) (r : Runner) (p : Pending) (f : MForm) (lanes : Table Nat) (l : Ln) : State :=
  let spans := lanes.map fun (x : Nat × Nat) => (x.2, MemKind.bytes .st f)
  match s.gate r p spans l.tag l.line with
  | none => s
  | some g =>
    let wo := l.perms.attr == .wo && !l.heap
    if s.held r.agent l.tag l.line true then s
    else
      let s := s.passAll r p
      let go := s.logWrite r.grid.vmid r.grid.asid (128 * l.line)
      if !go.1 then go.2
      else if wo then go.2.claimLine r p f l
      else if (go.2.woLines r p f).isEmpty then go.2.storeLine r p f l g
      else go.2

/-- ST, one line. A store all of whose lines have performed leaves its counter once nothing holds it. -/
def State.storePerform (s : State) (r : Runner) (p : Pending) (f : MForm) (line : Nat) : State :=
  let lanes := (p.open_ .st f).filter fun x => x.2 / 128 == line
  if p.addrs.isEmpty then (if s.blocked r p [] then s else s.deliver r.core r.slot p.id Out.none)
  else if (p.linesLeft f).isEmpty then s.storeDone r p f []
  else if lanes.isEmpty || !s.mayGo r p lanes then s
  else
    match s.route r.grid (128 * line) with
    | .remote .. =>
      if s.blocked r p (lanes.map fun (x : Nat × Nat) => (x.2, MemKind.bytes .st f)) then s
      else (s.passAll r p).storeRemote r p f line
    | .reduce .. => s
    | _ =>
      match s.accessOf r .st (lanes.headD (0, 0)).2 (MemKind.bytes .st f) with
      | .error _ => s
      | .ok l => s.storeLocal r p f lanes l

/-! ### Atomics on memory (R200, R201) -/

/-- One lane of an atomic performed on a line's bytes: the new bytes and the old (R200). -/
def atomLane (f : MForm) (p : Pending) (lane : Nat) (old : List Byte) : List Byte :=
  let d := p.atomData f lane
  leBytes (MForm.size f) (atomNew (MForm.atomOp f) f.t (leNat old) d.1 d.2)

/-- A lane of an atomic has performed; its old value is kept. An acquire takes effect with the last lane (R197). -/
def State.laneDone (s : State) (r : Runner) (p : Pending) (lane : Nat) (old : List Byte) : State :=
  (s.modGang r.core r.slot fun g => (g.relyOn p.id (Table.getD p.addrs lane 0) old.length).modPending p.id fun q =>
    { q.keep lane old with done := insertNat lane q.done }).afterTake r p.id

/-- A lane of an atomic performed at the line's home (R201, R311); `g` is what it goes ahead of (R222). -/
def State.atomHome (s : State) (r : Runner) (p : Pending) (f : MForm) (lane va : Nat) (l : Ln) (g : List Nat × Nat) : State :=
  let old := slice (s.coherentData l.tag l.line l.pline) (va % 128) (MForm.size f)
  ((s.writeAtHome l [(va % 128, atomLane f p lane old)]).addHold r p l.tag l.line true g).laneDone r p lane old

/-- A lane of an atomic performed in the owner's L1 (R206). -/
def State.atomL1 (s : State) (r : Runner) (p : Pending) (f : MForm) (lane va : Nat) (l : Ln) (x : L1Line) (g : List Nat × Nat) :
    State :=
  let old := slice x.data (va % 128) (MForm.size f)
  let s := (s.staleCode l).modL1 r.core x.tag x.line fun y =>
    { y with
      data := patch y.data (va % 128) (atomLane f p lane old)
      dirty := true }
  (s.addHold r p l.tag l.line true g).laneDone r p lane old

/-- The next lane of an atomic: the lowest that has not performed (R200). -/
def Pending.nextLane (p : Pending) (f : MForm) : Option (Nat × Nat) := (p.open_ .atom f).head?

/-- The next lane that may perform: with a fault among the local lanes, the next remote one (R203). -/
def State.nextLaneOf (s : State) (r : Runner) (p : Pending) (f : MForm) : Option (Nat × Nat) :=
  (p.open_ .atom f).find? fun x => s.mayGo r p [x]

/-- A lane of an atomic on a local page (R201, R206, R311): at the home once every L1 copy is invalidated, in the owner's L1 on
an IP page. -/
def State.atomLocal (s : State) (r : Runner) (p : Pending) (f : MForm) (lane va : Nat) (l : Ln) (g : List Nat × Nat) : State :=
  let go := s.logWrite r.grid.vmid r.grid.asid va
  let s := go.2
  if !go.1 || s.held r.agent l.tag l.line true then s
  else if l.perms.attr == .ip && s.l1On r.core then
    match (s.core r.core).l1? l.tag l.line with
    | some x => s.atomL1 r p f lane va l x g
    | none => s
  else if s.lineBusy l.tag l.line l.pline then s
  else
    match (s.keepFill l va).fillL2 l (s.maskOfVm r.grid.vmid) f.hint.toNat with
    | none => s
    | some s =>
      match (s.dir l.tag l.line l.pline).probes none with
      | [] => s.atomHome r p f lane va l g
      | ps => s.openTxn { tag := l.tag, line := l.line, kind := .write r.core r.slot p.id, waiting := ps }

/-- The next lane of an ATOM (R200, R201): on a local page, or sent to the target device. -/
def State.atomStep (s : State) (r : Runner) (p : Pending) (f : MForm) : State :=
  match s.nextLaneOf r p f with
  | none => s
  | some (lane, va) =>
    let n := MForm.size f
    match s.route r.grid va with
    | .remote _ tdev tvmid tasid tva gtag =>
      if s.blocked r p [(va, n)] || s.remoteBusy r va n then s
      else
        let s := s.passAll r p
        let d := p.atomData f lane
        let op := RemoteOp.atomic (MForm.atomOp f) f.t (BitVec.ofNat 64 d.1) (BitVec.ofNat 64 d.2)
        let s := s.sendRemote r p (8 * lane) tdev tvmid tasid tva gtag va op
        s.modGang r.core r.slot fun g => g.modPending p.id fun q => { q with done := insertNat lane q.done }
    | .reduce .. => s
    | _ =>
      match s.accessOf r .atom va n with
      | .error _ => s
      | .ok l =>
        match s.gate r p [(va, n)] l.tag l.line with
        | none => s
        | some g => (s.passAll r p).atomLocal r p f lane va l g

/-- Whether every lane of an atomic has performed, and nothing that one went ahead of is left (R222). -/
def State.atomComplete (s : State) (r : Runner) (p : Pending) (f : MForm) : Bool :=
  p.st == .pending && (p.nextLane f).isNone && !s.awaits r.core r.slot p.id none && !s.heldOwn r p.id
  && !(p.addrs.isEmpty && s.blocked r p [])

/-- An ATOM whose lanes have all performed leaves its counter, with its old values where it returns them. -/
def State.atomFinish (s : State) (r : Runner) (p : Pending) (f : MForm) : State :=
  if s.atomComplete r p f then
    (if p.addrs.isEmpty then s.acquireOf r p else s).deliver r.core r.slot p.id (if MForm.ret f then atomOut f p else Out.none)
  else s

/-! ### WORESET (R209, R315) -/

/-- A 64 KiB frame starts a new generation: its lines' masks are cleared, and every cached copy of them is dropped after
dirty bytes have gone to memory. -/
def State.resetFrame (s : State) (frame : Nat) : State :=
  let inFrame := fun (pline : Nat) => pline / 512 == frame
  let s := s.cores.foldl (fun s (k : Nat × Core) =>
    (k.2.l1.filter fun x => inFrame x.pline && x.st != .remote).foldl (fun s x => s.dropL1 k.1 x.tag x.line) s) s
  let s := (s.mem.l2.filter fun x => inFrame x.pline && !x.remote).foldl State.evictL2 s
  s.modMem fun m =>
    { m with
      claims := m.claims.filter fun c => !(inFrame c.pline && remoteClaimer c.core)
      lines := m.lines.filterMap fun (x : Nat × LineMeta) =>
        let y := if inFrame x.1 then { x.2 with womask := 0 } else x.2
        if y == LineMeta.zero then none else some (x.1, y) }

/-- n units from an address start new generations. -/
def State.resetUnits (s : State) (r : Runner) : Nat → Nat → State
  | 0, _ => s
  | n + 1, va =>
    let s := match s.accessOf r .woreset va 1 with
      | .ok l => s.resetFrame (l.pline / 512)
      | .error _ => s
    s.resetUnits r n (va + 65536)

/-- The runs of units of a WORESET that lie on one device, as first unit and count, in order (R416); one of no unit where it has
none. -/
def State.woRuns (s : State) (r : Runner) (p : Pending) (va : Nat) : List (Nat × Nat) :=
  let rank := fun (k : Nat) => match s.route r.grid (va + 65536 * k) with
    | .remote j .. => some j
    | _ => none
  if p.units == 0 then [(0, 0)]
  else
    (List.range p.units).foldl (fun acc k => match acc.getLast? with
      | some x => if rank x.1 == rank k then acc.dropLast ++ [(x.1, x.2 + 1)] else acc ++ [(k, 1)]
      | none => [(k, 1)]) []

/-- A WORESET whose units have all been reset leaves its counter (R209). -/
def State.woresetDone (s : State) (r : Runner) (id va : Nat) : State :=
  match s.entry? r.core r.slot id with
  | some q =>
    if q.st == .pending && (s.woRuns r q va).all (fun x => q.done.contains x.1) && !s.awaits r.core r.slot id none then
      s.deliver r.core r.slot id Out.none
    else s
  | none => s

/-- One run of a WORESET: its units are reset here, or its target is asked to reset them (R209, R416). `done` notes it. -/
def State.woresetRun (s : State) (r : Runner) (p : Pending) (va : Nat) (x : Nat × Nat) : State :=
  let a := va + 65536 * x.1
  let t := s.modGang r.core r.slot fun g => g.modPending p.id fun q => { q with done := insertNat x.1 q.done }
  if p.done.contains x.1 then s
  else
    match s.route r.grid a with
    | .remote _ tdev tvmid tasid tva gtag =>
      if s.remoteBusy r a (65536 * x.2) then s
      else t.sendRemote r p (8 * x.1) tdev tvmid tasid tva gtag a (.woreset x.2)
    | _ => t.resetUnits r x.2 a

/-- WORESET (R209), at its targets for units in another device's window (R416). -/
def State.woresetPerform (s : State) (r : Runner) (p : Pending) : State :=
  match p.addrs with
  | [(_, va)] =>
    if !s.passes r p || s.blocked r p p.rest then s
    else
      let s := (s.passEarlier r p).markPassed r p
      ((s.woRuns r p va).foldl (fun s x => s.woresetRun r p va x) s).woresetDone r p.id va
  | _ => s

/-! ### The events -/

/-- MEMORY_ACCESS_PERFORM (R195): an entry that counts on STC performs: the line of an ST that is named; of an STS, an FEC or
an ATOMS all that is left for 0, else the element, granule or next lane that the number less 1 names; of any other, the
whole. An entry with refused remote lanes goes on with the lanes it has left (R215, R416). -/
def execMemoryAccessPerform (core gang id part : Nat) (s : State) : Host.Outcome State Fault Refusal :=
  match s.runner? core gang with
  | none => .next s
  | some r =>
    match r.gang.pending? id with
    | none => .next s
    | some p =>
      let one := if part == 0 then none else some (part - 1)
      match p.mem? with
      | some (k, f) =>
        if !p.going then .next s
        else
          match k with
          | .st => .next (s.storePerform r p f part)
          | .sts => .next (s.stsPerform r p f one)
          | .fec => .next (s.fecPerform r p f one)
          | .fence => .next (s.fencePerform r p f)
          | .woreset => .next (s.woresetPerform r p)
          | .atom => .next (if MForm.ret f then s else s.atomFinish r p f)
          | .atoms => .next (if MForm.ret f then s else s.atomsPerform r p f one.isSome)
          | _ => .next s
      | none => .next s

/-- HOME_ATOMIC (R201, R311): the next lane of an ATOM. -/
def execHomeAtomic (core gang id : Nat) (s : State) : Host.Outcome State Fault Refusal :=
  match s.runner? core gang with
  | none => .next s
  | some r =>
    match r.gang.pending? id with
    | none => .next s
    | some p =>
      match p.mem? with
      | some (.atom, f) => .next (s.atomStep r p f)
      | _ => .next s

/-- A result of a memory instruction of LDC arrives (R192, R193, R200, R204). -/
def State.memArrive (s : State) (r : Runner) (p : Pending) (part : Option Nat) : State :=
  match p.mem? with
  | some (k, f) =>
    if !p.going then s
    else
      match k with
      | .ld | .sld => s.loadArrive r p k f part
      | .lds => s.ldsArrive r p f part
      | .atom => if MForm.ret f then s.atomFinish r p f else s
      | .atoms => if MForm.ret f then s.atomsPerform r p f part.isSome else s
      | _ => s
  | none => s

/-- A write that waited for probes performs (R311, R317): a line of an ST, or a lane of an ATOM. One that must wait once more
(R222) is carried out as if its request came now. -/
def State.finishWrite (s : State) (core gang id tag line : Nat) : State :=
  match s.runner? core gang with
  | none => s
  | some r =>
    match r.gang.pending? id with
    | none => s
    | some p =>
      match p.mem? with
      | some (.st, f) =>
        match s.accessOf r .st (128 * line) 1, p.going with
        | .ok l, true => if l.tag == tag then s.storePerform r p f line else s
        | _, _ => s
      | some (.atom, f) =>
        match s.nextLaneOf r p f with
        | some (_, va) => if va / 128 == line && tagOf r.grid.vmid r.grid.asid == tag then s.atomStep r p f else s
        | none => s
      | _ => s

/-- The directory entry of a line set, where the L2 holds the line. -/
def State.settleDir (s : State) (tag line : Nat) (d : DirEntry) : State :=
  match s.mem.l2.find? fun x => x.tag == tag && x.line == line with
  | some x => s.setDir tag line x.pline d
  | none => s

/-- A transaction whose acknowledgements are complete is carried out (R311, R313, R316). A write finds the entry in I, the
copies being gone. -/
def State.finishTxn (s : State) (t : Txn) : State :=
  let s := s.closeTxn t.tag t.line
  match t.kind with
  | .getm core =>
    let room := ((s.core core).l1? t.tag t.line).isSome || !s.l1Full core
    match s.access .store (some core) (t.tag / 2 ^ 20) (t.tag % 2 ^ 20) (128 * t.line) 1 with
    | .ok l => if s.l1On core && room then s.grantM core l else s.settleDir t.tag t.line DirEntry.empty
    | .error _ => s
  | .write core gang id => (s.settleDir t.tag t.line DirEntry.empty).finishWrite core gang id t.tag t.line
  | .engine cluster unit => s.settleDir t.tag t.line { DirEntry.empty with st := .en, eown := 8 * cluster + unit }

/-- PROBE_ACK (R313): a probed core gives up its copy and acknowledges; the count complete, the home goes on. -/
def execProbeAck (core tag line : Nat) (s : State) : Host.Outcome State Fault Refusal :=
  match s.txn? tag line with
  | none => .next s
  | some t =>
    if !t.waiting.contains core then .next s
    else
      let tracked := match (s.core core).l1? tag line with
        | some x => x.st.tracked
        | none => false
      let s := if tracked then s.dropL1 core tag line else s
      let left := t.waiting.filter fun c => c != core
      let s := s.modMem fun m =>
        { m with txns := m.txns.map fun x => if x.tag == tag && x.line == line then { x with waiting := left } else x }
      .next (if left.isEmpty then s.finishTxn t else s)

/-- The result quads of the lanes of a TXREQ or TXWAIT that have theirs (R347). -/
def quadOut (p : Pending) : Out :=
  { Out.none with
    vregs := (p.vdst.zip (List.range p.vdst.length)).map fun (x : Nat × Nat) =>
      (x.1, p.done.map fun lane => (lane, BitVec.ofNat 32 (leNat (slice (p.kept lane 16) (4 * x.2) 4)))) }

/-- Whether an entry is a TXREQ or TXWAIT, whose other lanes write their results when one of them faults (R346). -/
def Pending.quad (p : Pending) : Bool :=
  match p.op with
  | .txreq _ => true
  | .txwait => true
  | _ => false

/-- Whether a lane of a TXREQ, TXWAIT or RAYQ has neither a result nor a fault. -/
def Pending.laneOpen (p : Pending) (lane : Nat) : Bool := !p.done.contains lane && (Table.get? p.fails lane).isNone

/-- Whether a TXREQ or TXWAIT has such a lane. -/
def Pending.quadOpen (p : Pending) : Bool := p.quad && p.data.any fun (x : Nat × List Word) => p.laneOpen x.1

/-- Whether a lane of a TXREQ or TXWAIT has a HIT: an acquire at package scope (R356). -/
def Pending.quadHit (p : Pending) : Bool :=
  p.quad && p.data.any fun (x : Nat × List Word) => p.done.contains x.1 && leNat (slice (p.kept x.1 16) 0 4) == 0

/-- The gang with the result quads of an entry's lanes written. -/
def Gang.writeQuads (g : Gang) (p : Pending) : Gang :=
  if p.quad then
    (quadOut p).vregs.foldl (fun g w => g.writeSlot w.1 (w.2.filter fun y => p.live.getLsbD y.1)) g
  else g

/-- Whether lanes of a failing entry are still to perform: remote ones, and with no local fault the local ones of a store
or an atomic (R203, R215, R416). -/
def State.lanesLeft (s : State) (r : Runner) (p : Pending) : Bool :=
  match p.mem? with
  | some (k, f) =>
    (k == .ld || k == .sld || k == .st || k == .atom) && (p.open_ k f).any fun x =>
      s.isRemote r x.2 || ((k == .st || k == .atom) && p.st != .pending && s.mayGo r p [x])
  | none => false

/-- An entry with the faults that its local lanes meet now. -/
def State.withLocalFaults (s : State) (r : Runner) (p : Pending) : Pending :=
  let once := match p.mem? with
    | some (k, _) => k.once
    | none => false
  (s.laneFaults r p).foldl (fun (q : Pending) x => q.addFailure once x.2.2 x.1 x.2.1 0) p

/-- A failing entry leaves its counter with its destinations marked faulted, and the loads held with it leave theirs (R203,
R210). -/
def Gang.faultArrives (g : Gang) (p : Pending) (code : Code) (lanes : Lanes) (addr : DWord) (rcode : BitVec 8) : Gang :=
  let behind := g.pending.filter fun q => q.follows p
  let g := (p :: behind).foldl (fun (g : Gang) q => g.addCounter q.ctr false) (g.writeQuads p)
  let mark := fun (q : Pending) =>
    if q.id == p.id then { q with st := .faulted code lanes addr rcode }
    else if q.follows p then { q.discard with st := .behind p.id }
    else q
  let awake := fun (b : SubGang) => { b with waits := b.waits.filter fun w => w != p.id }
  { g with
    pending := g.pending.map mark
    subs := g.subs.map awake }

/-- The walks of an entry's failing local lanes, each page walked once, leave in `WALKERR` what they met (R321, R323). -/
def State.noteWalks (s : State) (r : Runner) (p : Pending) : State :=
  ((s.laneFaults r p).map fun x => x.2.1 / 65536).eraseDups.foldl
    (fun s page => s.noteWalk r.grid.vmid r.grid.asid (65536 * page) (some r.core)) s

/-- DEFERRED_FAULT_ARRIVE (R203, R210): a failing entry leaves its counter, its destinations are marked faulted, and it
keeps its code. A later load of a common byte is held with a faulted load. With requests of it unanswered, its remote
lanes come first. A HIT of another lane is an acquire all the same (R356). -/
def execDeferredFaultArrive (core gang id : Nat) (s : State) : Host.Outcome State Fault Refusal :=
  match s.runner? core gang with
  | none => .next s
  | some r =>
    match r.gang.pending? id with
    | none => .next s
    | some p =>
      match (s.withLocalFaults r p).st with
      | .failing code lanes addr rcode =>
        if s.awaits core gang id none || p.quadOpen || s.lanesLeft r p then .next s
        else
          let s := if p.quadHit then s.acquired r 4 else s
          .next ((s.noteWalks r p).modGang core gang fun g => g.faultArrives p code lanes addr rcode)
      | _ => .next s

end Sys2Proof.Machine
end

