-- ==== Sys2Proof/Machine/Barrier.lean ====
section
/-! DEFINITION. The cluster's barriers (R277 to R283) and the Damsel (R284, R285). -/

namespace Sys2Proof.Machine

/-! ### Fields -/

/-- `count` registers from a number. -/
def vRun (first count : Nat) : List Nat := (List.range count).map fun j => first + j

/-- An operand that a uniform register or an integer constant gives, read as N32 ("k" of R265 and R247). -/
def Issuer.num (c : Issuer) (o : Opd) : Nat := c.read .n32 o 0

/-- The number of the s register that an operand names. -/
def sNum : Opd → Nat
  | .s n => n.toNat
  | _ => 0

/-- The s registers that an operand of a cluster instruction names: one, or the pair. -/
def sRegs (wide : Bool) (o : Opd) : List Nat := uDstS wide o

/-- A run-time operand outside its range (R266). -/
def Issuer.reserved (c : Issuer) : Stop := .fault (c.record .reservedField c.sub.fibres 0 0)

/-- RESERVED_FIELD unless a run-time operand is in its range (R266). -/
def Issuer.checkRange (c : Issuer) (ok : Bool) : Except Stop Unit := if ok then .ok () else .error c.reserved

/-- The s registers that an instruction of R265 which acts once touches. -/
def Issuer.checkOnce (c : Issuer) (ss : List Nat) : Except Stop Unit :=
  c.checkTouch c.sub.fibres { v := [], s := ss, p := [] }

/-- An ENC instruction whose result is known at issue (R46, R265). -/
def State.issueKnown (s : State) (c : Issuer) (ws : List (Nat × Word)) : State :=
  (s.issue c .enc [] [] (ws.map fun w => w.1) none c.sub.fibres fun p =>
    { p with out := { Out.none with sregs := ws } }).advance c

/-- The issuing sub-gang parks at the end of its clause until instruction `id` has its result (R29, R67). -/
def State.waitFor (s : State) (c : Issuer) (id : Nat) : State :=
  s.modGang c.core c.slot fun g => g.modSub c.sub.id fun b => { b with waits := b.waits ++ [id] }

/-! ### Barriers (R277 to R283) -/

def State.barrier (s : State) (cl bar : Nat) : Barrier := Table.getD (s.cluster cl).barriers bar Barrier.reset

def State.setBarrier (s : State) (cl bar : Nat) (b : Barrier) : State :=
  s.modCluster cl fun k => { k with barriers := Table.put k.barriers bar b }

/-- The status pair of a disabled barrier (R282). -/
def disabledStatus : Word × Word := (BitVec.ofNat 32 (2 ^ 31), 0)

/-- The status of a completed phase (R282). -/
def Barrier.status (b : Barrier) : Word × Word :=
  (BitVec.ofNat 32 ((if b.errp then 2 ^ 30 else 0) + (if b.ovrp then 2 ^ 29 else 0) + b.phase.toNat),
    BitVec.ofNat 32 b.gsum)

/-- A phase completes (R280). -/
def Barrier.complete (b : Barrier) : Barrier :=
  let b := { b with ovrp := b.ovrp || decide (b.target < b.arrived) }
  { b with
    last := b.status
    phase := b.phase + 1
    arrived := 0
    errp := false
    ovrp := false
    gsum := 0 }

/-- An arrival of count m (R279): the barrier after it, and whether a phase completed. -/
def Barrier.arrive (b : Barrier) (m : Nat) (err : Bool) (granules : Nat) : Barrier × Bool :=
  if b.target == 0 then (b, false)
  else if m == 0 then ({ b with errp := b.errp || err }, false)
  else
    let b := { b with
      arrived := b.arrived + m
      errp := b.errp || err
      gsum := min (b.gsum + granules) (2 ^ 24 - 1) }
    if b.target ≤ b.arrived then (b.complete, true) else (b, false)

/-- The result of a wait at a barrier delivered, and its acquire at cluster scope (R281). -/
def State.deliverWait (s : State) (core slot id : Nat) (status : Word × Word) : State :=
  match s.runner? core slot with
  | none => s
  | some r =>
    match r.gang.pending? id with
    | none => s
    | some p =>
      (s.acquired r 2).deliver core slot id { Out.none with sregs := p.sdst.zip [status.1, status.2] }

/-- The instructions of a cluster's cores that wait for a phase of a barrier: core, gang slot and number. -/
def State.barrierWaiters (s : State) (cl bar : Nat) (phase : BitVec 8) : List (Nat × Nat × Nat) :=
  (s.cores.filter fun (k : Nat × Core) => clusterOf k.1 == cl).flatMap fun (k : Nat × Core) =>
    k.2.gangs.flatMap fun (g : Nat × Gang) =>
      (g.2.pending.filter fun p => p.sent && (match p.op with
        | .barrier n ph _ => n == bar && ph == phase.toNat
        | _ => false)).map fun p => (k.1, g.1, p.id)

/-- An arrival at a barrier of a cluster (R279, R280): a completion releases every gang that waits for the phase, with the
phase's status. -/
def State.arrive (s : State) (cl bar m : Nat) (err : Bool) (granules : Nat) : State :=
  let b := s.barrier cl bar
  let r := b.arrive m err granules
  let waiters := if r.2 then s.barrierWaiters cl bar b.phase else []
  let s := s.setBarrier cl bar r.1
  waiters.foldl (fun s w => s.deliverWait w.1 w.2.1 w.2.2 r.1.last) s

/-- The token of a BARA (R279). -/
def Barrier.token (b : Barrier) : Word :=
  BitVec.ofNat 32 (b.phase.toNat + (if b.target == 0 then 2 ^ 31 else 0))

/-- A BARW, or a BARAW that has arrived, looks at its barrier (R281): with its phase over or the barrier disabled it completes
at once, else it waits. One that a restore brought back looks at the phase alone (R283). -/
def State.barrierLook (s : State) (core slot id bar phase : Nat) (restored : Bool) : State :=
  let b := s.barrier (clusterOf core) bar
  if b.target == 0 && !restored then s.deliverWait core slot id disabledStatus
  else if b.phase.toNat != phase then s.deliverWait core slot id b.last
  else s.modGang core slot fun g => g.modPending id fun p => { p with sent := true }

/-- The arrival of a BARA or BARAW reaches the unit (R279, R281). -/
def State.arriveRequest (s : State) (core slot id bar count : Nat) (err wait : Bool) : State :=
  let cl := clusterOf core
  let b := s.barrier cl bar
  if wait then
    if b.target == 0 then s.deliverWait core slot id disabledStatus
    else
      let s := s.modGang core slot fun g => g.modPending id fun p =>
        { p with
          op := .barrier bar b.phase.toNat 0
          sent := true }
      s.arrive cl bar count err 0
  else
    let s := s.arrive cl bar count err 0
    match (s.gang? core slot).bind fun g => g.pending? id with
    | some p => s.deliver core slot id { Out.none with sregs := p.sdst.zip [b.token] }
    | none => s

/-- BARINIT (R278). -/
def execBarinit (f : EForm) (s : State) : Host.Outcome State Fault Refusal :=
  runInstr s fun c => do
    c.checkOnce (opdS .n32 f.a ++ opdS .n32 f.b)
    let bar := c.num f.a
    let target := c.num f.b
    c.checkRange (decide (bar < 64) && decide (target < 65536))
    c.checkCounter .enc
    let cl := clusterOf c.core
    let b := { s.barrier cl bar with
      target := target
      arrived := 0
      errp := false
      ovrp := false
      gsum := 0 }
    .ok ((s.setBarrier cl bar b).issueKnown c [])

/-- BARA and BARAW at issue (R279, R281): a release at cluster scope. -/
def arriveIssue (f : EForm) (wait : Bool) (s : State) : Host.Outcome State Fault Refusal :=
  runInstr s fun c => do
    let ds := sRegs wait f.d
    c.checkOnce (ds ++ opdS .n32 f.a ++ opdS .n32 f.b)
    let bar := c.num f.a
    let count := c.num f.b
    c.checkRange (decide (bar < 64) && decide (count < 65536))
    c.checkReport
    c.checkCounter .enc
    let id := s.nextId
    let s := s.issue c .enc [] [] ds none c.sub.fibres fun p =>
      { p with
        sent := false
        op := .request (.arrive bar count (f.sub.getLsbD 0) wait) }
    .ok ((if wait then s.waitFor c id else s).advance c)

/-- BARA (R279). -/
def execBara (f : EForm) (s : State) : Host.Outcome State Fault Refusal := arriveIssue f false s

/-- BARAW (R281). -/
def execBaraw (f : EForm) (s : State) : Host.Outcome State Fault Refusal := arriveIssue f true s

/-- BARW (R281). -/
def execBarw (f : EForm) (s : State) : Host.Outcome State Fault Refusal :=
  runInstr s fun c => do
    let ds := sRegs true f.d
    c.checkOnce (ds ++ opdS .n32 f.a ++ opdS .n32 f.b)
    let bar := c.num f.a
    c.checkRange (decide (bar < 64))
    c.checkCounter .enc
    let id := s.nextId
    let s := s.issue c .enc [] [] ds none c.sub.fibres fun p =>
      { p with
        sent := false
        op := .barrier bar (c.num f.b % 256) 0 }
    .ok ((s.waitFor c id).advance c)

/-! ### The Damsel (R284, R285) -/

def State.damsel (s : State) (cl slot : Nat) : DamselSlot := Table.getD (s.cluster cl).damsel slot DamselSlot.empty

def State.setDamsel (s : State) (cl slot : Nat) (d : DamselSlot) : State :=
  s.modCluster cl fun k => { k with damsel := Table.put k.damsel slot d }

/-- The slot that four registers load, none where R284 refuses them. -/
def rangeOf (first stop w2 w3 : Nat) : Option DamselSlot :=
  let minc := bitsOf w2 15 0
  let kf := bitsOf w2 23 16
  let pw := bitsOf w3 15 0
  if minc == 0 || kf == 0 || pw == 0 || decide (stop < first) || bitsOf w2 31 24 != 0 || bitsOf w3 31 16 != 0 then none
  else some { next := first, stop := stop, minc := minc, kf := kf, pw := pw }

/-- The chunk that a TAKE claims (R285). -/
def DamselSlot.chunk (d : DamselSlot) : Nat :=
  let rem := d.stop - d.next
  min rem (max d.minc (ceilDiv rem (d.kf * d.pw)))

/-- RANGESET (R284). -/
def execRangeset (f : EForm) (s : State) : Host.Outcome State Fault Refusal :=
  runInstr s fun c => do
    let n := match f.b with
      | .s n => n.toNat
      | _ => 0
    c.checkOnce (opdS .n32 f.a ++ vRun n 4)
    let slot := c.num f.a
    let w := fun k => (c.sreg (n + k)).toNat
    c.checkRange (decide (slot < 16))
    match rangeOf (w 0) (w 1) (w 2) (w 3) with
    | none => .error c.reserved
    | some d =>
      c.checkCounter .enc
      .ok ((s.setDamsel (clusterOf c.core) slot d).issueKnown c [])

/-- TAKE (R285). -/
def execTake (f : EForm) (s : State) : Host.Outcome State Fault Refusal :=
  runInstr s fun c => do
    let ds := sRegs true f.d
    c.checkOnce (ds ++ opdS .n32 f.a)
    let slot := c.num f.a
    c.checkRange (decide (slot < 16))
    c.checkCounter .enc
    let cl := clusterOf c.core
    let d := s.damsel cl slot
    let out := ds.zip [BitVec.ofNat 32 d.next, BitVec.ofNat 32 d.chunk]
    .ok ((s.setDamsel cl slot { d with next := d.next + d.chunk }).issueKnown c out)

end Sys2Proof.Machine
end

