-- ==== Sys2Proof/Machine/Leat.lean ====
section
/-! DEFINITION. The Leat copy engines (R267 to R276, R420, R421) and the lines they own (R230, R316). -/

namespace Sys2Proof.Machine

/-! ### Descriptors (R268 to R270) -/

/-- A descriptor from its 64 bytes (R268). -/
def copyDesc (bs : List Byte) : CopyDesc :=
  let d := fun k => leNat ((bs.drop (8 * k)).take 8)
  { src := bitsOf (d 0) 55 0, dst := bitsOf (d 1) 55 0, dlt := bitsOf (d 2) 55 0, cols := bitsOf (d 3) 63 48,
    rows := bitsOf (d 3) 47 32, bar := (d 3).testBit 23, bnum := bitsOf (d 3) 21 16, etype := bitsOf (d 3) 10 5,
    dsp := (d 3).testBit 4, sfmt := bitsOf (d 3) 3 0, dcnt := bitsOf (d 4) 63 40, pitch := bitsOf (d 4) 39 0,
    reservedSet := bitsOf (d 0) 63 56 != 0 || bitsOf (d 1) 63 56 != 0 || bitsOf (d 2) 63 56 != 0
      || bitsOf (d 3) 31 24 != 0 || (d 3).testBit 22 || bitsOf (d 3) 15 11 != 0 || d 5 != 0 || d 6 != 0 || d 7 != 0 }

/-- Bits of an element of a copy (R84, R269); 0 for a type a copy does not take. -/
def copyBits : Ty → Nat
  | .b64 | .i64 | .n64 | .f64 => 64
  | .f16 | .bf16 | .cbv8 => 16
  | .e4m3 | .e5m2 | .e3m2 | .e2m3 | .e8m0 | .i8 | .n8 | .cbv4 | .cbs8 | .mxe4m3 | .mxi8 => 8
  | .e2m1 | .i4 | .n4 | .mxe2m1 | .se2m1 => 4
  | .ext _ => 0
  | _ => 32

/-- The type a descriptor names, and its element bits; 0 where the code is undefined. -/
def CopyDesc.ty (d : CopyDesc) : Ty := (Ty.ofCode d.etype).getD .b32
def CopyDesc.bits (d : CopyDesc) : Nat :=
  match Ty.ofCode d.etype with
  | some t => copyBits t
  | none => 0

/-- Rows, elements per row, bytes of a row, bytes of an element or of a pair of 4-bit ones (R269). -/
def CopyDesc.nRows (d : CopyDesc) : Nat := d.rows + 1
def CopyDesc.nCols (d : CopyDesc) : Nat := d.cols + 1
def CopyDesc.rowBytes (d : CopyDesc) : Nat := d.nCols * d.bits / 8
def CopyDesc.unit (d : CopyDesc) : Nat := max 1 (d.bits / 8)

/-- Destination granules of a copy (R272). -/
def CopyDesc.total (d : CopyDesc) : Nat := d.nRows * d.rowBytes / 16

/-- Types that a delta may have (R270). -/
def deltaTy : Ty → Bool
  | .f32 | .f16 | .bf16 | .i8 | .i32 => true
  | _ => false

/-- A descriptor in error (R270), also one to the scratchpad whose `DST` has a bit of [55:18] set, which R268 requires to be zero
(DESIGN CHOICE, log entry 32). -/
def CopyDesc.malformed (d : CopyDesc) : Bool :=
  d.reservedSet || decide (2 < d.sfmt) || d.bits == 0
  || d.nCols * d.bits % (if d.sfmt == 0 then 128 else 256) != 0 || (d.bits == 4 && d.sfmt == 2)
  || (d.dsp && bitsOf d.dst 55 18 != 0)
  || (d.dlt != 0 && (!deltaTy d.ty || decide (2 ^ 24 < d.nRows * d.nCols)))

/-- The failure of a descriptor, in the order of R270; `bytes` is the allocation of the issuing team. -/
def CopyDesc.failure (d : CopyDesc) (bytes : Nat) : Option Code :=
  if d.malformed then some .reservedField
  else if d.src % d.unit != 0 || d.pitch % d.unit != 0 || d.dst % (if d.sfmt == 0 then 16 else 32) != 0 || d.dlt % 8 != 0 then
    some .align
  else if d.dsp && decide (bytes < d.dst + 16 * d.total) then some .scratchBound
  else none

/-! ### Where a granule's bytes come from (R269) -/

/-- The source address of unit u of destination granule j. -/
def CopyDesc.srcAt (d : CopyDesc) (j u : Nat) : Nat :=
  let o := 16 * j
  let inRow := fun (i byte : Nat) =>
    if d.sfmt == 2 then d.src + byte / d.unit * d.pitch + i * d.unit else d.src + i * d.pitch + byte
  if d.sfmt == 0 then inRow (o / d.rowBytes) (o % d.rowBytes + u * d.unit)
  else inRow (o / 32 % d.nRows) (32 * (o / 32 / d.nRows) + o % 32 + u * d.unit)

/-- Units of a granule. -/
def CopyDesc.units (d : CopyDesc) : Nat := 16 / d.unit

/-- The destination element that begins granule j (R271). -/
def CopyDesc.firstElem (d : CopyDesc) (j : Nat) : Nat := 16 * j / d.unit

/-! ### Reads and faults of an engine (R229, R231, R273) -/

/-- The dir entry's number of an engine (R310). -/
def engineNo (cl unit : Nat) : Nat := 8 * cl + unit

/-- An engine as an agent (R216): cluster 64 stands for the scheduler, and unit 7 of a die's clusters for its Millpond. -/
def engineAgent (cl unit : Nat) : Agent :=
  if 64 ≤ cl then .scheduler else if unit == 7 then .dieEngine (cl / 16) else .clusterEngine cl

/-- Whether an engine may use a line now: no transaction, no other engine's ownership (R230), and no access that went ahead
(R222). -/
def State.engineMay (s : State) (cl unit : Nat) (l : Ln) (write : Bool) : Bool :=
  (s.txn? l.tag l.line).isNone && !s.held (engineAgent cl unit) l.tag l.line write
  && (let d := s.dir l.tag l.line l.pline
      d.st != .en || d.eown == engineNo cl unit)

/-- What an engine's read gives: bytes, a fault at an address, or nothing yet. -/
inductive EngineRead where
  | bytes (bs : List Byte)
  | fault (code : Code) (va : Nat)
  | later
  deriving DecidableEq, Repr

/-- An engine reads n bytes of this device's memory that lie in one line: `k` says whether it may read the heap window (R337). An
address above the 56-bit space is ADDR_NONCANON; another device's memory is read by requests alone (R421). -/
def State.engineRead (s : State) (k : Acc) (cl unit vmid asid : Nat) (group : Option Group) (va n : Nat) : EngineRead :=
  if 2 ^ 56 ≤ va then .fault .addrNoncanon va
  else
    match s.routeIn group va with
    | .remote .. => .fault .pageProtection va
    | .reduce .. => .fault .pageProtection va
    | _ =>
      match s.access k none vmid asid va n with
      | .error c => .fault c va
      | .ok l =>
        if s.engineMay cl unit l false then .bytes (slice (s.coherentData l.tag l.line l.pline) (va % 128) n) else .later

/-- The L2 lines that an engine's reads hit are the most recently used (R319). -/
def State.touchRead (s : State) (vmid asid : Nat) (group : Option Group) (vas : List Nat) : State :=
  vas.foldl (fun s va =>
    match s.routeIn group va, s.access .windowRead none vmid asid va 1 with
    | .local_, .ok l => s.touchLine l
    | .heap, .ok l => s.touchLine l
    | _, _ => s) s

/-- Whether firmware services a code on an engine's access: the engine then waits (R273). -/
def State.serviced (s : State) (vmid : Nat) (code : Code) : Bool :=
  (code == .pageNotPresent || code == .hostOwned)
  && (match s.partOfVm vmid with
      | some (_, p) => p.disposition code == .resolve
      | none => false)

/-- The migration request of an engine's HOST_OWNED (R236, R399). -/
def State.askMigration (s : State) (vmid : Nat) (code : Code) (va : Nat) : State :=
  match s.partOfVm vmid with
  | some (pid, p) => if code == .hostOwned then s.post p.fn { kind := .migration, pid := pid, addr := va } else s
  | none => s

/-! ### The Leats of a cluster -/

def State.leat (s : State) (cl unit : Nat) : Leat :=
  if unit == 0 then (s.cluster cl).leat0 else (s.cluster cl).leat1

def State.modLeat (s : State) (cl unit : Nat) (f : Leat → Leat) : State :=
  s.modCluster cl fun k => if unit == 0 then { k with leat0 := f k.leat0 } else { k with leat1 := f k.leat1 }

def State.modCopy (s : State) (cl unit seq : Nat) (f : Copy → Copy) : State :=
  s.modLeat cl unit fun l => { l with copies := l.copies.map fun c => if c.seq == seq then f c else c }

def Copy.live (c : Copy) : Bool := c.st == .queued || c.st == .running

/-- Copies accepted and not yet ended (R267). -/
def Leat.load (l : Leat) : Nat := (l.copies.filter Copy.live).length

/-- The Leat that a CPY names or that takes an "any" (R267). -/
def Cluster.chooseLeat (k : Cluster) (which : Nat) : Nat :=
  if which == 0 then (if k.leat0.load ≤ k.leat1.load then 0 else 1) else which - 1

/-- A Leat accepts a copy, keeping the 256 most recent (R267, R275). A copy that has not ended is never dropped. -/
def Leat.accept (l : Leat) (c : Copy) : Leat :=
  let cs := l.copies ++ [c]
  { nextSeq := (l.nextSeq + 1) % 2 ^ 15
    copies := (cs.zip (List.range cs.length)).filterMap fun x =>
      if decide (cs.length ≤ x.2 + 256) || x.1.live then some x.1 else none }

/-- A copy as its Leat accepts it. -/
def newCopy (seq core : Nat) (gang : Option (Nat × Nat)) (team grid vmid asid : Nat) (group : Option Group) (desc : Nat)
    (binding : Bool) : Copy :=
  { seq := seq, core := core, gang := gang, team := team, grid := grid, vmid := vmid, asid := asid, group := group, descAddr := desc,
    binding := binding, st := .queued, desc := none, granules := 0, staged := [], recs := 0, last := none, ahead := none, got := [],
    sent := false, derr := false, code := none, waitCode := none }

/-- The copy that a Leat runs or would start next: its oldest that has not ended. -/
def Leat.head (l : Leat) : Option Copy := l.copies.find? Copy.live

/-- The ticket of a copy (R274). -/
def ticketOf (unit seq : Nat) : Word := BitVec.ofNat 32 (2 ^ 15 * unit + seq)

/-! ### CPY and CPYSTAT (R274, R275) -/

/-- CPY at issue (R274); a Leat that holds 64 copies holds the pipe (R170, R266). -/
def execCpy (f : EForm) (s : State) : Host.Outcome State Fault Refusal :=
  runInstr s fun c => do
    let ds := sRegs false f.d
    c.checkOnce (ds ++ vRun (sNum f.a) 2)
    let desc := c.spair (sNum f.a)
    if desc % 64 != 0 then .error (.fault (c.record .align c.sub.fibres desc 0))
    if 2 ^ 56 ≤ desc then .error (.fault (c.record .addrNoncanon c.sub.fibres desc 0))
    if f.sub.getLsbD 0 then c.checkReport
    let cl := clusterOf c.core
    if 64 ≤ (s.leat cl ((s.cluster cl).chooseLeat (f.sub.toNat / 2 % 4))).load then .error .hold
    c.checkCounter .enc
    let s := s.issue c .enc [] [] ds none c.sub.fibres fun p =>
      { p with
        sent := false
        op := .request (.cpy desc (f.sub.toNat / 2 % 4) (f.sub.getLsbD 0)) }
    .ok (s.advance c)

/-- The CPY's request reaches its Leat (R267, R274): accepted, its ticket arrives; a full Leat, or an earlier CPY of the
gang that has not been accepted, keeps it waiting. -/
def State.cpyRequest (s : State) (r : Runner) (p : Pending) (desc which : Nat) : State :=
  let cl := clusterOf r.core
  let unit := (s.cluster cl).chooseLeat which
  let l := s.leat cl unit
  let behind := (r.gang.earlier p).any fun q => match q.op with
    | .request (.cpy ..) => true
    | _ => false
  if behind || decide (64 ≤ l.load) then s
  else
    let c := newCopy l.nextSeq r.core (some (r.slot, r.gang.number)) r.gang.team r.team.grid r.grid.vmid r.grid.asid
      r.grid.group desc false
    let s := s.modLeat cl unit fun l => l.accept c
    s.deliver r.core r.slot p.id { Out.none with sregs := p.sdst.zip [ticketOf unit c.seq] }

/-- The number of a copy's `STATE` (R275). -/
def CopyState.num : CopyState → Nat
  | .queued => 1
  | .running => 2
  | .done => 3
  | .failed => 4

/-- The status pair of a ticket (R275). -/
def Cluster.copyStatus (k : Cluster) (ticket : Nat) : Word × Word :=
  let l := if ticket.testBit 15 then k.leat1 else k.leat0
  match if 2 ^ 16 ≤ ticket then none else l.copies.find? fun c => c.seq == ticket % 2 ^ 15 with
  | none => (0, 0)
  | some c =>
    let fail := match c.st, c.code with
      | .failed, some code => codeNum code + (if c.derr then 256 else 0)
      | _, _ => 0
    (BitVec.ofNat 32 (c.st.num * 2 ^ 28 + min c.granules (2 ^ 24 - 1)), BitVec.ofNat 32 fail)

/-- CPYSTAT (R275). -/
def execCpystat (f : EForm) (s : State) : Host.Outcome State Fault Refusal :=
  runInstr s fun c => do
    let ds := sRegs true f.d
    c.checkOnce (ds ++ [sNum f.a])
    c.checkCounter .enc
    let st := (s.cluster (clusterOf c.core)).copyStatus (c.sreg (sNum f.a)).toNat
    .ok (s.issueKnown c (ds.zip [st.1, st.2]))

/-! ### A copy's start (R267, R273) -/

/-- A copy meets a fault on its own access: firmware services it, or the copy fails (R273). -/
def State.copyFault (s : State) (cl unit : Nat) (c : Copy) (code : Code) (va : Nat) : State :=
  let s := (s.noteWalk c.vmid c.asid va).askMigration c.vmid code va
  if s.serviced c.vmid code then
    s.modCopy cl unit c.seq fun x => { x with waitCode := some (code, va) }
  else s.modCopy cl unit c.seq fun x => { x with code := some code }

/-- The team that a copy writes for. -/
def State.copyTeam (s : State) (c : Copy) : Option Team := s.team? c.core c.team

/-- COPY_START (R267, R273): the oldest copy that has not ended reads its descriptor, once the one before it has ended. A
read that firmware has serviced is made again. -/
def execCopyStart (cluster unit : Nat) (s : State) : Host.Outcome State Fault Refusal :=
  if 2 ≤ unit then .next s
  else
    match (s.leat cluster unit).head with
    | none => .next s
    | some c =>
      if c.desc.isSome || c.code.isSome || c.waitCode.isSome then .next s
      else
        match s.engineRead .engineRead cluster unit c.vmid c.asid c.group c.descAddr 64 with
        | .later => .next s
        | .fault code va =>
          .next ((s.modCopy cluster unit c.seq fun x => { x with st := .running }).copyFault cluster unit
            { c with st := .running } code va)
        | .bytes bs =>
          let d := copyDesc bs
          let room := match s.copyTeam c with
            | some t => t.scratchBytes
            | none => 0
          .next ((s.touchRead c.vmid c.asid c.group [c.descAddr]).modCopy cluster unit c.seq fun x =>
            { x with
              st := .running
              desc := some d
              code := d.failure room })

/-! ### The delta stream (R271, R273) -/

/-- The element with its delta added (R271). -/
def deltaAdd (t : Ty) (base val : Nat) : Nat :=
  match t with
  | .i8 => wrapTo (satInt 8 true (sext base 8 + sext val 8)) 8
  | .i32 => wrapTo (satInt 32 true (sext base 32 + sext val 32)) 32
  | t =>
    match fmtOf t with
    | some f => (addRound f .rne false (f.decode (base % 2 ^ f.width)) (f.decode (val % 2 ^ f.width))).1
    | none => base

/-- Where a copy stands in its stream: records read, the last one's element, the one read and not applied, and the
deltas of the granule by element. -/
structure Stream where
  recs : Nat
  last : Option Nat
  ahead : Option (Nat × Word)
  here : Table Word
  deriving DecidableEq, Repr

/-- What reading the stream for a granule gives: its deltas, a decode error, a fault, or nothing yet. -/
inductive StreamRead where
  | ok (x : Stream)
  | decode
  | fault (code : Code) (va : Nat)
  | later
  deriving DecidableEq, Repr

/-- One record (R271). -/
def CopyDesc.record (d : CopyDesc) (x : Stream) (bs : List Byte) : Option Stream :=
  let w := leNat bs
  let idx := bitsOf w 55 32
  let after := match x.last with
    | some l => decide (l < idx)
    | none => true
  if bitsOf w 63 56 != 0 || !after || decide (d.nRows * d.nCols ≤ idx) then none
  else some { x with recs := x.recs + 1, last := some idx, ahead := some (idx, BitVec.ofNat 32 w) }

/-- The stream read on until it has passed element `stop` − 1, or has ended (R272). -/
def State.readStream (s : State) (cl unit : Nat) (c : Copy) (d : CopyDesc) (stop : Nat) : Nat → Stream → StreamRead
  | 0, _ => .later
  | fuel + 1, x =>
    match x.ahead with
    | some (idx, w) =>
      if stop ≤ idx then .ok x
      else s.readStream cl unit c d stop fuel { x with ahead := none, here := Table.put x.here idx w }
    | none =>
      if d.dcnt ≤ x.recs then .ok x
      else
        match s.engineRead .engineRead cl unit c.vmid c.asid c.group (d.dlt + 8 * x.recs) 8 with
        | .later => .later
        | .fault code va => .fault code va
        | .bytes bs =>
          match d.record x bs with
          | none => .decode
          | some y => s.readStream cl unit c d stop fuel y

/-! ### One granule (R269, R271, R272) -/

/-- What a granule of a copy comes to: its bytes with the stream after it, an error, remote source units still to ask
for, or nothing yet. -/
inductive GranuleRead where
  | ready (bs : List Byte) (x : Stream)
  | decode
  | fault (code : Code) (va : Nat)
  | ask (units : List Nat)
  | later
  deriving DecidableEq, Repr

/-- The bytes of source unit u of a granule. -/
def State.copyUnit (s : State) (cl unit : Nat) (c : Copy) (d : CopyDesc) (j u : Nat) : GranuleRead :=
  let va := d.srcAt j u
  let none_ : Stream := { recs := 0, last := none, ahead := none, here := [] }
  match s.routeIn c.group va with
  | .remote .. =>
    match Table.get? c.got u with
    | some w => .ready (leBytes d.unit w.toNat) none_
    | none => .ask [u]
  | _ =>
    match s.engineRead .windowRead cl unit c.vmid c.asid c.group va d.unit with
    | .bytes bs => .ready bs none_
    | .fault code va => .fault code va
    | .later => .later

/-- The source bytes of a granule: the first unit that faults decides, then those that must be asked for. -/
def State.copySource (s : State) (cl unit : Nat) (c : Copy) (d : CopyDesc) (j : Nat) : GranuleRead :=
  let us := (List.range d.units).map fun u => s.copyUnit cl unit c d j u
  let bad := us.find? fun g => match g with
    | .fault .. => true
    | _ => false
  let asks := us.flatMap fun g => match g with
    | .ask xs => xs
    | _ => []
  let bytes := us.flatMap fun g => match g with
    | .ready bs _ => bs
    | _ => []
  match bad with
  | some g => g
  | none => if asks != [] then .ask asks else if us.contains .later then .later
      else .ready bytes { recs := 0, last := none, ahead := none, here := [] }

/-- A granule's bytes with its deltas added. -/
def CopyDesc.withDeltas (d : CopyDesc) (j : Nat) (bs : List Byte) (here : Table Word) : List Byte :=
  (List.range d.units).flatMap fun u =>
    let old := slice bs (u * d.unit) d.unit
    match Table.get? here (d.firstElem j + u) with
    | some w => leBytes d.unit (deltaAdd d.ty (leNat old) w.toNat)
    | none => old

/-- Granule j of a copy: its stream first, where a decode error ranks (R273), then its source. -/
def State.copyGranule (s : State) (cl unit : Nat) (c : Copy) (d : CopyDesc) (j : Nat) : GranuleRead :=
  let x : Stream := { recs := c.recs, last := c.last, ahead := c.ahead, here := [] }
  let stream := if d.dlt == 0 then .ok x else s.readStream cl unit c d (d.firstElem (j + 1)) 40 x
  match stream with
  | .decode => .decode
  | .fault code va => .fault code va
  | .later => .later
  | .ok y =>
    match s.copySource cl unit c d j with
    | .ready bs _ => .ready (d.withDeltas j bs y.here) y
    | g => g

/-! ### Delivery (R272, R316, R420, R421) -/

/-- A granule has been read: the stream has moved on. -/
def Copy.streamed (c : Copy) (y : Stream) : Copy :=
  { c with
    recs := y.recs
    last := y.last
    ahead := y.ahead
    got := []
    sent := false }

/-- A granule is delivered: the count rises, and the stream has moved on. -/
def Copy.advanced (c : Copy) (y : Stream) : Copy := { c.streamed y with granules := c.granules + 1 }

/-- The granule that a copy reads next, and the address that a granule goes to. -/
def Copy.next (c : Copy) : Nat := c.granules + c.staged.length
def CopyDesc.dstAt (d : CopyDesc) (j : Nat) : Nat := d.dst + 16 * j

/-- A request of a Leat to another device (R410, R421), over the port of the gang that issued the copy; with no port up the
copy fails with LINK_DOWN. A binding, which no gang issues, has a port of its own. -/
def State.copySend (s : State) (cl unit : Nat) (c : Copy) (tdev tvmid tasid tva gtag va key : Nat) (op : RemoteOp) : State :=
  let mk := fun (port : Option Nat) =>
    { waiter := .leat cl unit c.seq key, port := port, tdev := tdev, asid := c.asid, va := va,
      req := { src := s.fabric.devid.toNat, inst := s.next, gtag := gtag, vmid := tvmid, asid := tasid, va := tva, op := op },
      keep := false : Outgoing }
  let who := match c.gang with
    | some (slot, number) => (number, c.core, slot)
    | none => (16 + 2 * cl + unit, 1024 + 2 * cl + unit, 0)
  (s.sendOut c.team who.1 who.2 mk tdev).getD
    (s.modCopy cl unit c.seq fun x => { x with code := some .linkDown })

/-- Whether a copy awaits an answer, of a source unit or of its granule. -/
def State.copyAwaits (s : State) (cl unit seq : Nat) (key : Option Nat) : Bool :=
  s.fabric.out.any fun (x : Nat × Outgoing) =>
    match x.2.waiter with
    | .leat a b q k => a == cl && b == unit && q == seq && (key.isNone || key == some k)
    | _ => false

/-- Source units asked for, those not asked yet (R421: uncached). -/
def State.copyAsk (s : State) (cl unit : Nat) (c : Copy) (d : CopyDesc) (us : List Nat) : State :=
  us.foldl (fun s u =>
    if s.copyAwaits cl unit c.seq (some u) then s
    else
      let va := d.srcAt c.next u
      match s.routeIn c.group va with
      | .remote _ tdev tvmid tasid tva gtag => s.copySend cl unit c tdev tvmid tasid tva gtag va u (.load d.unit)
      | _ => s) s

/-- Whether an engine writes a line under ownership: a tracked line with the directory on (R309, R310). -/
def State.needsOwner (s : State) (l : Ln) : Bool := !s.boot.memSide && (l.perms.attr == .sc || l.perms.attr == .rc)

/-- A granule for this device's memory (R228, R230, R272, R316): read into the line that the Leat will write. -/
def State.copyToMemory (s : State) (cl unit : Nat) (c : Copy) (va : Nat) (bs : List Byte) (y : Stream) : State :=
  match s.access .engineWrite none c.vmid c.asid va 16 with
  | .error code => s.copyFault cl unit c code va
  | .ok _ => s.modCopy cl unit c.seq fun x => { x.streamed y with staged := x.staged ++ [bs] }

/-- A granule whose bytes are there, delivered to the scratchpad, to memory, or sent to another device (R272, R420,
R421). -/
def State.copyDeliver (s : State) (cl unit : Nat) (c : Copy) (d : CopyDesc) (bs : List Byte) (y : Stream) : State :=
  let va := d.dstAt c.next
  let records := (List.range (y.recs - c.recs)).map fun k => d.dlt + 8 * (c.recs + k)
  let s := s.touchRead c.vmid c.asid c.group (records ++ (List.range d.units).map fun u => d.srcAt c.next u)
  if d.dsp then
    (s.modTeam c.core c.team fun t => t.engineWrite (va / 16) bs).modCopy cl unit c.seq fun x => x.advanced y
  else if 2 ^ 56 ≤ va then s.copyFault cl unit c .addrNoncanon va
  else
    let out := fun (tdev tvmid tasid tva gtag : Nat) (op : RemoteOp) =>
      (s.copySend cl unit c tdev tvmid tasid tva gtag va 16 op).modCopy cl unit c.seq fun x => { x with sent := true }
    match s.routeIn c.group va with
    | .remote _ tdev tvmid tasid tva gtag => if c.sent then s else out tdev tvmid tasid tva gtag (.store bs)
    | .reduce _ tdev tvmid tasid tva gtag =>
      if c.sent then s
      else if d.ty == .f32 || d.ty == .bf16 then out tdev tvmid tasid tva gtag (.reduce d.ty bs)
      else s.modCopy cl unit c.seq fun x => { x with code := some .reservedField }
    | _ => s.copyToMemory cl unit c va bs y

/-- Whether a copy has read all it can of the line it is about to write: the next granule lies in another line, or there is
none, or the copy has met an error. -/
def Copy.lineRead (c : Copy) (d : CopyDesc) : Bool :=
  !c.staged.isEmpty
  && (c.code.isSome || decide (d.total ≤ c.next) || d.dstAt c.next / 128 != d.dstAt c.granules / 128)

/-- COPY_GRANULE_DELIVER (R272): the next granule of the running copy is read, and delivered or kept for its line. -/
def execCopyGranuleDeliver (cluster unit : Nat) (s : State) : Host.Outcome State Fault Refusal :=
  if 2 ≤ unit then .next s
  else
    match (s.leat cluster unit).head with
    | none => .next s
    | some c =>
      match c.desc with
      | none => .next s
      | some d =>
        if c.code.isSome || c.waitCode.isSome || d.total ≤ c.next || c.lineRead d then .next s
        else
          match s.copyGranule cluster unit c d c.next with
          | .later => .next s
          | .ask us => .next (s.copyAsk cluster unit c d us)
          | .decode =>
            .next (s.modCopy cluster unit c.seq fun x =>
              { x with
                code := some .reservedField
                derr := true })
          | .fault code va => .next (s.copyFault cluster unit c code va)
          | .ready bs y => .next (s.copyDeliver cluster unit c d bs y)

/-- The acknowledgement of a granule that went to another device (R421): it counts as delivered, and the stream moves on
as it stood when the granule was sent. -/
def State.copyAcked (s : State) (cl unit seq : Nat) : State :=
  match (s.leat cl unit).copies.find? fun c => c.seq == seq with
  | none => s
  | some c =>
    match c.desc with
    | none => s
    | some d =>
      let x : Stream := { recs := c.recs, last := c.last, ahead := c.ahead, here := [] }
      let y := if d.dlt == 0 then x
        else
          match s.readStream cl unit c d (d.firstElem (c.granules + 1)) 40 x with
          | .ok y => y
          | _ => x
      s.modCopy cl unit seq fun c => c.advanced y

/-! ### Owned lines (R230, R316) -/

/-- Lines that an engine owns. -/
def State.linesOwned (s : State) (cl unit : Nat) : List L2Line :=
  s.mem.l2.filter fun x => x.dir.st == .en && x.dir.eown == engineNo cl unit

/-- A Leat's line cannot be written after all: firmware services the fault, or the copy fails at it, ahead of any error that it
has met further on (R273). -/
def State.lineFails (s : State) (cl unit : Nat) (c : Copy) (code : Code) (va : Nat) : State :=
  let s := s.copyFault cl unit c code va
  if s.serviced c.vmid code then s
  else s.modCopy cl unit c.seq fun x =>
    { x with
      derr := false
      staged := [] }

/-- What a copy has staged for the line of its next granule, by offset. -/
def Copy.stagedWrites (c : Copy) (d : CopyDesc) : List (Nat × List Byte) :=
  (c.staged.zip (List.range c.staged.length)).map fun g => (d.dstAt (c.granules + g.2) % 128, g.1)

/-- The staged granules of a copy are delivered. -/
def Copy.lineWritten (c : Copy) : Copy :=
  { c with
    granules := c.granules + c.staged.length
    staged := [] }

/-- A line that no engine owns, of a WO page or in memory-side mode, written by a Leat: its staged granules together, in one
write per byte (R230), under their claim on a WO page (R207). -/
def State.writeUnowned (s : State) (cl unit : Nat) (c : Copy) (d : CopyDesc) (l : Ln) : State :=
  let ws := c.stagedWrites d
  let put := fun (s : State) => s.modCopy cl unit c.seq Copy.lineWritten
  if l.perms.attr == .wo then
    let all := ws.map fun w => (0, w)
    if s.claimTaken l.pline (writesMask all) (2 ^ 32) 0 0 != 0 then s.lineFails cl unit c .woRewrite (d.dstAt c.granules)
    else put (s.woWrite none l all)
  else put (s.writeAtHome l ws)

/-- ENGINE_LINE_REQUEST (R230, R311, R316): a Leat that has read every byte it is about to write to a tracked line takes the
line once every L1 copy is invalidated; a line that is not tracked is written at once. -/
def execEngineLineRequest (cluster unit asid line : Nat) (s : State) : Host.Outcome State Fault Refusal :=
  if 2 ≤ unit then .next s
  else
    match (s.leat cluster unit).head with
    | none => .next s
    | some c =>
      match c.desc with
      | none => .next s
      | some d =>
        let va := d.dstAt c.granules
        if !c.lineRead d || c.waitCode.isSome || va / 128 != line || c.asid != asid || s.linesOwned cluster unit != [] then
          .next s
        else
          match s.access .engineWrite none c.vmid asid va 16 with
          | .error code => .next (s.lineFails cluster unit c code va)
          | .ok l =>
            if s.lineBusy l.tag l.line l.pline || s.held (engineAgent cluster unit) l.tag l.line true then .next s
            else
              let go := s.logWrite c.vmid asid va
              if !go.1 then .next go.2
              else if !go.2.needsOwner l then .next ((go.2.keepFill l va).writeUnowned cluster unit c d l)
              else
                match go.2.fillL2 l (s.maskOfVm c.vmid) 0 with
                | none => .next s
                | some s =>
                  let t : Txn :=
                    { tag := l.tag, line := l.line, kind := .engine cluster unit,
                      waiting := (s.dir l.tag l.line l.pline).probes none }
                  .next (if t.waiting.isEmpty then s.finishTxn t else s.openTxn t)

/-- The staged granules of a copy written together in the line that its Leat owns, which is then given up: its entry goes to I
with the L2's copy dirty (R230, R316). -/
def State.writeLine (s : State) (cl unit : Nat) (c : Copy) (d : CopyDesc) (x : L2Line) : State :=
  let l : Ln :=
    { vmid := x.vmid, tag := x.tag, line := x.line, pline := x.pline, perms := x.perms, log := false, heap := false,
      fill := none }
  (s.writeAtHome l (c.stagedWrites d)).modCopy cl unit c.seq Copy.lineWritten

/-- ENGINE_LINE_RELEASE (R230, R316): a Leat writes the line it owns, all of it together, and gives it up. -/
def execEngineLineRelease (cluster unit asid line : Nat) (s : State) : Host.Outcome State Fault Refusal :=
  if 2 ≤ unit then .next s
  else
    match (s.leat cluster unit).head, (s.linesOwned cluster unit).find? fun x => x.tag % 2 ^ 20 == asid && x.line == line with
    | some c, some x =>
      match c.desc with
      | some d => .next (s.writeLine cluster unit c d x)
      | none => .next s
    | _, _ => .next s

/-! ### A copy's end (R273, R276) -/

/-- Whether a granule goes to another device, which alone can tell whether it fails (R421). -/
def State.copyLeaves (s : State) (c : Copy) (d : CopyDesc) (j : Nat) : Bool :=
  !d.dsp && (match s.routeIn c.group (d.dstAt j) with
    | .remote .. => true
    | .reduce .. => d.ty == .f32 || d.ty == .bf16
    | _ => false)

/-- The fault that a granule's destination would meet (R270, R273, R421): none for the scratchpad and for another device's
memory, which answers for itself. -/
def State.copyDest (s : State) (c : Copy) (d : CopyDesc) (j : Nat) : Option Code :=
  let va := d.dstAt j
  if d.dsp then none
  else if 2 ^ 56 ≤ va then some .addrNoncanon
  else
    match s.routeIn c.group va with
    | .remote .. => none
    | .reduce .. => if d.ty == .f32 || d.ty == .bf16 then none else some .reservedField
    | _ =>
      match s.access .engineWrite none c.vmid c.asid va 16 with
      | .error code => some code
      | .ok l =>
        if l.perms.attr == .wo && s.claimTaken l.pline (granuleMask (va % 128) 16) (2 ^ 32) 0 0 != 0 then some .woRewrite
        else none

/-- The first error ahead of a running copy, looking at granules from j, each at its source and then its destination: it is
none while the error is a decode error, which bounds the delivered granules exactly, or waits for firmware, or while a granule
before it goes to another device or comes from one, whose answer is not known. -/
def State.copyLookahead (s : State) (cl unit : Nat) (c : Copy) (d : CopyDesc) : Nat → Nat → Option Code
  | 0, _ => none
  | n + 1, j =>
    let fails := fun (code : Code) => if s.serviced c.vmid code then none else some code
    match s.copyGranule cl unit c d j with
    | .fault code _ => fails code
    | .ready _ y =>
      match s.copyDest c d j with
      | some code => fails code
      | none =>
        if s.copyLeaves c d j then none
        else s.copyLookahead cl unit { c with recs := y.recs, last := y.last, ahead := y.ahead, got := [] } d n (j + 1)
    | _ => none

/-- The bindings of teams of a cluster that wait to run: the next binding of a team is queued when none of its
bindings is on its way, and a team with none left starts (R276). -/
def State.queueBinding (s : State) (cl core team : Nat) : State :=
  match s.team? core team with
  | none => s
  | some t =>
    let k := s.cluster cl
    let mine := fun (c : Copy) => c.binding && c.core == core && c.team == team && c.live
    if t.started || k.leat0.copies.any mine || k.leat1.copies.any mine then s
    else
      match t.bindings, s.grid? t.grid with
      | [], _ => s.modTeam core team fun t => { t with started := true }
      | d :: rest, some gr =>
        let unit := k.chooseLeat 0
        let l := s.leat cl unit
        if 64 ≤ l.load then s
        else
          let c := newCopy l.nextSeq core none team t.grid gr.vmid gr.asid gr.group d true
          (s.modTeam core team fun t => { t with bindings := rest }).modLeat cl unit fun l => l.accept c
      | _, none => s

/-- Every team of a cluster that waits for bindings looks again. -/
def State.queueBindings (s : State) (cl : Nat) : State :=
  let teams := (s.cores.filter fun (k : Nat × Core) => clusterOf k.1 == cl).flatMap fun (k : Nat × Core) =>
    (k.2.teams.filter fun t => !t.2.started).map fun t => (k.1, t.1)
  teams.foldl (fun s t => s.queueBinding cl t.1 t.2) s

/-- The undelivered granules of a failed copy's scratchpad destination are poisoned, but where the descriptor itself was
in error (R270, R273). -/
def State.poisonRest (s : State) (c : Copy) : State :=
  match c.desc, s.copyTeam c with
  | some d, some t =>
    if !d.dsp || (d.failure t.scratchBytes).isSome then s
    else
      let rest := (List.range d.total).drop c.granules
      s.modTeam c.core c.team fun t => rest.foldl (fun t n => t.setGranule (d.dst / 16 + n) .poison) t
  | _, _ => s

/-- A copy ends with a code or done (R273). -/
def State.endCopy (s : State) (cl unit : Nat) (c : Copy) (code : Option Code) : State :=
  let s := if code.isSome then s.poisonRest c else s
  let s := s.modCopy cl unit c.seq fun x =>
    { x with
      st := if code.isSome then .failed else .done
      code := code
      staged := []
      waitCode := none }
  let s := match c.desc with
    | some d => if d.bar then s.arrive cl d.bnum 1 code.isSome c.granules else s
    | none => s
  (s.queueBindings cl).releaseTeam c.core c.team

/-- COPY_END (R273): the running copy has delivered everything or has met its first error; a copy with an error ahead may
fail before it has delivered all that it could. -/
def execCopyEnd (cluster unit : Nat) (s : State) : Host.Outcome State Fault Refusal :=
  if 2 ≤ unit then .next s
  else
    match (s.leat cluster unit).head with
    | none => .next s
    | some c =>
      let writing := s.linesOwned cluster unit != [] || s.mem.txns.any fun t => t.kind == .engine cluster unit
      if c.waitCode.isSome || s.copyAwaits cluster unit c.seq none || writing || (c.derr && !c.staged.isEmpty) then .next s
      else
        match c.code, c.desc with
        | some code, _ => .next (s.endCopy cluster unit c (some code))
        | none, none => .next s
        | none, some d =>
          let staged := (List.range c.staged.length).any fun k => (s.copyDest c d (c.granules + k)).isSome
          if d.total ≤ c.granules then .next (s.endCopy cluster unit c none)
          else if staged then .next s
          else
            match s.copyLookahead cluster unit c d (d.total - c.next) c.next with
            | some code => .next (s.endCopy cluster unit c (some code))
            | none => .next s

end Sys2Proof.Machine
end

