-- ==== Sys2Proof/Machine/Vis.lean ====
section
/-! DEFINITION. The visibility unit (R286 to R294): the Weir's classes, the binned-geometry buffer, the fixed rasteriser
and the occlusion query. -/

namespace Sys2Proof.Machine

/-! ### Exact screen geometry -/

/-- A finite F32 as an exact multiple of 2^-149. -/
def f32Int (w : Word) : Option Int :=
  match Fmt.f32.decode w.toNat with
  | .fin s m e => some (signed s m * (2 : Int) ^ (e + 149).toNat)
  | _ => none

/-- 1 in units of 2^-149. -/
def unitF32 : Int := (2 : Int) ^ 149

/-- An exact quotient rounded once to nearest even in a format. -/
def ratRound (f : Fmt) (num den : Int) : Nat :=
  if num == 0 || den == 0 then 0
  else
    let q := divSticky 64 num.natAbs den.natAbs
    (f.round .rne false (decide (num < 0) != decide (den < 0)) q.1 q.2).1

/-- Three vertices' x, y in units of 2^-149. -/
structure Screen where
  x0 : Int
  y0 : Int
  x1 : Int
  y1 : Int
  x2 : Int
  y2 : Int
  deriving DecidableEq, Repr

/-- The vertices of a PRIM's lane; none where an x or y is not finite. -/
def screenOf (ws : List Word) : Option Screen := do
  let at_ := fun k => f32Int (nth ws k 0)
  let x0 ← at_ 0
  let y0 ← at_ 1
  let x1 ← at_ 3
  let y1 ← at_ 4
  let x2 ← at_ 6
  let y2 ← at_ 7
  pure { x0 := x0, y0 := y0, x1 := x1, y1 := y1, x2 := x2, y2 := y2 }

/-- The doubled signed area, in units of 2^-298 (R288). -/
def Screen.area2 (p : Screen) : Int := (p.x1 - p.x0) * (p.y2 - p.y0) - (p.x2 - p.x0) * (p.y1 - p.y0)

def min3 (a b c : Int) : Int := min a (min b c)
def max3 (a b c : Int) : Int := max a (max b c)

/-- Whether the bounding box lies outside the buffer (R288). -/
def Screen.outside (p : Screen) (c : DrawCtx) : Bool :=
  decide (max3 p.x0 p.x1 p.x2 < 0) || decide (c.wid * unitF32 ≤ min3 p.x0 p.x1 p.x2)
  || decide (max3 p.y0 p.y1 p.y2 < 0) || decide (c.hgt * unitF32 ≤ min3 p.y0 p.y1 p.y2)

/-- Whether a triangle is larger than the threshold (R286, R288): |S| ÷ 2 against `THR`. -/
def aboveThreshold (thr : Word) (s : Int) : Bool :=
  match Fmt.f32.decode thr.toNat with
  | .nan _ => true
  | .inf neg => neg
  | .fin neg m e => (neg && m != 0) || decide (2 * (signed neg m * (2 : Int) ^ (e + 149).toNat) * unitF32 < (s.natAbs : Int))

/-- The class of a triangle (R288). -/
def classOf (c : DrawCtx) (thr : Word) (test : Bool) (ws : List Word) : Nat :=
  match screenOf ws with
  | none => 0
  | some p =>
    let s := p.area2
    let back := if c.cw then decide (0 < s) else decide (s < 0)
    if s == 0 || p.outside c || (c.cullb && back) then 0
    else if test || aboveThreshold thr s then 1
    else 2

/-- The index of the tile, of n pixels, that a coordinate lies in. -/
def tileIndex (x : Int) (n : Nat) : Int := x / (n * unitF32)

/-- The references of a triangle: 64 × 64-pixel tiles of the buffer that its bounding box meets (R291). -/
def tileRefs (c : DrawCtx) (p : Screen) : Nat :=
  let span := fun (lo hi : Int) (n : Nat) =>
    (min (tileIndex hi 64) ((ceilDiv n 64 : Nat) - 1 : Int) - max (tileIndex lo 64) 0 + 1).toNat
  span (min3 p.x0 p.x1 p.x2) (max3 p.x0 p.x1 p.x2) c.wid * span (min3 p.y0 p.y1 p.y2) (max3 p.y0 p.y1 p.y2) c.hgt

/-! ### Draw contexts (R287) -/

/-- A draw context from its 64 bytes; none where R287 refuses it. -/
def drawCtx (addr vmid asid : Nat) (group : Option Group) (bs : List Byte) : Option DrawCtx :=
  let d := fun k => leNat (slice bs (8 * k) 8)
  let c : DrawCtx :=
    { addr := addr, vmid := vmid, asid := asid, group := group, vbase := bitsOf (d 0) 55 0, vpitch := bitsOf (d 1) 63 32,
      hgt := bitsOf (d 1) 31 16, wid := bitsOf (d 1) 15 0, obase := bitsOf (d 2) 55 0, cw := (d 3).testBit 33,
      cullb := (d 3).testBit 32, ftag := bitsOf (d 3) 30 0 }
  let reserved := bitsOf (d 0) 63 56 != 0 || bitsOf (d 2) 63 56 != 0 || bitsOf (d 3) 63 34 != 0 || (d 3).testBit 31
    || d 4 != 0 || d 5 != 0 || d 6 != 0 || d 7 != 0
  let outside := c.vbase % 8 != 0 || c.vpitch % 8 != 0 || c.obase % 4 != 0 || c.hgt == 0 || decide (16384 < c.hgt)
    || c.wid == 0 || decide (16384 < c.wid)
  if reserved || outside then none else some c

/-! ### PRIM (R288, R291, R292) -/

/-- Whether a PRIM that the Weir was taking has gone with its gang. -/
def State.takingGone (s : State) (v : Vis) : Bool :=
  match v.taking with
  | none => true
  | some (c, g, id) => ((s.gang? c g).bind fun x => x.pending? id).isNone

/-- Whether the Weir's intake is closed: at a pre-emption's gate (R384), while the buffer is being emptied, or while it takes
another PRIM (R291). -/
def State.intakeClosed (s : State) (v : Vis) : Bool := v.gateClosed || v.job != [] || !s.takingGone v

/-- PRIM at issue (R288). A closed intake holds the pipe (R170, R266, R291). -/
def execPrim (f : EForm) (s : State) : Host.Outcome State Fault Refusal :=
  runInstr s fun c => do
    let act := c.active f.g
    let first := match f.a with
      | .v n => n.toNat
      | _ => 0
    let vdst := match f.d with
      | .v n => [n.toNat]
      | _ => []
    let b := sNum f.b
    c.checkTouch act { v := vdst ++ vRun first 11, s := vRun b 2, p := guardP f.g }
    let ctx := c.spair b
    if act != 0 && ctx % 64 != 0 then .error (.fault (c.record .align act ctx 0))
    if act != 0 && decide (2 ^ 56 ≤ ctx) then .error (.fault (c.record .addrNoncanon act ctx 0))
    c.checkCounter .enc
    if s.intakeClosed (s.cluster (clusterOf c.core)).vis then .error .hold
    c.checkPool s vdst
    let data := act.toList.map fun i => (i, (vRun first 11).map fun v => c.vreg v i)
    .ok ((s.issue c .enc [] vdst [] none act fun p =>
      { p with
        addrs := [(0, ctx)]
        data := data
        sent := false
        op := .prim (f.sub.getLsbD 0) }).advance c)

def State.modVis (s : State) (cl : Nat) (f : Vis → Vis) : State := s.modCluster cl fun k => { k with vis := f k.vis }

/-- The buffer is emptied: what it holds is rasterised next (R291). An overflow of an empty buffer counts at once. -/
def Vis.empty (v : Vis) (overflow : Bool) : Vis :=
  { v with
    binflush := if overflow && v.held.isEmpty then v.binflush + 1 else v.binflush
    job := v.held
    held := []
    refs := 0
    cursor := 0
    overflow := overflow }

/-- `TEST` of a PRIM's word (R265). -/
def primTest (p : Pending) : Bool := p.word.toNat.testBit 51

/-- The triangle of a lane. -/
def triOf (c : DrawCtx) (test : Bool) (ws : List Word) (refs : Nat) : Tri :=
  { ctx := c, verts := ws.take 9, inst := bitsOf (nth ws 9 0).toNat 11 0, prim := bitsOf (nth ws 10 0).toNat 19 0,
    test := test, refs := refs }

/-- The Weir takes lanes in order until one does not fit (R288, R291): the unit, the lanes taken with their classes, and
whether all were. -/
def takeLanes (c : DrawCtx) (test : Bool) : List (Nat × List Word) → Vis → List (Nat × Nat) → Vis × List (Nat × Nat) × Bool
  | [], v, out => (v, out, true)
  | (lane, ws) :: rest, v, out =>
    let k := classOf c v.weirthr test ws
    if k != 1 then takeLanes c test rest v (out ++ [(lane, k)])
    else
      let n := match screenOf ws with
        | some p => tileRefs c p
        | none => 0
      if v.refs + n ≤ 16384 then
        let v := { v with
          held := v.held ++ [triOf c test ws n]
          refs := v.refs + n
          overflow := false }
        takeLanes c test rest v (out ++ [(lane, k)])
      else if 16384 < n && v.held.isEmpty && v.overflow then
        ({ v with job := [triOf c test ws n], cursor := 0, overflow := false }, out ++ [(lane, k)], rest.isEmpty)
      else (v.empty true, out, false)

/-- A PRIM's entry after lanes have been taken: their classes stand in `got`. -/
def Pending.taken (p : Pending) (out : List (Nat × Nat)) : Pending :=
  { p with
    done := out.foldl (fun d x => insertNat x.1 d) p.done
    got := out.foldl (fun g x => Table.put g (8 * x.1) (BitVec.ofNat 64 x.2)) p.got }

/-- The classes that a PRIM delivers. -/
def primOut (p : Pending) : Out :=
  { Out.none with
    vregs := p.vdst.map fun v => (v, p.data.map fun (x : Nat × List Word) => (x.1, (Table.getD p.got (8 * x.1) 0).setWidth 32)) }

/-- All of a PRIM's lanes are taken: its classes arrive, or wait for the flush it starts (R291, R292). -/
def State.primTaken (s : State) (r : Runner) (p : Pending) (cl : Nat) (flush : Bool) : State :=
  let s := s.modVis cl fun v => { v with taking := none }
  if !flush then s.deliver r.core r.slot p.id (primOut p)
  else
    let start := fun (v : Vis) => { v.empty false with job := v.job ++ v.held }
    (s.modVis cl start).modGang r.core r.slot fun g => g.modPending p.id fun q => { q with sent := true }

/-- A PRIM reaches the Weir (R287, R288, R291): it waits while triangles are being rasterised, the gate is closed or another
PRIM is being taken. DESIGN CHOICE (log entry 33): it reads its draw context anew whenever it goes on after the buffer was
emptied, and the same context address under another ASID counts as a context change. -/
def State.primArrive (s : State) (r : Runner) (p : Pending) (flush : Bool) : State :=
  let cl := clusterOf r.core
  let v := (s.cluster cl).vis
  let mine := v.taking == some (r.core, r.slot, p.id)
  if p.sent || v.job != [] || v.gateClosed || (!mine && !s.takingGone v) || s.blocked r p [] then s
  else if p.data.isEmpty then s.primTaken r p cl flush
  else
    let s := s.modVis cl fun v => { v with taking := none }
    let va := Table.getD p.addrs 0 0
    let fail := fun (s : State) (code : Code) =>
      (s.noteWalk r.grid.vmid r.grid.asid va).modGang r.core r.slot fun g =>
        g.modPending p.id fun q => { q with st := .failing code q.lanes (BitVec.ofNat 64 va) 0 }
    match s.engineRead .engineRead cl 3 r.grid.vmid r.grid.asid r.grid.group va 64 with
    | .later => s
    | .fault code _ => fail s code
    | .bytes bs =>
      let s := s.touchRead r.grid.vmid r.grid.asid r.grid.group [va]
      match drawCtx va r.grid.vmid r.grid.asid r.grid.group bs with
      | none => fail s .reservedField
      | some c =>
        let other := v.held.any fun t => t.ctx.addr != va || t.ctx.asid != r.grid.asid
        if other then
          s.modVis cl fun v => { v.empty false with taking := some (r.core, r.slot, p.id) }
        else
          let left := p.data.filter fun (x : Nat × List Word) => !p.done.contains x.1
          let t := takeLanes c (primTest p) left v []
          let q := p.taken t.2.1
          let s := s.modVis cl fun _ => { t.1 with taking := some (r.core, r.slot, p.id) }
          let s := s.modGang r.core r.slot fun g => g.modPending p.id fun _ => q
          if t.2.2 then s.primTaken r q cl flush else s

/-- FLUSH_CLASSES_ARRIVE (R292): everything taken before has been rasterised; a write that was dropped is reported here. -/
def execFlushClassesArrive (core gang id : Nat) (s : State) : Host.Outcome State Fault Refusal :=
  match s.runner? core gang with
  | none => .next s
  | some r =>
    match r.gang.pending? id with
    | none => .next s
    | some p =>
      let cl := clusterOf core
      let v := (s.cluster cl).vis
      match p.op with
      | .prim true =>
        if !p.sent || v.job != [] || p.st != .pending then .next s
        else
          match v.dropped with
          | some (code, va) =>
            let s := s.modVis cl fun v => { v with dropped := none }
            .next (s.modGang core gang fun g => g.modPending id fun q =>
              { q with st := .failing code q.lanes (BitVec.ofNat 64 va) 0 })
          | none => .next (s.deliver core gang id (primOut p))
      | _ => .next s

/-! ### The fixed rasteriser (R289, R292, R293) -/

/-- The centre of pixel n, in units of 2^-149. -/
def pixelCentre (n : Nat) : Int := (2 * (n : Int) + 1) * (2 : Int) ^ 148

/-- Whether a sample passes one edge a to b of a triangle with third vertex c (R289). -/
def edgePass (ax ay bx by_ cx cy px py : Int) : Bool :=
  let at_ := fun (x y : Int) => (bx - ax) * (y - ay) - (by_ - ay) * (x - ax)
  let sgn := (at_ cx cy).sign
  let e := at_ px py * sgn
  decide (0 < e) || (e == 0 && (if ay == by_ then decide (ay < cy) else decide (0 < -(by_ - ay) * sgn)))

/-- Whether a triangle covers a sample: inside every edge, or on a top or left one (R289). -/
def Screen.covers (p : Screen) (px py : Int) : Bool :=
  edgePass p.x0 p.y0 p.x1 p.y1 p.x2 p.y2 px py && edgePass p.x1 p.y1 p.x2 p.y2 p.x0 p.y0 px py
  && edgePass p.x2 p.y2 p.x0 p.y0 p.x1 p.y1 px py

/-- The depth of a sample (R289): none where it is discarded. -/
def sampleDepth (t : Tri) (p : Screen) (px py : Int) : Option Nat := do
  let z0 ← f32Int (nth t.verts 2 0)
  let z1 ← f32Int (nth t.verts 5 0)
  let z2 ← f32Int (nth t.verts 8 0)
  let s := p.area2
  let w1 := (px - p.x0) * (p.y2 - p.y0) - (p.x2 - p.x0) * (py - p.y0)
  let w2 := (p.x1 - p.x0) * (py - p.y0) - (px - p.x0) * (p.y1 - p.y0)
  let num := s * z0 + w1 * (z1 - z0) + w2 * (z2 - z0)
  let z := ratRound Fmt.f32 num (s * unitF32)
  if z == 0x80000000 then some 0
  else if decide (2 ^ 31 ≤ z) || decide (0x3F800000 < z) then none
  else some z

/-- The visibility word of a kept sample (R289). -/
def visWord (t : Tri) (z : Nat) : Nat := z * 2 ^ 32 + t.inst * 2 ^ 20 + t.prim

/-- Pixels of a triangle's rectangle: its bounding box clipped to the buffer, as first x, first y, width, height. -/
def pixelBox (c : DrawCtx) (p : Screen) : Nat × Nat × Nat × Nat :=
  let lo := fun (x : Int) => (max (x / unitF32) 0).toNat
  let hi := fun (x : Int) (n : Nat) => (min (x / unitF32 + 1) (n : Int)).toNat
  let x0 := lo (min3 p.x0 p.x1 p.x2)
  let y0 := lo (min3 p.y0 p.y1 p.y2)
  (x0, y0, hi (max3 p.x0 p.x1 p.x2) c.wid - x0, hi (max3 p.y0 p.y1 p.y2) c.hgt - y0)

/-- The first kept sample of a triangle from pixel number n of its rectangle: its number, pixel and word. -/
def nextSample (t : Tri) (p : Screen) (box : Nat × Nat × Nat × Nat) : Nat → Nat → Option (Nat × Nat × Nat × Nat)
  | 0, _ => none
  | fuel + 1, n =>
    let px := box.1 + n % box.2.2.1
    let py := box.2.1 + n / box.2.2.1
    let cx := pixelCentre px
    let cy := pixelCentre py
    match if p.covers cx cy then sampleDepth t p cx cy else none with
    | some z => some (n, px, py, visWord t z)
    | none => nextSample t p box fuel (n + 1)

/-- An unsigned atomic maximum at the home by an agent that is no core (R201, R289, R317, R393): every L1 copy is invalidated
first. The old value, or none where the line is busy or the dirty ring has no room. -/
def State.homeMax (s : State) (cl : Nat) (l : Ln) (vmid asid va n x : Nat) : Option Nat × State :=
  if !s.engineMay cl 3 l true then (none, s)
  else
    let go := s.logWrite vmid asid va
    if !go.1 then (none, go.2)
    else
      let s := go.2.dropTracked l.tag l.line
      let old := leNat (slice (s.homeData l.tag l.line l.pline) (va % 128) n)
      (some old, s.writeAtHome l [(va % 128, leBytes n (max old x))])

/-- Where the rasteriser's access leads: its line, or its code. -/
def State.visAccess (s : State) (c : DrawCtx) (k : Acc) (va n : Nat) : Except Code Ln :=
  if 2 ^ 56 ≤ va then .error .addrNoncanon
  else
    match s.routeIn c.group va with
    | .remote .. => .error .pageProtection
    | .reduce .. => .error .pageProtection
    | _ => s.access k none c.vmid c.asid va n

/-- A write of the rasteriser meets a fault (R292): firmware services it, or the write is dropped. -/
def State.visFault (s : State) (cl : Nat) (c : DrawCtx) (code : Code) (va n : Nat) : State :=
  let s := (s.noteWalk c.vmid c.asid va).askMigration c.vmid code va
  if s.serviced c.vmid code then
    s.modVis cl fun v => { v with waitCode := some (code, va) }
  else
    s.modVis cl fun v =>
      { v with
        cursor := n + 1
        dropped := match v.dropped with
          | some x => some x
          | none => some (code, va) }

/-- A sample of a test draw (R293): the occlusion word, where the buffer's word is not greater. DESIGN CHOICE (log entry 33):
the buffer's word is read as it stands, with what earlier triangles of the same emptying wrote. -/
def State.testSample (s : State) (cl : Nat) (t : Tri) (n va word : Nat) : State :=
  match s.visAccess t.ctx .engineRead va 8 with
  | .error code => s.visFault cl t.ctx code va n
  | .ok l =>
    if !s.engineMay cl 3 l false then s
    else
      let seen := leNat (slice (s.coherentData l.tag l.line l.pline) (va % 128) 8)
      let next := fun (s : State) => (s.touchLine l).modVis cl fun v => { v with cursor := n + 1 }
      if word < seen then next s
      else
        let oa := t.ctx.obase + 4 * t.inst
        match s.visAccess t.ctx .atomic oa 4 with
        | .error code => s.visFault cl t.ctx code oa n
        | .ok o =>
          match s.homeMax cl o t.ctx.vmid t.ctx.asid oa 4 (2 ^ 31 + t.ctx.ftag) with
          | (some _, s) => next s
          | (none, s) => s

/-- The first triangle is done; with the last one, the buffer is empty, and an overflow is counted (R286, R291). -/
def Vis.pop (v : Vis) : Vis :=
  let rest := v.job.drop 1
  { v with
    job := rest
    cursor := 0
    binflush := if rest.isEmpty && v.overflow then v.binflush + 1 else v.binflush }

/-- RASTER_SAMPLE_WRITE (R289, R293): the next kept sample of the triangle being rasterised. -/
def execRasterSampleWrite (cluster : Nat) (s : State) : Host.Outcome State Fault Refusal :=
  let v := (s.cluster cluster).vis
  match v.job with
  | [] => .next s
  | t :: _ =>
    if v.waitCode.isSome then .next s
    else
      match screenOf t.verts with
      | none => .next (s.modVis cluster Vis.pop)
      | some p =>
        let box := pixelBox t.ctx p
        match nextSample t p box (box.2.2.1 * box.2.2.2 - v.cursor) v.cursor with
        | none => .next (s.modVis cluster Vis.pop)
        | some (n, px, py, word) =>
          let va := t.ctx.vbase + py * t.ctx.vpitch + 8 * px
          if t.test then .next (s.testSample cluster t n va word)
          else
            match s.visAccess t.ctx .atomic va 8 with
            | .error code => .next (s.visFault cluster t.ctx code va n)
            | .ok l =>
              match s.homeMax cluster l t.ctx.vmid t.ctx.asid va 8 word with
              | (some _, s) => .next (s.modVis cluster fun v => { v with cursor := n + 1 })
              | (none, s) => .next s

/-! ### ENGINE_FIRMWARE_SERVICE_DONE (R273, R292) -/

/-- ENGINE_FIRMWARE_SERVICE_DONE (R273, R292): the unit that waits makes its access again; units 0 and 1 are the Leats, any
other the rasteriser. -/
def execEngineFirmwareServiceDone (cluster unit : Nat) (s : State) : Host.Outcome State Fault Refusal :=
  if unit < 2 then
    match (s.leat cluster unit).head with
    | some c => .next (s.modCopy cluster unit c.seq fun x => { x with waitCode := none })
    | none => .next s
  else .next (s.modVis cluster fun v => { v with waitCode := none })

/-! ### OCCQ (R294) -/

/-- OCCQ at issue (R294). -/
def execOccq (f : EForm) (s : State) : Host.Outcome State Fault Refusal :=
  runInstr s fun c => do
    let act := c.active f.g
    let vdst := match f.d with
      | .v n => [n.toNat]
      | _ => []
    let pred := predOf f.c
    let b := sNum f.b
    c.checkTouch act
      { v := vdst ++ opdV .n32 f.a, s := opdS .n32 f.a ++ vRun b 3
        p := guardP f.g ++ (match pred with
          | some p => [p]
          | none => []) }
    let base := c.spair b
    let addrs := act.toList.map fun i => (i, (base + 4 * c.read .n32 f.a i) % 2 ^ 64)
    if act != 0 && base % 4 != 0 then .error (.fault (c.record .align act base 0))
    match c.memFault .ld .addrNoncanon addrs (fun a => decide (2 ^ 56 ≤ a)) with
    | some r => .error (.fault { r with aux := 0 })
    | none =>
      c.checkCounter .enc
      c.checkPool s vdst
      .ok ((s.issue c .enc [] vdst [] pred act fun p =>
        { p with
          addrs := addrs
          op := .occq (BitVec.ofNat 31 (c.sreg (b + 2)).toNat) pred }).advance c)

end Sys2Proof.Machine
end

