-- ==== Sys2Proof/Machine/Ray.lean ====
section
/-! DEFINITION. The traversal unit (R295 to R298): exact box and triangle tests, the visit of an acceleration structure,
and the ray instructions. -/

namespace Sys2Proof.Machine

/-! ### Rays and exact tests -/

/-- A bound of an interval: minus infinity, an exact quotient with positive denominator, plus infinity, or no number. -/
inductive Bound where
  | low
  | quot (num den : Int)
  | high
  | nan
  deriving DecidableEq, Repr

/-- An F32 as a bound in units of 2^-149. -/
def boundOf (w : Word) : Bound :=
  match Fmt.f32.decode w.toNat with
  | .nan _ => .nan
  | .inf neg => if neg then .low else .high
  | .fin .. => .quot ((f32Int w).getD 0) 1

/-- Whether one bound is at most another; false where either is no number. -/
def Bound.le : Bound → Bound → Bool
  | .nan, _ => false
  | _, .nan => false
  | .low, _ => true
  | _, .high => true
  | .quot a b, .quot c d => decide (a * d ≤ c * b)
  | _, _ => false

/-- The larger and the smaller of two bounds. -/
def Bound.max (x y : Bound) : Bound := if x.le y then y else x
def Bound.min (x y : Bound) : Bound := if x.le y then x else y

/-- A ray: origin and direction in units of 2^-149, and the interval of t in the same units (R296). -/
structure Ray where
  o : List Int
  d : List Int
  tmin : Bound
  tmax : Bound
  deriving DecidableEq, Repr

/-- What a lane's eight words are: a ray, a ray that misses everything, or one whose origin or direction is infinite, for
which R296 states no result. -/
inductive RayKind where
  | ray (r : Ray)
  | miss
  | unstated
  deriving DecidableEq, Repr

def rayOf (ws : List Word) : RayKind :=
  let nan := ws.any fun w => (Fmt.f32.decode w.toNat).isNan
  let inf := (ws.take 6).any fun w => (Fmt.f32.decode w.toNat).isInf
  let n := fun k => (f32Int (nth ws k 0)).getD 0
  let still := ((ws.drop 3).take 3).all fun w => f32Int w == some 0
  if nan || still then .miss
  else if inf then .unstated
  else .ray { o := [n 0, n 1, n 2], d := [n 3, n 4, n 5], tmin := boundOf (nth ws 6 0), tmax := boundOf (nth ws 7 0) }

/-- A bound on t along one axis: (w − o) ÷ d in units of 2^-149, for d positive; the sign of d has been taken. -/
def axisBound (w : Bound) (o d : Int) : Bound :=
  match w with
  | .quot a _ => .quot ((a - o) * unitF32) d
  | b => b

def Bound.neg : Bound → Bound
  | .low => .high
  | .high => .low
  | .quot a b => .quot (-a) b
  | .nan => .nan

/-- Whether a ray meets a closed box for some t of its interval (R296): the box's six words, minimum then maximum. -/
def Ray.meets (r : Ray) (box : List Word) : Bool :=
  let axis := fun (acc : Option (Bound × Bound)) (k : Nat) =>
    match acc with
    | none => none
    | some (lo, hi) =>
      let a := boundOf (nth box k 0)
      let b := boundOf (nth box (3 + k) 0)
      let o := nth r.o k 0
      let d := nth r.d k 0
      if a == .nan || b == .nan then none
      else if d == 0 then (if a.le (.quot o 1) && (Bound.quot o 1).le b then some (lo, hi) else none)
      else
        let near := if 0 < d then axisBound a o d else axisBound b.neg (-o) (-d)
        let far := if 0 < d then axisBound b o d else axisBound a.neg (-o) (-d)
        some (lo.max near, hi.min far)
  match (List.range 3).foldl axis (some (r.tmin, r.tmax)) with
  | none => false
  | some (lo, hi) => lo.le hi

def cross (a b : List Int) : List Int :=
  let x := fun (l : List Int) k => nth l k 0
  [x a 1 * x b 2 - x a 2 * x b 1, x a 2 * x b 0 - x a 0 * x b 2, x a 0 * x b 1 - x a 1 * x b 0]

def dot (a b : List Int) : Int := ((a.zip b).map fun x => x.1 * x.2).sum

def vsub (a b : List Int) : List Int := (a.zip b).map fun x => x.1 - x.2

/-- A hit: t, u and v as numerators over one positive denominator, instance and primitive. -/
structure Hit where
  t : Int
  u : Int
  v : Int
  den : Int
  inst : Word
  prim : Word
  deriving DecidableEq, Repr

/-- The hit of a ray on a triangle, if it is one (R296): u weighs the second vertex and v the third. -/
def Ray.hit (r : Ray) (cullb : Bool) (verts : List Word) (inst prim : Word) : Option Hit := do
  let xs ← verts.mapM f32Int
  let at_ := fun k => (xs.drop (3 * k)).take 3
  let e1 := vsub (at_ 1) (at_ 0)
  let e2 := vsub (at_ 2) (at_ 0)
  let p := cross r.d e2
  let det := dot e1 p
  let s := vsub r.o (at_ 0)
  let q := cross s e1
  let sg := det.sign
  let h : Hit :=
    { t := dot e2 q * sg, u := dot s p * sg, v := dot r.d q * sg, den := det * sg, inst := inst, prim := prim }
  let tb := Bound.quot (h.t * unitF32) h.den
  if det != 0 && r.tmin.le tb && tb.le r.tmax && decide (0 ≤ h.u) && decide (0 ≤ h.v) && decide (h.u + h.v ≤ h.den)
      && !(cullb && decide (0 < dot (cross e1 e2) r.d)) then
    some h
  else none

/-- Whether a hit has a smaller t than another. -/
def Hit.before (x y : Hit) : Bool := decide (x.t * y.den < y.t * x.den)

/-! ### The visit (R295, R296) -/

/-- Why a visit ends early: a hit under `ANY`, a malformed node, a faulting read, or a node that cannot be read now. -/
inductive VisitStop where
  | found
  | malformed
  | fault (code : Code) (va : Nat)
  | later
  deriving DecidableEq, Repr

/-- A visit so far, with the addresses of the nodes read, latest first. -/
structure Visit where
  best : Option Hit
  stop : Option VisitStop
  seen : List Nat
  deriving DecidableEq, Repr

/-- The words of a node. -/
def nodeWords (bs : List Byte) : List Word := (List.range 16).map fun k => BitVec.ofNat 32 (leNat (slice bs (4 * k) 4))

/-- A triangle node visited (R295, R296). -/
def visitTriangle (r : Ray) (any cullb : Bool) (ws : List Word) (v : Visit) : Visit :=
  if (ws.drop 11).any fun w => w != 0 then { v with stop := some .malformed }
  else
    match r.hit cullb (ws.take 9) (nth ws 9 0) (nth ws 10 0) with
    | none => v
    | some h =>
      let better := match v.best with
        | none => true
        | some b => h.before b
      { v with
        best := if better then some h else v.best
        stop := if any then some .found else v.stop }

/-- A node pointer visited, with `fuel` internal nodes left on the path (R295 to R297). DESIGN CHOICE (log
entry 34): a child pointer is looked at when it is entered, so one whose box the ray does not meet is never malformed. -/
def State.visit (s : State) (cl vmid asid : Nat) (group : Option Group) (r : Ray) (any cullb : Bool) :
    Nat → Nat → Visit → Visit
  | fuel, ptr, v =>
    if v.stop.isSome then v
    else
      let kind := ptr % 64
      let va := bitsOf ptr 55 6 * 64
      if bitsOf ptr 63 56 != 0 || decide (2 < kind) then { v with stop := some .malformed }
      else if kind == 0 then v
      else
        match s.engineRead .engineRead cl 4 vmid asid group va 64 with
        | .later => { v with stop := some .later }
        | .fault code at_ => { v with stop := some (.fault code at_) }
        | .bytes bs =>
          let ws := nodeWords bs
          let v := { v with seen := va :: v.seen }
          if kind == 2 then visitTriangle r any cullb ws v
          else
            match fuel with
            | 0 => { v with stop := some .malformed }
            | n + 1 =>
              let child := fun k => leNat (slice bs (48 + 8 * k) 8)
              let v := if r.meets (ws.take 6) then s.visit cl vmid asid group r any cullb n (child 0) v else v
              if r.meets ((ws.drop 6).take 6) then s.visit cl vmid asid group r any cullb n (child 1) v else v

/-- The four words of a hit (R297). -/
def Hit.words (h : Hit) : List Word :=
  let f16 := fun (x : Int) => ratRound Fmt.f16 x h.den
  [BitVec.ofNat 32 (ratRound Fmt.f32 h.t h.den), h.inst, h.prim, BitVec.ofNat 32 (f16 h.u + 2 ^ 16 * f16 h.v)]

def missWords : List Word := [0x7F800000, 0xFFFFFFFF, 0xFFFFFFFF, 0]
def malformedWords : List Word := [0x7FC00000, 0xFFFFFFFE, 0xFFFFFFFE, 0]

/-! ### The instructions (R296 to R298) -/

/-- RAYQ at issue (R296). -/
def execRayq (f : EForm) (s : State) : Host.Outcome State Fault Refusal :=
  runInstr s fun c => do
    let act := c.active f.g
    let reg := fun (o : Opd) => match o with
      | .v n => n.toNat
      | _ => 0
    let vdst := vRun (reg f.d) 4
    let b := sNum f.b
    c.checkTouch act { v := vdst ++ vRun (reg f.a) 8, s := vRun b 2, p := guardP f.g }
    c.checkCounter .enc
    c.checkPool s vdst
    let data := act.toList.map fun i => (i, (vRun (reg f.a) 8).map fun v => c.vreg v i)
    .ok ((s.issue c .enc [] vdst [] none act fun p =>
      { p with
        data := data
        op := .rayq (f.sub.getLsbD 0) (f.sub.getLsbD 1) (c.spair b) }).advance c)

/-- The result of a RAYQ all of whose lanes have theirs. -/
def rayOut (p : Pending) : Out :=
  { Out.none with
    vregs := (p.vdst.zip (List.range p.vdst.length)).map fun (x : Nat × Nat) =>
      (x.1, p.data.map fun (l : Nat × List Word) =>
        (l.1, BitVec.ofNat 32 (leNat (slice (p.kept l.1 16) (4 * x.2) 4)))) }

/-- A lane's result kept; with the last lane's, the RAYQ's arrives. -/
def State.rayLane (s : State) (r : Runner) (p : Pending) (lane : Nat) (ws : List Word) : State :=
  let q := { p.keep lane (ws.flatMap fun w => leBytes 4 w.toNat) with done := insertNat lane p.done }
  let s := s.modGang r.core r.slot fun g => g.modPending p.id fun _ => q
  if q.data.all fun x => q.done.contains x.1 then s.deliver r.core r.slot p.id (rayOut q) else s

/-- Four free words (log entry 7). -/
def State.freeWords (s : State) : List Word × State :=
  ((List.range 4).map fun k => Config.freeWord (s.free + k), { s with free := s.free + 4 })

/-- RAYQ_DELIVER (R296, R297): a lane's query runs and its result is delivered; a node read that faults is a deferred fault of
the RAYQ. A RAYQ with no active lane delivers at once. -/
def execRayqDeliver (core gang id lane : Nat) (s : State) : Host.Outcome State Fault Refusal :=
  match s.runner? core gang with
  | none => .next s
  | some r =>
    match r.gang.pending? id with
    | none => .next s
    | some p =>
      match p.op, p.st with
      | .rayq any cullb root, .pending =>
        if s.blocked r p [] then .next s
        else if p.data.isEmpty then .next (s.deliver core gang id (rayOut p))
        else
          match Table.get? p.data lane with
          | none => .next s
          | some ws =>
            if !p.laneOpen lane then .next s
            else
              match rayOf ws with
              | .miss => .next (s.rayLane r p lane missWords)
              | .unstated =>
                let x := s.freeWords
                .next (x.2.rayLane r p lane x.1)
              | .ray ray =>
                let v := s.visit (clusterOf core) r.grid.vmid r.grid.asid r.grid.group ray any cullb 64 root
                  { best := none, stop := none, seen := [] }
                let t := s.touchRead r.grid.vmid r.grid.asid r.grid.group v.seen.reverse
                match v.stop, v.best with
                | some .later, _ => .next s
                | some .malformed, _ => .next (t.rayLane r p lane malformedWords)
                | some (.fault code va), _ =>
                  .next ((t.noteWalk r.grid.vmid r.grid.asid va).modGang core gang fun g =>
                    g.modPending id fun q => q.addFailure false code lane va 0)
                | _, some h => .next (t.rayLane r p lane h.words)
                | _, none => .next (t.rayLane r p lane missWords)
      | _, _ => .next s

/-- RAYWAIT (R298). -/
def execRaywait (_f : EForm) (s : State) : Host.Outcome State Fault Refusal :=
  runInstr s fun c => do
    c.checkOnce []
    c.checkCounter .enc
    let id := s.nextId
    let ids := (c.gang.pending.filter fun p => match p.op with
      | .rayq .. => true
      | _ => false).map fun p => p.id
    let s := s.issue c .enc [] [] [] none c.sub.fibres fun p => { p with op := .raywait ids }
    .ok ((s.waitFor c id).advance c)

/-- Whether a RAYWAIT is over (R298). -/
def raywaitOver (g : Gang) (ids : List Nat) : Bool := g.pending.all fun p => !ids.contains p.id

end Sys2Proof.Machine
end

