-- ==== Sys2Proof/Machine/Control.lean ====
section
/-! DEFINITION. Control flow and predicates (R107 to R126). The returns of jump-table entries stand with the memory
system. -/

namespace Sys2Proof.Machine

/-- A C-form source as an operand use, read as N32 (R107). -/
def CForm.uses (f : CForm) : List Use := [{ o := f.a, t := .n32, reads := true }]

/-- The key of a fibre that goes on past the clause. -/
def Issuer.through (c : Issuer) : Key := { pc := c.clauseEnd, turn := c.sub.turn, wb := c.sub.wb }

/-- The target of a direct branch, in 64 bits (R109). -/
def Issuer.target (c : Issuer) (imm : BitVec 32) : DWord := c.at64 + (imm.signExtend 64 <<< 3)

/-- The key of a fibre whose branch is taken; TURN counts a backward branch (R19, R110). -/
def Issuer.taken (c : Issuer) (target : DWord) : Key :=
  { pc := target
    turn := if target ≤ c.clause.haddr.setWidth 64 then c.sub.turn + 1 else c.sub.turn
    wb := c.sub.wb }

/-- BR and BRC (R110). -/
def Issuer.branch (c : Issuer) (s : State) (f : CForm) : Except Stop State := do
  c.checkUses (CForm.uses f) f.g []
  let act := c.active f.g
  let key := fun i =>
    if act.getLsbD i && brCond f.aux.toNat (BitVec.ofNat 32 (c.read .n32 f.a i)) then c.taken (c.target f.imm)
    else c.through
  .ok (s.endClause c (groupByKey c.sub.fibres key))

/-- NOP (R108): its guard is read, and nothing changes. -/
def execNop (f : CForm) (s : State) : Host.Outcome State Fault Refusal :=
  runInstr s fun c => do
    c.checkUses [] f.g []
    .ok (s.commit c Effect.none)

/-- BR (R110). -/
def execBr (f : CForm) (s : State) : Host.Outcome State Fault Refusal := runInstr s fun c => c.branch s f

/-- BRC (R110). -/
def execBrc (f : CForm) (s : State) : Host.Outcome State Fault Refusal := runInstr s fun c => c.branch s f

/-- The base of a jump table, s(2k):s(2k+1) (R111). -/
def Issuer.tableBase (c : Issuer) (imm : BitVec 32) : Nat := c.spair (2 * (imm.toNat % 32))

/-- The bound of a jump table, s(2k+2) (R111). -/
def Issuer.tableBound (c : Issuer) (imm : BitVec 32) : Nat := (c.sreg (2 * (imm.toNat % 32) + 2)).toNat

/-- BRX and CALLX up to their entry reads (R112 to R114): the bound check, and the park at the end of the clause until
the entries return. With no active fibre there is nothing to read, and every fibre falls through: such a CALLX allocates
no link slots, unlike a CALL (DESIGN CHOICE, log entry 22). -/
def Issuer.lookup (c : Issuer) (s : State) (f : CForm) (call : Bool) : Except Stop State := do
  let k := 2 * (f.imm.toNat % 32)
  let act := c.active f.g
  let sh := 8 * f.aux.toNat
  if call && decide (1016 < c.sub.wb.toNat + sh) then .error (.fault (c.record .windowOverflow act 0 0))
  let t := touchOf (CForm.uses f) f.g []
  let link := if call then [sh, sh + 1] else []
  c.checkTouch act { t with s := t.s ++ [k, k + 1, k + 2], v := t.v ++ link }
  c.checkSp (c.spUses (CForm.uses f) act)
  let base := c.tableBase f.imm
  let bound := c.tableBound f.imm
  let idx := act.toList.map fun i => (i, c.read .n32 f.a i)
  match idx.filter fun x => decide (bound ≤ x.2) with
  | x :: rest =>
    .error (.fault (c.record .jumpTableBound ((x :: rest).foldl (fun m y => m ||| Lanes.one y.1) 0)
      ((base + 8 * x.2) % 2 ^ 64) x.2))
  | [] =>
    if idx.isEmpty then .ok (s.fallThrough c)
    else
      c.checkPool s link
      let (id, s) := s.fresh
      let park := Park.jumpTable id call f.aux.toNat (c.clause.haddr.setWidth 64) c.clauseEnd base idx act
      let s := s.modGang c.core c.slot fun g => g.modSub c.sub.id fun b =>
        { b with park := park, pc := c.at64, inClause := some (c.clause.header, c.clause.haddr) }
      .ok (s.modCore c.core fun k => k.setPipe c.pipe none)

/-- BRX (R112). -/
def execBrx (f : CForm) (s : State) : Host.Outcome State Fault Refusal := runInstr s fun c => c.lookup s f false

/-- LPAD (R115): a no-op where it is reached otherwise than through BRX or CALLX. -/
def execLpad (f : CForm) (s : State) : Host.Outcome State Fault Refusal :=
  runInstr s fun c => do
    c.checkUses [] f.g []
    .ok (s.commit c Effect.none)

/-- The two words of a link (R117): the return address, with the window shift in the top byte of the second. -/
def linkWords (aux : Nat) (ret : DWord) : Word × Word :=
  (ret.setWidth 32, BitVec.ofNat 32 (aux * 2 ^ 24 + bitsOf ret.toNat 55 32))

/-- CALL (R117). -/
def execCall (f : CForm) (s : State) : Host.Outcome State Fault Refusal :=
  runInstr s fun c => do
    let act := c.active f.g
    let sh := 8 * f.aux.toNat
    if 1016 < c.sub.wb.toNat + sh then .error (.fault (c.record .windowOverflow act 0 0))
    c.checkTouch act { v := [sh, sh + 1], s := [], p := guardP f.g }
    c.checkPool s [sh, sh + 1]
    let w := linkWords f.aux.toNat c.clauseEnd
    let s := s.applyEffect c { Effect.none with
      v := [(sh, act.toList.map fun i => (i, w.1)), (sh + 1, act.toList.map fun i => (i, w.2))] }
    let key := fun i =>
      if act.getLsbD i then
        { pc := c.target f.imm, turn := c.sub.turn, wb := c.sub.wb + BitVec.ofNat 10 sh : Key }
      else c.through
    .ok (s.endClause c (groupByKey c.sub.fibres key))

/-- CALLX (R118). -/
def execCallx (f : CForm) (s : State) : Host.Outcome State Fault Refusal := runInstr s fun c => c.lookup s f true

/-- The link that RET reads in a lane: its low and high words (R119). -/
def Issuer.link (c : Issuer) (a : Opd) (lane : Nat) : Nat := c.read .b64 a lane

/-- RET (R119). -/
def execRet (f : CForm) (s : State) : Host.Outcome State Fault Refusal :=
  runInstr s fun c => do
    c.checkUses [{ o := f.a, t := .b64, reads := true }] f.g []
    let act := c.active f.g
    let shift := fun i => 8 * bitsOf (c.link f.a i) 63 56
    match act.toList.filter fun i => decide (c.sub.wb.toNat < shift i) with
    | i :: rest =>
      .error (.fault (c.record .windowOverflow ((i :: rest).foldl (fun m j => m ||| Lanes.one j) 0) 0 0))
    | [] =>
      let key := fun i =>
        if act.getLsbD i then
          { pc := BitVec.ofNat 64 (bitsOf (c.link f.a i) 55 3 * 8), turn := c.sub.turn,
            wb := c.sub.wb - BitVec.ofNat 10 (shift i) : Key }
        else c.through
      .ok (s.endClause c (groupByKey c.sub.fibres key))

/-- Lanes of a gang that hold no live fibre, in increasing order (R25, R120). -/
def Gang.freeLanes (g : Gang) : List Nat :=
  let live := g.subs.foldl (fun (m : Lanes) b => m ||| b.fibres) 0
  (List.range g.width).filter fun i => !live.getLsbD i

/-- A new fibre's lane (R25): the spawner's `v0` to `v7`, zero everywhere else, predicates clear. -/
def Gang.spawnLane (g : Gang) (wb parent child : Nat) : Gang :=
  let old := g
  let word := fun slot => if wb ≤ slot && slot < wb + 8 then old.slotWord slot parent else 0
  { g with
    slots := g.slots.map fun (x : Nat × List Word) => (x.1, setAt g.width x.2 child (word x.1) 0)
    preds := g.preds.map fun (m : Lanes) => m &&& ~~~(Lanes.one child)
    handlerPreds := g.handlerPreds.map fun (m : Lanes) => m &&& ~~~(Lanes.one child) }

/-- The clause on the issuer's pipe goes on under a new number of its sub-gang, so that what issues from here on reaches no
sub-gang that left it before (R193). -/
def Issuer.renamed (c : Issuer) (id : Nat) : Issuer :=
  { c with
    clause := { c.clause with sub := id }
    sub := { c.sub with id := id, anc := id :: c.sub.anc } }

/-- SPAWN (R25, R120): free lanes in increasing order go to the spawners in increasing order. A fibre spawned from handler context
starts outside it (DESIGN CHOICE, log entry 23). -/
def execSpawn (f : CForm) (s : State) : Host.Outcome State Fault Refusal :=
  runInstr s fun c => do
    let p := f.aux.toNat % 8
    let act := c.active f.g
    c.checkTouch act { v := List.range 8, s := [], p := p :: guardP f.g }
    let pairs := act.toList.zip c.gang.freeLanes
    let won := pairs.foldl (fun (m : Lanes) x => m ||| Lanes.one x.1) 0
    let born := pairs.foldl (fun (m : Lanes) x => m ||| Lanes.one x.2) 0
    let c' := c.renamed (s.next + 1)
    let child : SubGang :=
      { c.sub with
        id := s.next, anc := s.next :: c.sub.anc, fibres := born, pc := c.target f.imm, turn := 0, passOver := 0,
        yielded := false, park := .run, waits := [], inClause := none, handler := none, others := [] }
    if pairs.isEmpty then
      .ok (s.commit c { Effect.none with p := [(p, act, won)] })
    else
      let s := { s with next := s.next + 2 }
      let s := s.modGang c.core c.slot fun g =>
        let g := pairs.foldl (fun g x => g.spawnLane c.sub.wb.toNat x.1 x.2) g
        let g := (g.writePred p act won).replaceSub c.sub.id [c'.sub]
        { g with
          subs := g.subs ++ [child]
          dbg := { g.dbg with stepping := if g.dbg.stepping == some c.sub.id then some c'.sub.id else g.dbg.stepping } }
      .ok ((s.modCore c.core fun k => k.setPipe c.pipe (some c'.clause)).advance c')

/-- Results on their way to lanes whose fibres have ended are discarded there (R121), and so is what a breakpoint noted of
them. -/
def Gang.forgetLanes (g : Gang) (m : Lanes) : Gang :=
  { g with
    pending := g.pending.map fun (p : Pending) => { p with live := p.live &&& ~~~m }
    dbg := { g.dbg with passed := g.dbg.passed.map fun (x : Lanes × DWord) => (x.1 &&& ~~~m, x.2) } }

/-- END (R26, R121). -/
def execEndFibre (f : CForm) (s : State) : Host.Outcome State Fault Refusal :=
  runInstr s fun c => do
    c.checkUses [] f.g []
    let act := c.active f.g
    let s := s.modGang c.core c.slot fun g => g.forgetLanes act
    .ok (s.endClause c (groupByKey (c.sub.fibres &&& ~~~act) fun _ => c.through))

/-- YIELD (R122): with a fibre active, the sub-gang and the gang are demoted at the next selection. -/
def execYield (f : CForm) (s : State) : Host.Outcome State Fault Refusal :=
  runInstr s fun c => do
    c.checkUses [] f.g []
    let y := c.active f.g != 0
    let c' := { c with sub := { c.sub with yielded := c.sub.yielded || y } }
    let s := s.modGang c.core c.slot fun g => { g with yielded := g.yielded || y }
    .ok (s.fallThrough c')

/-- TRAP (R123): the active fibres form their own sub-gang, which stops with DEBUG at `clause_end`. -/
def execTrap (f : CForm) (s : State) : Host.Outcome State Fault Refusal :=
  runInstr s fun c => do
    c.checkUses [] f.g []
    let act := c.active f.g
    let rest := c.sub.fibres &&& ~~~act
    if act == 0 then .ok (s.fallThrough c)
    else
      let id := if rest == 0 then c.sub.id else s.next
      let groups := if rest == 0 then [(c.through, act)] else [(c.through, act), (c.through, rest)]
      let fr : FaultRec :=
        { code := some .debug, pc := c.pc, addr := 0, lanes := act,
          aux := BitVec.ofNat 32 (2 * 2 ^ 30 + f.imm.toNat % 2 ^ 24) }
      .ok ((s.endClause c groups).takeFault c.core c.slot id fr { pc := c.clauseEnd, inClause := none, entry := none })

/-- BKPT (R124): commits; with a fibre active the gang halts at the end of the clause. A later BKPT of the clause replaces an
earlier one's record (DESIGN CHOICE, log entry 53). -/
def execBkpt (f : CForm) (s : State) : Host.Outcome State Fault Refusal :=
  runInstr s fun c => do
    c.checkUses [] f.g []
    let act := c.active f.g
    let fr : FaultRec :=
      { code := some .debug, pc := c.pc, addr := 0, lanes := act, aux := BitVec.ofNat 32 (f.imm.toNat % 2 ^ 24) }
    let s :=
      if act == 0 then s
      else s.modGang c.core c.slot fun g =>
        { g with dbg := { g.dbg with request := some (c.sub.id, fr) } }
    .ok (s.commit c Effect.none)

/-- PSET (R125). -/
def execPset (d a b : Fin 7) (tt : BitVec 4) (g : Guard) (s : State) : Host.Outcome State Fault Refusal :=
  runInstr s fun c => do
    let act := c.active g
    c.checkTouch act { v := [], s := [], p := guardP g ++ [d.val, a.val, b.val] }
    let pa := nth c.gang.preds a.val 0
    let pb := nth c.gang.preds b.val 0
    let val := Lanes.ofPred c.gang.width fun i =>
      tt.getLsbD (2 * (if pa.getLsbD i then 1 else 0) + (if pb.getLsbD i then 1 else 0))
    .ok (s.commit c { Effect.none with p := [(d.val, act, val)] })

/-- The predicate word of a lane, `p0` in bit 0 (R126). -/
def Issuer.predWord (c : Issuer) (lane : Nat) : Nat :=
  ((List.range 7).map fun p => if (nth c.gang.preds p 0).getLsbD lane then 2 ^ p else 0).sum

/-- PMOV.get (R126). -/
def execPmovGet (f : RForm) (s : State) : Host.Outcome State Fault Refusal :=
  runInstr s fun c => do
    c.checkUses [{ o := f.d, t := .n32, reads := false }] f.g (List.range 7)
    c.checkPool s (dstV .n32 f.d)
    let vals := (c.active f.g).toList.map fun i => (i, c.predWord i)
    .ok (s.commit c (c.writeDst .n32 f.d vals Effect.none))

/-- PMOV.set (R126): a mask bit set for a predicate that is not ready is a hazard. -/
def execPmovSet (f : RForm) (s : State) : Host.Outcome State Fault Refusal :=
  runInstr s fun c => do
    let us : List Use := [{ o := f.a, t := .n32, reads := true }, { o := f.b, t := .n32, reads := true }]
    let act := c.active f.g
    c.checkTouch act (touchOf us f.g [])
    let masked := (List.range 7).filter fun k => act.toList.any fun i => (c.read .n32 f.b i).testBit k
    c.checkTouch act { v := [], s := [], p := masked }
    c.checkSp (c.spUses us act)
    let sets := masked.map fun k =>
      (k, maskOf (act.toList.map fun i => (i, (c.read .n32 f.b i).testBit k)),
       maskOf (act.toList.map fun i => (i, (c.read .n32 f.a i).testBit k)))
    .ok (s.commit c { Effect.none with
      rel := lrRel f.lrA .n32 f.a ++ lrRel f.lrB .n32 f.b
      p := sets })

end Sys2Proof.Machine
end

