-- ==== Sys2Proof/WellFormed.lean ====
section
/-! DEFINITION. Which instructions are well formed: those whose every field holds a value that the manual allows it. The
rules themselves stand in Machine/Fields.lean, one line per instruction. -/

namespace Sys2Proof

/-- An instruction is well formed when its word passes R43 step 6. An event has no word, and is well formed. -/
def WellFormed (i : Instr) : Bool := fieldsOk i

end Sys2Proof
end

