-- ==== Sys2Proof/Decode.lean ====
section
/-! DEFINITION. Instruction words: the seven formats (R52 to R57), the opcode map (R65), a total decoder that rejects by
name, and after it the encoder, written from the same tables. -/

namespace Sys2Proof

/-- The raw fields of the R, E and Y layouts (R52, R53). -/
structure RawR where
  op : BitVec 8
  t : BitVec 6
  d : BitVec 9
  a : BitVec 9
  b : BitVec 9
  c : BitVec 9
  lr : BitVec 3
  g : BitVec 4
  m : BitVec 7
  deriving DecidableEq, Repr

/-- The raw fields of the I layout (R54); `r` is the reserved bit [50]. -/
structure RawI where
  op : BitVec 8
  g : BitVec 4
  lr : BitVec 1
  r : BitVec 1
  d : BitVec 9
  a : BitVec 9
  imm : BitVec 32
  deriving DecidableEq, Repr

/-- The raw fields of the M layout (R55); `lr` is `LR.A` then `LR.D`. -/
structure RawM where
  op : BitVec 8
  t : BitVec 6
  d : BitVec 9
  a : BitVec 9
  off : BitVec 12
  scope : BitVec 3
  ord : BitVec 2
  hint : BitVec 3
  lr : BitVec 2
  g : BitVec 4
  sub : BitVec 6
  deriving DecidableEq, Repr

/-- The raw fields of the X layout (R56); `fl` is `LR.A`, `LR.B`, `OVW`, `NEG`. -/
structure RawX where
  op : BitVec 8
  ta : BitVec 6
  tb : BitVec 6
  a : BitVec 9
  b : BitVec 9
  s : BitVec 9
  row : BitVec 9
  bank : BitVec 2
  acct : BitVec 2
  fl : BitVec 4
  deriving DecidableEq, Repr

/-- The raw fields of the C layout (R57); `r` is the reserved field [34:32]. -/
structure RawC where
  op : BitVec 8
  g : BitVec 4
  aux : BitVec 8
  a : BitVec 9
  r : BitVec 3
  imm : BitVec 32
  deriving DecidableEq, Repr

def splitR (w : DWord) : RawR :=
  { op := w.extractLsb' 56 8, t := w.extractLsb' 50 6, d := w.extractLsb' 41 9, a := w.extractLsb' 32 9,
    b := w.extractLsb' 23 9, c := w.extractLsb' 14 9, lr := w.extractLsb' 11 3, g := w.extractLsb' 7 4,
    m := w.extractLsb' 0 7 }

def joinR (r : RawR) : DWord := r.op ++ r.t ++ r.d ++ r.a ++ r.b ++ r.c ++ r.lr ++ r.g ++ r.m

def splitI (w : DWord) : RawI :=
  { op := w.extractLsb' 56 8, g := w.extractLsb' 52 4, lr := w.extractLsb' 51 1, r := w.extractLsb' 50 1,
    d := w.extractLsb' 41 9, a := w.extractLsb' 32 9, imm := w.extractLsb' 0 32 }

def joinI (r : RawI) : DWord := r.op ++ r.g ++ r.lr ++ r.r ++ r.d ++ r.a ++ r.imm

def splitM (w : DWord) : RawM :=
  { op := w.extractLsb' 56 8, t := w.extractLsb' 50 6, d := w.extractLsb' 41 9, a := w.extractLsb' 32 9,
    off := w.extractLsb' 20 12, scope := w.extractLsb' 17 3, ord := w.extractLsb' 15 2, hint := w.extractLsb' 12 3,
    lr := w.extractLsb' 10 2, g := w.extractLsb' 6 4, sub := w.extractLsb' 0 6 }

def joinM (r : RawM) : DWord :=
  r.op ++ r.t ++ r.d ++ r.a ++ r.off ++ r.scope ++ r.ord ++ r.hint ++ r.lr ++ r.g ++ r.sub

def splitX (w : DWord) : RawX :=
  { op := w.extractLsb' 56 8, ta := w.extractLsb' 50 6, tb := w.extractLsb' 44 6, a := w.extractLsb' 35 9,
    b := w.extractLsb' 26 9, s := w.extractLsb' 17 9, row := w.extractLsb' 8 9, bank := w.extractLsb' 6 2,
    acct := w.extractLsb' 4 2, fl := w.extractLsb' 0 4 }

def joinX (r : RawX) : DWord :=
  r.op ++ r.ta ++ r.tb ++ r.a ++ r.b ++ r.s ++ r.row ++ r.bank ++ r.acct ++ r.fl

def splitC (w : DWord) : RawC :=
  { op := w.extractLsb' 56 8, g := w.extractLsb' 52 4, aux := w.extractLsb' 44 8, a := w.extractLsb' 35 9,
    r := w.extractLsb' 32 3, imm := w.extractLsb' 0 32 }

def joinC (r : RawC) : DWord := r.op ++ r.g ++ r.aux ++ r.a ++ r.r ++ r.imm

/-- The operand of a 9-bit code (R58); none for the reserved codes 0x1C0 to 0x1FD. -/
def Opd.ofCode (x : BitVec 9) : Option Opd :=
  let n := x.toNat
  if n < 0x100 then some (.v (BitVec.ofNat 8 n))
  else if n < 0x140 then some (.s (BitVec.ofNat 6 (n - 0x100)))
  else if h : n < 0x170 then some (.imm ⟨n - 0x140, by omega⟩)
  else if n < 0x180 then some (.flt (BitVec.ofNat 4 (n - 0x170)))
  else if n < 0x1C0 then some (.sp (BitVec.ofNat 6 (n - 0x180)))
  else if n == 0x1FE then some .lane
  else if n == 0x1FF then some .none
  else Option.none

/-- The 9-bit code of an operand (R58). -/
def Opd.toCode : Opd → BitVec 9
  | .v n => BitVec.ofNat 9 n.toNat
  | .s n => BitVec.ofNat 9 (0x100 + n.toNat)
  | .imm n => BitVec.ofNat 9 (0x140 + n.val)
  | .flt n => BitVec.ofNat 9 (0x170 + n.toNat)
  | .sp n => BitVec.ofNat 9 (0x180 + n.toNat)
  | .lane => 0x1FE
  | .none => 0x1FF

/-- The guard of a 4-bit code (R63); none for 0b1111. -/
def Guard.ofCode (x : BitVec 4) : Option Guard :=
  let n := x.toNat
  if h : n < 7 then some (.pred false ⟨n, h⟩)
  else if n == 7 then some .always
  else if h : n - 8 < 7 then some (.pred true ⟨n - 8, h⟩)
  else none

/-- The 4-bit code of a guard (R63). -/
def Guard.toCode : Guard → BitVec 4
  | .always => 7
  | .pred false n => BitVec.ofNat 4 n.val
  | .pred true n => BitVec.ofNat 4 (8 + n.val)

/-- The R-form of a word (R52, R64); none when a field holds a code that names nothing. -/
def rForm (w : DWord) : Option RForm := do
  let r := splitR w
  let t ← Ty.ofCode r.t.toNat
  let d ← Opd.ofCode r.d
  let a ← Opd.ofCode r.a
  let b ← Opd.ofCode r.b
  let c ← Opd.ofCode r.c
  let g ← Guard.ofCode r.g
  some { t, d, a, b, c, lrA := r.lr.getLsbD 2, lrB := r.lr.getLsbD 1, lrC := r.lr.getLsbD 0, g,
         rnd := r.m.extractLsb' 4 3, sat := r.m.getLsbD 3, fn := r.m.extractLsb' 0 3 }

/-- The R-form of VCVT and ACCOUT, whose C field holds a type code with [8:6] zero (R66, R249). -/
def typedForm (w : DWord) : Option (Ty × RForm) := do
  let r := splitR w
  let t ← Ty.ofCode r.t.toNat
  let src ← Ty.ofCode r.c.toNat
  let d ← Opd.ofCode r.d
  let a ← Opd.ofCode r.a
  let b ← Opd.ofCode r.b
  let g ← Guard.ofCode r.g
  some (src, { t, d, a, b, c := .none, lrA := r.lr.getLsbD 2, lrB := r.lr.getLsbD 1, lrC := r.lr.getLsbD 0, g,
               rnd := r.m.extractLsb' 4 3, sat := r.m.getLsbD 3, fn := r.m.extractLsb' 0 3 })

/-- The E-form of a word (R53). -/
def eForm (w : DWord) : Option EForm := do
  let r := splitR w
  let d ← Opd.ofCode r.d
  let a ← Opd.ofCode r.a
  let b ← Opd.ofCode r.b
  let c ← Opd.ofCode r.c
  let g ← Guard.ofCode r.g
  some { sub := r.t, d, a, b, c, lrA := r.lr.getLsbD 2, lrB := r.lr.getLsbD 1, lrC := r.lr.getLsbD 0, g, mod := r.m }

/-- The Y-form of a word (R53): `SEL` is [55:50] then [6:0]. -/
def yForm (w : DWord) : Option YForm := do
  let r := splitR w
  let d ← Opd.ofCode r.d
  let a ← Opd.ofCode r.a
  let b ← Opd.ofCode r.b
  let c ← Opd.ofCode r.c
  let g ← Guard.ofCode r.g
  some { sel := r.t ++ r.m, d, a, b, c, lrA := r.lr.getLsbD 2, lrB := r.lr.getLsbD 1, lrC := r.lr.getLsbD 0, g }

/-- The I-form of a word (R54); none when the reserved bit is set. -/
def iForm (w : DWord) : Option IForm := do
  let r := splitI w
  let d ← Opd.ofCode r.d
  let a ← Opd.ofCode r.a
  let g ← Guard.ofCode r.g
  if r.r == 0 then some { g, lrA := r.lr == 1, d, a, imm := r.imm } else none

/-- The M-form of a word (R55). -/
def mForm (w : DWord) : Option MForm := do
  let r := splitM w
  let t ← Ty.ofCode r.t.toNat
  let d ← Opd.ofCode r.d
  let a ← Opd.ofCode r.a
  let g ← Guard.ofCode r.g
  some { t, d, a, off := r.off, scope := r.scope, ord := r.ord, hint := r.hint, lrA := r.lr.getLsbD 1,
         lrD := r.lr.getLsbD 0, g, sub := r.sub }

/-- The X-form of a word (R56). -/
def xForm (w : DWord) : Option XForm := do
  let r := splitX w
  let ta ← Ty.ofCode r.ta.toNat
  let tb ← Ty.ofCode r.tb.toNat
  some { ta, tb, a := r.a, b := r.b, s := r.s, row := r.row, bank := r.bank, acct := r.acct,
         lrA := r.fl.getLsbD 3, lrB := r.fl.getLsbD 2, ovw := r.fl.getLsbD 1, neg := r.fl.getLsbD 0 }

/-- The C-form of a word (R57); none when the reserved field is not zero. -/
def cForm (w : DWord) : Option CForm := do
  let r := splitC w
  let a ← Opd.ofCode r.a
  let g ← Guard.ofCode r.g
  if r.r == 0 then some { g, aux := r.aux, a, imm := r.imm } else none

/-- A predicate named by an operand code 0x140 + p (R125). -/
def predOf : Opd → Option (Fin 7)
  | .imm n => if h : n.val < 7 then some ⟨n.val, h⟩ else none
  | _ => none

/-- PSET (R125): `T` is B32, `D` and `C` are 0x1FF, `LR` is 0, and `MOD` holds d and the truth table. -/
def psetForm (w : DWord) : Option Instr := do
  let r := splitR w
  let a ← Opd.ofCode r.a
  let b ← Opd.ofCode r.b
  let pa ← predOf a
  let pb ← predOf b
  let g ← Guard.ofCode r.g
  let d := (r.m.extractLsb' 4 3).toNat
  if r.t == 0 && r.d == 0x1FF && r.c == 0x1FF && r.lr == 0 then
    if h : d < 7 then some (.pset ⟨d, h⟩ pa pb (r.m.extractLsb' 0 4) g) else none
  else none

/-- The instruction that the OP byte and the fields of a word name, before the field rules (R65): none when a field names
nothing. The outer none is an OP byte that the map does not assign. -/
def instrOf (op : Nat) (w : DWord) : Option (Option Instr) :=
  if op < 0x20 then controlOf op w else if op < 0x60 then vectorOf op w else otherOf op w
where
  controlOf (op : Nat) (w : DWord) : Option (Option Instr) :=
    match op with
    | 0x00 => some ((cForm w).map .nop)
    | 0x01 => some ((cForm w).map .br)
    | 0x02 => some ((cForm w).map .brc)
    | 0x03 => some ((cForm w).map .brx)
    | 0x04 => some ((cForm w).map .lpad)
    | 0x05 => some ((cForm w).map .call)
    | 0x06 => some ((cForm w).map .callx)
    | 0x07 => some ((cForm w).map .ret)
    | 0x08 => some ((cForm w).map .spawn)
    | 0x09 => some ((cForm w).map .endFibre)
    | 0x0A => some ((cForm w).map .yield)
    | 0x0B => some ((cForm w).map .trap)
    | 0x0C => some ((cForm w).map .bkpt)
    | 0x0D => some (psetForm w)
    | 0x0E => some ((rForm w).map fun f => if f.fn.toNat == 0 then .pmovGet f else .pmovSet f)
    | 0x0F => some ((rForm w).map .smov)
    | 0x10 => some ((iForm w).map .smovi)
    | 0x11 => some ((rForm w).map .sadd)
    | 0x12 => some ((rForm w).map .ssub)
    | 0x13 => some ((rForm w).map .smul)
    | 0x14 => some ((rForm w).map .sand)
    | 0x15 => some ((rForm w).map .sor)
    | 0x16 => some ((rForm w).map .sxor)
    | 0x17 => some ((rForm w).map .sshl)
    | 0x18 => some ((rForm w).map .sshr)
    | 0x19 => some ((rForm w).map .ssar)
    | 0x1A => some ((rForm w).map .scmp)
    | 0x1B => some ((rForm w).map .ssel)
    | 0x1C => some ((yForm w).map .srd)
    | _ => none
  vectorOf (op : Nat) (w : DWord) : Option (Option Instr) :=
    match op with
    | 0x20 => some ((rForm w).map .vadd)
    | 0x21 => some ((rForm w).map .vaddc)
    | 0x22 => some ((rForm w).map .vsub)
    | 0x23 => some ((rForm w).map .vmul)
    | 0x24 => some ((rForm w).map .vmad)
    | 0x25 => some ((rForm w).map .vmin)
    | 0x26 => some ((rForm w).map .vmax)
    | 0x27 => some ((rForm w).map .vand)
    | 0x28 => some ((rForm w).map .vor)
    | 0x29 => some ((rForm w).map .vxor)
    | 0x2A => some ((rForm w).map .vnot)
    | 0x2B => some ((rForm w).map .vshl)
    | 0x2C => some ((rForm w).map .vshr)
    | 0x2D => some ((rForm w).map .vsar)
    | 0x2E => some ((rForm w).map .vpopc)
    | 0x2F => some ((rForm w).map .vclz)
    | 0x30 => some ((rForm w).map .vctz)
    | 0x31 => some ((rForm w).map .vbfe)
    | 0x32 => some ((rForm w).map .vbfi)
    | 0x33 => some ((rForm w).map .vcmp)
    | 0x34 => some ((rForm w).map .vsel)
    | 0x35 => some ((rForm w).map .vmov)
    | 0x36 => some ((iForm w).map .vmovi)
    | 0x37 => some ((rForm w).map .vfadd)
    | 0x38 => some ((rForm w).map .vfsub)
    | 0x39 => some ((rForm w).map .vfmul)
    | 0x3A => some ((rForm w).map .vfma)
    | 0x3B => some ((rForm w).map .vfmin)
    | 0x3C => some ((rForm w).map .vfmax)
    | 0x3D => some ((rForm w).map .vfcmp)
    | 0x3E => some ((rForm w).map .vfclass)
    | 0x3F => some ((rForm w).map .vrcp)
    | 0x40 => some ((rForm w).map .vrsq)
    | 0x41 => some ((rForm w).map .vsqrt)
    | 0x42 => some ((rForm w).map .vdiv)
    | 0x43 => some ((rForm w).map .vexp2)
    | 0x44 => some ((rForm w).map .vlog2)
    | 0x45 => some ((rForm w).map .vsinpi)
    | 0x46 => some ((rForm w).map .vcospi)
    | 0x47 => some ((rForm w).map .vfract)
    | 0x48 => some ((rForm w).map .vfrnd)
    | 0x49 => some ((rForm w).map .vldexp)
    | 0x4A => some ((rForm w).map .vfrexp)
    | 0x4B => some ((typedForm w).map fun (src, f) => .vcvt src f)
    | 0x4C => some ((rForm w).map .vpack)
    | 0x4D => some ((rForm w).map .vunpack)
    | 0x4E => some ((rForm w).map .vcamrel)
    | 0x4F => some ((rForm w).map .vshuf)
    | 0x50 => some ((rForm w).map .vswz)
    | 0x51 => some ((rForm w).map .vbcast)
    | 0x52 => some ((rForm w).map .vvote)
    | 0x53 => some ((rForm w).map .vred)
    | 0x54 => some ((rForm w).map .vscan)
    | 0x55 => some ((eForm w).map .vfree)
    | _ => none
  otherOf (op : Nat) (w : DWord) : Option (Option Instr) :=
    match op with
    | 0x60 => some ((mForm w).map .ld)
    | 0x61 => some ((mForm w).map .st)
    | 0x62 => some ((mForm w).map .sld)
    | 0x63 => some ((mForm w).map .lds)
    | 0x64 => some ((mForm w).map .sts)
    | 0x65 => some ((mForm w).map .atom)
    | 0x66 => some ((mForm w).map .atoms)
    | 0x67 => some ((mForm w).map .fence)
    | 0x68 => some ((mForm w).map .pref)
    | 0x69 => some ((mForm w).map .fec)
    | 0x6A => some ((mForm w).map .woreset)
    | 0x80 => some ((xForm w).map .mma)
    | 0x81 => some ((eForm w).map .acczero)
    | 0x82 => some ((eForm w).map .accld)
    | 0x83 => some ((eForm w).map .accst)
    | 0x84 => some ((typedForm w).map fun (src, f) => .accout src f)
    | 0x85 => some ((eForm w).map .accwin)
    | 0x86 => some ((eForm w).map .cbload)
    | 0x87 => some ((eForm w).map .cbvalid)
    | 0x88 => some ((rForm w).map .vexpand)
    | 0x89 => some ((eForm w).map .spur)
    | 0x8A => some ((eForm w).map .spuracc)
    | 0xA0 => some ((eForm w).map .cpy)
    | 0xA1 => some ((eForm w).map .cpystat)
    | 0xA2 => some ((eForm w).map .barinit)
    | 0xA3 => some ((eForm w).map .bara)
    | 0xA4 => some ((eForm w).map .barw)
    | 0xA5 => some ((eForm w).map .baraw)
    | 0xA6 => some ((eForm w).map .rangeset)
    | 0xA7 => some ((eForm w).map .take)
    | 0xA8 => some ((eForm w).map .qpush)
    | 0xA9 => some ((eForm w).map .qpop)
    | 0xAA => some ((eForm w).map .amplify)
    | 0xAB => some ((eForm w).map .launch)
    | 0xC0 => some ((eForm w).map .prim)
    | 0xC1 => some ((eForm w).map .occq)
    | 0xC2 => some ((eForm w).map .rayq)
    | 0xC3 => some ((eForm w).map .raywait)
    | 0xC4 => some ((eForm w).map .txreq)
    | 0xC5 => some ((eForm w).map .txwait)
    | 0xC6 => some ((eForm w).map .txfill)
    | 0xC7 => some ((eForm w).map fun f => if f.sub.toNat == 0 then .txinvKey f else .txinvInfl f)
    | 0xC8 => some ((eForm w).map .txframe)
    | 0xC9 => some ((eForm w).map fun f => if f.sub.toNat == 0 then .txpinSet f else .txpinClr f)
    | 0xE0 => some ((yForm w).map .sysrd)
    | 0xE1 => some ((yForm w).map .syswr)
    | 0xE2 => some ((cForm w).map fun f => if f.aux.toNat == 0 then .eret f else .eretSkip f)
    | 0xE3 => some ((eForm w).map .attrset)
    | 0xE4 => some ((eForm w).map .tlbshoot)
    | 0xE5 => some ((eForm w).map fun f => if f.sub.toNat == 0 then .cacheopWb f else if f.sub.toNat == 1 then .cacheopInv f else if f.sub.toNat == 2 then .cacheopDiscard f else if f.sub.toNat == 3 then .cacheopIinv f else .cacheopClrlost f)
    | 0xE6 => some ((cForm w).map .firmcall)
    | _ => none

/-- The decoder: total on every word, rejecting by the fault code that the static checks of R43 report for the word
alone: CLAUSE_FORM for a header mark, ILLEGAL_OP for an unassigned OP byte, RESERVED_FIELD for a field. -/
def decode (w : DWord) : Except Code Instr :=
  let op := (w.extractLsb' 56 8).toNat
  if 0xFC ≤ op then .error .clauseForm
  else
    match instrOf op w with
    | none => .error .illegalOp
    | some none => .error .reservedField
    | some (some i) => if WellFormed i then .ok i else .error .reservedField

/-- The word that eight bytes of memory hold, the lowest address first (R5). -/
def wordOfBytes (bs : List Byte) : DWord :=
  bs.take 8 |>.foldr (fun b acc => (acc <<< 8) ||| b.setWidth 64) 0

/-- The eight bytes of a word, the lowest address first (R5). -/
def bytesOfWord (w : DWord) : List Byte := (List.range 8).map fun i => w.extractLsb' (8 * i) 8

/-- Decode the instruction at the head of a byte stream; an instruction is always one word of eight bytes. -/
def decodeBytes (bs : List Byte) : Except Code (Instr × List Byte) :=
  match decode (wordOfBytes bs) with
  | .ok i => .ok (i, bs.drop 8)
  | .error c => .error c

/-- The instruction read from a word whose bits are numbered as spec/opcode_table.json numbers them. -/
def decodeTableWord (_nbits w : Nat) : Option Instr :=
  match decodeBytes (bytesOfWord (BitVec.ofNat 64 w)) with
  | .ok (i, _) => some i
  | .error _ => none

/-! ### The encoder -/

def lrBits (a b c : Bool) : BitVec 3 := BitVec.ofBool a ++ BitVec.ofBool b ++ BitVec.ofBool c

def packR (op : BitVec 8) (f : RForm) : DWord :=
  joinR { op, t := BitVec.ofNat 6 f.t.toCode, d := f.d.toCode, a := f.a.toCode, b := f.b.toCode, c := f.c.toCode,
          lr := lrBits f.lrA f.lrB f.lrC, g := f.g.toCode, m := f.rnd ++ BitVec.ofBool f.sat ++ f.fn }

def packTyped (op : BitVec 8) (src : Ty) (f : RForm) : DWord :=
  joinR { op, t := BitVec.ofNat 6 f.t.toCode, d := f.d.toCode, a := f.a.toCode, b := f.b.toCode,
          c := BitVec.ofNat 9 src.toCode, lr := lrBits f.lrA f.lrB f.lrC, g := f.g.toCode,
          m := f.rnd ++ BitVec.ofBool f.sat ++ f.fn }

def packE (op : BitVec 8) (f : EForm) : DWord :=
  joinR { op, t := f.sub, d := f.d.toCode, a := f.a.toCode, b := f.b.toCode, c := f.c.toCode,
          lr := lrBits f.lrA f.lrB f.lrC, g := f.g.toCode, m := f.mod }

def packY (op : BitVec 8) (f : YForm) : DWord :=
  joinR { op, t := f.sel.extractLsb' 7 6, d := f.d.toCode, a := f.a.toCode, b := f.b.toCode, c := f.c.toCode,
          lr := lrBits f.lrA f.lrB f.lrC, g := f.g.toCode, m := f.sel.extractLsb' 0 7 }

def packI (op : BitVec 8) (f : IForm) : DWord :=
  joinI { op, g := f.g.toCode, lr := BitVec.ofBool f.lrA, r := 0, d := f.d.toCode, a := f.a.toCode, imm := f.imm }

def packM (op : BitVec 8) (f : MForm) : DWord :=
  joinM { op, t := BitVec.ofNat 6 f.t.toCode, d := f.d.toCode, a := f.a.toCode, off := f.off, scope := f.scope,
          ord := f.ord, hint := f.hint, lr := BitVec.ofBool f.lrA ++ BitVec.ofBool f.lrD, g := f.g.toCode, sub := f.sub }

def packX (op : BitVec 8) (f : XForm) : DWord :=
  joinX { op, ta := BitVec.ofNat 6 f.ta.toCode, tb := BitVec.ofNat 6 f.tb.toCode, a := f.a, b := f.b, s := f.s,
          row := f.row, bank := f.bank, acct := f.acct,
          fl := BitVec.ofBool f.lrA ++ BitVec.ofBool f.lrB ++ BitVec.ofBool f.ovw ++ BitVec.ofBool f.neg }

def packC (op : BitVec 8) (f : CForm) : DWord :=
  joinC { op, g := f.g.toCode, aux := f.aux, a := f.a.toCode, r := 0, imm := f.imm }

def packPset (d a b : Fin 7) (tt : BitVec 4) (g : Guard) : DWord :=
  joinR { op := 0x0D, t := 0, d := 0x1FF, a := BitVec.ofNat 9 (0x140 + a.val), b := BitVec.ofNat 9 (0x140 + b.val),
          c := 0x1FF, lr := 0, g := g.toCode, m := BitVec.ofNat 3 d.val ++ tt }

/-- The word of an instruction, from the layouts R52 to R57 and the opcode map R65; none for an event, which has no
word. -/
def encode : Instr → Option DWord
  | .nop f => some (packC 0x00 f)
  | .br f => some (packC 0x01 f)
  | .brc f => some (packC 0x02 f)
  | .brx f => some (packC 0x03 f)
  | .lpad f => some (packC 0x04 f)
  | .call f => some (packC 0x05 f)
  | .callx f => some (packC 0x06 f)
  | .ret f => some (packC 0x07 f)
  | .spawn f => some (packC 0x08 f)
  | .endFibre f => some (packC 0x09 f)
  | .yield f => some (packC 0x0A f)
  | .trap f => some (packC 0x0B f)
  | .bkpt f => some (packC 0x0C f)
  | .pset d a b tt g => some (packPset d a b tt g)
  | .pmovGet f => some (packR 0x0E f)
  | .pmovSet f => some (packR 0x0E f)
  | .smov f => some (packR 0x0F f)
  | .smovi f => some (packI 0x10 f)
  | .sadd f => some (packR 0x11 f)
  | .ssub f => some (packR 0x12 f)
  | .smul f => some (packR 0x13 f)
  | .sand f => some (packR 0x14 f)
  | .sor f => some (packR 0x15 f)
  | .sxor f => some (packR 0x16 f)
  | .sshl f => some (packR 0x17 f)
  | .sshr f => some (packR 0x18 f)
  | .ssar f => some (packR 0x19 f)
  | .scmp f => some (packR 0x1A f)
  | .ssel f => some (packR 0x1B f)
  | .srd f => some (packY 0x1C f)
  | .vadd f => some (packR 0x20 f)
  | .vaddc f => some (packR 0x21 f)
  | .vsub f => some (packR 0x22 f)
  | .vmul f => some (packR 0x23 f)
  | .vmad f => some (packR 0x24 f)
  | .vmin f => some (packR 0x25 f)
  | .vmax f => some (packR 0x26 f)
  | .vand f => some (packR 0x27 f)
  | .vor f => some (packR 0x28 f)
  | .vxor f => some (packR 0x29 f)
  | .vnot f => some (packR 0x2A f)
  | .vshl f => some (packR 0x2B f)
  | .vshr f => some (packR 0x2C f)
  | .vsar f => some (packR 0x2D f)
  | .vpopc f => some (packR 0x2E f)
  | .vclz f => some (packR 0x2F f)
  | .vctz f => some (packR 0x30 f)
  | .vbfe f => some (packR 0x31 f)
  | .vbfi f => some (packR 0x32 f)
  | .vcmp f => some (packR 0x33 f)
  | .vsel f => some (packR 0x34 f)
  | .vmov f => some (packR 0x35 f)
  | .vmovi f => some (packI 0x36 f)
  | .vfadd f => some (packR 0x37 f)
  | .vfsub f => some (packR 0x38 f)
  | .vfmul f => some (packR 0x39 f)
  | .vfma f => some (packR 0x3A f)
  | .vfmin f => some (packR 0x3B f)
  | .vfmax f => some (packR 0x3C f)
  | .vfcmp f => some (packR 0x3D f)
  | .vfclass f => some (packR 0x3E f)
  | .vrcp f => some (packR 0x3F f)
  | .vrsq f => some (packR 0x40 f)
  | .vsqrt f => some (packR 0x41 f)
  | .vdiv f => some (packR 0x42 f)
  | .vexp2 f => some (packR 0x43 f)
  | .vlog2 f => some (packR 0x44 f)
  | .vsinpi f => some (packR 0x45 f)
  | .vcospi f => some (packR 0x46 f)
  | .vfract f => some (packR 0x47 f)
  | .vfrnd f => some (packR 0x48 f)
  | .vldexp f => some (packR 0x49 f)
  | .vfrexp f => some (packR 0x4A f)
  | .vcvt src f => some (packTyped 0x4B src f)
  | .vpack f => some (packR 0x4C f)
  | .vunpack f => some (packR 0x4D f)
  | .vcamrel f => some (packR 0x4E f)
  | .vshuf f => some (packR 0x4F f)
  | .vswz f => some (packR 0x50 f)
  | .vbcast f => some (packR 0x51 f)
  | .vvote f => some (packR 0x52 f)
  | .vred f => some (packR 0x53 f)
  | .vscan f => some (packR 0x54 f)
  | .vfree f => some (packE 0x55 f)
  | .ld f => some (packM 0x60 f)
  | .st f => some (packM 0x61 f)
  | .sld f => some (packM 0x62 f)
  | .lds f => some (packM 0x63 f)
  | .sts f => some (packM 0x64 f)
  | .atom f => some (packM 0x65 f)
  | .atoms f => some (packM 0x66 f)
  | .fence f => some (packM 0x67 f)
  | .pref f => some (packM 0x68 f)
  | .fec f => some (packM 0x69 f)
  | .woreset f => some (packM 0x6A f)
  | .mma f => some (packX 0x80 f)
  | .acczero f => some (packE 0x81 f)
  | .accld f => some (packE 0x82 f)
  | .accst f => some (packE 0x83 f)
  | .accout src f => some (packTyped 0x84 src f)
  | .accwin f => some (packE 0x85 f)
  | .cbload f => some (packE 0x86 f)
  | .cbvalid f => some (packE 0x87 f)
  | .vexpand f => some (packR 0x88 f)
  | .spur f => some (packE 0x89 f)
  | .spuracc f => some (packE 0x8A f)
  | .cpy f => some (packE 0xA0 f)
  | .cpystat f => some (packE 0xA1 f)
  | .barinit f => some (packE 0xA2 f)
  | .bara f => some (packE 0xA3 f)
  | .barw f => some (packE 0xA4 f)
  | .baraw f => some (packE 0xA5 f)
  | .rangeset f => some (packE 0xA6 f)
  | .take f => some (packE 0xA7 f)
  | .qpush f => some (packE 0xA8 f)
  | .qpop f => some (packE 0xA9 f)
  | .amplify f => some (packE 0xAA f)
  | .launch f => some (packE 0xAB f)
  | .prim f => some (packE 0xC0 f)
  | .occq f => some (packE 0xC1 f)
  | .rayq f => some (packE 0xC2 f)
  | .raywait f => some (packE 0xC3 f)
  | .txreq f => some (packE 0xC4 f)
  | .txwait f => some (packE 0xC5 f)
  | .txfill f => some (packE 0xC6 f)
  | .txinvKey f => some (packE 0xC7 f)
  | .txinvInfl f => some (packE 0xC7 f)
  | .txframe f => some (packE 0xC8 f)
  | .txpinSet f => some (packE 0xC9 f)
  | .txpinClr f => some (packE 0xC9 f)
  | .sysrd f => some (packY 0xE0 f)
  | .syswr f => some (packY 0xE1 f)
  | .eret f => some (packC 0xE2 f)
  | .eretSkip f => some (packC 0xE2 f)
  | .attrset f => some (packE 0xE3 f)
  | .tlbshoot f => some (packE 0xE4 f)
  | .cacheopWb f => some (packE 0xE5 f)
  | .cacheopInv f => some (packE 0xE5 f)
  | .cacheopDiscard f => some (packE 0xE5 f)
  | .cacheopIinv f => some (packE 0xE5 f)
  | .cacheopClrlost f => some (packE 0xE5 f)
  | .firmcall f => some (packC 0xE6 f)
  | .clauseIssue _ _ | .longResultArrive _ _ _ _ | .parkRelease _ _ _ | .registerParkRelease _
  | .deferredFaultArrive _ _ _ | .faultResolveResume _ _ _ _ | .memoryAccessPerform _ _ _ _ | .gangRetire _ _
  | .teamAdmit _ _ | .teamEvict _ _ | .teamRestore _ _ _ | .jumpTableEntryReturn _ _ _ | .mmaRetire _ _
  | .accwinPerform _ _ | .codebookBankWrite _ _ | .spurPartnerWork _ _ _ | .spurStatusReady _ _ | .copyStart _ _
  | .copyGranuleDeliver _ _ | .copyEnd _ _ | .rasterSampleWrite _ | .flushClassesArrive _ _ _
  | .rayqDeliver _ _ _ _ | .clockHandAdvance _ _ | .wallowerFire _ _ | .attrsetPageComplete _ _ _
  | .firmcallReturn _ _ _ _ _ _ _ | .gets _ _ _ | .getm _ _ _ | .homeAtomic _ _ _ | .engineLineRequest _ _ _ _
  | .putsPute _ _ _ | .putmPuto _ _ _ | .l2EvictRecall _ _ | .probeAck _ _ _ | .engineLineRelease _ _ _ _
  | .watchNotice _ | .translationWalk _ _ _ | .dieLinkFail _ _ _ | .sramUncorrectable _ _ | .l2Uncorrectable _
  | .queueAccept _ _ | .gridEligible _ | .gridRetire _ | .watchdogExpire _ | .hostMemAccess _ _ _
  | .remoteRequestArrive _ | .remoteReplyArrive _ _ | .remoteTimeout _ | .flitReplay _ | .portRetrain _
  | .portDown _ | .coldReset | .startStageComplete _ | .startWatchdogExpire | .hostReset | .vfFlr _ | .thermalTrip
  | .getstatus _ | .restart _ _ | .imgwrite _ _ _ | .imgselect _ _ | .partcreate _ _ _ _ _ | .partdestroy _ _
  | .partreset _ _ | .preemptCmd _ _ _ | .queueset _ _ _ _ | .poolon _ _ | .pooloff _ _ | .viewset _ _ _
  | .pagegive _ _ | .pagetake _ _ | .drresume _ _ | .evring _ _ _ | .svnraise _ | .dbgattach _ _ _ | .dbglist _ _
  | .dbgread _ _ _ _ | .dbgwrite _ _ _ _ _ | .dbgstep _ _ _ _ _ | .dbgresume _ _ _ _ _ | .dbghalt _ _ _ _
  | .dbgbkpt _ _ _ _ _ | .regread _ _ | .regwrite _ _ _ | .registerWrite _ _ | .thermalTripClear | .portTrained _
  | .engineFirmwareServiceDone _ _ | .switchUndeliverable _ => none

/-! ### What the opcode map gives beside the format (R65) -/

/-- The clause class of an OP byte: 0 general, 1 memory, 2 matrix, 3 engine, 4 graphics, 5 system (R65). -/
def opClass (op : Nat) : Nat :=
  if op < 0x60 then 0 else if op < 0x80 then 1 else if op < 0xA0 then 2 else if op < 0xC0 then 3
  else if op < 0xE0 then 4 else 5

/-- The instructions that may stand only last in a clause (R41). -/
def opLast (op : Nat) : Bool :=
  op == 0x01 || op == 0x02 || op == 0x03 || op == 0x05 || op == 0x06 || op == 0x07 || op == 0x09 || op == 0x0A
  || op == 0x0B || op == 0xE2 || op == 0xE6

/-- Opcodes that raise PRIV outside system context (R65). -/
def opPriv (op : Nat) : Bool := op == 0xE0 || op == 0xE1 || op == 0xE3 || op == 0xE4 || op == 0xE5

/-- OP bytes that the map assigns (R65). -/
def opAssigned (op : Nat) : Bool :=
  op ≤ 0x1C || (decide (0x20 ≤ op) && decide (op ≤ 0x55)) || (decide (0x60 ≤ op) && decide (op ≤ 0x6A))
  || (decide (0x80 ≤ op) && decide (op ≤ 0x8A)) || (decide (0xA0 ≤ op) && decide (op ≤ 0xAB))
  || (decide (0xC0 ≤ op) && decide (op ≤ 0xC9)) || (decide (0xE0 ≤ op) && decide (op ≤ 0xE6))

/-- The collective instructions (R27), by OP byte. -/
def opCollective (op : Nat) : Bool :=
  (decide (0x4F ≤ op) && decide (op ≤ 0x54)) || (decide (0x80 ≤ op) && decide (op ≤ 0x85)) || op == 0x89 || op == 0x8A

end Sys2Proof
end

