-- ==== Sys2Proof/Machine/Fetch.lean ====
section
/-! DEFINITION. Placing an instruction word where the next step runs it: the pipe's clause, with a launched gang where
there is none (log entry 2). -/

namespace Sys2Proof.Machine

/-- A clause header of one instruction of a class (R39). -/
def oneHeader (cls : Nat) : DWord := BitVec.ofNat 64 (0x3F * 2 ^ 58 + cls * 2 ^ 51)

/-- A clause of one word on a pipe, of the sub-gang `sub` of gang slot `gang`. -/
def oneClause (gang sub : Nat) (w : DWord) : Clause :=
  { gang := gang, sub := sub, header := oneHeader (opClass (bitsOf w.toNat 63 56)), haddr := 0, words := [w], idx := 0 }

/-- Partition 0 with cluster 0 for the virtual machine 0. -/
def Partition.one : Partition := { Partition.reset with cmask := 1 }

/-- Core 0 with one team of one gang of width 32, in system context, whose clause of one word stands on pipe 0. -/
def State.withOneGang (s : State) (w : DWord) : State :=
  let g := s.next
  let t := launchTeam (g + 1) g 0 LaunchRec.one KDesc.one 0 0 []
  let gr := { Grid.accepted 0 none none 0 0 LaunchRec.one KDesc.one none true 0 0 with
    st := .eligible, nextTeam := 1, unretired := [(g + 1, false)] }
  let gang := launchGang (g + 1) 0 32 512 (g + 2) (launchSub (g + 2) 32 0 LaunchRec.one.args)
  let k := { s.core 0 with
    teams := [(g + 1, t)], gangs := [(0, gang)], pipe0 := some (oneClause 0 (g + 2) w), pipe1 := none, split := 8 }
  { s with
    agenda := [], cur := (0, 0), next := g + 3, cores := Table.put s.cores 0 k, grids := Table.put s.grids g gr,
    parts := Table.put s.parts 0 Partition.one }

/-- The word placed as the one word of the clause that the next step runs. -/
def State.placeWord (s : State) (w : DWord) : State :=
  match s.issuerAt 0 0 with
  | some c =>
    { s.modCore 0 (fun k => k.setPipe 0 (some (oneClause c.clause.gang c.clause.sub w))) with
      agenda := [], cur := (0, 0) }
  | none => s.withOneGang w

/-- The instruction word that the issuing gang runs next, or why it has none: its decoding (R43). -/
def Issuer.fetched (c : Issuer) : Except Code Instr := decode c.word

/-- An instruction word that does not decode faults precisely at its place (R43). -/
def State.decodeFault (s : State) (c : Issuer) (code : Code) : State :=
  s.faultHere c (c.record code c.sub.fibres 0 0)

end Sys2Proof.Machine
end

