-- ==== Sys2Proof/Machine/Clause.lean ====
section
/-! DEFINITION. The clause: fetching it and its static checks (R38 to R44, R177), choosing the gang and the sub-gang that issue
next (R20, R23, R24, R27, R34, R36, R37, R49), the boundary's fault reports (R211), and the return of jump-table entries
(R112 to R114, R118). -/

namespace Sys2Proof.Machine

/-! ### Fetching (R43, R44) -/

/-- The check of a fetch of the word at an address: the line it lies in, or the fault (R43 step 1). Code is not fetched
from another device's memory (R416). -/
def State.fetchLine (s : State) (core : Nat) (gr : Grid) (va : Nat) : Except Code Ln :=
  if 2 ^ 56 ≤ va then .error .addrNoncanon
  else
    match s.route gr va with
    | .local_ => s.access .fetch (some core) gr.vmid gr.asid va 8
    | _ => .error .pageProtection

/-- Whether code written before has been made known to a core (R44): an `.iinv` of its line and then a FENCE whose scope covers
the core. -/
def StaleCode.known (x : StaleCode) (core : Nat) : Bool :=
  x.inv && x.fences.any fun f => match f.1 with
    | 2 => clusterOf f.2 == clusterOf core
    | 3 => dieOf f.2 == dieOf core
    | n => decide (4 ≤ n) || f.2 == core

/-- The old words that a fetch of an address may still return (R44): of what the core fetched before, and of writes that have
not been made known to it. -/
def State.oldWords (s : State) (core : Nat) (l : Ln) (va : Nat) : List DWord :=
  let i := va % 128 / 8
  let fetched := (s.core core).fetched.filter fun x => x.tag == l.tag && x.line == l.line
  let stale := s.mem.stale.filter fun x => x.pline == l.pline && !x.known core
  (fetched.map fun x => nth x.words i 0) ++ stale.map fun x => nth x.words i 0

/-- One of the old words, where the free value says so, else the present one. -/
def pickWord (n va : Nat) (now : DWord) : List DWord → Nat → DWord
  | [], _ => now
  | w :: ws, i => if w == now || Config.freeFetch n (va + 2 ^ 64 * i) then pickWord n va now ws (i + 1) else w

/-- The word that a fetch returns: what memory holds, or an old value of it (R44). -/
def State.fetchWord (s : State) (core : Nat) (gr : Grid) (n va : Nat) : Except Code DWord :=
  match s.fetchLine core gr va with
  | .error c => .error c
  | .ok l => .ok (pickWord n va (wordIn (s.coherentData l.tag l.line l.pline) va) (s.oldWords core l va) 0)

/-- The lines of a range are kept as the core's instruction-fetch copies (R44). -/
def State.noteFetch (s : State) (core : Nat) (gr : Grid) (va words : Nat) : State :=
  (List.range words).foldl (fun s i =>
    match s.fetchLine core gr (va + 8 * i) with
    | .error _ => s
    | .ok l =>
      if (s.core core).fetched.any fun x => x.tag == l.tag && x.line == l.line then s
      else
        let copy : FetchCopy :=
          { tag := l.tag, line := l.line, words := lineWords (s.coherentData l.tag l.line l.pline) }
        s.modCore core fun k => { k with fetched := k.fetched ++ [copy] }) s

/-! ### Static checks (R43) -/

/-- Whether a word is a clause header (R38). -/
def isHeader (w : DWord) : Bool := bitsOf w.toNat 63 58 == 0x3F

/-- `CNT` + 1, `CLS` and the six `WAIT` bits of a header (R39). -/
def headerCount (h : DWord) : Nat := bitsOf h.toNat 57 54 + 1
def headerClass (h : DWord) : Nat := bitsOf h.toNat 53 51
def headerWaits (h : DWord) : List Ctr :=
  [(50, Ctr.ldc), (49, Ctr.stc), (48, Ctr.sfc), (47, Ctr.xlc), (46, Ctr.mxc), (45, Ctr.enc)].filterMap fun x =>
    if h.toNat.testBit x.1 then some x.2 else none

/-- The header's own checks (R43 step 2). -/
def headerFault (h : DWord) : Option Code :=
  if !isHeader h then some .clauseForm
  else if 6 ≤ headerClass h || bitsOf h.toNat 42 0 != 0 then some .reservedField
  else none

/-- The codebook bank that an instruction names (R239, R251, R253). -/
def bankNamed : Instr → Option Nat
  | .mma f => if f.ta.codebook || f.tb.codebook then some f.bank.toNat else none
  | .cbload f => some (f.sub.toNat % 4)
  | .cbvalid f => some (f.sub.toNat % 4)
  | .vexpand f => match f.b with
    | .imm n => some n.val
    | _ => none
  | _ => none

/-- The register of a ballot of W lanes starts at a multiple of W ÷ 32 (R156); a scratchpad element holds one word. -/
def ballotOk (width : Nat) : Instr → Bool
  | .vvote f =>
    f.fn != 2 || (match f.d with
      | .v n => n.toNat % (width / 32) == 0
      | .sp _ => width == 32
      | _ => true)
  | _ => true

/-- The static checks of an instruction word for a sub-gang, steps 3 to 7 of R43. -/
def wordFault (g : Gang) (b : SubGang) (t : Team) (gr : Grid) (cls count i : Nat) (w : DWord) : Option Code :=
  let op := opByte w
  if 0xFC ≤ op then some .clauseForm
  else if !opAssigned op then some .illegalOp
  else if (opPriv op && !gr.sys) || (op == 0xE2 && !b.allHandler) then some .priv
  else
    match decode w with
    | .error c => some c
    | .ok x =>
      let bankBad := match bankNamed x with
        | some n => decide (t.banks.length ≤ n)
        | none => false
      if bankBad || !ballotOk g.width x then some .reservedField
      else if (opClass op != 0 && opClass op != cls) || (opLast op && i + 1 != count) then some .clauseForm
      else none

/-- A clause as the static checks leave it: its header and words, or the first failing word's code and address, with the
header where one was read. -/
inductive Checked where
  | good (header : DWord) (words : List DWord)
  | bad (code : Code) (va : Nat) (fetch : Bool) (header : Option DWord)
  deriving DecidableEq, Repr

/-- The instruction words of a clause, checked in order from number i, `n` of them left. -/
def State.checkWords (s : State) (r : Runner) (b : SubGang) (fr va : Nat) (h : DWord) :
    Nat → Nat → List DWord → Checked
  | 0, _, ws => .good h ws
  | n + 1, i, ws =>
    let at_ := va + 8 * (i + 1)
    match s.fetchWord r.core r.grid fr at_ with
    | .error c => .bad c at_ true (some h)
    | .ok w =>
      match wordFault r.gang b r.team r.grid (headerClass h) (headerCount h) i w with
      | some c => .bad c at_ false (some h)
      | none => s.checkWords r b fr va h n (i + 1) (ws ++ [w])

/-! ### Merging (R20, R24) -/

/-- Whether a sub-gang waits for nothing of R29. -/
def SubGang.free (b : SubGang) : Bool := b.park == .run && b.waits.isEmpty

/-- Whether two sub-gangs rejoin at a clause (R20): one key, TURN aside where the header has `JOIN`. -/
def sameKey (join : Bool) (x y : SubGang) : Bool := x.pc == y.pc && x.wb == y.wb && (join || x.turn == y.turn)

/-- The sub-gangs that rejoin at a clause which one of them issues (R20). -/
def Gang.joins (g : Gang) (b : SubGang) (join : Bool) : List SubGang :=
  g.subs.filter fun x => x.id == b.id || (x.free && x.inClause.isNone && sameKey join b x)

/-- Uniform registers of a merge: a register on which the copies agree, else that of the sub-gang with the lowest fibre;
and whether some register differed (R24). -/
def mergeSregs (bs : List SubGang) : List Word × Bool :=
  let lead := ((lowestSub bs).map fun b => b.sregs).getD []
  (lead, bs.any fun b => b.sregs != lead)

/-- Fibres added to those that share a handler context. -/
def addContext (x : Lanes × Option Handler) : List (Lanes × Option Handler) → List (Lanes × Option Handler)
  | [] => [x]
  | y :: t => if x.2 == y.2 then (x.1 ||| y.1, y.2) :: t else y :: addContext x t

/-- The sub-gang that the rejoining ones form: their fibres, each in its own handler context (R20, R387; log entry 23). -/
def Gang.merged (g : Gang) (b : SubGang) (join : Bool) : SubGang :=
  let joins := g.joins b join
  let ctxs := (joins.flatMap SubGang.contexts).foldl (fun cs x => addContext x cs) []
  let lead := (ctxs.find? fun x => x.2 == b.handler).getD (0, b.handler)
  { b with
    fibres := joins.foldl (fun m x => m ||| x.fibres) 0
    anc := (joins.flatMap fun x => x.anc).eraseDups
    sregs := (mergeSregs joins).1
    turn := if join then 0 else b.turn
    passOver := 0
    yielded := false
    others := ctxs.filter fun x => x.2 != lead.2 }

/-- The gang after the sub-gangs that rejoin at a clause have merged into the chosen one (R20, R24). -/
def Gang.merge (g : Gang) (b : SubGang) (join : Bool) : Gang :=
  let joins := g.joins b join
  { g with
    subs := (g.subs.filter fun x => !(joins.any fun y => y.id == x.id)) ++ [g.merged b join]
    usplit := g.usplit || (mergeSregs joins).2 }

/-- The fetch and static checks of the clause at a sub-gang's PC (R43), for what it issues as (R20). -/
def State.checkClause (s : State) (r : Runner) (b : SubGang) : Checked :=
  let va := b.pc.toNat
  match s.fetchWord r.core r.grid s.free va with
  | .error c => .bad c va true none
  | .ok h =>
    match headerFault h with
    | some c => .bad c va false none
    | none => s.checkWords r (r.gang.merged b (headerJoin h)) s.free va h (headerCount h) 0 []

/-! ### Readiness (R23, R27, R29, R49) -/

/-- Whether a `WAIT` bit is met: its counter is zero, or what it counts is held behind an unreported fault (R49). -/
def State.waitMet (s : State) (r : Runner) (k : Ctr) : Bool :=
  r.gang.counter k == 0 || (r.gang.oldestFault.isSome && s.onlyHeld r k)

/-- Whether a sub-gang's park counts as absent for a collective (R29). -/
def SubGang.absent (b : SubGang) : Bool :=
  match b.park with
  | .run => !b.waits.isEmpty && b.inClause.isNone
  | _ => false

/-- Whether the sub-gang stands at a clause boundary with nothing to wait for but the collective rule. -/
def State.atHeader (s : State) (r : Runner) (b : SubGang) : Bool :=
  b.free && b.inClause.isNone && (match s.checkClause r b with
    | .good h _ => (headerWaits h).all (s.waitMet r)
    | .bad _ _ _ (some h) => (headerWaits h).all (s.waitMet r)
    | .bad .. => true)

/-- Whether a checked clause holds a collective instruction (R27). -/
def Checked.collective : Checked → Bool
  | .good _ ws => ws.any fun w => opCollective (opByte w)
  | .bad .. => false

/-- The `JOIN` bit of the header that a clause was checked with. -/
def Checked.join : Checked → Bool
  | .good h _ => headerJoin h
  | .bad _ _ _ h => h.any headerJoin

/-- Whether a sub-gang other than the issuing one lets a collective issue (R27): it rejoins the issuing one, counts as
absent, or stands at a collective under another key. A sub-gang held for a single step counts as the last (R37). -/
def State.letsCollective (s : State) (r : Runner) (b : SubGang) (k : Checked) (x : SubGang) : Bool :=
  x.absent || (x.free && x.inClause.isNone && sameKey k.join b x)
  || (r.gang.dbg.stepping.isSome && x.free && x.inClause.isNone)
  || (s.atHeader r x && (s.checkClause r x).collective)

/-- The collective rule for a sub-gang's clause (R27). -/
def State.collectiveOk (s : State) (r : Runner) (b : SubGang) : Bool :=
  let k := s.checkClause r b
  !k.collective || r.gang.subs.all fun x => x.id == b.id || s.letsCollective r b k x

/-- Whether a sub-gang may resume in the middle of its clause (R50, R214): of the reissued accesses that hold it, what is
still counted is held behind one that has faulted again. -/
def State.resumes (s : State) (r : Runner) (b : SubGang) : Bool :=
  match b.park with
  | .run => b.inClause.isSome
  | .reissue ids _ => r.gang.pending.all fun p => !(ids.contains p.id && p.counted && !(s.heldIds r).contains p.id)
  | _ => false

/-- A sub-gang that may issue (R23), or resume a clause. With a debug stop requested, or in core-halt mode while a sub-gang
goes on inside a clause, none begins one (R36). -/
def State.ready (s : State) (r : Runner) (b : SubGang) : Bool :=
  let halting := (s.core r.core).coreHalt && r.gang.subs.any SubGang.goesOn
  (match r.gang.dbg.stepping with
   | some id => b.id == id
   | none => true)
  && ((r.gang.dbg.request.isNone && !halting) || b.inClause.isSome)
  && (s.resumes r b || (s.atHeader r b && s.collectiveOk r b))

/-- Whether a team on a core is stopped by a pause, a pre-emption or a thermal trip (R384, R393, R407). A pre-empted compute
team that no frame can take runs on until it retires (R383). -/
def State.coreStopped (s : State) (r : Runner) : Bool :=
  s.pkg.hot || (match s.part? r.grid.pid with
    | some p =>
      p.paused || ((p.preempting.getLsbD (clusterOf r.core) || r.team.stopping) && !r.grid.lr.prs
        && (s.core r.core).framed p r.gang.team)
    | none => false)

/-- A gang that may issue: not in issue, halted or stopped, with a ready sub-gang (R34, R36). -/
def State.gangReady (s : State) (core slot : Nat) : Bool :=
  match s.runner? core slot with
  | none => false
  | some r =>
    !(s.core core).inIssue slot && !r.gang.dbg.halted && !r.team.killed && r.team.started
    && !s.coreStopped r && r.gang.subs.any (s.ready r)

/-! ### Choosing (R23, R34, R122) -/

/-- Lexicographic order. -/
def lexLt : List Nat → List Nat → Bool
  | x :: xs, y :: ys => decide (x < y) || (x == y && lexLt xs ys)
  | _, _ => false

/-- The element with the least key, the first of equals. -/
def leastBy {α : Type} (key : α → List Nat) : List α → Option α
  | [] => none
  | x :: xs =>
    match leastBy key xs with
    | none => some x
    | some y => if lexLt (key y) (key x) then some y else some x

/-- The lowest live fibre of a sub-gang. -/
def SubGang.first (b : SubGang) : Nat := (Lanes.lowest b.fibres).getD 128

/-- The sub-gang that issues (R23, R122): one passed over 64 times, else the least key of those that have not yielded,
else of those that have. -/
def chooseSub (ready : List SubGang) : Option SubGang :=
  match leastBy (fun b => [1024 - min 1024 b.passOver, b.first]) (ready.filter fun b => decide (64 ≤ b.passOver)) with
  | some b => some b
  | none => leastBy (fun b => [if b.yielded then 1 else 0, b.pc.toNat, b.turn.toNat, b.wb.toNat, b.first]) ready

/-- The key of a ready gang in the choice of R34: its class, then whether it has yielded, then one passed over 256
times, then age. -/
def State.gangKey (s : State) (core : Nat) (x : Nat × Gang) : List Nat :=
  match s.runner? core x.1 with
  | none => []
  | some r =>
    [7 - min 7 r.grid.prio, if x.2.yielded && x.2.passOver < 256 then 1 else 0, if 256 ≤ x.2.passOver then 0 else 1,
      r.team.order, x.2.number]

/-- The gang that issues on a core (R34). -/
def State.chooseGang (s : State) (core : Nat) : Option Nat :=
  (leastBy (s.gangKey core) ((s.core core).gangs.filter fun x => s.gangReady core x.1)).map fun x => x.1

/-- Pass-over counts of a core's gangs after a choice (R34). -/
def State.countGangs (s : State) (core chosen : Nat) : State :=
  let one := fun (x : Nat × Gang) =>
    let n := if x.1 == chosen || !s.gangReady core x.1 then 0 else x.2.passOver + 1
    (x.1, { x.2 with
      passOver := n
      yielded := false })
  s.modCore core fun k => { k with gangs := k.gangs.map one }

/-- Pass-over counts of a gang's sub-gangs after a choice (R23); they stand still while the gang is stepped (R37). -/
def Gang.countSubs (g : Gang) (ready : List SubGang) (chosen : Nat) : Gang :=
  if g.dbg.stepping.isSome then g
  else
    let isReady := fun (b : SubGang) => ready.any fun x => x.id == b.id
    let one := fun (b : SubGang) =>
      { b with
        passOver := if b.id == chosen || !isReady b then 0 else b.passOver + 1
        yielded := false }
    { g with subs := g.subs.map one }

/-! ### Issue -/

/-- A static check's fault at a sub-gang that stands at a clause header (R43). -/
def State.staticFault (s : State) (r : Runner) (b : SubGang) (code : Code) (va : Nat) (fetch : Bool) : State :=
  s.takeFault r.core r.slot b.id
    { code := some code, pc := BitVec.ofNat 56 va, addr := if fetch then BitVec.ofNat 64 va else 0, lanes := b.fibres, aux := 0 }
    { pc := b.pc, inClause := none, entry := none }

/-- Whether the boundary before a clause is a report point (R211, points 3 and 4): a `WAIT` bit is met only by held instructions,
or an access that writes no destination has faulted, reported or not. -/
def boundaryReports (r : Runner) (b : SubGang) (h : DWord) : Bool :=
  !b.inReport && ((r.gang.oldestFault.isSome && (headerWaits h).any fun k => r.gang.counter k != 0)
    || r.gang.pending.any fun p => p.answered && p.vdst.isEmpty && p.sdst.isEmpty && p.pdst.isNone)

/-- What an address breakpoint noted of fibres that issue a clause (log entry 52): they have passed that header, and outside a
handler they have left every other one. -/
def Gang.forgetPassed (g : Gang) (b : SubGang) : Gang :=
  let one := fun (x : Lanes × DWord) => if x.2 == b.pc || !b.inHandler then (x.1 &&& ~~~b.fibres, x.2) else x
  { g with dbg := { g.dbg with passed := (g.dbg.passed.map one).filter fun x => x.1 != 0 } }

/-- The clause of a sub-gang goes on a pipe. -/
def State.startClause (s : State) (r : Runner) (pipe : Nat) (b : SubGang) (h : DWord) (ws : List DWord) : State :=
  let cl : Clause := { gang := r.slot, sub := b.id, header := h, haddr := b.pc.setWidth 56, words := ws, idx := 0 }
  let s := s.modGang r.core r.slot fun g => g.forgetPassed b
  let s := s.noteFetch r.core r.grid b.pc.toNat (ws.length + 1)
  s.modCore r.core fun k => k.setPipe pipe (some cl)

/-- A sub-gang at a clause header issues (R43): breakpoints, the merge of R20, the boundary's reports, the static checks, and
the clause. -/
def State.issueClause (s : State) (r : Runner) (pipe : Nat) (b : SubGang) : State :=
  let k := s.checkClause r b
  let m := r.gang.merged b k.join
  let here : StopAt := { pc := b.pc, inClause := none, entry := none }
  let halts := s.gangDisposition r.core r.slot .debug == .resolve
  if !(r.gang.broken (s.core r.core) halts).isEmpty then s.breakpoint r.core r.slot
  else
    let s := { s.setGang r.core r.slot (r.gang.merge b k.join) with free := s.free + 1 }
    match k with
    | .bad code va fetch h =>
      if boundaryReports r m (h.getD 0) then s.report r.core r.slot b.id here
      else s.staticFault r m code va fetch
    | .good h ws =>
      if boundaryReports r m h then s.report r.core r.slot b.id here
      else s.startClause r pipe m h ws

/-- A sub-gang resumes inside its clause (R50): the words from its PC on are fetched and checked again (log entry 17), and
run under the saved header. -/
def State.resumeClause (s : State) (r : Runner) (pipe : Nat) (b : SubGang) : State :=
  match b.inClause with
  | none => s
  | some (h, haddr) =>
    let n := headerCount h
    let idx := (b.pc.toNat - haddr.toNat) / 8 - 1
    let k := s.checkWords r b s.free haddr.toNat h (n - idx) idx (List.replicate idx 0)
    let s := { s with free := s.free + 1 }
    match k with
    | .bad c va fetch _ =>
      s.takeFault r.core r.slot b.id
        { code := some c, pc := BitVec.ofNat 56 va, addr := if fetch then BitVec.ofNat 64 va else 0, lanes := b.fibres,
          aux := 0 }
        { pc := b.pc, inClause := some (h, haddr), entry := none }
    | .good _ ws =>
      let cl : Clause := { gang := r.slot, sub := b.id, header := h, haddr := haddr, words := ws, idx := idx }
      let s := s.modGang r.core r.slot fun g => g.modSub b.id fun x =>
        { x with
          park := .run
          inClause := none }
      s.modCore r.core fun k => k.setPipe pipe (some cl)

/-- A sub-gang goes on: one whose reissued accesses have ended stands at its boundary again, or in its clause (R214), or parks for
its `PARK` bit (R50). -/
def State.goOn (s : State) (r : Runner) (pipe : Nat) (b : SubGang) : State :=
  let park := fun (k : Park) => s.modGang r.core r.slot fun g => g.modSub b.id fun x => { x with park := k }
  match b.park with
  | .reissue _ true => park .parkBit
  | _ =>
    if b.inClause.isSome then s.resumeClause r pipe b
    else if b.park == .run then s.issueClause r pipe b
    else park .run

/-- A stepped gang whose clause cannot issue until its fibres reconverge says so (R37). -/
def State.markStepped (s : State) (core : Nat) : State :=
  let waiting := fun (x : Nat × Gang) =>
    match s.runner? core x.1, x.2.dbg.stepping with
    | some r, some id => (match r.gang.sub? id with
      | some b => s.atHeader r b && !s.collectiveOk r b
      | none => false)
    | _, _ => false
  let mark := fun (x : Nat × Gang) => (x.1, { x.2 with dbg := { x.2.dbg with waitingReconverge := waiting x } })
  s.modCore core fun k => { k with gangs := k.gangs.map mark }

/-- CLAUSE_ISSUE (R34, R43): a free pipe takes the next clause of the core. -/
def execClauseIssue (core pipe : Nat) (s : State) : Host.Outcome State Fault Refusal :=
  if 2 ≤ pipe || ((s.core core).pipe? pipe).isSome then .next s
  else
    let s := s.markStepped core
    match s.chooseGang core with
    | none => .next s
    | some slot =>
      let s := s.countGangs core slot
      match s.runner? core slot with
      | none => .next s
      | some r =>
        let ready := r.gang.subs.filter (s.ready r)
        match chooseSub ready with
        | none => .next s
        | some b =>
          let g := r.gang.countSubs ready b.id
          .next ((s.setGang core slot g).goOn { r with gang := g } pipe b)

/-! ### Parks that end (R49, R165) -/

/-- Whether all six counters are zero, or every counted instruction is held (R49). -/
def State.parkOver (s : State) (r : Runner) : Bool :=
  r.gang.counters.all (fun n => n == 0)
  || (r.gang.oldestFault.isSome && [Ctr.ldc, .stc, .sfc, .xlc, .mxc, .enc].all (s.onlyHeld r))

/-- PARK_RELEASE (R29, R49): the park of a `PARK` bit ends; a fault that stands unreported is reported there, and while one is
unresolved the sub-gang parks behind it (R211, point 3). -/
def execParkRelease (core gang sub : Nat) (s : State) : Host.Outcome State Fault Refusal :=
  match s.runner? core gang with
  | none => .next s
  | some r =>
    match r.gang.sub? sub with
    | none => .next s
    | some b =>
      if b.park != .parkBit || !s.parkOver r then .next s
      else
        let s := s.modGang core gang fun g => g.modSub sub fun x => { x with park := .run }
        if (r.gang.oldestFault.isSome || r.gang.faultUnresolved) && !b.inReport then
          .next (s.report core gang sub { pc := b.pc, inClause := b.inClause, entry := none })
        else .next s

/-- REGISTER_PARK_RELEASE (R165, R166): the oldest register park of the core ends once the pool holds what it needs, and takes
it: the slots of its instruction are written, so that no other takes their registers (DEDUCED, log entry 56). -/
def execRegisterParkRelease (core : Nat) (s : State) : Host.Outcome State Fault Refusal :=
  match (s.core core).oldestPark with
  | none => .next s
  | some (_, need, slot, b) =>
    if (s.core core).regFree < need then .next (s.registerDeadlock core)
    else
      let slots := (b.regPark?.map fun o => o.2).getD []
      .next (s.modGang core slot fun g =>
        let g := (slots.filter fun d => (Table.get? g.slots d).isNone).foldl (fun g d => g.writeSlot d []) g
        g.modSub b.id fun b => { b with park := .run })

/-! ### Jump tables (R112 to R114, R118) -/

/-- What a lane's entry gives: its target, or the rank of the failed check with its code, `FLTPC`, `FLTADDR` and `FLTAUX`
(R113). -/
inductive Entry where
  | ok (target : DWord)
  | bad (rank : Nat) (code : Code) (pc : BitVec 56) (addr : DWord) (aux : Nat)
  deriving DecidableEq, Repr

/-- Whether an entry's bytes are read by an earlier faulted load of the gang: a load would be held with it (R203). -/
def State.entryFaulted (s : State) (r : Runner) (p : Pending) (va : Nat) : Bool :=
  (s.before r p).any fun q => q.answered && (match q.mem? with
    | some (k, f) => k.load && !k.scratch && q.addrs.any fun y => rangesMeet (y.2, k.bytes f) (va, 8)
    | none => false)

/-- Whether a look-up waits for a faulted access of the gang, or for one that is held behind a fault: the BRX or CALLX is then a
report point, and runs again from its start (DESIGN CHOICE, log entry 60). -/
def State.lookupStuck (s : State) (r : Runner) (p : Pending) : Bool :=
  let held := s.stuckIds r Pending.answered
  (s.before r p).any fun q => (q.answered || held.contains q.id) && s.blocks r q p p.rest || p.addrs.any fun x =>
    s.entryFaulted r p x.2

/-- What the read of an entry comes to (R114): its fault, its bytes with the state that the read leaves, or none where it must
wait: for the orders of R221, a hold, or the line. The entry is an 8-byte plain load of `p`, which stands in issue order among
the gang's accesses. It goes ahead of no order, whatever the scope (DESIGN CHOICE, log entry 59). -/
def State.readEntry (s : State) (r : Runner) (p : Pending) (va : Nat) : Except Code (Option (State × List Byte)) :=
  if va % 8 != 0 then .error .align
  else if 2 ^ 56 ≤ va then .error .addrNoncanon
  else
    match s.route r.grid va with
    | .remote .. => .error .pageProtection
    | .reduce .. => .error .pageProtection
    | _ =>
      match s.accessOf r .ld va 8 with
      | .error c => .error c
      | .ok l =>
        if s.blocked r p [(va, 8)] || s.entryFaulted r p va || s.held r.agent l.tag l.line false then .ok none
        else
          match s.readLine r.core r.grid.vmid l 0 va with
          | none => .ok none
          | some t =>
            let bs := t.loadBytes r p l va 8 false
            .ok (some (t.modGang r.core r.slot fun g => g.relyOn p.id va 8, bs))

/-- The entries of a look-up read in one moment (log entry 60), with the state that the reads leave; none while one of them
must wait. -/
def State.readEntries (s : State) (r : Runner) (p : Pending) : Table Nat → Option (State × Table (Except Code (List Byte)))
  | [] => some (s, [])
  | (lane, va) :: rest =>
    match s.readEntry r p va with
    | .ok none => none
    | .error c => (s.readEntries r p rest).map fun x => (x.1, (lane, .error c) :: x.2)
    | .ok (some (t, bs)) => (t.readEntries r p rest).map fun x => (x.1, (lane, .ok bs) :: x.2)

/-- The label of an LPAD word, if it is one (R115). A word with the LPAD opcode whose other fields do not decode is none
(DESIGN CHOICE, log entry 24). -/
def lpadLabel (w : DWord) : Option Nat :=
  match decode w with
  | .ok (.lpad f) => some f.imm.toNat
  | _ => none

/-- The checks of one lane's entry, in the order of R112 and R113: `va` is the entry's address and `bytes` what its read came
to. -/
def State.entryOfLane (s : State) (r : Runner) (brx : DWord) (base va : Nat) (bytes : Except Code (List Byte)) : Entry :=
  let pc := brx.setWidth 56
  match bytes with
  | .error c => .bad 1 c pc (BitVec.ofNat 64 va) 0
  | .ok bs =>
    let e := leNat bs
    let tgt := wrapTo ((base : Int) + 8 * sext (bitsOf e 39 0) 40) 64
    let label := bitsOf e 63 40
    match s.fetchWord r.core r.grid s.free tgt with
    | .error c => .bad 2 c pc (BitVec.ofNat 64 tgt) 0
    | .ok h =>
      if !isHeader h then .bad 2 .clauseForm (BitVec.ofNat 56 tgt) brx 0
      else
        match s.fetchWord r.core r.grid s.free (tgt + 8) with
        | .error c => .bad 3 c pc (BitVec.ofNat 64 (tgt + 8)) 0
        | .ok w =>
          if lpadLabel w == some label then .ok (BitVec.ofNat 64 tgt)
          else .bad 3 .lpadMismatch pc (BitVec.ofNat 64 tgt) label

/-- The fault of a table look-up: the first failing check over all lanes, the code of its lowest lane (R113). -/
def tableFault (es : List (Nat × Entry)) : Option FaultRec :=
  let bads := es.filterMap fun x => match x.2 with
    | .bad rank code pc addr aux => some (x.1, rank, code, pc, addr, aux)
    | .ok _ => none
  match leastBy (fun (x : Nat × Nat × Code × BitVec 56 × DWord × Nat) => [x.2.1, x.1]) bads with
  | none => none
  | some (_, _, code, pc, addr, aux) =>
    let lanes := (bads.filter fun x => x.2.2.1 == code).foldl (fun (m : Lanes) x => m ||| Lanes.one x.1) 0
    some { code := some code, pc := pc, addr := addr, lanes := lanes, aux := BitVec.ofNat 32 aux }

/-- The sub-gang of a table look-up moves to its targets (R112, R117, R118). -/
def State.tableJump (s : State) (r : Runner) (b : SubGang) (call : Bool) (shift : Nat) (header clauseEnd : DWord)
    (act : Lanes) (es : List (Nat × Entry)) (park : Bool) : State :=
  let through : Key := { pc := clauseEnd, turn := b.turn, wb := b.wb }
  let key := fun (i : Nat) =>
    match es.find? fun x => x.1 == i with
    | some (_, .ok t) =>
      if call then { pc := t, turn := b.turn, wb := b.wb + BitVec.ofNat 10 (8 * shift) : Key }
      else { pc := t, turn := if t ≤ header then b.turn + 1 else b.turn, wb := b.wb }
    | _ => through
  let b := { b with
    park := .run
    inClause := none }
  let groups := groupByKey b.fibres key
  let bs := splitSub b groups s.next
  let bs := if park then bs.map (fun x => { x with park := .parkBit }) else bs
  let s := { s with next := s.next + groups.length }
  let link := linkWords shift clauseEnd
  let s := s.modGang r.core r.slot fun g =>
    let g := if call then
        let lo := b.wb.toNat + 8 * shift
        let each := fun (w : Word) => act.toList.map fun i => (i, w)
        (g.writeSlot lo (each link.1)).writeSlot (lo + 1) (each link.2)
      else g
    g.replaceSub b.id bs
  s.boundary r.core r.slot b.id

/-- The look-up of a sub-gang whose entries have all been read (R112, R113, R118): it moves, or faults and commits nothing. A
CALLX whose link finds the pool empty parks at its instruction, which then runs again from its start (R117, R165). -/
def State.lookedUp (s : State) (r : Runner) (b : SubGang) (call : Bool) (shift : Nat) (header clauseEnd : DWord)
    (act : Lanes) (es : List (Nat × Entry)) : State :=
  let s := { s with free := s.free + 1 }
  match tableFault es with
  | some fr => s.takeFault r.core r.slot b.id fr { pc := b.pc, inClause := b.inClause, entry := none }
  | none =>
    let park := b.inClause.any fun x => headerPark x.1
    let link := if call then [b.wb.toNat + 8 * shift, b.wb.toNat + 8 * shift + 1] else []
    let need := r.gang.slotsNeed link
    let k := s.core r.core
    if need == 0 || (k.regParks.isEmpty && decide (need ≤ k.regFree)) then s.tableJump r b call shift header clauseEnd act es park
    else (s.parkForRegisters r.core r.slot b.id link b.pc b.inClause).registerDeadlock r.core

/-- JUMP_TABLE_ENTRY_RETURN (R113, R114): the entries have been read, and the BRX or CALLX commits, or faults and commits
nothing. The reads take their places among the gang's accesses (R206, R221). The index operand's `LR` does not exist
(R57). -/
def execJumpTableEntryReturn (core gang sub : Nat) (s : State) : Host.Outcome State Fault Refusal :=
  match s.runner? core gang with
  | none => .next s
  | some r =>
    match r.gang.sub? sub, r.gang.tableReads.find? fun p => p.sub == sub with
    | some b, some p =>
      match b.park, s.readEntries r p p.addrs with
      | .jumpTable _ call shift header clauseEnd base _ guarded, some (t, bytes) =>
        let t := t.acquireOf r p
        let es := (p.addrs.zip bytes).map fun x => (x.1.1, t.entryOfLane r b.pc base x.1.2 x.2.2)
        .next (t.lookedUp r b call shift header clauseEnd guarded es)
      | .jumpTable .., none =>
        if s.lookupStuck r p && !b.inReport then .next (s.report core gang sub { pc := b.pc, inClause := b.inClause, entry := none })
        else .next s
      | _, _ => .next s
    | _, _ => .next s

end Sys2Proof.Machine
end

