-- ==== Sys2Proof/Machine/Cross.lean ====
section
/-! DEFINITION. The cross-lane instructions (R154 to R157). They find their results at issue, over the present fibres, and
deliver them when they arrive; CLAUSE_ISSUE makes the gang reconverge before them (R27). -/

namespace Sys2Proof.Machine

/-- A scratchpad element that one lane accesses, if the operand names one. -/
def Issuer.spOne (c : Issuer) (t : Ty) (o : Opd) (reads : Bool) (lane : Nat) : List (Nat × Nat × Nat × Bool) :=
  match o with
  | .sp n => [(lane, c.spAddr t n lane, elemBytes t, reads)]
  | _ => []

/-- Results of a cross-lane instruction on their way: a value in each active lane, lane truths for a predicate, flags. -/
structure Crossed where
  vals : List (Nat × Nat)
  pred : Option (Nat × List (Nat × Bool))
  flags : Flags

/-- A cross-lane instruction at issue (R46, R154): hazards, the scratchpad elements it reads, and its results. `words`
is how many registers a v destination covers. -/
def crossLong (f : RForm) (tb td : Ty) (preds : List Nat) (words : Issuer → Nat) (sps : Issuer → List (Nat × Nat × Nat × Bool))
    (res : Issuer → Crossed) (s : State) : Host.Outcome State Fault Refusal :=
  runInstr s fun c => do
    let act := c.active f.g
    let vdst := match f.d with
      | .v n => (List.range (words c)).map fun k => n.toNat + k
      | _ => []
    let t := touchOf (rUses f f.t tb f.t td) f.g preds
    c.checkTouch act { t with v := t.v ++ vdst }
    c.checkSp (sps c)
    c.checkCounter .xlc
    c.checkPool s vdst
    let r := res c
    let out : Out := match f.d with
      | .v n =>
        { Out.none with vregs := (List.range (words c)).map fun k =>
            (c.slotOf (n.toNat + k), r.vals.map fun (x : Nat × Nat) => (x.1, BitVec.ofNat 32 (x.2 / 2 ^ (32 * k)))) }
      | _ => c.outDst td f.d r.vals Out.none
    let out := { out with
      flags := r.flags
      pred := match r.pred with
        | some (p, xs) => some (p, maskOf xs)
        | none => none }
    let s := s.issue c .xlc (rRel f f.t tb f.t) vdst [] (r.pred.map fun (x : Nat × List (Nat × Bool)) => x.1) act
      fun p => { p with out := out }
    .ok (s.advance c)

/-- Registers of a destination of the instruction's type. -/
def RForm.words (f : RForm) : Nat := if f.t.wide then 2 else 1

/-- The source lane of destination lane i for VSHUF, by `FN` and B (R155); none past either end of the gang. -/
def shufSource (fn width i b : Nat) : Option Nat :=
  let j := match fn with
    | 0 => some b
    | 1 => if i < b then none else some (i - b)
    | 2 => some (i + b)
    | _ => some (i ^^^ b)
  match j with
  | some x => if x < width then some x else none
  | none => none

/-- VSWZ's source lane (R155). -/
def swzSource (i pattern : Nat) : Nat := 4 * (i / 4) + bitsOf pattern (2 * (i % 4) + 1) (2 * (i % 4))

/-- The source lane of a lane, where it is an active one (R154). -/
def Issuer.fetchFrom (c : Issuer) (f : RForm) (source : Issuer → Nat → Option Nat) (i : Nat) : Option Nat :=
  match source c i with
  | some j => if (c.active f.g).getLsbD j then some j else none
  | none => none

/-- The scratchpad elements that VSHUF, VSWZ and VBCAST access: A in the source lanes, B in the active lanes, C where there
is no source, D in the active lanes. -/
def Issuer.fetchElems (c : Issuer) (f : RForm) (source : Issuer → Nat → Option Nat) : List (Nat × Nat × Nat × Bool) :=
  let act := (c.active f.g).toList
  let srcs := act.filterMap (c.fetchFrom f source)
  (List.range c.gang.width).flatMap fun i =>
    (if srcs.contains i then c.spOne f.t f.a true i else [])
    ++ (if act.contains i then c.spOne .n32 f.b true i else [])
    ++ (if act.contains i && (c.fetchFrom f source i).isNone then c.spOne f.t f.c true i else [])
    ++ (if act.contains i then c.spOne f.t f.d false i else [])

/-- VSHUF, VSWZ and VBCAST (R154, R155): A at a valid source lane, else the fallback C. -/
def fetchLanes (f : RForm) (source : Issuer → Nat → Option Nat) (s : State) : Host.Outcome State Fault Refusal :=
  crossLong f .n32 f.t [] (fun _ => RForm.words f) (fun c => c.fetchElems f source)
    (fun c =>
      { vals := c.perLane f.g fun i => match c.fetchFrom f source i with
          | some j => c.read f.t f.a j
          | none => c.read f.t f.c i
        pred := none
        flags := 0 }) s

/-- VSHUF (R155). -/
def execVshuf (f : RForm) (s : State) : Host.Outcome State Fault Refusal :=
  fetchLanes f (fun c i => shufSource f.fn.toNat c.gang.width i (c.read .n32 f.b i)) s

/-- VSWZ (R155). -/
def execVswz (f : RForm) (s : State) : Host.Outcome State Fault Refusal :=
  fetchLanes f (fun c i => some (swzSource i (c.read .n32 f.b i))) s

/-- VBCAST (R155). -/
def execVbcast (f : RForm) (s : State) : Host.Outcome State Fault Refusal :=
  fetchLanes f (fun c i =>
    let j := c.read .n32 f.b i
    if j < c.gang.width then some j else none) s

/-- All scratchpad elements of A, C and D in the active lanes. -/
def Issuer.spLanes (c : Issuer) (f : RForm) (readC : Nat → Bool) : List (Nat × Nat × Nat × Bool) :=
  (c.active f.g).toList.flatMap fun i =>
    c.spOne f.t f.a true i ++ (if readC i then c.spOne f.t f.c true i else []) ++ c.spOne f.t f.d false i

/-- The truth of VVOTE over its active lanes (R156). -/
def voteTruth (fn : Nat) (xs : List Nat) : Bool :=
  match fn with
  | 0 => xs.all fun x => x != 0
  | 1 => xs.any fun x => x != 0
  | _ => match xs with
    | [] => true
    | x :: t => t.all fun y => y == x

/-- The scratchpad elements that VVOTE accesses. -/
def Issuer.voteElems (c : Issuer) (f : RForm) : List (Nat × Nat × Nat × Bool) :=
  (c.active f.g).toList.flatMap fun i => c.spOne f.t f.a true i ++ c.spOne .b32 f.d false i

/-- VVOTE (R156). A ballot fills ⌈W/32⌉ registers. -/
def execVvote (f : RForm) (s : State) : Host.Outcome State Fault Refusal :=
  let fn := f.fn.toNat
  crossLong f .n32 .b32 (predOf f.c).toList
    (fun c => if fn == 2 then ceilDiv c.gang.width 32 else 1)
    (fun c => c.voteElems f)
    (fun c =>
      let act := (c.active f.g).toList
      let xs := act.map fun i => c.read f.t f.a i
      let ones := voteTruth fn xs
      let ballot := ((act.filter fun i => c.read f.t f.a i != 0).map fun i => 2 ^ i).sum
      { vals := act.map fun i => (i, if fn == 2 then ballot else if ones then 2 ^ 32 - 1 else 0)
        pred := match predOf f.c with
          | some p => some (p, act.map fun i => (i, ones))
          | none => none
        flags := 0 }) s

/-- One level of the tree of R105: neighbours combined, an odd last value passed on. -/
def treeLevel (op : Nat → Nat → Nat × Flags) : List Nat → List Nat × Flags
  | x :: y :: t =>
    let (v, fl) := op x y
    let (vs, fls) := treeLevel op t
    (v :: vs, fl ||| fls)
  | l => (l, 0)

/-- The tree of R105, at most `fuel` levels. -/
def treeReduce (op : Nat → Nat → Nat × Flags) : Nat → List Nat → Nat × Flags
  | _, [] => (0, 0)
  | _, [x] => (x, 0)
  | 0, x :: _ => (x, 0)
  | fuel + 1, l =>
    let (vs, fl) := treeLevel op l
    let (v, fls) := treeReduce op fuel vs
    (v, fl ||| fls)

/-- The operation that `FN` names in a type (R157). -/
def redOp (t : Ty) (fn : Nat) (mode : Mode) (a b : Nat) : Nat × Flags :=
  match fn with
  | 3 => (a &&& b, 0)
  | 4 => (a ||| b, 0)
  | 5 => (a ^^^ b, 0)
  | 0 =>
    match fmtOf t with
    | some fm => addRound fm mode false (fm.decode a) (fm.decode b)
    | none => (intOp t false (· + ·) a b, 0)
  | n =>
    match fmtOf t with
    | some fm => minMax fm (n == 2) a b
    | none => (intMinMax t (n == 2) a b, 0)

/-- Operand A of the active lanes, compacted (R105). -/
def Issuer.compacted (c : Issuer) (f : RForm) : List Nat :=
  (c.active f.g).toList.map fun i => packElems f.t (elemOf f.t (c.read f.t f.a i))

/-- VRED (R157). -/
def execVred (f : RForm) (s : State) : Host.Outcome State Fault Refusal :=
  crossLong f .n32 f.t [] (fun _ => RForm.words f) (fun c => c.spLanes f fun _ => false)
    (fun c =>
      let r := treeReduce (redOp f.t f.fn.toNat (c.mode f)) 8 (c.compacted f)
      { vals := c.perLane f.g fun _ => r.1
        pred := none
        flags := r.2 }) s

/-- VSCAN (R157): inclusive with C = 0x1FF, else exclusive with C in the lowest active lane. -/
def execVscan (f : RForm) (s : State) : Host.Outcome State Fault Refusal :=
  let incl := f.c == .none
  crossLong f .n32 f.t [] (fun _ => RForm.words f) (fun c => c.spLanes f fun i => !incl && Lanes.lowest (c.active f.g) == some i)
    (fun c =>
      let xs := c.compacted f
      let act := (c.active f.g).toList
      let upTo := fun k => treeReduce (redOp f.t f.fn.toNat (c.mode f)) 8 (xs.take k)
      let each := act.zip (List.range act.length)
      { vals := each.map fun (x : Nat × Nat) =>
          (x.1, if incl then (upTo (x.2 + 1)).1
                else if x.2 == 0 then packElems f.t (elemOf f.t (c.read f.t f.c x.1)) else (upTo x.2).1)
        pred := none
        flags := orFlags (each.map fun (x : Nat × Nat) => (upTo (if incl then x.2 + 1 else x.2)).2) }) s

end Sys2Proof.Machine
end

