-- ==== Sys2Proof/Machine/Mma.lean ====
section
/-! DEFINITION. The arithmetic of the matrix engine (R98 to R104, R238 to R242, R249, R253): the elements of a fragment, the
scales, the codebooks, and one cell of a tile. -/

namespace Sys2Proof.Machine

/-- The exact product of two values; an invalid one is a signalling NaN, so that it sets NV (R96, R103). -/
def FVal.mul (a b : FVal) : FVal :=
  if (a.isZero && b.isInf) || (a.isInf && b.isZero) then .nan true
  else
    match a, b with
    | .nan x, y => .nan (x || y.sig)
    | x, .nan y => .nan (y || x.sig)
    | .fin s m e, .fin t n g => .fin (s != t) (m * n) (e + g)
    | x, y => .inf (x.sign != y.sign)

/-- A fragment's bits: register j at bits [32j + 31 : 32j] (R238). -/
def fragBits (ws : List Word) : Nat := ws.foldr (fun w acc => w.toNat + 2 ^ 32 * acc) 0

/-- Bits of an element's container in a fragment (R238). -/
def fragWidth : Ty → Nat
  | .f64 => 64
  | .f32 => 32
  | .f16 | .bf16 => 16
  | .e2m1 | .i4 | .n4 | .mxe2m1 | .se2m1 => 4
  | _ => 8

/-- An exact integer as a value. -/
def intFVal (x : Int) (e : Int) : FVal := .fin (decide (x < 0)) x.natAbs e

/-- The value of an element without its scale (R86, R87, R98, R99). -/
def elemVal (t : Ty) (bits : Nat) : FVal :=
  match t with
  | .i8 => intFVal (sext bits 8) 0
  | .n8 => intFVal ((bits % 256 : Nat) : Int) 0
  | .i4 => intFVal (sext bits 4) 0
  | .n4 => intFVal ((bits % 16 : Nat) : Int) 0
  | .mxi8 => intFVal (sext bits 8) (-6)
  | .mxe4m3 => Fmt.e4m3.decode bits
  | .mxe2m1 | .se2m1 => Fmt.e2m1.decode bits
  | t =>
    match fmtOf t with
    | some f => f.decode (bits % 2 ^ f.width)
    | none => .fin false 0 0

/-- The K elements of a fragment. -/
def fragElems (t : Ty) (k : Nat) (frag : Nat) : List FVal :=
  (List.range k).map fun j => elemVal t (frag / 2 ^ (fragWidth t * j) % 2 ^ fragWidth t)

/-- The value of an E5M3S scale (R99). -/
def e5m3sVal (b : Nat) : FVal :=
  if b == 0xFF then .nan false
  else if b / 8 == 0 then .fin false (b % 8) (-17)
  else .fin false (8 + b % 8) ((b / 8 : Nat) - 18)

/-- The scale that applies to element k, from the scale word of its row or column (R98, R99, R101, R240). -/
def scaleVal (t : Ty) (w : Option Word) (k : Nat) : FVal :=
  match w with
  | none => .one
  | some w =>
    match t with
    | .mxe4m3 | .mxe2m1 | .mxi8 => e8m0Val (w.toNat / 2 ^ (8 * (k / 32)) % 256)
    | .se2m1 => e5m3sVal (w.toNat / 2 ^ (8 * (k / 16)) % 256)
    | .cbv8 | .cbv4 | .cbs8 => Fmt.bf16.decode (w.toNat % 65536)
    | _ => .one

/-! ### Codebooks (R100 to R102) -/

def Bank.entry (b : Bank) (n : Nat) : Nat := (Table.getD b.entries n 0).toNat

/-- Bits of an index, and the values it stands for. -/
def indexWidth (t : Ty) : Nat := if t == .cbv8 then 16 else 8

def indexSpan (t : Ty) : Nat :=
  match t with
  | .cbv8 => 8
  | .cbv4 => 4
  | _ => 1

/-- The entry that an index names. -/
def indexEntry (t : Ty) (idx : Nat) : Nat := if t == .cbv8 then bitsOf idx 15 8 else idx % 256

/-- The eight weights of a CBV8 index; the last sign makes the count of negative ones even (R100). -/
def cbv8Weights (e idx : Nat) : List Int :=
  let h := idx % 2
  let neg := (List.range 7).map fun k => idx.testBit (k + 1)
  let s7 := (neg.filter fun x => x).length % 2 == 1
  (List.range 8).map fun k =>
    let m : Int := ((2 * bitsOf e (4 * k + 3) (4 * k) + h : Nat) : Int)
    if (if k == 7 then s7 else nth neg k false) then -m else m

/-- The values of an index through a bank (R100, R101). -/
def indexVals (t : Ty) (b : Bank) (idx : Nat) : List FVal :=
  let e := b.entry (indexEntry t idx)
  match t with
  | .cbv8 => (cbv8Weights e idx).map fun x => intFVal x 0
  | .cbv4 => (List.range 4).map fun k => intFVal (sext (e / 2 ^ (8 * k)) 8) 0
  | _ => [Fmt.f16.decode (e % 65536)]

/-- The indices of a codebook column of K values. -/
def columnIndices (t : Ty) (k frag : Nat) : List Nat :=
  (List.range (k / indexSpan t)).map fun j => frag / 2 ^ (indexWidth t * j) % 2 ^ indexWidth t

/-- The first entry named that is not valid (R102). -/
def badEntry (t : Ty) (b : Bank) (idxs : List Nat) : Option Nat :=
  (idxs.map (indexEntry t)).find? fun e => !b.valid.contains e

/-- A column's K values: elements, or decoded indices (R238). -/
def columnVals (t : Ty) (b : Bank) (k frag : Nat) : List FVal :=
  if t.codebook then (columnIndices t k frag).flatMap (indexVals t b) else fragElems t k frag

/-! ### One cell (R103, R104) -/

/-- A sum of exact terms on its way: value and exponent of the finite part, whether an infinity of each sign came, and
whether a NaN came, with NV or not. -/
structure Acc103 where
  x : Int
  e : Int
  pos : Bool
  neg : Bool
  nan : Bool
  nv : Bool

def Acc103.add (s : Acc103) (v : FVal) : Acc103 :=
  match v with
  | .nan g => { s with nan := true, nv := s.nv || g }
  | .inf true => { s with neg := true }
  | .inf false => { s with pos := true }
  | .fin g m e =>
    if m == 0 then s
    else
      let r := addExact s.x s.e (signed g m) e
      { s with x := r.1, e := r.2 }

/-- R103: c + ν × Σ, rounded once to nearest even. -/
def sumRound (f : Fmt) (c : FVal) (ovw : Bool) (prods : List FVal) : Nat × Flags :=
  let z : Acc103 := { x := 0, e := 0, pos := false, neg := false, nan := false, nv := false }
  let p := prods.foldl Acc103.add z
  let s := if ovw then p else p.add c
  if s.nan || (s.pos && s.neg) then f.nanOut (s.nv || (s.pos && s.neg))
  else if s.pos || s.neg then f.infinite false s.neg
  else if s.x == 0 then
    (f.signBit (!ovw && c.isZero && c.sign && p.x == 0), 0)
  else f.round .rne false (decide (s.x < 0)) s.x.natAbs s.e

/-- An exact integer value of a finite element. -/
def FVal.int : FVal → Int
  | .fin s m _ => signed s m
  | _ => 0

/-- The format of an accumulator by `ACCT` (R56). -/
def acctFmt (acct : Nat) : Fmt := if acct == 2 then Fmt.f64 else Fmt.f32

/-- One cell of a tile: the new accumulator and its flags (R103, R104). `terms` are the elements of the row and of the
column with the two scales of each k. -/
def cell (ta : Ty) (acct : Nat) (ovw neg : Bool) (terms : List (FVal × FVal × FVal × FVal)) (old : Nat) : Nat × Flags :=
  if acct == 1 then
    let sum := (terms.map fun x => x.1.int * x.2.1.int).sum
    (wrapTo ((if ovw then 0 else (old : Int)) + (if neg then -sum else sum)) 32, 0)
  else
    let f := acctFmt acct
    let sign := fun (v : FVal) => if neg then v.neg else v
    if ta == .f32 || ta == .f64 then
      terms.foldl (fun (acc : Nat × Flags) x =>
        let r := fmaRound f .rne false (sign x.1) x.2.1 (f.decode acc.1)
        (r.1, acc.2 ||| r.2)) (if ovw then 0 else old, 0)
    else
      sumRound f (f.decode old) ovw (terms.map fun x => sign (((x.1.mul x.2.1).mul x.2.2.1).mul x.2.2.2))

/-- K of a type pair (R239). -/
def mmaK (ta tb : Ty) (acct : Nat) : Nat := ((mmaPair ta tb acct).getD (0, 0)).1

/-- The terms of a cell from a row's and a column's values and scale words. -/
def cellTerms (ta tb : Ty) (a b : List FVal) (sa sb : Option Word) : List (FVal × FVal × FVal × FVal) :=
  ((a.zip b).zip (List.range a.length)).map fun x => (x.1.1, x.1.2, scaleVal ta sa x.2, scaleVal tb sb x.2)

/-! ### Accumulator rows (R242) -/

/-- Accumulator rows per tile row. -/
def rowsPer (acct : Nat) : Nat := if acct == 2 then 2 else 1

/-- acc(i, n) of a team (R242). -/
def Team.accCell (t : Team) (base acct i n : Nat) : Nat :=
  if acct == 2 then
    let r := t.row (base + 2 * i + n / 16)
    (nth r (2 * (n % 16)) 0).toNat + 2 ^ 32 * (nth r (2 * (n % 16) + 1) 0).toNat
  else (nth (t.row (base + i)) n 0).toNat

/-- The rows of a tile row with its 32 cells. -/
def cellRows (base acct i : Nat) (cells : List Nat) : List (Nat × List Word) :=
  let w := fun (x : Nat) => BitVec.ofNat 32 x
  if acct == 2 then
    let half := fun k => (List.range 16).flatMap fun j =>
      [w (nth cells (16 * k + j) 0), w (nth cells (16 * k + j) 0 / 2 ^ 32)]
    [(base + 2 * i, half 0), (base + 2 * i + 1, half 1)]
  else [(base + i, cells.map w)]

/-- The team with rows written. -/
def Team.setRows (t : Team) (rows : List (Nat × List Word)) : Team := rows.foldl (fun t r => t.setRow r.1 r.2) t

end Sys2Proof.Machine
end

