-- ==== Sys2Proof/Machine/Matrix.lean ====
section
/-! DEFINITION. The matrix, accumulator and codebook instructions (R242 to R253), rows in flight (R244, R245), and the
events in which they retire. -/

namespace Sys2Proof.Machine

/-! ### Rows in flight (R244, R245, R250) -/

/-- Rows that a reservation owns. -/
def Reservation.rowSet (r : Reservation) : List Nat := (List.range r.rows).map fun i => r.base + i

/-- Whether an operation is an MMA of a gang with an `ACCT` and a row set. -/
def AccOp.sameTile (o : AccOp) (gang acct : Nat) (rows : List Nat) : Bool :=
  o.gang == gang && o.rows == rows && (match o.kind with
    | .mma f => f.acct.toNat == acct
    | _ => false)

/-- Whether an operation on rows of a team waits at issue (R245, R258): `chain` gives the gang and `ACCT` of an MMA, which
enters behind MMAs of the same tile. -/
def Core.rowsBusy (k : Core) (team : Nat) (rows : List Nat) (chain : Option (Nat × Nat)) : Bool :=
  let others := k.accOps.filter fun o => o.team == team && meetRows o.rows rows
  let held := k.reservations.any fun r => r.team == team && meetRows r.rowSet rows
  held || !(match chain with
    | some (g, acct) => others.all fun o => o.sameTile g acct rows
    | none => others.isEmpty)

/-- Whether a change of the issuing gang's window is on its way (R250). -/
def Issuer.windowPending (c : Issuer) (s : State) : Bool :=
  (s.core c.core).winOps.any fun w => w.team == c.gang.team && w.target == c.gang.number

/-- ACC_WINDOW over rows owned by lanes (R243): the lanes that own a row at or above the limit, and the lowest such row. -/
def Issuer.checkRows (c : Issuer) (owned : List (Nat × List Nat)) : Except Stop Unit :=
  let bad := owned.filter fun x => x.2.any fun r => decide (c.gang.accLim ≤ r)
  match bad with
  | [] => .ok ()
  | x :: rest =>
    let rows := ((x :: rest).flatMap fun y => y.2).filter fun r => decide (c.gang.accLim ≤ r)
    let low := rows.foldl min (rows.headD 0)
    .error (.fault (c.record .accWindow ((x :: rest).foldl (fun (m : Lanes) y => m ||| Lanes.one y.1) 0) 0 low))

/-- An accumulator operation issues: its entry on MXC, and the operation with the same number (R244). -/
def State.issueAcc (s : State) (c : Issuer) (rel vdst : List Nat) (lanes : Lanes) (mk : Nat → AccOp) : State :=
  let id := s.nextId
  let s := s.issue c .mxc rel vdst [] none lanes fun p => { p with op := .unit }
  (s.modCore c.core fun k => { k with accOps := k.accOps ++ [mk id] }).advance c

/-- An operation with nothing read yet. -/
def Issuer.accOp (c : Issuer) (kind : AccKind) (base : Nat) (rows : List Nat) (lanes : Lanes) (id : Nat) : AccOp :=
  { id := id, gang := c.slot, team := c.gang.team, kind := kind, base := base, rows := rows, lanes := lanes, a := [],
    b := [], sa := [], sb := [], bank := Bank.empty, rm := c.gang.rm }

/-! ### MMA (R242, R243) -/

/-- Registers of B (R239). -/
def XForm.nB (f : XForm) : Nat := ((mmaPair f.ta f.tb f.acct.toNat).getD (0, 8)).2

/-- Whether a scale operand is named, and its first register (R240). -/
def XForm.scale? (f : XForm) : Option Nat := if f.s == 0x1FF then none else some f.s.toNat

/-- The columns that hold an index through an invalid entry, each with its first such entry (R102, R243). -/
def Issuer.badColumns (c : Issuer) (f : XForm) (bank : Bank) : List (Nat × Nat) :=
  let k := mmaK f.ta f.tb f.acct.toNat
  if f.tb.codebook then
    (List.range 32).filterMap fun n =>
      let frag := fragBits ((vRun f.b.toNat (XForm.nB f)).map fun v => c.vreg v n)
      (badEntry f.tb bank (columnIndices f.tb k frag)).map fun e => (n, e)
  else []

/-- Whether a writer of a bank of the team has issued and not completed (R252). -/
def Core.bankBusy (k : Core) (team bank : Nat) : Bool := k.bankOps.any fun o => o.team == team && o.bank == bank

/-- MMA (R242, R243, R245). -/
def execMma (f : XForm) (s : State) : Host.Outcome State Fault Refusal :=
  runInstr s fun c => do
    let present := c.sub.fibres
    let acct := f.acct.toNat
    let nB := XForm.nB f
    let scale := match XForm.scale? f with
      | some n => [n, n + 1]
      | none => []
    c.checkTouch present { v := vRun f.a.toNat 8 ++ vRun f.b.toNat nB ++ scale, s := [], p := [] }
    if c.windowPending s then .error .hold
    let base := c.gang.accBase + f.row.toNat
    let r := rowsPer acct
    if c.gang.accLim < base + r * c.gang.width then
      .error (.fault (c.record .accWindow present 0 (max base c.gang.accLim)))
    let rows := present.toList.flatMap fun i => vRun (base + r * i) r
    if (s.core c.core).rowsBusy c.gang.team rows (some (c.slot, acct)) then .error .hold
    if f.ta.mma == .ext || f.tb.mma == .ext then
      .error (.fault (c.record .formatUnsupported present 0 (f.ta.toCode * 256 + f.tb.toCode)))
    let coded := f.ta.codebook || f.tb.codebook
    if coded && (s.core c.core).bankBusy c.gang.team f.bank.toNat then .error .hold
    let bank := if coded then nth c.team.banks f.bank.toNat Bank.empty else Bank.empty
    match c.badColumns f bank with
    | x :: rest =>
      .error (.fault (c.record .cbInvalidIndex ((x :: rest).foldl (fun (m : Lanes) y => m ||| Lanes.one y.1) 0) 0 x.2))
    | [] =>
      c.checkCounter .mxc
      let words := fun first count lane => (vRun first count).map fun v => c.vreg v lane
      let rel := (if f.lrA then vRun f.a.toNat 8 else []) ++ (if f.lrB then vRun f.b.toNat nB else [])
      .ok (s.issueAcc c rel [] present fun id =>
        { c.accOp (.mma f) base rows present id with
          a := present.toList.map fun i => (i, words f.a.toNat 8 i)
          b := (List.range 32).map fun n => (n, words f.b.toNat nB n)
          sa := match XForm.scale? f with
            | some q => present.toList.map fun i => (i, c.vreg q i)
            | none => []
          sb := match XForm.scale? f with
            | some q => (List.range 32).map fun n => (n, c.vreg (q + 1) n)
            | none => []
          bank := bank })

/-- The rows that an MMA writes, and its flags. -/
def mmaResult (t : Team) (o : AccOp) (f : XForm) : List (Nat × List Word) × Flags :=
  let acct := f.acct.toNat
  let k := mmaK f.ta f.tb acct
  let cols := (List.range 32).map fun n =>
    (columnVals f.tb o.bank k (fragBits (Table.getD o.b n [])), Table.get? o.sb n)
  let lane := fun (x : Nat × List Word) =>
    let arow := fragElems f.ta k (fragBits x.2)
    let cells := (cols.zip (List.range 32)).map fun y =>
      cell f.ta acct f.ovw f.neg (cellTerms f.ta f.tb arow y.1.1 (Table.get? o.sa x.1) y.1.2)
        (t.accCell o.base acct x.1 y.2)
    (cellRows o.base acct x.1 (cells.map fun z => z.1), orFlags (cells.map fun z => z.2))
  let all := o.a.map lane
  (all.flatMap fun z => z.1, orFlags (all.map fun z => z.2))

/-! ### Transfers (R247 to R249) -/

/-- The rows of each active lane, `r` a lane from offset q. -/
def Issuer.ownedRows (c : Issuer) (g : Guard) (q r : Nat) : List (Nat × List Nat) :=
  (c.active g).toList.map fun i => (i, vRun (c.gang.accBase + q + r * i) r)

/-- `DBL` of ACCZERO, ACCLD and ACCST (R247). -/
def EForm.dbl (f : EForm) : Bool := f.sub.getLsbD 0

/-- The registers that an accumulator transfer's operands name. -/
def accTouch (os : List Opd) (g : Guard) : Touch := touchOf (os.map fun o => { o := o, t := .n32, reads := true }) g []

/-- The checks shared by ACCZERO, ACCLD and ACCST up to their rows: the rows of each active lane. -/
def Issuer.transfer (c : Issuer) (s : State) (f : EForm) : Except Stop (List (Nat × List Nat)) := do
  c.checkTouch (c.active f.g) (accTouch [f.a, f.b] f.g)
  if c.windowPending s then .error .hold
  let owned := c.ownedRows f.g (c.num f.a) (if EForm.dbl f then 2 else 1)
  c.checkRows owned
  .ok owned

/-- R245 and R48 for a transfer, whose rows nothing in flight may hold. -/
def Issuer.transferGo (c : Issuer) (s : State) (rows : List Nat) : Except Stop Unit := do
  if (s.core c.core).rowsBusy c.gang.team rows none then .error .hold
  c.checkCounter .mxc

/-- The scratchpad range of each active lane of ACCLD or ACCST: lane, address, bytes, and whether it is read. -/
def Issuer.accRanges (c : Issuer) (f : EForm) (reads : Bool) : List (Nat × Nat × Nat × Bool) :=
  let n := if EForm.dbl f then 256 else 128
  (c.active f.g).toList.map fun i => (i, c.num f.b + n * i, n, reads)

/-- ALIGN to 16 bytes, SCRATCH_BOUND and FE_POISON of ACCLD and ACCST (R247). -/
def Issuer.checkRanges (c : Issuer) (xs : List (Nat × Nat × Nat × Bool)) : Except Stop Unit :=
  match c.spFault .align xs (fun x => x.2.1 % 16 != 0) with
  | some r => .error (.fault r)
  | none =>
    match c.spFault .scratchBound xs (fun x => decide (c.team.scratchBytes < x.2.1 + x.2.2.1)) with
    | some r => .error (.fault r)
    | none =>
      match c.spFault .fePoison xs (fun x => x.2.2.2 && c.team.meetsPoison x.2.1 x.2.2.1) with
      | some r => .error (.fault r)
      | none => .ok ()

/-- Whether the gang has scratchpad instructions on their way, behind which ACCLD and CBLOAD read (R248, R251). -/
def Gang.scratchBusy (g : Gang) : Bool :=
  g.pending.any fun p => p.st == .pending && (match p.op with
    | .mem k _ => k.scratch
    | _ => false)

/-- Little-endian words of a range of a team's scratchpad. -/
def Team.words (t : Team) (a n : Nat) : List Word := (List.range n).map fun j => BitVec.ofNat 32 (leNat (t.bytes (a + 4 * j) 4))

/-- ACCZERO (R247). -/
def execAcczero (f : EForm) (s : State) : Host.Outcome State Fault Refusal :=
  runInstr s fun c => do
    let owned ← c.transfer s f
    let rows := owned.flatMap fun x => x.2
    c.transferGo s rows
    .ok (s.issueAcc c [] [] (c.active f.g) fun id => c.accOp (.zero (EForm.dbl f)) 0 rows (c.active f.g) id)

/-- ACCLD (R247, R248): it reads the scratchpad at issue, beside what has not been ordered before it (R51). -/
def execAccld (f : EForm) (s : State) : Host.Outcome State Fault Refusal :=
  runInstr s fun c => do
    let owned ← c.transfer s f
    let rows := owned.flatMap fun x => x.2
    if c.gang.scratchBusy then .error .hold
    let xs := c.accRanges f true
    c.checkRanges xs
    c.transferGo s rows
    .ok (s.issueAcc c [] [] (c.active f.g) fun id =>
      { c.accOp (.ld (EForm.dbl f)) (c.gang.accBase + c.num f.a) rows (c.active f.g) id with
        a := xs.map fun x => (x.1, c.seen.words x.2.1 (x.2.2.1 / 4)) })

/-- ACCST (R247, R248): it writes the scratchpad when it retires. -/
def execAccst (f : EForm) (s : State) : Host.Outcome State Fault Refusal :=
  runInstr s fun c => do
    let owned ← c.transfer s f
    let rows := owned.flatMap fun x => x.2
    c.checkRanges (c.accRanges f false)
    c.transferGo s rows
    .ok (s.issueAcc c [] [] (c.active f.g) fun id =>
      c.accOp (.st (EForm.dbl f) (c.num f.b)) (c.gang.accBase + c.num f.a) rows (c.active f.g) id)

/-- Accumulator rows of a tile row by the accumulator type of ACCOUT (R249). -/
def accoutAcct (src : Ty) : Nat :=
  match src with
  | .i32 => 1
  | .f64 => 2
  | _ => 0

/-- Registers of the fragment that ACCOUT writes (R249). -/
def accoutRegs (f : RForm) : Nat := if f.t.accoutBits == 4 then 4 else 8

/-- ACCOUT (R249). -/
def execAccout (src : Ty) (f : RForm) (s : State) : Host.Outcome State Fault Refusal :=
  runInstr s fun c => do
    let act := c.active f.g
    let vdst := match f.d with
      | .v n => vRun n.toNat (accoutRegs f)
      | _ => []
    let us : List Use := [{ o := f.a, t := .n32, reads := true }, { o := f.b, t := .f32, reads := true }]
    let t := touchOf us f.g []
    c.checkTouch act { t with v := t.v ++ vdst }
    if c.windowPending s then .error .hold
    let q := c.num f.a
    let r := rowsPer (accoutAcct src)
    let owned := c.ownedRows f.g q r
    c.checkRows owned
    c.checkSp (c.spUses us act)
    let rows := owned.flatMap fun x => x.2
    c.transferGo s rows
    c.checkPool s vdst
    .ok (s.issueAcc c (lrRel f.lrB .f32 f.b) vdst act fun id =>
      { c.accOp (.out src f) (c.gang.accBase + q) rows act id with
        sa := act.toList.map fun i => (i, BitVec.ofNat 32 (c.read .f32 f.b i)) })

/-- The value of an accumulator cell of a type. -/
def accVal (src : Ty) (x : Nat) : FVal :=
  match src with
  | .i32 => intFVal (sext x 32) 0
  | .f64 => Fmt.f64.decode x
  | _ => Fmt.f32.decode x

/-- A lane's fragment and flags from ACCOUT (R249). -/
def accoutLane (t : Team) (o : AccOp) (src : Ty) (f : RForm) (lane : Nat) : List Word × Flags :=
  let b := f.t.accoutBits
  let cols := min 32 (256 / b)
  let scale := Fmt.f32.decode (Table.getD o.sa lane 0).toNat
  let one := fun j =>
    convertFloat f.t (modeFor f.rnd o.rm) f.sat
      ((accVal src (t.accCell o.base (accoutAcct src) lane (f.fn.toNat * cols + j))).mul scale)
  let rs := (List.range cols).map one
  let bits := ((rs.zip (List.range cols)).map fun x => (x.1.1 % 2 ^ b) * 2 ^ (b * x.2)).sum
  ((List.range (accoutRegs f)).map fun j => BitVec.ofNat 32 (bits / 2 ^ (32 * j)), orFlags (rs.map fun x => x.2))

/-- The registers and flags that ACCOUT delivers; the destination slots are those its entry holds. -/
def accoutOut (t : Team) (o : AccOp) (src : Ty) (f : RForm) (slots : List Nat) : Out :=
  let lanes := o.lanes.toList.map fun i => (i, accoutLane t o src f i)
  { Out.none with
    vregs := (slots.zip (List.range slots.length)).map fun x =>
      (x.1, lanes.map fun (y : Nat × List Word × Flags) => (y.1, nth y.2.1 x.2 0))
    flags := orFlags (lanes.map fun (y : Nat × List Word × Flags) => y.2.2) }

/-- The rows of a lane that ACCLD wrote from its words. -/
def loadRows (base : Nat) (dbl : Bool) (x : Nat × List Word) : List (Nat × List Word) :=
  if dbl then [(base + 2 * x.1, x.2.take 32), (base + 2 * x.1 + 1, x.2.drop 32)] else [(base + x.1, x.2)]

/-- What an accumulator operation leaves at its retirement: the team, and what it delivers. -/
def accResult (t : Team) (o : AccOp) (slots : List Nat) : Team × Out :=
  match o.kind with
  | .mma f =>
    let r := mmaResult t o f
    (t.setRows r.1, { Out.none with flags := r.2 })
  | .zero _ => (t.setRows (o.rows.map fun r => (r, List.replicate 32 0)), Out.none)
  | .ld dbl => (t.setRows (o.a.flatMap (loadRows o.base dbl)), Out.none)
  | .st .. => ((o.stores t).foldl (fun t' w => t'.store w.1 w.2) t, Out.none)
  | .out src f => (t, accoutOut t o src f slots)

/-- MMA_RETIRE (R245, R246): an accumulator operation with no earlier one on its rows takes effect and retires. -/
def execMmaRetire (core id : Nat) (s : State) : Host.Outcome State Fault Refusal :=
  let k := s.core core
  match k.accOps.find? fun o => o.id == id with
  | none => .next s
  | some o =>
    if !k.retires o then .next s
    else
      match s.team? core o.team with
      | none => .next s
      | some t =>
        let slots := match (s.gang? core o.gang).bind fun g => g.pending? id with
          | some p => p.vdst
          | none => []
        let r := accResult t o slots
        let s := s.modTeam core o.team fun _ => r.1
        let s := s.modCore core fun k => { k with accOps := k.accOps.filter fun e => e.id != id }
        .next (s.deliver core o.gang id r.2)

/-! ### Windows (R250) -/

/-- ACCWIN (R250). -/
def execAccwin (f : EForm) (s : State) : Host.Outcome State Fault Refusal :=
  runInstr s fun c => do
    let lanes := c.active f.g
    c.checkTouch lanes (accTouch [f.a, f.b, f.c] f.g)
    if c.gang.number != 0 then .error (.fault (c.record .priv lanes 0 1))
    let g := c.num f.a
    let base := c.num f.b
    let lim := c.num f.c
    if decide (c.team.ngang ≤ g) || decide (lim < base) || decide (c.team.accRows < lim) then
      .error (.fault (c.record .accWindow lanes 0 g))
    c.checkCounter .mxc
    let id := s.nextId
    let w : WinOp := { id := id, gang := c.slot, team := c.gang.team, target := g, base := base, lim := lim }
    let s := s.issue c .mxc [] [] [] none lanes fun p => { p with op := .unit }
    .ok ((s.modCore c.core fun k => { k with winOps := k.winOps ++ [w] }).advance c)

/-- ACCWIN_PERFORM (R250): the target gang's earlier accumulator operations have retired. -/
def execAccwinPerform (core id : Nat) (s : State) : Host.Outcome State Fault Refusal :=
  let k := s.core core
  match k.winOps.find? fun w => w.id == id with
  | none => .next s
  | some w =>
    let slots := (k.gangs.filter fun g => g.2.team == w.team && g.2.number == w.target).map fun g => g.1
    let busy := k.accOps.any fun o => decide (o.id < id) && slots.contains o.gang
    let before := k.winOps.any fun v => decide (v.id < id) && v.team == w.team && v.target == w.target
    if busy || before then .next s
    else
      let s := slots.foldl (fun s n => s.modGang core n fun g =>
        { g with
          accBase := w.base
          accLim := w.lim }) s
      let s := s.modCore core fun k => { k with winOps := k.winOps.filter fun v => v.id != id }
      .next (s.deliver core w.gang id Out.none)

/-! ### Codebook banks (R251 to R253) -/

/-- The precise faults of a CBLOAD's read, in order (R251): its one range, as one access of n words. -/
def Issuer.checkCbload (c : Issuer) (lanes : Lanes) (a n : Nat) : Except Stop Unit :=
  if a % 4 != 0 then .error (.fault (c.record .align lanes a 0))
  else if n != 0 && c.team.scratchBytes < a + 4 * n then .error (.fault (c.record .scratchBound lanes a 0))
  else if c.team.meetsPoison a (4 * n) then .error (.fault (c.record .fePoison lanes a 0))
  else .ok ()

/-- A bank writer issues (R252). -/
def State.issueBank (s : State) (c : Issuer) (lanes : Lanes) (mk : Nat → BankOp) : State :=
  let id := s.nextId
  let s := s.issue c .mxc [] [] [] none lanes fun p => { p with op := .unit }
  (s.modCore c.core fun k => { k with bankOps := k.bankOps ++ [mk id] }).advance c

/-- CBLOAD (R251): it reads the scratchpad at issue, behind the gang's earlier scratchpad instructions. -/
def execCbload (f : EForm) (s : State) : Host.Outcome State Fault Refusal :=
  runInstr s fun c => do
    let lanes := c.active f.g
    c.checkTouch lanes (accTouch [f.a, f.b, f.c] f.g)
    if c.gang.scratchBusy then .error .hold
    let a := c.num f.a
    let n := c.num f.c
    c.checkCbload lanes a n
    c.checkCounter .mxc
    .ok (s.issueBank c lanes fun id =>
      { id := id, gang := c.slot, team := c.gang.team, bank := f.sub.toNat % 4, first := c.num f.b, count := n,
        words := some (c.seen.words a (min n 256)), valid := if f.sub.getLsbD 2 then some true else none })

/-- CBVALID (R251). -/
def execCbvalid (f : EForm) (s : State) : Host.Outcome State Fault Refusal :=
  runInstr s fun c => do
    let lanes := c.active f.g
    c.checkTouch lanes (accTouch [f.a, f.b] f.g)
    c.checkCounter .mxc
    .ok (s.issueBank c lanes fun id =>
      { id := id, gang := c.slot, team := c.gang.team, bank := f.sub.toNat % 4, first := c.num f.a, count := c.num f.b,
        words := none, valid := some (f.sub.getLsbD 2) })

/-- The entries below 256 that a bank writer touches, with each one's place in its run. -/
def BankOp.touched (o : BankOp) : List (Nat × Nat) :=
  ((List.range (min o.count 256)).map fun j => (o.first + j, j)).filter fun x => decide (x.1 < 256)

/-- A bank after a writer (R251). -/
def Bank.apply (b : Bank) (o : BankOp) : Bank :=
  let one := fun (b : Bank) (x : Nat × Nat) =>
    { b with
      entries := match o.words with
        | some ws => if nth ws x.2 0 == 0 then Table.del b.entries x.1 else Table.put b.entries x.1 (nth ws x.2 0)
        | none => b.entries
      valid := match o.valid with
        | some true => insertNat x.1 b.valid
        | some false => b.valid.filter fun v => v != x.1
        | none => b.valid }
  o.touched.foldl one b

/-- The bank that an outstanding instruction reads, by its word (R252). -/
def readsBank (w : DWord) : Option Nat :=
  match decode w with
  | .ok (.mma f) => bankNamed (.mma f)
  | .ok (.vexpand f) => bankNamed (.vexpand f)
  | _ => none

/-- CODEBOOK_BANK_WRITE (R252): a writer whose earlier readers have retired, and whose bank no earlier writer is about to
change, changes its bank. -/
def execCodebookBankWrite (core id : Nat) (s : State) : Host.Outcome State Fault Refusal :=
  let k := s.core core
  match k.bankOps.find? fun o => o.id == id with
  | none => .next s
  | some o =>
    let readers := k.gangs.any fun g => g.2.team == o.team && g.2.pending.any fun p =>
      decide (p.id < id) && readsBank p.word == some o.bank
    let writers := k.bankOps.any fun e => decide (e.id < id) && e.team == o.team && e.bank == o.bank
    if readers || writers then .next s
    else
      let s := s.modTeam core o.team fun t => { t with banks := t.banks.set o.bank ((nth t.banks o.bank Bank.empty).apply o) }
      let s := s.modCore core fun k => { k with bankOps := k.bankOps.filter fun e => e.id != id }
      .next (s.deliver core o.gang id Out.none)

/-- The words that VEXPAND writes in a lane (R253). -/
def expandWords (t : Ty) (e idx : Nat) : List Word :=
  match t with
  | .cbv8 =>
    let w := (cbv8Weights e idx).map fun x => wrapTo x 8
    let four := fun k => BitVec.ofNat 32 ((List.range 4).map fun j => nth w (4 * k + j) 0 * 2 ^ (8 * j)).sum
    [four 0, four 1]
  | .cbv4 => [BitVec.ofNat 32 e]
  | _ => [BitVec.ofNat 32 (e % 65536)]

/-- VEXPAND (R253). -/
def execVexpand (f : RForm) (s : State) : Host.Outcome State Fault Refusal :=
  runInstr s fun c => do
    let act := c.active f.g
    let vdst := match f.d with
      | .v n => vRun n.toNat (if f.t == .cbv8 then 2 else 1)
      | _ => []
    let us : List Use := [{ o := f.a, t := .n32, reads := true }]
    let t := touchOf us f.g []
    c.checkTouch act { t with v := t.v ++ vdst }
    c.checkSp (c.spUses us act)
    let bankNo := match f.b with
      | .imm n => n.val
      | _ => 0
    if (s.core c.core).bankBusy c.gang.team bankNo then .error .hold
    let bank := nth c.team.banks bankNo Bank.empty
    let w := indexWidth f.t
    let idx := fun i => c.read .n32 f.a i / 2 ^ (w * f.fn.toNat) % 2 ^ w
    let bad := act.toList.filterMap fun i => (badEntry f.t bank [idx i]).map fun e => (i, e)
    match bad with
    | x :: rest =>
      .error (.fault (c.record .cbInvalidIndex ((x :: rest).foldl (fun (m : Lanes) y => m ||| Lanes.one y.1) 0) 0 x.2))
    | [] =>
      c.checkCounter .mxc
      c.checkPool s vdst
      let vals := act.toList.map fun i => (i, expandWords f.t (bank.entry (indexEntry f.t (idx i))) (idx i))
      let out : Out := { Out.none with
        vregs := (vdst.zip (List.range vdst.length)).map fun x =>
          (c.slotOf x.1, vals.map fun (y : Nat × List Word) => (y.1, nth y.2 x.2 0)) }
      .ok ((s.issue c .mxc (lrRel f.lrA .n32 f.a) vdst [] none act fun p => { p with out := out }).advance c)

end Sys2Proof.Machine
end

