-- ==== Sys2Proof/Machine/Spur.lean ====
section
/-! DEFINITION. The Spur (R254 to R258): reservations, the product over partners, and its status. -/

namespace Sys2Proof.Machine

/-- The type that an E-form's `SUB` names (R254, R255). -/
def subTy (f : EForm) : Ty := (Ty.ofCode f.sub.toNat).getD .f32

/-- `ACCT`, `OVW` and `NEG` in `MOD` (R254, R255). -/
def modAcct (f : EForm) : Nat := f.mod.toNat % 4

/-- The reserved bits of a reservation's descriptor are zero (R254). -/
def spuraccOk (w0 w1 w2 : Nat) : Bool :=
  bitsOf w0 31 9 == 0 && bitsOf w1 31 18 == 0 && bitsOf w2 7 6 == 0 && bitsOf w2 31 16 == 0

/-- The reservation that a SPURACC asks for. -/
def Issuer.reservation (c : Issuer) (f : EForm) (id : Nat) : Reservation :=
  let w := fun k => (c.sreg (sNum f.a + k)).toNat
  { id := id, tag := bitsOf (w 2) 15 8, gang := c.slot, team := c.gang.team, ta := subTy f, acct := modAcct f,
    base := c.gang.accBase + w 0 % 512, rows := rowsPer (modAcct f) * c.gang.width, region := w 1 % 2 ^ 18,
    barrier := w 2 % 64, posted := false }

/-- Whether other reservations or operations own rows of a reservation; one that it replaces does not count (R245,
R254). -/
def Core.reserveBusy (k : Core) (r : Reservation) : Bool :=
  { k with reservations := k.reservations.filter fun x => x.tag != r.tag }.rowsBusy r.team r.rowSet none

/-- SPURACC (R254). -/
def execSpuracc (f : EForm) (s : State) : Host.Outcome State Fault Refusal :=
  runInstr s fun c => do
    let n := sNum f.a
    c.checkOnce (vRun n 3)
    let w := fun k => (c.sreg (n + k)).toNat
    c.checkRange (spuraccOk (w 0) (w 1) (w 2))
    let present := c.sub.fibres
    let r := c.reservation f s.nextId
    if r.region % 32 != 0 then .error (.fault (c.record .align present r.region 0))
    if c.windowPending s then .error .hold
    if c.gang.accLim < r.base + r.rows then
      .error (.fault (c.record .accWindow present 0 (max r.base c.gang.accLim)))
    if (s.core c.core).reserveBusy r then .error .hold
    c.checkReport
    c.checkCounter .mxc
    let s := s.issue c .mxc [] [] [] none present fun p =>
      { p with
        sent := false
        op := .request .spuracc }
    .ok ((s.modCore c.core fun k => { k with reservations := k.reservations ++ [r] }).advance c)

/-- A reservation is posted (R254): one with the same tag on the core is cancelled. -/
def State.postReservation (s : State) (core slot id : Nat) : State :=
  let k := s.core core
  match k.reservations.find? fun r => r.id == id with
  | none => s.deliver core slot id Out.none
  | some r =>
    let stays := fun (x : Reservation) => x.id == id || x.tag != r.tag || !x.posted
    let post := fun (x : Reservation) => if x.id == id then { x with posted := true } else x
    let s := s.modCore core fun k => { k with reservations := (k.reservations.filter stays).map post }
    s.deliver core slot id Out.none

/-- The partner cores of a configuration word (R255). -/
def spurPartners (w : Nat) : List Nat := (List.range (bitsOf w 17 16 + 1)).map fun j => bitsOf w (4 * j + 3) (4 * j)

/-- Whether a list names a number twice. -/
def twice : List Nat → Bool
  | [] => false
  | x :: t => t.contains x || twice t

/-- SPUR (R255). Where several faults meet, B's first eight registers come first, then the form, then B's others (DESIGN
CHOICE, log entry 31). -/
def execSpur (f : EForm) (s : State) : Host.Outcome State Fault Refusal :=
  runInstr s fun c => do
    let ds := sRegs true f.d
    let first := match f.b with
      | .v n => n.toNat
      | _ => 0
    let regs := ds ++ [sNum f.a]
    let present := c.sub.fibres
    c.checkTouch present { v := (vRun first 8).filter (fun v => decide (v < 256)), s := regs, p := [] }
    let w := (c.sreg (sNum f.a)).toNat
    let steps := bitsOf w 23 20 + 1
    let partners := spurPartners w
    c.checkRange (bitsOf w 19 18 == 0 && !twice partners && decide (first + 8 * steps ≤ 256))
    c.checkTouch present { v := vRun first (8 * steps), s := regs, p := [] }
    c.checkCounter .mxc
    let id := s.nextId
    let op : SpurOp :=
      { id := id, core := c.core, gang := c.slot, tb := subTy f, acct := modAcct f, ovw := f.mod.getLsbD 2,
        neg := f.mod.getLsbD 3, tag := bitsOf w 31 24, steps := steps, partners := partners,
        b := (List.range 32).map fun n => (n, (vRun first (8 * steps)).map fun v => c.vreg v n),
        reports := [], flags := 0 }
    let s := s.issue c .mxc [] [] ds none present fun p => { p with op := .unit }
    .ok ((s.modCluster (clusterOf c.core) fun cl => { cl with spurs := cl.spurs ++ [op] }).advance c)

/-- The MMA that a partner runs at each step: only the types, `ACCT`, `OVW` and `NEG` matter (R256). -/
def spurForm (ta tb : Ty) (acct : Nat) (ovw neg : Bool) : XForm :=
  { ta := ta, tb := tb, a := 0, b := 0, s := 0x1FF, row := 0, bank := 0, acct := BitVec.ofNat 2 acct, lrA := false,
    lrB := false, ovw := ovw, neg := neg }

/-- Step t of a partner's work: the team with its rows, and the flags (R256 step 3). -/
def spurStep (o : SpurOp) (r : Reservation) (width : Nat) (tf : Team × Flags) (t : Nat) : Team × Flags :=
  let f := spurForm r.ta o.tb o.acct (o.ovw && t == 0) o.neg
  let op : AccOp :=
    { id := o.id, gang := r.gang, team := r.team, kind := .mma f, base := r.base, rows := r.rowSet, lanes := 0,
      a := (List.range width).map fun i => (i, tf.1.words (r.region + 32 * (t * width + i)) 8)
      b := o.b.map fun (x : Nat × List Word) => (x.1, (x.2.drop (8 * t)).take 8)
      sa := [], sb := [], bank := Bank.empty, rm := 1 }
  let res := mmaResult tf.1 op f
  (tf.1.setRows res.1, tf.2 ||| res.2)

/-- The failure of a partner that found its reservation, if any (R256 steps 1 to 3). -/
def spurFailure (o : SpurOp) (r : Reservation) (t : Team) (window : Option (Nat × Nat)) : Option Code :=
  let bytes := o.steps * t.width * 32
  if r.acct != o.acct || (mmaPair r.ta o.tb o.acct).isNone then some .spurPartner
  else if (match window with
      | some x => decide (r.base < x.1) || decide (x.2 < r.base + r.rows)
      | none => false) then some .accWindow
  else if t.scratchBytes < r.region + bytes then some .scratchBound
  else if t.meetsPoison r.region bytes then some .fePoison
  else none

/-- A partner's report entered (R257). -/
def State.spurReport (s : State) (cl id j : Nat) (code : Option Code) (flags : Flags) : State :=
  s.modCluster cl fun k =>
    { k with
      spurs := k.spurs.map fun (o : SpurOp) =>
        if o.id == id then
          { o with
            reports := Table.put o.reports j code
            flags := o.flags ||| flags }
        else o }

/-- SPUR_PARTNER_WORK (R256): a partner does the whole of its part. The rows are checked against the window that the
partner gang holds at that moment: its base and its limit. -/
def execSpurPartnerWork (cluster id partner : Nat) (s : State) : Host.Outcome State Fault Refusal :=
  match (s.cluster cluster).spurs.find? fun o => o.id == id with
  | none => .next s
  | some o =>
    if o.partners.length ≤ partner || (Table.get? o.reports partner).isSome then .next s
    else
      let core := 16 * cluster + nth o.partners partner 0
      match (s.core core).reservations.find? fun r => r.posted && r.tag == o.tag with
      | none => .next (s.spurReport cluster id partner (some .spurPartner) 0)
      | some r =>
        let s := s.modCore core fun k => { k with reservations := k.reservations.filter fun x => x.id != r.id }
        match s.team? core r.team with
        | none => .next (s.spurReport cluster id partner (some .spurPartner) 0)
        | some t =>
          let window := (s.gang? core r.gang).bind fun g =>
            if g.team == r.team then some (g.accBase, g.accLim) else none
          match spurFailure o r t window with
          | some c => .next ((s.spurReport cluster id partner (some c) 0).arrive cluster r.barrier 1 true 0)
          | none =>
            let res := (List.range o.steps).foldl (spurStep o r t.width) (t, 0)
            let s := s.modTeam core r.team fun _ => res.1
            .next ((s.spurReport cluster id partner none res.2).arrive cluster r.barrier 1 false 0)

/-- The status pair of a SPUR (R257). -/
def SpurOp.status (o : SpurOp) : Word × Word :=
  let bit := fun (x : Nat × Option Code) => if x.2.isSome then 2 ^ (x.1 + 4) else 2 ^ x.1
  let code := fun (x : Nat × Option Code) => match x.2 with
    | some c => codeNum c * 2 ^ (8 * x.1)
    | none => 0
  (BitVec.ofNat 32 (o.reports.map bit).sum, BitVec.ofNat 32 (o.reports.map code).sum)

/-- SPUR_STATUS_READY (R257): every partner has reported. -/
def execSpurStatusReady (cluster id : Nat) (s : State) : Host.Outcome State Fault Refusal :=
  match (s.cluster cluster).spurs.find? fun o => o.id == id with
  | none => .next s
  | some o =>
    if o.reports.length < o.partners.length then .next s
    else
      let s := s.modCluster cluster fun k => { k with spurs := k.spurs.filter fun x => x.id != id }
      match (s.gang? o.core o.gang).bind fun g => g.pending? id with
      | some p =>
        .next (s.deliver o.core o.gang id
          { Out.none with
            sregs := p.sdst.zip [o.status.1, o.status.2]
            flags := o.flags })
      | none => .next s

end Sys2Proof.Machine
end

