-- ==== Sys2Proof/Machine/Pond.lean ====
section
/-! DEFINITION. The Millpond (R332 to R358): keys, lookups, pools, sluice queues, fills, invalidations, frames and eviction. -/

namespace Sys2Proof.Machine

/-! ### Keys (R332, R333) -/

/-- A key as one integer, from its three words (R332). -/
def keyOf (ws : List Word) : BitVec 81 :=
  let w := fun k => (nth ws k 0).toNat
  BitVec.ofNat 81 (bitsOf (w 2) 7 0 * 2 ^ 73 + w 0 * 2 ^ 41 + bitsOf (w 2) 15 8 * 2 ^ 33 + bitsOf (w 2) 20 16 * 2 ^ 28
    + bitsOf (w 1) 27 14 * 2 ^ 14 + bitsOf (w 1) 13 0)

/-- The reserved bits of a key are zero (R332). -/
def keyOk (ws : List Word) : Bool := bitsOf (nth ws 1 0).toNat 31 28 == 0 && bitsOf (nth ws 2 0).toNat 31 21 == 0

def keyPool (k : BitVec 81) : Nat := k.toNat / 2 ^ 73
def keyObj (k : BitVec 81) : Nat := bitsOf k.toNat 72 41

/-- The key's three words. -/
def keyWords (k : BitVec 81) : List Word :=
  let f := fun hi lo => bitsOf k.toNat hi lo
  [BitVec.ofNat 32 (f 72 41), BitVec.ofNat 32 (f 27 14 * 2 ^ 14 + f 13 0),
   BitVec.ofNat 32 (f 32 28 * 2 ^ 16 + f 40 33 * 2 ^ 8 + f 80 73)]

/-- The number of a key's set: 65,536 × die + set (R333). -/
def keySet (k : BitVec 81) : Nat :=
  let f := fun hi lo => bitsOf k.toNat hi lo
  f 17 0 ^^^ f 35 18 ^^^ f 53 36 ^^^ f 71 54 ^^^ f 80 72

/-- `FLTADDR` of a POND_ACCESS (R345). -/
def pondAddr (pool obj : Nat) : Nat := pool * 2 ^ 32 + obj

/-! ### Entries and pools -/

def State.pondEntry (s : State) (way : Nat) : PondEntry := Table.getD s.pond.entries way PondEntry.reset

def State.setEntry (s : State) (way : Nat) (x : PondEntry) : State :=
  s.modPond fun p => { p with entries := Table.put p.entries way x }

/-- A pool that is enabled. -/
def State.pool? (s : State) (n : Nat) : Option Pool :=
  match Table.get? s.pond.pools n with
  | some p => if p.enabled then some p else none
  | none => none

def State.modPool (s : State) (n : Nat) (f : Pool → Pool) : State :=
  s.modPond fun p => { p with pools := Table.modify p.pools n f }

/-- The ways of a set. -/
def waysOfSet (set : Nat) : List Nat := (List.range 16).map fun w => 16 * set + w

def PondEntry.isLive (x : PondEntry) : Bool := x.st == .inFlight || x.st == .doomed

/-- The way of a key's entry (R333). -/
def State.findKey (s : State) (k : BitVec 81) : Option Nat :=
  (waysOfSet (keySet k)).find? fun w => (s.pondEntry w).st != .invalid && (s.pondEntry w).key == k

/-- The token of an entry (R347): its way number above its `SEQ`. -/
def tokenOf (way : Nat) (seq : BitVec 10) : Nat := 1024 * way + seq.toNat

/-- The age of a valid entry (R353). -/
def State.entryAge (s : State) (x : PondEntry) : Nat :=
  match Table.get? s.pond.pools (keyPool x.key) with
  | some p => (p.frame - x.lhf).toNat
  | none => 0

/-- A valid entry's tile enters the quarantine of its pool (R339). -/
def State.quarantine (s : State) (x : PondEntry) : State :=
  s.modPool (keyPool x.key) fun p => { p with quar := p.quar ++ [(x.tile, p.frame)] }

/-! ### Results (R347) -/

/-- Outcomes of R341. -/
inductive PondOutcome where
  | hit (haddr : Nat)
  | inFlight (token : Nat)
  | miss (noalloc : Nat) (token : Nat)
  | retry
  | deny
  | denied
  deriving DecidableEq, Repr

/-- The quad of an outcome; none for POND_ACCESS. -/
def PondOutcome.quad : PondOutcome → Option (List Word)
  | .hit a => some [0, 0, BitVec.ofNat 32 a, BitVec.ofNat 32 (a / 2 ^ 32)]
  | .inFlight t => some [1, BitVec.ofNat 32 t, 0, 0]
  | .miss n t => some [BitVec.ofNat 32 (2 + 16 * n), BitVec.ofNat 32 t, 0, 0]
  | .retry => some [10, 0, 0, 0]
  | .deny => some [3, 0, 0, 0]
  | .denied => none

/-- The outcome for an entry that exists, under a view entry (R341). -/
def entryOutcome (p : Pool) (e : ViewEntry) (vmid way : Nat) (x : PondEntry) : PondOutcome :=
  if x.st == .valid && (if x.shared then x.act == e.act else x.ownvm.toNat == vmid) then
    .hit (p.hbase + x.tile * p.tileBytes)
  else if x.isLive && x.act == e.act then .inFlight (tokenOf way x.seq)
  else if p.strict then .denied
  else .deny

/-- A pool with the word of its view entry as an instruction reads it at issue (R340): the pool stands above the word's 32
bits. -/
def State.viewSeen (s : State) (vmid pool : Nat) : Nat := 2 ^ 32 * pool + s.viewWord vmid pool

/-- The view entry that an instruction presents for a pool (R340): the one it read at issue, by lane; after a reissue, and for
a pool other than the one that its token named then, the one that stands. -/
def State.viewFor (s : State) (p : Pending) (lane vmid pool : Nat) : ViewEntry :=
  match Table.get? p.addrs lane with
  | some e => if e / 2 ^ 32 == pool then viewOf e else s.view vmid pool
  | none => s.view vmid pool

/-- A lane of a TXREQ or TXWAIT has its outcome (R346, R348). -/
def Pending.pondLane (p : Pending) (lane : Nat) (o : PondOutcome) (addr : Nat) : Pending :=
  match o.quad with
  | some ws => { p.keep lane (ws.flatMap fun w => leBytes 4 w.toNat) with done := insertNat lane p.done }
  | none => p.addFailure false .pondAccess lane addr 0

/-! ### Waiters (R335, R348) -/

/-- A TXWAIT lane that waits: core, gang slot, entry and lane, with its VM and the view entry it presents. -/
structure PondWaiter where
  core : Nat
  slot : Nat
  id : Nat
  lane : Nat
  vmid : Nat
  view : ViewEntry
  deriving DecidableEq, Repr

/-- The TXWAIT lanes that wait on a token of a pool. -/
def State.pondWaiters (s : State) (token pool : Nat) : List PondWaiter :=
  s.cores.flatMap fun (k : Nat × Core) =>
    k.2.gangs.flatMap fun (g : Nat × Gang) =>
      match s.runner? k.1 g.1 with
      | none => []
      | some r =>
        g.2.pending.flatMap fun p =>
          if p.op != .txwait then []
          else
            (p.data.filter fun (x : Nat × List Word) => p.laneOpen x.1 && (nth x.2 0 0).toNat == token).map fun x =>
              { core := k.1, slot := g.1, id := p.id, lane := x.1, vmid := r.grid.vmid,
                view := s.viewFor p x.1 r.grid.vmid pool }

/-- The waiters on an entry's token receive an outcome, given for each one's view and VM (R335, R348). -/
def State.wake (s : State) (token : Nat) (key : BitVec 81) (outcome : ViewEntry → Nat → PondOutcome) : State :=
  (s.pondWaiters token (keyPool key)).foldl (fun s w =>
    s.modGang w.core w.slot fun g => g.modPending w.id fun p =>
      p.pondLane w.lane (outcome w.view w.vmid) (pondAddr (keyPool key) (keyObj key))) s

/-- An entry in flight or doomed becomes invalid, and its waiters retry (R335). -/
def State.dropLive (s : State) (way : Nat) : State :=
  let x := s.pondEntry way
  (s.setEntry way { x with st := .invalid }).wake (tokenOf way x.seq) x.key fun _ _ => .retry

/-- A valid entry is evicted or invalidated: its tile is quarantined and it loses its pin (R335, R339, R350). -/
def State.dropValid (s : State) (way : Nat) : State :=
  let x := s.pondEntry way
  (s.quarantine x).setEntry way
    { x with
      st := .invalid
      pin := false }

/-! ### The heap window as the Millpond reaches it (R337, R344) -/

/-- The line of a heap address for the fill path, or the code that stops it (R337, R344). -/
def State.heapLine (s : State) (k : Acc) (va : Nat) : Except Code Ln :=
  match s.lineAt none 0xFF heapAsid va true with
  | .error (.fail code _) => .error code
  | .error (.leaf ..) => .error .pageNotPresent
  | .ok l =>
    match s.lineFault k none l with
    | some c => .error c
    | none => .ok l

/-- The Millpond of a die as an engine: unit 7 of the die's first cluster (R310, R337). -/
def pondUnit : Nat := 7

/-- The dies whose Millpond holds a key's set, and a way (R333). -/
def keyDie (k : BitVec 81) : Nat := keySet k / 65536
def wayDie (way : Nat) : Nat := way / (16 * 65536)

/-- Whether the fill path of a die may take the line of a heap address now (R216, R316, R337); one that it cannot reach is no
wait. -/
def State.heapMay (s : State) (die va : Nat) : Bool :=
  match s.heapLine .engineWrite va with
  | .error _ => true
  | .ok l => s.engineMay (16 * die) pondUnit l true

/-- The heap bytes [va, va + n) written at their home by the fill path, which takes the line and gives it up within the step
(R316; log entry 30); a line that the L2 holds records its tile's guard (R338). -/
def State.heapWrite (s : State) (va : Nat) (bs : List Byte) : State :=
  match s.heapLine .engineWrite va with
  | .error _ => s
  | .ok l =>
    let s := s.writeAtHome l [(va % 128, bs)]
    match s.l2? l.tag l.line l.pline with
    | some _ => s.recordGuard l.line l.pline
    | none => s

/-- Lines of 128 bytes of a range that begins on a line. -/
def linesOf (va n : Nat) : List Nat := (List.range (ceilDiv n 128)).map fun i => va + 128 * i

/-- A heap fault of the Millpond is posted to the PF, its partition free (R344, R349, R399). -/
def State.heapFault (s : State) (va : Nat) : State :=
  let (n, s) := (s.recordWalk heapAsid va (s.walk 0xFF heapAsid va)).takeFree
  s.post 0 { kind := .heapFault, pid := (Config.freeWord n).toNat, addr := va }

/-! ### The sluice queue (R344) -/

/-- The bytes of a record (R344). -/
def sluiceRecord (key : BitVec 81) (token : Nat) (ownvm : BitVec 8) (act frame : BitVec 16) : List Byte :=
  ((keyWords key).flatMap fun w => leBytes 4 w.toNat) ++ leBytes 4 token
    ++ leBytes 4 (ownvm.toNat * 2 ^ 16 + act.toNat) ++ leBytes 4 frame.toNat ++ leBytes 8 0

/-- Whether a pool's queue has room; a fault on the read, or one that a write of the next record or of `QTAIL` would meet, is
the address it names (R344). -/
def State.sluiceRoom (s : State) (p : Pool) : Except Nat Bool :=
  let rec_ := p.qbase + 64 + 32 * (p.qtail % 2 ^ p.qlog)
  match s.heapLine .engineRead (p.qbase + 8) with
  | .error _ => .error (p.qbase + 8)
  | .ok l =>
    let head := leNat (slice (s.homeData l.tag l.line l.pline) ((p.qbase + 8) % 128) 8)
    if 2 ^ p.qlog ≤ (p.qtail + 2 ^ 64 - head) % 2 ^ 64 then .ok false
    else
      match s.heapLine .engineWrite rec_, s.heapLine .engineWrite p.qbase with
      | .error _, _ => .error rec_
      | _, .error _ => .error p.qbase
      | _, _ => .ok true

/-- Whether the lines of a pool's next record and of its header are free for the fill path of a die. -/
def State.sluiceMay (s : State) (die : Nat) (p : Pool) : Bool :=
  s.heapMay die (p.qbase + 64 + 32 * (p.qtail % 2 ^ p.qlog)) && s.heapMay die p.qbase

/-- A record is pushed (R344). -/
def State.sluicePush (s : State) (n : Nat) (p : Pool) (bs : List Byte) : State :=
  let s := s.heapWrite (p.qbase + 64 + 32 * (p.qtail % 2 ^ p.qlog)) bs
  let s := s.heapWrite p.qbase (leBytes 8 (p.qtail + 1))
  s.modPool n fun p => { p with qtail := p.qtail + 1 }

/-! ### Lookup (R341 to R343) -/

/-- The way that an allocation takes (R343): the lowest invalid one, else the valid, unpinned one of greatest age, the
lowest of equals. -/
def State.wayFor (s : State) (set : Nat) : Option Nat :=
  match (waysOfSet set).find? fun w => (s.pondEntry w).st == .invalid with
  | some w => some w
  | none =>
    let cands := (waysOfSet set).filter fun w => (s.pondEntry w).st == .valid && !(s.pondEntry w).pin
    leastBy (fun w => [65536 - s.entryAge (s.pondEntry w), w]) cands

/-- A miss is refused, and counted (R343, R344, R358). -/
def State.refuseMiss (s : State) (pool reason : Nat) : State :=
  s.modPool pool fun p =>
    { p with
      noallocs := if reason == 3 then p.noallocs else p.noallocs + 1
      sluiceovf := if reason == 2 then BitVec.ofNat 32 (min (p.sluiceovf.toNat + 1) (2 ^ 32 - 1)) else p.sluiceovf }

/-- A miss (R343). -/
def State.pondMiss (s : State) (vmid pool : Nat) (p : Pool) (e : ViewEntry) (probe : Bool) (key : BitVec 81) :
    State × PondOutcome :=
  if probe then (s, .miss 3 0)
  else
    match s.wayFor (keySet key) with
    | none => (s.refuseMiss pool 1, .miss 1 0)
    | some way =>
      match s.sluiceRoom p with
      | .error va => ((s.refuseMiss pool 2).heapFault va, .miss 2 0)
      | .ok false => (s.refuseMiss pool 2, .miss 2 0)
      | .ok true =>
        let s := if (s.pondEntry way).st == .valid then s.dropValid way else s
        let x : PondEntry :=
          { key := key, st := .inFlight, seq := (s.pondEntry way).seq + 1, shared := false, act := e.act,
            ownvm := BitVec.ofNat 8 vmid, pin := false, lhf := p.frame, infl := 0, tile := 0 }
        let token := tokenOf way x.seq
        ((s.setEntry way x).sluicePush pool p (sluiceRecord key token x.ownvm x.act p.frame), .miss 0 token)

/-- The lookup of one lane's key under a view entry (R341). -/
def State.pondLookup (s : State) (vmid : Nat) (e : ViewEntry) (probe : Bool) (key : BitVec 81) : State × PondOutcome :=
  let pool := keyPool key
  match s.pool? pool with
  | none => (s, .denied)
  | some p =>
    if !e.v then (s, .denied)
    else
      match s.findKey key with
      | none => s.pondMiss vmid pool p e probe key
      | some way =>
        let x := s.pondEntry way
        match entryOutcome p e vmid way x with
        | .hit a => (s.setEntry way { x with lhf := p.frame }, .hit a)
        | o => (s, o)

/-! ### TXREQ and TXWAIT (R346, R348) -/

/-- The v registers that a destination names, `n` of them. -/
def quadRegs (n : Nat) : Opd → List Nat
  | .v r => vRun r.toNat n
  | _ => []

/-- The lanes whose key has a reserved bit set (R332). -/
def badKeys (keys : Table (List Word)) : Lanes :=
  keys.foldl (fun (m : Lanes) x => if keyOk x.2 then m else m ||| Lanes.one x.1) 0

/-- TXREQ at issue (R346). -/
def execTxreq (f : EForm) (s : State) : Host.Outcome State Fault Refusal :=
  runInstr s fun c => do
    let act := c.active f.g
    let vdst := quadRegs 4 f.d
    let vsrc := quadRegs 3 f.a
    c.checkTouch act { v := vdst ++ vsrc, s := [], p := guardP f.g }
    let keys := act.toList.map fun i => (i, vsrc.map fun v => c.vreg v i)
    if badKeys keys != 0 then .error (.fault (c.record .reservedField (badKeys keys) 0 0))
    c.checkCounter .enc
    c.checkPool s vdst
    .ok ((s.issue c .enc [] vdst [] none act fun p =>
      { p with
        addrs := keys.map fun x => (x.1, s.viewSeen c.grid.vmid (keyPool (keyOf x.2)))
        data := keys
        op := .txreq (f.sub.getLsbD 0) }).advance c)

/-- Whether a lookup of a key must wait: it would push a record, and a line of its sluice queue is not free. -/
def State.lookupWaits (s : State) (probe : Bool) (key : BitVec 81) : Bool :=
  match s.pool? (keyPool key) with
  | some q => !probe && (s.findKey key).isNone && !s.sluiceMay (keyDie key) q
  | none => false

/-- One lane of a TXREQ is looked up (R342, R346). -/
def State.txreqLane (s : State) (r : Runner) (id lane : Nat) : State :=
  match (s.gang? r.core r.slot).bind fun g => g.pending? id with
  | none => s
  | some p =>
    match p.op, Table.get? p.data lane with
    | .txreq probe, some ws =>
      let key := keyOf ws
      if s.lookupWaits probe key then s
      else
        let x := s.pondLookup r.grid.vmid (s.viewFor p lane r.grid.vmid (keyPool key)) probe key
        x.1.modGang r.core r.slot fun g => g.modPending id fun p =>
          p.pondLane lane x.2 (pondAddr (keyPool key) (keyObj key))
    | _, _ => s

/-- Lanes of a TXREQ looked up one after another, until one must wait (R342). -/
def State.txreqLanes (s : State) (r : Runner) (id : Nat) : List Nat → State
  | [] => s
  | lane :: rest =>
    let t := s.txreqLane r id lane
    match t.entry? r.core r.slot id with
    | some p => if p.laneOpen lane then t else t.txreqLanes r id rest
    | none => t

/-- A TXREQ or TXWAIT every lane of which has its result delivers them; one with a failed lane waits for its report. -/
def State.quadFinish (s : State) (r : Runner) (id : Nat) : State :=
  match (s.gang? r.core r.slot).bind fun g => g.pending? id with
  | some p =>
    if p.quadOpen || p.st != .pending then s
    else (if p.quadHit then s.acquired r 4 else s).deliver r.core r.slot id (quadOut p)
  | none => s

/-- The Millpond answers a TXREQ: its next lane, or all of them (R342). -/
def State.txreqArrive (s : State) (r : Runner) (p : Pending) (one : Bool) : State :=
  if s.blocked r p [] then s
  else
    let left := (p.data.filter fun (x : Nat × List Word) => p.laneOpen x.1).map fun x => x.1
    (s.txreqLanes r p.id (if one then left.take 1 else left)).quadFinish r p.id

/-- Whether a token names an entry in flight or doomed (R348, R349). -/
def State.tokenLive (s : State) (token : Nat) : Bool :=
  let x := s.pondEntry (token / 1024)
  x.isLive && x.seq.toNat == token % 1024

/-- A lane of a TXWAIT whose token names no live entry gets its retry (R348). -/
def State.waitLanes (s : State) (p : Pending) : Pending :=
  p.data.foldl (fun (p : Pending) x =>
    if !p.laneOpen x.1 || s.tokenLive (nth x.2 0 0).toNat then p else p.pondLane x.1 .retry 0) p

/-- The pool of the entry that a token names. -/
def State.tokenPool (s : State) (token : Nat) : Nat := keyPool (s.pondEntry (token / 1024)).key

/-- TXWAIT (R348): lanes resolve at once or wait; with one unresolved the sub-gang parks. -/
def execTxwait (f : EForm) (s : State) : Host.Outcome State Fault Refusal :=
  runInstr s fun c => do
    let act := c.active f.g
    let vdst := quadRegs 4 f.d
    let vsrc := quadRegs 1 f.a
    c.checkTouch act { v := vdst ++ vsrc, s := [], p := guardP f.g }
    c.checkCounter .enc
    c.checkPool s vdst
    let id := s.nextId
    let tokens := act.toList.map fun i => (i, vsrc.map fun v => c.vreg v i)
    let s := s.issue c .enc [] vdst [] none act fun p =>
      s.waitLanes { p with
        addrs := tokens.map fun x => (x.1, s.viewSeen c.grid.vmid (s.tokenPool (nth x.2 0 0).toNat))
        data := tokens
        op := .txwait }
    let open_ := tokens.any fun x => s.tokenLive (nth x.2 0 0).toNat
    .ok ((if open_ then s.waitFor c id else s).advance c)

/-- A TXWAIT all of whose lanes are resolved delivers them (R348, R357). -/
def State.txwaitArrive (s : State) (r : Runner) (p : Pending) : State :=
  (s.modGang r.core r.slot fun g => g.modPending p.id s.waitLanes).quadFinish r p.id

/-! ### TXFILL (R349) -/

/-- The bytes of a tile image for a token (R349). -/
def State.imageBytes (s : State) (token : Nat) : Nat :=
  if s.tokenLive token then
    match Table.get? s.pond.pools (keyPool (s.pondEntry (token / 1024)).key) with
    | some p => p.tileBytes
    | none => 512
  else 512

/-- ALIGN, SCRATCH_BOUND and FE_POISON of a TXFILL's image (R349). -/
def Issuer.checkImage (c : Issuer) (a n : Nat) : Except Stop Unit :=
  let bad := fun (code : Code) => Except.error (Stop.fault (c.record code c.sub.fibres a 0))
  if a % 16 != 0 then bad .align
  else if c.team.scratchBytes < a + n then bad .scratchBound
  else if c.team.meetsPoison a n then bad .fePoison
  else .ok ()

/-- TXFILL at issue (R349): a release at package scope. -/
def execTxfill (f : EForm) (s : State) : Host.Outcome State Fault Refusal :=
  runInstr s fun c => do
    let ds := sRegs false f.d
    let n := sNum f.a
    c.checkOnce (ds ++ vRun n 5)
    let w := fun k => (c.sreg (n + k)).toNat
    c.checkRange (bitsOf (w 4) 31 1 == 0)
    if c.gang.scratchBusy then .error .hold
    let size := s.imageBytes (w 0)
    c.checkImage (w 1) size
    c.checkReport
    c.checkCounter .enc
    let mask := BitVec.ofNat 64 (w 2 + 2 ^ 32 * w 3)
    .ok ((s.issue c .enc [] [] ds none c.sub.fibres fun p =>
      { p with
        addrs := [(0, s.viewSeen c.grid.vmid (s.tokenPool (w 0)))]
        sent := false
        op := .request (.txfill (w 0) (w 1) mask (bitOf (w 4) 0) (c.seen.bytes (w 1) size)) }).advance c)

/-- A deferred POND_ACCESS of an instruction that acts once (R345). -/
def State.pondFail (s : State) (r : Runner) (id addr : Nat) : State :=
  s.modGang r.core r.slot fun g => g.modPending id fun p =>
    { p with st := .failing .pondAccess p.lanes (BitVec.ofNat 64 addr) 0 }

/-- A status register's value delivered. -/
def State.deliverWord (s : State) (r : Runner) (p : Pending) (w : Word) : State :=
  s.deliver r.core r.slot p.id { Out.none with sregs := p.sdst.map fun d => (d, w) }

/-- The guard of a tile. -/
def State.setGuard (s : State) (pool tile : Nat) (g : Option HeapGuard) : State :=
  s.modPond fun p =>
    { p with guards := match g with
        | some g => Table.put p.guards (pool * 2 ^ 23 + tile) g
        | none => Table.del p.guards (pool * 2 ^ 23 + tile) }

/-- The first line of a tile that the fill path may not write (R349). -/
def State.badHeapLine (s : State) (va n : Nat) : Option Nat :=
  (linesOf va n).find? fun a => match s.heapLine .engineWrite a with
    | .error _ => true
    | .ok _ => false

/-- The guard of a tile written zero, in its lines too: no heap read passes it until a later fill (R349). -/
def State.killGuard (s : State) (pool : Nat) (p : Pool) (tile : Nat) : State :=
  let va := p.hbase + tile * p.tileBytes
  let dead := fun (x : Nat × LineGuard) =>
    if (linesOf va p.tileBytes).contains (128 * x.2.line) then (x.1, { x.2 with guard := HeapGuard.dead, judged := [] }) else x
  (s.setGuard pool tile none).modPond fun q => { q with lineGuards := q.lineGuards.map dead }

/-- A fill with a free tile (R349): the image and the guard are written, then the entry is valid and its waiters wake. -/
def State.fillTile (s : State) (way pool : Nat) (p : Pool) (tile : Nat) (mask : DWord) (shared : Bool) (bs : List Byte) :
    State × Word :=
  let x := s.pondEntry way
  let va := p.hbase + tile * p.tileBytes
  match s.badHeapLine va p.tileBytes with
  | some bad => (((s.dropLive way).killGuard pool p tile).heapFault bad, 3)
  | none =>
    let g : HeapGuard := { live := true, shared := shared, pool := pool, ownvm := x.ownvm, act := x.act }
    let s := s.setGuard pool tile (some g)
    let s := (linesOf va p.tileBytes).foldl (fun s a => s.heapWrite a (slice bs (a - va) 128)) s
    let s := s.modPool pool fun p => { p with free := p.free.drop 1 }
    let y := { x with st := .valid, shared := shared, infl := mask, tile := tile, lhf := p.frame }
    let s := s.setEntry way y
    (s.wake (tokenOf way x.seq) x.key fun e vmid =>
      if e.v then entryOutcome p e vmid way y else .denied, 0)

/-- The Millpond acts on a TXFILL (R349). -/
def State.txfillArrive (s : State) (r : Runner) (p : Pending) (token : Nat) (mask : DWord) (shared : Bool) (bs : List Byte) :
    State :=
  let way := token / 1024
  let x := s.pondEntry way
  if !s.tokenLive token then s.deliverWord r p 2
  else
    let pool := keyPool x.key
    match s.pool? pool with
    | none => s.pondFail r p.id (pondAddr pool (keyObj x.key))
    | some q =>
      if !(s.viewFor p 0 r.grid.vmid pool).f then s.pondFail r p.id (pondAddr pool (keyObj x.key))
      else if x.st == .doomed then (s.dropLive way).deliverWord r p 1
      else
        match q.free with
        | [] => (s.dropLive way).deliverWord r p 3
        | t :: _ =>
          if !((linesOf (q.hbase + t * q.tileBytes) q.tileBytes).all (s.heapMay (wayDie way))) then s
          else
            let y := s.fillTile way pool q t mask shared bs
            y.1.deliverWord r p y.2

/-! ### TXINV (R350) -/

/-- TXINV at issue: a release at package scope (R356). `regs` are the registers that it reads, from its operand (R350). -/
def txinvIssue (f : EForm) (op : (Nat → Nat) → Request) (regs : List Nat) (s : State) : Host.Outcome State Fault Refusal :=
  runInstr s fun c => do
    let ds := sRegs false f.d
    let n := sNum f.a
    c.checkOnce (ds ++ regs.map fun k => n + k)
    let w := fun k => (c.sreg (n + k)).toNat
    c.checkRange (bitsOf (w 0) 31 8 == 0)
    c.checkReport
    c.checkCounter .enc
    .ok ((s.issue c .enc [] [] ds none c.sub.fibres fun p =>
      { p with
        addrs := [(0, s.viewSeen c.grid.vmid (w 0))]
        sent := false
        op := .request (op w) }).advance c)

/-- TXINV `.key` (R350). -/
def execTxinvKey (f : EForm) (s : State) : Host.Outcome State Fault Refusal :=
  txinvIssue f (fun w => .txinvKey (w 0) (w 1) (w 2)) [0, 1, 2] s

/-- TXINV `.infl` (R350). -/
def execTxinvInfl (f : EForm) (s : State) : Host.Outcome State Fault Refusal :=
  txinvIssue f (fun w => .txinvInfl (w 0) (BitVec.ofNat 64 (w 2 + 2 ^ 32 * w 3))) [0, 2, 3] s

/-- Whether an entry of a pool matches a TXINV (R350). -/
def invMatches (pool : Nat) (range : Option (Nat × Nat)) (mask : DWord) (x : PondEntry) : Bool :=
  x.st != .invalid && keyPool x.key == pool && (match range with
    | some (lo, hi) => decide (lo ≤ keyObj x.key) && decide (keyObj x.key ≤ hi)
    | none => x.isLive || (x.infl &&& mask) != 0)

/-- One entry that a TXINV matches (R350): a valid one becomes invalid, one in flight is doomed. The way joins `done`, and a
valid entry is counted in `got`. -/
def State.txinvEntry (s : State) (r : Runner) (id way : Nat) : State :=
  let x := s.pondEntry way
  let count := fun (p : Pending) =>
    { p with
      done := insertNat way p.done
      got := if x.st == .valid then Table.put p.got 0 (Table.getD p.got 0 0 + 1) else p.got }
  (if x.st == .valid then s.dropValid way else s.setEntry way { x with st := .doomed }).modGang r.core r.slot fun g =>
    g.modPending id count

/-- A TXINV passes every entry of its pool (R350, R356): each is an operation of its own, in the order of the ways, and the
count arrives after the last. With `one` the arrival does a single entry. -/
def State.txinvArrive (s : State) (r : Runner) (p : Pending) (pool : Nat) (range : Option (Nat × Nat)) (mask : DWord)
    (one : Bool) : State :=
  let addr := pondAddr pool (match range with
    | some (lo, _) => lo
    | none => 0)
  if p.done.isEmpty && ((s.pool? pool).isNone || !(s.viewFor p 0 r.grid.vmid pool).i) then s.pondFail r p.id addr
  else
    let ways := (s.pond.entries.filter fun (x : Nat × PondEntry) =>
      invMatches pool range mask x.2 && p.done.all fun w => decide (w < x.1)).map fun x => x.1
    match one, ways with
    | true, w :: _ => s.txinvEntry r p.id w
    | _, _ =>
      let s := ways.foldl (fun s w => s.txinvEntry r p.id w) s
      match (s.gang? r.core r.slot).bind fun g => g.pending? p.id with
      | some q => s.deliverWord r q ((Table.getD q.got 0 0).setWidth 32)
      | none => s

/-! ### TXFRAME and TXPIN (R351, R352, R355) -/

/-- TXFRAME at issue (R351). -/
def execTxframe (f : EForm) (s : State) : Host.Outcome State Fault Refusal :=
  runInstr s fun c => do
    let ds := sRegs false f.d
    c.checkOnce (ds ++ opdS .n32 f.a)
    let pool := c.num f.a
    c.checkRange (decide (pool < 256))
    c.checkCounter .enc
    .ok ((s.issue c .enc [] [] ds none c.sub.fibres fun p =>
      { p with
        addrs := [(0, s.viewSeen c.grid.vmid pool)]
        op := .txframe pool }).advance c)

/-- A pool's next frame (R339, R354): the quarantine releases tiles, and the clock hands may go on. -/
def Pool.nextFrame (p : Pool) : Pool :=
  let frame := p.frame + 1
  let due := fun (x : Nat × BitVec 16) => x.2 + 2 == frame
  { p with
    frame := frame
    free := p.free ++ (p.quar.filter due).map (fun x => x.1)
    quar := p.quar.filter fun x => !due x
    hands := p.hands.map fun h => (h.1, h.2.1, 0, false) }

/-- The Millpond acts on a TXFRAME (R351, R355). -/
def State.txframeArrive (s : State) (r : Runner) (p : Pending) (pool : Nat) : State :=
  match s.pool? pool with
  | none => s.pondFail r p.id (pondAddr pool 0)
  | some q =>
    if !(s.viewFor p 0 r.grid.vmid pool).t then s.pondFail r p.id (pondAddr pool 0)
    else
      let q' := q.nextFrame
      let s := s.modPool pool fun _ => q'
      let old := (s.pond.entries.filter fun (x : Nat × PondEntry) =>
        keyPool x.2.key == pool && x.2.isLive && decide (q.inflim ≤ (q'.frame - x.2.lhf).toNat)).map fun x => x.1
      (old.foldl State.dropLive s).deliverWord r p (q'.frame.setWidth 32)

/-- TXPIN at issue (R352). -/
def txpinIssue (on : Bool) (f : EForm) (s : State) : Host.Outcome State Fault Refusal :=
  runInstr s fun c => do
    let ds := sRegs false f.d
    let n := sNum f.a
    c.checkOnce (ds ++ vRun n 3)
    let key := (vRun n 3).map c.sreg
    c.checkRange (keyOk key)
    c.checkCounter .enc
    .ok ((s.issue c .enc [] [] ds none c.sub.fibres fun p =>
      { p with
        addrs := [(0, s.viewSeen c.grid.vmid (keyPool (keyOf key)))]
        data := [(0, key)]
        op := .txpin on }).advance c)

/-- TXPIN `.set` (R352). -/
def execTxpinSet (f : EForm) (s : State) : Host.Outcome State Fault Refusal := txpinIssue true f s

/-- TXPIN `.clr` (R352). -/
def execTxpinClr (f : EForm) (s : State) : Host.Outcome State Fault Refusal := txpinIssue false f s

/-- The Millpond acts on a TXPIN (R352). -/
def State.txpinArrive (s : State) (r : Runner) (p : Pending) (on : Bool) : State :=
  let key := keyOf (Table.getD p.data 0 [])
  let pool := keyPool key
  if (s.pool? pool).isNone || !(s.viewFor p 0 r.grid.vmid pool).f then s.pondFail r p.id (pondAddr pool (keyObj key))
  else
    match s.findKey key with
    | none => s.deliverWord r p 0
    | some way => (s.setEntry way { s.pondEntry way with pin := on }).deliverWord r p 1

/-! ### Eviction (R354) -/

/-- Whether a clock hand stops: free and quarantined tiles reach `WMARK` (R354). -/
def Pool.handsDone (p : Pool) : Bool := decide (p.wmark ≤ p.free.length + p.quar.length)

/-- CLOCK_HAND_ADVANCE (R354): the hand of a pool on a die passes one set, or stops. -/
def execClockHandAdvance (die pool : Nat) (s : State) : Host.Outcome State Fault Refusal :=
  match s.pool? pool with
  | none => .next s
  | some p =>
    let h := Table.getD p.hands die (0, 0, false)
    let put := fun (s : State) (x : Nat × Nat × Bool) => s.modPool pool fun p => { p with hands := Table.put p.hands die x }
    if 4 ≤ die || p.wmark ≤ p.free.length || h.2.2 then .next s
    else if p.handsDone then .next (put s (h.1, h.2.1, true))
    else
      let gone := (waysOfSet (65536 * die + h.1)).filter fun w =>
        let x := s.pondEntry w
        x.st == .valid && !x.pin && keyPool x.key == pool && decide (p.agethr ≤ s.entryAge x)
      let s := gone.foldl State.dropValid s
      let idle := if gone.isEmpty then h.2.1 + 1 else 0
      let full := ((s.pool? pool).map Pool.handsDone).getD false
      .next (put s ((h.1 + 1) % 65536, idle, full || decide (65536 ≤ idle)))

end Sys2Proof.Machine
end

