-- ==== Sys2Proof/Machine/Sched.lean ====
section
/-! DEFINITION. The scheduler's queues and grids (R364 to R371, R379, R412, R413, R429): its accesses to memory, launch
records, acceptance, eligibility and retirement. -/

namespace Sys2Proof.Machine

/-! ### The scheduler's accesses (R366, R371, R429) -/

/-- The pieces of a range that lie in one line each: address and bytes. -/
def linePieces (va n : Nat) : List (Nat × Nat) :=
  (List.range ((va % 128 + n + 127) / 128)).map fun i =>
    let lo := max va (128 * (va / 128 + i))
    (lo, min (va + n) (128 * (va / 128 + i + 1)) - lo)

/-- The scheduler, a head cache or the Wallower reads n bytes under an identity: an engine that owns no line. A node queue's
words and records may lie in the heap window (R337, R374), for which `k` is the kind that may. -/
def State.schedRead (s : State) (vmid asid va n : Nat) (k : Acc := .engineRead) : EngineRead :=
  (linePieces va n).foldl (fun acc x => match acc with
    | .bytes bs => (match s.engineRead k 64 7 vmid asid none x.1 x.2 with
      | .bytes cs => .bytes (bs ++ cs)
      | o => o)
    | o => o) (.bytes [])

/-- The L2 lines that such a read hit are the most recently used (R319). -/
def State.schedTouch (s : State) (vmid asid va n : Nat) : State :=
  s.touchRead vmid asid none ((linePieces va n).map fun x => x.1)

/-- Why a write waits: its line is busy, or the dirty ring of a VMID, ASID and address is full (R393). -/
abbrev Stall := Option (Nat × Nat × Nat)

/-- The state while a write waits: a full dirty ring pauses its partition. -/
def State.stalled (s : State) : Stall → State
  | none => s
  | some (vmid, asid, va) => (s.logWrite vmid asid va).2

/-- What a write of the scheduler comes to: the state after it, a fault at an address, or a wait. -/
inductive EngineWrite where
  | done (s : State)
  | fault (code : Code) (va : Nat)
  | later (w : Stall)
  deriving DecidableEq, Repr

/-- Bytes of one line written at its home, every L1 copy invalidated first (R228, R311, R317). In the heap window the
scheduler writes nothing but `QHEAD` of a sluice queue that it drains as a node queue, which is when `drain` is set (R337). -/
def State.schedWriteLine (s : State) (vmid asid va : Nat) (bs : List Byte) (drain : Bool) : EngineWrite :=
  if 2 ^ 56 ≤ va then .fault .addrNoncanon va
  else
    let found := if drain && s.inHeap va && s.heapWriteOk vmid va bs.length then s.heapLine .engineWrite va
      else s.access .engineWrite none vmid asid va bs.length
    match found with
    | .error c => .fault c va
    | .ok l =>
      if !s.engineMay 64 7 l true then .later none
      else
        let go := s.logWrite vmid asid va
        if !go.1 then .later (some (vmid, asid, va))
        else if l.perms.attr == .wo then
          if s.claimTaken l.pline (granuleMask (va % 128) bs.length) (2 ^ 32) 0 0 != 0 then .fault .woRewrite va
          else .done (go.2.woWrite none l [(0, va % 128, bs)])
        else .done (go.2.writeAtHome l [(va % 128, bs)])

/-- A write of the scheduler: whole or nothing. -/
def State.schedWrite (s : State) (vmid asid va : Nat) (bs : List Byte) (drain : Bool := false) : EngineWrite :=
  (linePieces va bs.length).foldl (fun acc x => match acc with
    | .done t => t.schedWriteLine vmid asid x.1 (slice bs (x.1 - va) x.2) drain
    | o => o) (.done s)

/-- The event of a fault on such an access (R429), with what its walk leaves in `WALKERR` (R323). -/
def State.schedFault (s : State) (pid : Nat) (kind : EventKind) (asid va : Nat) : State :=
  match s.part? pid with
  | some p => (s.noteWalk p.vmid asid va).post p.fn { kind := kind, pid := pid, addr := va }
  | none => s

/-- A write that a fault drops (R429); none while it waits. -/
def State.schedPut (s : State) (pid : Nat) (kind : EventKind) (vmid asid va : Nat) (bs : List Byte) (drain : Bool := false) :
    Except Stall State :=
  match s.schedWrite vmid asid va bs drain with
  | .done t => .ok t
  | .fault _ bad => .ok (s.schedFault pid kind asid bad)
  | .later t => .error t

/-! ### Queue descriptors (R365) -/

namespace Queue

def base (q : Queue) : Nat := bitsOf q.desc.toNat 127 72
def asid (q : Queue) : Nat := bitsOf q.desc.toNat 71 56
def log (q : Queue) : Nat := bitsOf q.desc.toNat 55 52
def vec (q : Queue) : Nat := bitsOf q.desc.toNat 51 41
def irqe (q : Queue) : Bool := q.desc.getLsbD 40
def cap (q : Queue) : Nat := bitsOf q.desc.toNat 39 37
def sys (q : Queue) : Bool := q.desc.getLsbD 36
def enabled (q : Queue) : Bool := q.desc.getLsbD 35
def lnch (q : Queue) : Bool := q.desc.getLsbD 34

/-- Records of the ring. -/
def ring (q : Queue) : Nat := if q.log == 0 then 2 ^ 16 else 2 ^ q.log

/-- The address of record n. -/
def record (q : Queue) (n : Nat) : Nat := q.base + 256 + 256 * (n % q.ring)

end Queue

/-- A queue of a partition. -/
def Partition.queue (p : Partition) (n : Nat) : Queue := Table.getD p.queues n Queue.reset

def State.modQueue (s : State) (pid n : Nat) (f : Queue → Queue) : State :=
  s.modPart pid fun p => { p with queues := Table.put p.queues n (f (p.queue n)) }

/-! ### Watch marks (R317) -/

/-- Whether some queue or grid waits on a physical line. -/
def State.watchWanted (s : State) (pline : Nat) : Bool :=
  s.parts.any (fun (p : Nat × Partition) => p.2.queues.any fun (q : Nat × Queue) => q.2.watched == some pline)
  || s.grids.any (fun (g : Nat × Grid) => g.2.watched == some pline)

/-- The mark set on a line: its L1 copies are invalidated, so that none is exclusive. -/
def State.markWatch (s : State) (pline : Nat) : State :=
  let held := s.mem.l2.filter fun x => x.pline == pline && !x.remote
  let s := held.foldl (fun s x => (s.dropTracked x.tag x.line).setDir x.tag x.line x.pline DirEntry.empty) s
  s.setLineMeta pline { s.lineMeta pline with watch := true }

/-- The mark cleared where nothing waits on the line any more. -/
def State.unwatch (s : State) (pline : Option Nat) : State :=
  match pline with
  | none => s
  | some l => if s.watchWanted l then s else s.setLineMeta l { s.lineMeta l with watch := false }

/-- The physical line of an address that the scheduler may read, free of transactions. -/
def State.watchLine (s : State) (vmid asid va : Nat) : Option Nat :=
  match s.access .engineRead none vmid asid va 8 with
  | .ok l => if s.lineBusy l.tag l.line l.pline then none else some l.pline
  | .error _ => none

/-! ### Launch records, kernel descriptors and process-group tables (R367 to R369, R412, R413) -/

/-- Dword k of a block of bytes. -/
def dwordAt (bs : List Byte) (k : Nat) : Nat := leNat (slice bs (8 * k) 8)

/-- Whether bits [63:n] of any of the dwords named are set. -/
def highSet (bs : List Byte) (xs : List (Nat × Nat)) : Bool := xs.any fun x => bitsOf (dwordAt bs x.1) 63 x.2 != 0

/-- A launch record from its 256 bytes (R367). -/
def launchRec (bs : List Byte) : LaunchRec :=
  let d := dwordAt bs
  let a := fun k => bitsOf (d k) 55 0
  { kdesc := a 0, gx := bitsOf (d 1) 15 0, gy := bitsOf (d 1) 31 16, gz := bitsOf (d 1) 47 32,
    gridid := BitVec.ofNat 32 (bitsOf (d 2) 63 32), prio := bitsOf (d 2) 10 8, child := bitOf (d 2) 6, prs := bitOf (d 2) 5,
    pin := bitOf (d 2) 4, occ := bitsOf (d 2) 3 2, faddr := a 3, fval := d 4, saddr := a 5, sval := d 6, eraddr := a 7,
    oaddr := a 8, place := bitsOf (d 9) 9 0, pgt := a 10, xb := [a 11, a 12, a 13, a 14], otag := bitsOf (d 15) 30 0,
    args := (List.range 12).map fun w => BitVec.ofNat 32 (leNat (slice bs (128 + 4 * w) 4)),
    reservedSet := highSet bs [(0, 56), (1, 48), (3, 56), (5, 56), (7, 56), (8, 56), (9, 10), (10, 56), (11, 56), (12, 56),
        (13, 56), (14, 56), (15, 31)]
      || bitsOf (d 2) 31 11 != 0 || bitOf (d 2) 7 || bitsOf (d 2) 1 0 != 0
      || (List.range 10).any fun k => d (22 + k) != 0 }

/-- The record of a grid whose record could not be read: nothing to write at its end. -/
def LaunchRec.unread : LaunchRec := { LaunchRec.one with gx := 0, gy := 0, gz := 0 }

/-- Teams of a grid. -/
def LaunchRec.total (r : LaunchRec) : Nat := r.gx * r.gy * r.gz

/-- Die and cluster, as 16 × die + cluster, and first core of `PLACE` (R367). -/
def LaunchRec.placeCluster (r : LaunchRec) : Nat := bitsOf r.place 9 4
def LaunchRec.placeCore (r : LaunchRec) : Nat := bitsOf r.place 3 0

/-- A record in error by its own fields (R369). -/
def LaunchRec.malformed (r : LaunchRec) (cmask : BitVec 64) (lnch : Bool) : Bool :=
  r.reservedSet || r.occ == 3 || r.gx == 0 || r.gy == 0 || r.gz == 0 || r.kdesc % 256 != 0 || r.faddr % 8 != 0
  || r.saddr % 8 != 0 || r.eraddr % 32 != 0 || r.oaddr % 4 != 0 || r.pgt % 64 != 0 || r.xb.any (fun x => x % 64 != 0)
  || (r.pin && (decide (16 < r.placeCore + r.total) || !cmask.getLsbD r.placeCluster)) || (r.child && !lnch)

/-- A kernel descriptor from its 256 bytes (R368). -/
def kernelDesc (bs : List Byte) : KDesc :=
  let d := dwordAt bs
  let a := fun k => bitsOf (d k) 55 0
  { entry := a 0, handler := a 1, scr := bitsOf (d 2) 63 48, acc := bitsOf (d 2) 47 38, cbk := bitsOf (d 2) 37 35,
    rpeak := bitsOf (d 2) 34 26, rest := bitsOf (d 2) 25 17, ngm1 := bitsOf (d 2) 16 13, wid := bitsOf (d 2) 12 11,
    hws := bitsOf (d 3) 7 0, tb := [a 4, a 5, a 6, a 7],
    reservedSet := highSet bs [(0, 56), (1, 56), (3, 8), (4, 56), (5, 56), (6, 56), (7, 56)] || bitsOf (d 2) 10 0 != 0
      || (List.range 24).any fun k => d (8 + k) != 0 }

/-- A descriptor in error: a reserved bit, `WID` 3, an address misaligned, or a limit of R80 (R369). -/
def KDesc.malformed (k : KDesc) : Bool :=
  k.reservedSet || k.wid == 3 || k.entry % 8 != 0 || k.handler % 8 != 0 || k.tb.any (fun x => x % 64 != 0)
  || decide (16384 < k.scr) || decide (512 < k.acc) || decide (4 < k.cbk) || k.rest == 0 || decide (k.rpeak < k.rest)
  || decide (256 < k.rpeak)

/-- Whether two ranges of addresses meet. -/
def apertureMeets (a b n : Nat) : Bool := decide (a < b + n) && decide (b < a + n)

/-- A process-group table from its bytes, header first; none for a format error (R412, R413). -/
def groupTable (devid : Nat) (bs : List Byte) : Option Group :=
  let d := dwordAt bs
  let aplog := bitsOf (d 0) 63 58
  let nr := bitsOf (d 2) 15 0
  let ap := bitsOf (d 0) 55 0
  let rd := bitsOf (d 1) 55 0
  let size := nr * 2 ^ aplog
  let ranks := (List.range nr).map fun j =>
    let e0 := d (8 + 2 * j)
    (bitsOf e0 55 40, bitsOf e0 39 32, bitsOf e0 15 0, bitsOf (d (9 + 2 * j)) 55 0)
  let entryBad := (List.range nr).any fun j =>
    let e0 := d (8 + 2 * j)
    let e1 := d (9 + 2 * j)
    bitsOf e0 63 56 != 0 || bitsOf e0 31 16 != 0 || bitsOf e1 63 56 != 0 || e1 % 65536 != 0
  let own := ((ranks.zip (List.range nr)).filter fun x => x.1.2.2.1 == devid).map fun x => x.2
  if bitsOf (d 0) 57 56 != 0 || bitsOf (d 1) 63 56 != 0 || bitsOf (d 2) 63 32 != 0
      || (List.range 5).any (fun k => d (3 + k) != 0) || aplog < 26 || 42 < aplog || nr == 0 || 512 < nr
      || ap % 2 ^ aplog != 0 || rd % 2 ^ aplog != 0 || 2 ^ 56 < ap + size || (rd != 0 && 2 ^ 56 < rd + size)
      || (rd != 0 && apertureMeets ap rd size) || entryBad then none
  else
    match own with
    | [r] => some { aplog := aplog, apbase := ap, rdbase := rd, gtag := bitsOf (d 2) 31 16, ranks := ranks, rank := r }
    | _ => none

/-- What acceptance makes of a record: a grid's parts, or an error with its code and the address that faulted, or a read that
waits. -/
inductive Accepted where
  | good (r : LaunchRec) (k : KDesc) (g : Option Group)
  | bad (r : LaunchRec) (code : Code) (addr : Nat)
  | later
  deriving DecidableEq, Repr

/-- The process-group table of a record (R413). -/
def State.readGroup (s : State) (vmid asid pgt : Nat) : Except (Option (Code × Nat)) (Option Group) :=
  if pgt == 0 then .ok none
  else
    match s.schedRead vmid asid pgt 64 with
    | .later => .error none
    | .fault c va => .error (some (c, va))
    | .bytes head =>
      match s.schedRead vmid asid pgt (64 + 16 * min 512 (bitsOf (dwordAt head 2) 15 0)) with
      | .later => .error none
      | .fault c va => .error (some (c, va))
      | .bytes bs =>
        match groupTable s.fabric.devid.toNat bs with
        | some g => .ok (some g)
        | none => .error (some (.reservedField, 0))

/-- The checks of a record and of what it names (R369). -/
def State.checkRecord (s : State) (p : Partition) (q : Queue) (n : Nat) : Accepted :=
  match s.schedRead p.vmid q.asid (q.record n) 256 with
  | .later => .later
  | .fault c va => .bad LaunchRec.unread c va
  | .bytes bs =>
    let r := launchRec bs
    if r.malformed p.cmask q.lnch then .bad r .reservedField 0
    else
      match s.schedRead p.vmid q.asid r.kdesc 256 with
      | .later => .later
      | .fault c va => .bad r c va
      | .bytes ks =>
        let k := kernelDesc ks
        if k.malformed then .bad r .reservedField 0
        else
          match s.readGroup p.vmid q.asid r.pgt with
          | .ok g => .good r k g
          | .error none => .later
          | .error (some (c, va)) => .bad r c va

/-- The L2 lines of a record and of what it names, read at its acceptance (R319). -/
def State.touchRecord (s : State) (p : Partition) (q : Queue) (n : Nat) (r : LaunchRec) : State :=
  let s := (s.schedTouch p.vmid q.asid (q.record n) 256).schedTouch p.vmid q.asid r.kdesc 256
  match s.schedRead p.vmid q.asid r.pgt 64 with
  | .bytes head =>
    if r.pgt == 0 then s else s.schedTouch p.vmid q.asid r.pgt (64 + 16 * min 512 (bitsOf (dwordAt head 2) 15 0))
  | _ => s

/-! ### Acceptance (R366, R369, R379) -/

/-- The record of a grid that ends before it runs (R371): a code and an address. -/
def endRecord (code : Code) (addr : Nat) : FaultRec :=
  { FaultRec.zero with code := some code, addr := BitVec.ofNat 64 addr }

/-- A grid from an accepted record n of a queue (R366, R369, R378, R389): a child of an ended or killed parent, and a record
in error, end at once. -/
def State.gridOf (s : State) (pid queue : Nat) (p : Partition) (q : Queue) (n : Nat) (r : LaunchRec) (k : KDesc)
    (group : Option Group) (err : Option (Code × Nat)) : Grid :=
  let entry := Table.get? q.parents n
  let from_ : Option ParentRef := entry.join
  let parent := from_.map fun x => (x.grid, x.team)
  let pg := from_.bind fun x => s.grid? x.grid
  let cap := min r.prio q.cap
  let prio := (from_.map fun x => min cap x.prio).getD cap
  let depth := (from_.map fun x => x.depth + 1).getD 0
  let child := entry.isSome
  let g := Grid.accepted pid (some (queue, n)) parent depth prio r k group (q.sys && !child) q.asid p.vmid
  match pg, err with
  | some x, _ =>
    if x.status == 3 then g.ended 3 x.frec x.fteam x.fgang
    else
      match err with
      | some (c, a) => g.ended 2 (endRecord c a) 0 0
      | none => g
  | none, some (c, a) => g.ended 2 (endRecord c a) 0 0
  | none, none => g

/-- QTAIL as a read gives it is acted on (R366): within a ring of `QHEAD`. -/
def Queue.tailOk (q : Queue) (tail : Nat) : Bool := decide (q.head ≤ tail) && decide (tail ≤ q.head + q.ring)

/-- The scheduler reads `QTAIL` after a notice (R366, R429). -/
def State.readTail (s : State) (pid queue : Nat) (p : Partition) (q : Queue) : State :=
  match s.schedRead p.vmid q.asid q.base 8 with
  | .later => s
  | .fault _ va =>
    (s.schedFault pid .queueError q.asid va).modQueue pid queue fun q =>
      { q with
        notice := false
        unread := true }
  | .bytes bs =>
    let tail := leNat bs
    let s := (s.schedTouch p.vmid q.asid q.base 8).modQueue pid queue fun q =>
      { q with
        notice := false
        unread := false
        tail := if q.tailOk tail then tail else q.tail }
    if q.tailOk tail then s else s.post p.fn { kind := .queueError, pid := pid, addr := q.base }

/-- The watch mark set on the line of a queue's `QTAIL` (R366). -/
def State.watchQueue (s : State) (pid queue : Nat) (p : Partition) (q : Queue) : State :=
  if q.lnch then s
  else
    match s.watchLine p.vmid q.asid q.base with
    | none => s
    | some l =>
      if q.watched == some l then s
      else ((s.markWatch l).modQueue pid queue fun q => { q with watched := some l }).unwatch q.watched

/-- A queue opens (R365): `QHEAD` is read and taken, `QDONE` and the tail of a LAUNCH queue are written; its tail is read
next. A fault on the read leaves it to the next notice (R429). -/
def State.openQueue (s : State) (pid queue : Nat) (p : Partition) (q : Queue) : State :=
  match s.schedRead p.vmid q.asid (q.base + 8) 8 with
  | .later => s
  | .fault _ va =>
    (s.schedFault pid .queueError q.asid va).modQueue pid queue fun q =>
      { q with
        notice := false
        unread := true }
  | .bytes bs =>
    let head := leNat bs
    let puts : Except Stall State := do
      let s ← (s.schedTouch p.vmid q.asid (q.base + 8) 8).schedPut pid .queueError p.vmid q.asid (q.base + 16) bs
      if q.lnch then s.schedPut pid .queueError p.vmid q.asid q.base bs else .ok s
    match puts with
    | .error w => s.stalled w
    | .ok s =>
      s.modQueue pid queue fun q =>
        { q with
          head := head
          tail := head
          done := head
          ended := []
          opened := true
          notice := !q.lnch
          unread := false
          parents := [] }

/-- `QDONE` once a record has ended: past every record that has ended in order (R371). -/
def advanceDone : Nat → Nat → List Nat → Nat × List Nat
  | 0, d, ended => (d, ended)
  | fuel + 1, d, ended =>
    if ended.contains d then advanceDone fuel (d + 1) (ended.filter fun n => n != d) else (d, ended)

/-- Record n of a queue has ended: `QDONE` advances and is written (R371, R429). -/
def State.recordEnded (s : State) (pid queue n : Nat) : Except Stall State :=
  match s.part? pid with
  | none => .ok s
  | some p =>
    let q := p.queue queue
    let ended := if q.done ≤ n then insertNat n q.ended else q.ended
    let x := advanceDone ended.length q.done ended
    let s := s.modQueue pid queue fun q =>
      { q with
        done := x.1
        ended := x.2
        parents := q.parents.filter fun y => decide (x.1 ≤ y.1) }
    if x.1 == q.done || !q.enabled then .ok s
    else s.schedPut pid .queueError p.vmid q.asid (q.base + 16) (leBytes 8 x.1)

/-- The next record is accepted, and `QHEAD` written (R366). -/
def State.acceptNext (s : State) (pid queue : Nat) (p : Partition) (q : Queue) : State :=
  let n := q.head
  let put := s.schedPut pid .queueError p.vmid q.asid (q.base + 8) (leBytes 8 (n + 1))
  let take := fun (t : State) (r : LaunchRec) (k : KDesc) (group : Option Group) (err : Option (Code × Nat)) =>
    let t := t.modQueue pid queue fun q => { q with head := n + 1 }
    if Table.get? q.parents n == some none then
      match t.recordEnded pid queue n with
      | .ok u => u
      | .error w => s.stalled w
    else
      let g := t.gridOf pid queue p q n r k group err
      let (id, t) := t.fresh
      { t with grids := Table.put t.grids id g }
  match s.checkRecord p q n, put with
  | .later, _ => s
  | _, .error w => s.stalled w
  | .good r k group, .ok t => take (t.touchRecord p q n r) r k group none
  | .bad r c a, .ok t => take (t.touchRecord p q n r) r KDesc.one none (some (c, a))

/-- `QHEAD` := `QDONE` written for a queue that a reset has rewound (R392, point 4), after the status records of the grids
that it ended; a write that has to wait is made later. -/
def State.writeHead (s : State) (pid queue : Nat) (p : Partition) (q : Queue) : State :=
  let clear := fun (s : State) => s.modQueue pid queue fun q => { q with rewind := false }
  if s.grids.any fun (g : Nat × Grid) => g.2.pid == pid && g.2.status == 4 then s
  else if !q.enabled || !q.opened then clear s
  else
    match s.schedPut pid .queueError p.vmid q.asid (q.base + 8) (leBytes 8 q.done) with
    | .ok t => clear t
    | .error w => s.stalled w

/-- QUEUE_ACCEPT (R365, R366): the queue opens, its tail is read after a notice, or its next record is accepted. -/
def execQueueAccept (pid queue : Nat) (s : State) : Host.Outcome State Fault Refusal :=
  match s.part? pid with
  | none => .next s
  | some p =>
    let q := p.queue queue
    if !q.enabled then .next s
    else
      let s := s.watchQueue pid queue p q
      if q.rewind then .next (s.writeHead pid queue p q)
      else if !q.opened then .next (if q.notice then s.openQueue pid queue p q else s)
      else if q.head < q.tail then .next (s.acceptNext pid queue p q)
      else if q.notice && !q.lnch then .next (s.readTail pid queue p q)
      else .next s

/-- WATCH_NOTICE (R317): the scheduler takes the notice of a watched line; the queues whose header lies there read it
again, and so do those whose last read faulted (R429). -/
def execWatchNotice (pline : Nat) (s : State) : Host.Outcome State Fault Refusal :=
  if !s.mem.notices.contains pline then .next s
  else
    let wake := fun (q : Nat × Queue) =>
      (q.1, { q.2 with notice := q.2.notice || q.2.watched == some pline || q.2.unread })
    let parts := s.parts.map fun (p : Nat × Partition) => (p.1, { p.2 with queues := p.2.queues.map wake })
    .next { s.setMem { s.mem with notices := s.mem.notices.filter fun l => l != pline } with parts := parts }

/-! ### Eligibility (R370) -/

/-- A grid ends before it ran (R370, R371). -/
def State.endGrid (s : State) (grid status : Nat) (fr : FaultRec) : State :=
  s.modGrid grid fun g => g.ended status fr 0 0

/-- The scheduler's read of a grid's word: it goes on with the value, the grid ends with status 2, or it waits. -/
def State.gridWord (s : State) (grid : Nat) (g : Grid) (va n : Nat) (k : State → Nat → State) : State :=
  match s.schedRead g.vmid g.asid va n with
  | .later => s
  | .fault c bad => (s.noteWalk g.vmid g.asid bad).endGrid grid 2 (endRecord c bad)
  | .bytes bs => k (s.schedTouch g.vmid g.asid va n) (leNat bs)

/-- The predicate of a grid whose fence is met (R370). -/
def State.occlusion (s : State) (grid : Nat) (g : Grid) : State :=
  let run := fun (s : State) => s.modGrid grid fun g => { g with st := .eligible }
  if g.lr.occ == 0 then run s
  else
    s.gridWord grid g g.lr.oaddr 4 fun s w =>
      if (w == 2 ^ 31 + g.lr.otag) == (g.lr.occ == 1) then run s else s.endGrid grid 1 FaultRec.zero

/-- The watch mark set on a fence's line (R370). -/
def State.watchFence (s : State) (grid : Nat) (g : Grid) : State :=
  match s.watchLine g.vmid g.asid g.lr.faddr with
  | none => s
  | some l =>
    if g.watched == some l then s
    else ((s.markWatch l).modGrid grid fun g => { g with watched := some l }).unwatch g.watched

/-- GRID_ELIGIBLE (R370): the fence is read, and once it is met the predicate. -/
def execGridEligible (grid : Nat) (s : State) : Host.Outcome State Fault Refusal :=
  match s.grid? grid with
  | none => .next s
  | some g =>
    if g.st != .accepted then .next s
    else if g.lr.faddr == 0 then .next (s.occlusion grid g)
    else
      let s := s.watchFence grid g
      let t := s.gridWord grid g g.lr.faddr 8 fun s w => if g.lr.fval ≤ w then s.occlusion grid g else s
      match t.grid? grid with
      | some h =>
        if h.st == .accepted then .next t
        else .next ((t.modGrid grid fun g => { g with watched := none }).unwatch h.watched)
      | none => .next t

/-! ### Retirement (R33, R371, R379) -/

/-- Whether a team has a child grid that has not retired, or a pushed record that has not been accepted (R33, R379). -/
def State.hasChild (s : State) (grid team : Nat) : Bool :=
  s.grids.any (fun (g : Nat × Grid) => g.2.parent == some (grid, team))
  || s.parts.any fun (p : Nat × Partition) => p.2.queues.any fun (q : Nat × Queue) =>
    q.2.parents.any fun x => decide (q.2.head ≤ x.1) && x.2.any fun y => y.grid == grid && y.team == team

/-- Whether a Leat copy of a grid has not ended (R371). -/
def State.gridCopies (s : State) (grid : Nat) : Bool :=
  s.clusters.any fun (k : Nat × Cluster) =>
    (k.2.leat0.copies ++ k.2.leat1.copies).any fun c => c.grid == grid && c.live

/-- Whether a grid may retire: it has ended or admitted every team, all of them have retired with their children, and its
copies have ended. A fill and a PRIM end with the counters of their gang. -/
def State.gridOver (s : State) (grid : Nat) (g : Grid) : Bool :=
  (g.st == .ending || (g.st == .eligible && decide (g.lr.total ≤ g.nextTeam)))
  && g.unretired.all (fun u => u.2 && !s.hasChild grid u.1) && !s.gridCopies grid

/-- The status record's four dwords (R371). -/
def Grid.statusWords (g : Grid) : List Nat :=
  let gang := g.status == 3
  let code := if g.status == 2 || g.status == 3 || g.status == 4 then g.frec.number else 0
  [g.lr.gridid.toNat * 2 ^ 32 + (if gang then bitsOf g.fteam 47 32 * 2 ^ 16 else 0) + code * 256 + g.status,
   if gang then g.fgang * 2 ^ 60 + g.frec.pc.toNat else 0,
   if gang || g.status == 2 then g.frec.addr.toNat else 0,
   if gang then bitsOf g.fteam 31 0 * 2 ^ 32 + g.frec.aux.toNat else 0]

/-- The completion writes of a grid, in order (R371, R429). -/
def State.completion (s : State) (g : Grid) : Except Stall State := do
  let s ← if g.lr.eraddr == 0 then .ok s
    else s.schedPut g.pid .gridError g.vmid g.asid g.lr.eraddr (g.statusWords.flatMap fun w => leBytes 8 w)
  if g.lr.saddr == 0 || g.status == 4 then .ok s
  else s.schedPut g.pid .gridError g.vmid g.asid g.lr.saddr (leBytes 8 g.lr.sval)

/-- The error record of a grid is announced (R365, R371, R399). -/
def State.announce (s : State) (g : Grid) : State :=
  match s.part? g.pid with
  | none => s
  | some p =>
    if g.status < 2 then s
    else
      let s := s.post p.fn { kind := .gridError, pid := g.pid, addr := g.frec.addr.toNat }
      match g.queue with
      | some (n, _) => if (p.queue n).irqe then s.raiseIrq p.fn (p.queue n).vec else s
      | none => s

/-- Takes retired in order: the records freed, and the takes left (R376). -/
def retireTakes : Nat → List (Nat × Nat × Bool) → Nat × List (Nat × Nat × Bool)
  | head, [] => (head, [])
  | head, (g, past, done) :: t => if done then retireTakes past t else (head, (g, past, done) :: t)

/-- A Wallower grid ends: its records are freed in take order, and `QHEAD` is written (R376). -/
def State.takeEnded (s : State) (pid node grid : Nat) : Except Stall State :=
  match s.part? pid with
  | none => .ok s
  | some p =>
    match Table.get? p.nodes node with
    | none => .ok s
    | some x =>
      let takes := x.takes.map fun (t : Nat × Nat × Bool) => (t.1, t.2.1, t.2.2 || t.1 == grid)
      let r := retireTakes x.head takes
      let s := s.modPart pid fun p => { p with nodes := Table.put p.nodes node { x with head := r.1, takes := r.2 } }
      if r.1 == x.head then .ok s
      else s.schedPut pid .queueError p.vmid x.nasid (x.nbase + 8) (leBytes 8 r.1) true

/-- A grid that may retires (R371): the status record, the completion word and `QDONE`, in order, and it is gone. The record
of a grid a reset has cut (status 4) does not count as ended: its queue accepts it again (R392). -/
def State.retireGrid (s : State) (grid : Nat) : State :=
  match s.grid? grid with
  | none => s
  | some g =>
    if !s.gridOver grid g then s
    else
      let run : Except Stall State := do
        let t ← s.completion g
        let t ← match g.queue with
          | some (q, n) => if g.status == 4 then .ok t else t.recordEnded g.pid q n
          | none => .ok t
        match g.node with
        | some (n, _) => t.takeEnded g.pid n grid
        | none => .ok t
      match run with
      | .error w => s.stalled w
      | .ok t => (({ t with grids := Table.del t.grids grid } : State).unwatch g.watched).announce g

/-- GRID_RETIRE (R371). -/
def execGridRetire (grid : Nat) (s : State) : Host.Outcome State Fault Refusal := .next (s.retireGrid grid)

end Sys2Proof.Machine
end

