-- ==== Sys2Proof/Machine/Queue.lean ====
section
/-! DEFINITION. Work-graph node queues, the Wallower, and QPUSH, QPOP, AMPLIFY and LAUNCH (R374 to R378). -/

namespace Sys2Proof.Machine

/-! ### Node queue descriptors (R374) -/

/-- A node from its 128-byte descriptor, and whether a reserved bit is set. -/
def nodeDesc (bs : List Byte) : Node × Bool :=
  let d := dwordAt bs
  ({ nbase := bitsOf (d 0) 55 0, nasid := bitsOf (d 1) 63 48, nqlog := bitsOf (d 1) 47 43, rsz := bitsOf (d 1) 42 38,
     wl := bitOf (d 1) 37, nen := bitOf (d 1) 36, nprio := bitsOf (d 1) 35 33, wmax := bitsOf (d 1) 31 24,
     wcd := bitsOf (d 1) 23 0, nkd := bitsOf (d 2) 55 0,
     nargs := (List.range 8).map fun w => BitVec.ofNat 32 (leNat (slice bs (32 + 4 * w) 4)),
     usable := false, kd := none, reserve := 0, head := 0, qovf := 0, take := 0, takes := [] },
   bitsOf (d 0) 63 56 != 0 || bitOf (d 1) 32 || bitsOf (d 2) 63 56 != 0 || d 3 != 0
     || (List.range 8).any fun k => d (8 + k) != 0)

/-- A node malformed by its own fields. -/
def Node.malformed (x : Node) (reserved : Bool) : Bool :=
  reserved || decide (x.nqlog < 4) || decide (20 < x.nqlog) || x.rsz == 0 || decide (16 < x.rsz) || x.wmax == 0
  || decide (64 < x.wmax) || x.wcd == 0 || x.nbase % 64 != 0 || (x.wl && x.nkd % 256 != 0)

/-- Bytes of a record, records of the ring, and the address of record n. -/
def Node.recordBytes (x : Node) : Nat := 16 * x.rsz
def Node.ring (x : Node) : Nat := 2 ^ x.nqlog
def Node.record (x : Node) (n : Nat) : Nat := x.nbase + 64 + x.recordBytes * (n % x.ring)

/-- What a read of the node table comes to: the state after it; none while a line that it needs is busy. -/
abbrev NodeRead := Option State

/-- The consumer's descriptor of a node that the Wallower drains, or none where its checks fail; the read may have to wait. -/
def State.nodeKernel (s : State) (vmid : Nat) (x : Node) : Option (Option KDesc) :=
  match s.schedRead vmid x.nasid x.nkd 256 with
  | .bytes bs => some (if (kernelDesc bs).malformed then none else some (kernelDesc bs))
  | .fault .. => some none
  | .later => none

/-- A word of a node's header as it stands, or a free value where the read faults, with its event (R429; log entry 51); the
read may have to wait. -/
def State.nodeWord (s : State) (pid vmid : Nat) (x : Node) (off : Nat) : Option (State × Nat) :=
  match s.schedRead vmid x.nasid (x.nbase + off) 8 .windowRead with
  | .bytes bs => some (s.schedTouch vmid x.nasid (x.nbase + off) 8, leNat bs)
  | .fault _ va =>
    let (n, s) := (s.schedFault pid .queueError x.nasid va).takeFree
    some (s, (Config.freeDWord n).toNat)
  | .later => none

/-- A node read anew keeps the counts and takes of its queue while that is the same one (R375, R376). -/
def Node.keeping (x : Node) (old : Option Node) : Node :=
  match old with
  | some y =>
    if y.nbase == x.nbase && y.nasid == x.nasid then
      { x with
        reserve := y.reserve
        head := y.head
        qovf := y.qovf
        take := y.take
        takes := y.takes }
    else x
  | none => x

/-- Whether the counts of a node's queue stand already: it has been enabled, or teams of it are outstanding. -/
def Node.sameQueue (x : Node) (old : Option Node) : Bool :=
  match old with
  | some y => (y.usable || !y.takes.isEmpty) && y.nbase == x.nbase && y.nasid == x.nasid
  | none => false

/-- One descriptor of the node table read (R374): a malformed one is disabled and announced with its address. -/
def State.readNode (s : State) (pid : Nat) (p : Partition) (n : Nat) : NodeRead :=
  let va := p.nodeTable + 128 * n
  let old := Table.get? p.nodes n
  let bad := fun (s : State) => s.post p.fn { kind := .malformedNode, pid := pid, addr := va }
  match s.schedRead p.vmid (Config.nodeTableAsid pid % 2 ^ 16) va 128 with
  | .later => none
  | .fault .. => some (bad (s.modPart pid fun p => { p with nodes := Table.del p.nodes n }))
  | .bytes bs =>
    let y := nodeDesc bs
    let x := y.1.keeping old
    let s := s.schedTouch p.vmid (Config.nodeTableAsid pid % 2 ^ 16) va 128
    let put := fun (s : State) (x : Node) => s.modPart pid fun p => { p with nodes := Table.put p.nodes n x }
    if !x.nen then some (put s x)
    else if x.malformed y.2 then some (bad (put s x))
    else do
      let kd ← if x.wl then s.nodeKernel p.vmid x else some none
      let s := if x.wl then s.schedTouch p.vmid x.nasid x.nkd 256 else s
      if x.wl && kd.isNone then some (bad (put s x))
      else if x.sameQueue old then
        some (put s
          { x with
            usable := true
            kd := kd })
      else
        let head ← s.nodeWord pid p.vmid x 8
        let tail ← head.1.nodeWord pid p.vmid x 0
        some (put tail.1
          { x with
            usable := true
            kd := kd
            reserve := tail.2
            head := head.2
            take := head.2 })

/-- The node table read when firmware sets its address (R374). -/
def State.readNodes (s : State) (pid : Nat) : NodeRead :=
  match s.part? pid with
  | none => some s
  | some p => (List.range 64).foldlM (fun s n => s.readNode pid p n) s

/-- A node of a partition that takes instructions. -/
def Partition.node? (p : Partition) (n : Nat) : Option Node :=
  match Table.get? p.nodes n with
  | some x => if x.usable then some x else none
  | none => none

def State.modNode (s : State) (pid n : Nat) (f : Node → Node) : State :=
  s.modPart pid fun p => { p with nodes := Table.modify p.nodes n f }

/-! ### One lane's push or pop (R365, R375, R378, R429) -/

/-- What a lane's operation comes to: the state after it and its predicate bit, or a wait. -/
abbrev LaneOut := Except Stall (State × Bool)

/-- Refused records added to `QOVF`; a fault keeps them for the next time (R378, R429). -/
def State.addOverflow (s : State) (pid n : Nat) (p : Partition) (x : Node) (count : Nat) : Except Stall State :=
  let total := x.qovf + count
  let keep := fun (s : State) (m : Nat) => s.modNode pid n fun x => { x with qovf := m }
  match s.schedRead p.vmid x.nasid (x.nbase + 16) 8 .windowRead with
  | .later => .error none
  | .fault _ va => .ok (keep (s.schedFault pid .queueError x.nasid va) total)
  | .bytes bs =>
    match s.schedWrite p.vmid x.nasid (x.nbase + 16) (leBytes 8 (leNat bs + total)) with
    | .later w => .error w
    | .fault _ va => .ok (keep (s.schedFault pid .queueError x.nasid va) total)
    | .done t => .ok (keep t 0)

/-- Records written one after another: whole, or the address that faulted, or a wait. -/
def State.writeRecords (s : State) (vmid : Nat) (x : Node) (at_ : Nat) : List (List Byte) → EngineWrite
  | [] => .done s
  | r :: rest =>
    match s.schedWrite vmid x.nasid (x.record at_) r with
    | .done t => t.writeRecords vmid x (at_ + 1) rest
    | o => o

/-- A push of records to a node (R375): it takes its slots, writes them and advances `QTAIL`, or is refused. -/
def State.nodePush (s : State) (pid n : Nat) (p : Partition) (x : Node) (records : List (List Byte)) : LaneOut :=
  let count := records.length
  let refuse := fun (s : State) => do
    let t ← s.addOverflow pid n p x count
    .ok (t, false)
  if count == 0 then .ok (s, true)
  else
    match s.schedRead p.vmid x.nasid (x.nbase + 8) 8 .windowRead with
    | .later => .error none
    | .fault _ va => refuse (s.schedFault pid .queueError x.nasid va)
    | .bytes bs =>
      let s := s.schedTouch p.vmid x.nasid (x.nbase + 8) 8
      if x.ring < (2 ^ 64 + x.reserve + count - leNat bs) % 2 ^ 64 then refuse s
      else
        match s.writeRecords p.vmid x x.reserve records with
        | .later w => .error w
        | .fault _ va => refuse (s.schedFault pid .queueError x.nasid va)
        | .done t =>
          let t := t.modNode pid n fun x => { x with reserve := x.reserve + count }
          do
            let u ← t.schedPut pid .queueError p.vmid x.nasid x.nbase (leBytes 8 (x.reserve + count))
            .ok (u, true)

/-- A record popped into the scratchpad (R378): an engine write, granule by granule. -/
def State.nodePop (s : State) (r : Runner) (n : Nat) (p : Partition) (x : Node) (addr : Nat) : LaneOut :=
  let pid := r.grid.pid
  if x.wl then .ok (s, false)
  else
    match s.schedRead p.vmid x.nasid x.nbase 8 .windowRead with
    | .later => .error none
    | .fault _ va => .ok (s.schedFault pid .queueError x.nasid va, false)
    | .bytes tb =>
      let s := s.schedTouch p.vmid x.nasid x.nbase 8
      if leNat tb ≤ x.take then .ok (s, false)
      else
        match s.schedRead p.vmid x.nasid (x.record x.take) x.recordBytes .windowRead with
        | .later => .error none
        | .fault _ va => .ok (s.schedFault pid .queueError x.nasid va, false)
        | .bytes bs => do
          let s := (s.schedTouch p.vmid x.nasid (x.record x.take) x.recordBytes).modTeam r.core r.gang.team fun t =>
            (List.range x.rsz).foldl (fun t j => t.engineWrite (addr / 16 + j) (slice bs (16 * j) 16)) t
          let s := s.modNode pid n fun x =>
            { x with
              take := x.take + 1
              head := x.take + 1 }
          let t ← s.schedPut pid .queueError p.vmid x.nasid (x.nbase + 8) (leBytes 8 (x.take + 1)) true
          .ok (t, true)

/-- A launch record with `CHILD` set (R378). -/
def childRecord (bs : List Byte) : List Byte :=
  patch bs 16 [BitVec.ofNat 8 ((nth bs 16 0).toNat ||| 0x40)]

/-- A LAUNCH push (R365, R378). -/
def State.launchPush (s : State) (r : Runner) (n : Nat) (p : Partition) (bs : List Byte) : LaneOut :=
  let pid := r.grid.pid
  let q := p.queue n
  let closed := !q.enabled || !q.lnch || (q.sys && !r.grid.sys) || !q.opened || r.gang.number != 0 || decide (10 ≤ r.grid.depth)
  if closed || decide (q.ring ≤ q.tail - q.head) then .ok (s, false)
  else
    match s.schedWrite p.vmid q.asid (q.record q.tail) (childRecord bs) with
    | .later w => .error w
    | .fault _ va => .ok (s.schedFault pid .queueError q.asid va, false)
    | .done t => do
      let t := t.modQueue pid n fun q =>
        { q with
          tail := q.tail + 1
          parents := Table.put q.parents q.tail (some
            { grid := r.team.grid, team := r.team.uid, depth := r.grid.depth, prio := r.grid.prio }) }
      let u ← t.schedPut pid .queueError p.vmid q.asid q.base (leBytes 8 (q.tail + 1))
      .ok (u, true)

/-- The copies of an AMPLIFY: record j ends with j (R378). -/
def amplified (image : List Byte) (count : Nat) : List (List Byte) :=
  (List.range count).map fun j => patch image (image.length - 4) (leBytes 4 j)

/-- One lane of a queue instruction (R378). -/
def State.queueLane (s : State) (r : Runner) (p : Pending) (q : QueueOp) (lane : Nat) : LaneOut :=
  let ws := Table.getD p.data lane []
  let image := ws.flatMap fun (w : Word) => leBytes 4 w.toNat
  match s.part? r.grid.pid with
  | none => .ok (s, false)
  | some part =>
    match q with
    | .launch n => s.launchPush r n part image
    | .push n =>
      match part.node? n with
      | some x => s.nodePush r.grid.pid n part x [image]
      | none => .ok (s, false)
    | .amplify n =>
      match part.node? n with
      | some x => s.nodePush r.grid.pid n part x (amplified (image.drop 4) (nth ws 0 0).toNat)
      | none => .ok (s, false)
    | .pop n =>
      match part.node? n with
      | some x => s.nodePop r n part x (Table.getD p.addrs lane 0)
      | none => .ok (s, false)

/-! ### The instructions (R377, R378) -/

/-- The predicate that an instruction writes, and the node or queue it names. -/
def queuePred (f : EForm) : Nat :=
  match f.d with
  | .imm n => n.val
  | _ => 0

/-- Bytes of a node's record, for the checks of an image; none for a node whose descriptor was never read. -/
def State.imageSize (s : State) (pid n : Nat) : Nat :=
  match (s.part? pid).bind fun p => Table.get? p.nodes n with
  | some x => x.recordBytes
  | none => 0

/-- Issue of a queue instruction (R377): `limit` bounds its node or queue, `size` is its image's length. -/
def queueIssue (f : EForm) (limit : Nat) (op : Nat → QueueOp) (size : State → Issuer → Nat → Nat) (pop amp : Bool)
    (s : State) : Host.Outcome State Fault Refusal :=
  runInstr s fun c => do
    let act := c.active f.g
    let lanes := act.toList
    let p := queuePred f
    c.checkTouch act
      { v := opdV .n32 f.a ++ opdV .n32 f.c, s := opdS .n32 f.a ++ opdS .n32 f.b ++ opdS .n32 f.c, p := p :: guardP f.g }
    let n := c.num f.b
    let many := lanes.filter fun i => amp && decide (65536 < c.read .n32 f.c i)
    let bad := if limit < n then act else many.foldl (fun (m : Lanes) i => m ||| Lanes.one i) 0
    if bad != 0 then .error (.fault (c.record .reservedField bad 0 0))
    if !pop && c.gang.scratchBusy then .error .hold
    let len := size s c n
    let at_ := lanes.map fun i => (i, c.read .n32 f.a i)
    c.checkRanges (at_.map fun x => (x.1, x.2, len, !pop))
    c.checkCounter .enc
    let image := fun (x : Nat × Nat) =>
      (if amp then [BitVec.ofNat 32 (c.read .n32 f.c x.1)] else []) ++ (if pop then [] else c.seen.words x.2 (len / 4))
    .ok ((s.issue c .enc [] [] [] (some p) act fun e =>
      { e with
        addrs := at_
        data := at_.map fun x => (x.1, image x)
        op := .queue (op n) p }).advance c)

/-- QPUSH (R378). -/
def execQpush (f : EForm) (s : State) : Host.Outcome State Fault Refusal :=
  queueIssue f 63 .push (fun s c n => s.imageSize c.grid.pid n) false false s

/-- QPOP (R378). -/
def execQpop (f : EForm) (s : State) : Host.Outcome State Fault Refusal :=
  queueIssue f 63 .pop (fun s c n => s.imageSize c.grid.pid n) true false s

/-- AMPLIFY (R378). -/
def execAmplify (f : EForm) (s : State) : Host.Outcome State Fault Refusal :=
  queueIssue f 63 .amplify (fun s c n => s.imageSize c.grid.pid n) false true s

/-- LAUNCH (R378). -/
def execLaunch (f : EForm) (s : State) : Host.Outcome State Fault Refusal :=
  queueIssue f 15 .launch (fun _ _ _ => 256) false false s

/-- Lanes of a queue instruction answered one after another, until one waits. -/
def State.queueLanes (s : State) (r : Runner) (p : Pending) (q : QueueOp) : List Nat → State
  | [] => s
  | lane :: rest =>
    match s.queueLane r p q lane with
    | .error w => s.stalled w
    | .ok (t, ok) =>
      let t := t.modGang r.core r.slot fun g => g.modPending p.id fun e =>
        { e with
          got := Table.put e.got lane (if ok then 1 else 0)
          done := insertNat lane e.done }
      t.queueLanes r p q rest

/-- A queue instruction is answered: its next lane or all that are left; with the last one its predicate arrives. -/
def State.queueArrive (s : State) (r : Runner) (p : Pending) (q : QueueOp) (pred : Nat) (one : Bool) : State :=
  if s.blocked r p [] then s
  else
    let left := (p.addrs.filter fun (x : Nat × Nat) => !p.done.contains x.1).map fun x => x.1
    let s := s.queueLanes r p q (if one then left.take 1 else left)
    match (s.gang? r.core r.slot).bind fun g => g.pending? p.id with
    | none => s
    | some e =>
      if e.addrs.any fun x => !e.done.contains x.1 then s
      else
        let vals := e.got.foldl (fun (m : Lanes) x => if x.2 == 1 then m ||| Lanes.one x.1 else m) 0
        s.deliver r.core r.slot p.id { Out.none with pred := some (pred, vals) }

/-! ### The Wallower (R376) -/

/-- The grid that a firing launches: one team at depth 0, under the node's identity. -/
def wallowerGrid (pid node first k : Nat) (p : Partition) (x : Node) (kd : KDesc) (gridid : Word) : Grid :=
  let va := p.nodeTable + 128 * node
  let args := [BitVec.ofNat 32 va, BitVec.ofNat 32 (va / 2 ^ 32), BitVec.ofNat 32 first, BitVec.ofNat 32 k] ++ x.nargs
  let r := { LaunchRec.one with kdesc := x.nkd, gridid := gridid, prio := x.nprio, args := args }
  { Grid.accepted pid none none 0 x.nprio r kd none false x.nasid p.vmid with
    st := .eligible
    node := some (node, first) }

/-- WALLOWER_FIRE (R376): enough records are pending, or the countdown has lapsed with one pending, and fewer than `WMAX`
teams are outstanding. A fault on the read of `QTAIL` posts its event (R429). -/
def execWallowerFire (pid node : Nat) (s : State) : Host.Outcome State Fault Refusal :=
  match s.part? pid with
  | none => .next s
  | some p =>
    match p.node? node with
    | none => .next s
    | some x =>
      match x.kd, s.schedRead p.vmid x.nasid x.nbase 8 .windowRead with
      | some kd, .bytes bs =>
        let s := s.schedTouch p.vmid x.nasid x.nbase 8
        let pendingN := leNat bs - x.take
        let outstanding := (x.takes.filter fun t => !t.2.2).length
        if !x.wl || pendingN == 0 || x.wmax ≤ outstanding then .next s
        else
          let k := min pendingN (kd.ngang * kd.width)
          let (n, s) := s.takeFree
          let (id, s) := s.fresh
          let g := wallowerGrid pid node x.take k p x kd (Config.freeWord n)
          let s := { s with grids := Table.put s.grids id g }
          .next (s.modNode pid node fun x =>
            { x with
              take := x.take + k
              takes := x.takes ++ [(id, x.take + k, false)] })
      | some _, .fault _ va => .next (if x.wl then s.schedFault pid .queueError x.nasid va else s)
      | _, _ => .next s

end Sys2Proof.Machine
end

