-- ==== Sys2Proof/Machine/FrameBytes.lean ====
section
/-! DEFINITION. The bytes of a context frame in memory (R184, R383): how a team is laid out, the reserved bits that a restore checks,
and what the restored team takes from the bytes it reads. The places of the fields that R383 names without an offset are the model's
(log entry 38). -/

namespace Sys2Proof.Machine

/-! ### The header -/

/-- The offset of each gang block in a frame, and last that of the team block. -/
def blockOffsets (gangs : List Gang) : List Nat :=
  gangs.foldl (fun (acc : List Nat) g => acc ++ [acc.getLastD 0 + up64 g.blockBytes]) [256]

/-- The header of 256 bytes (R383). -/
def frameHeader (t : Team) (gangs : List Gang) (gr : Grid) : List Byte :=
  let offs := blockOffsets gangs
  let q := gr.queue.getD (0, 0)
  padTo 256 (leBytes 2 1 ++ leBytes 1 ((gangs.length - 1) + 16 * gr.kd.wid) ++ leBytes 1 gr.depth
    ++ leBytes 4 gr.lr.gridid.toNat ++ leBytes 2 t.tx ++ leBytes 2 t.ty ++ leBytes 2 t.tz ++ leBytes 2 0 ++ leBytes 8 gr.lr.kdesc
    ++ leBytes 4 q.1 ++ leBytes 4 0 ++ leBytes 8 q.2 ++ leBytes 2 gr.kd.scr ++ leBytes 2 gr.kd.acc ++ leBytes 2 gr.kd.cbk
    ++ leBytes 2 0 ++ ((List.range 16).flatMap fun i => leBytes 4 (nth (offs.take gangs.length) i 0))
    ++ leBytes 4 (offs.getLastD 0))

/-- The number that n bytes of a block hold at an offset. -/
def fieldAt (bs : List Byte) (off n : Nat) : Nat := leNat (slice bs off n)

/-- No reserved bit of a header is set. -/
def headerOk (bs : List Byte) : Bool :=
  bitsOf (fieldAt bs 2 1) 7 6 == 0 && fieldAt bs 14 2 == 0 && bitsOf (fieldAt bs 16 8) 63 56 == 0 && fieldAt bs 28 4 == 0
  && fieldAt bs 46 2 == 0 && (slice bs 116 140).all fun b => b == 0

/-! ### The team block -/

/-- The number of a granule's state in a frame. -/
def Granule.num : Granule → Nat
  | .empty => 0
  | .full => 1
  | .poison => 2

/-- A bank's 1,024 entry bytes, then 32 bytes of valid bits. -/
def Bank.bytes (b : Bank) : List Byte :=
  ((List.range 256).flatMap fun n => leBytes 4 (Table.getD b.entries n 0).toNat)
  ++ (List.range 32).map fun k => BitVec.ofNat 8 (((List.range 8).map fun j => if b.valid.contains (8 * k + j) then 2 ^ j else 0).sum)

/-- The team block: scratchpad, granule map, accumulator rows, banks (R383). -/
def teamBlock (t : Team) : List Byte :=
  let state := fun n => ((Table.get? t.granules n).map Granule.num).getD 1
  ((List.range t.scratchBytes).map fun a => Table.getD t.scratch a 0)
  ++ ((List.range (ceilDiv t.scratchBytes 64)).map fun k =>
      BitVec.ofNat 8 (((List.range 4).map fun j => if 16 * (4 * k + j) < t.scratchBytes then state (4 * k + j) * 4 ^ j else 0).sum))
  ++ ((List.range t.accRows).flatMap fun r => (List.range 32).flatMap fun i => leBytes 4 (nth (Table.getD t.acc r []) i 0).toNat)
  ++ t.banks.flatMap Bank.bytes

/-- The bytes of a frame. -/
def frameImage (k : Core) (t : Team) (gangs : List Gang) (gr : Grid) : List Byte :=
  let block := fun (g : Gang) => padTo (up64 g.blockBytes) (gangBlock k g t gr)
  padTo (frameBytes t gangs) (frameHeader t gangs gr ++ gangs.flatMap block ++ teamBlock t)

/-! ### Reserved bits of a gang block -/

/-- No reserved bit of a gang block's first 1,024 bytes is set: of `GSTAT`, `GMODE`, `ACCBASE`, `ACCLIM`, the fault record, the
counters, the predicate bytes, the marks, the debug state and the padding. -/
def blockHeadOk (bs : List Byte) : Bool :=
  let w := fun k => fieldAt bs (4 * k) 4
  bitsOf (w 0) 31 24 == 0 && bitsOf (w 0) 7 3 == 0 && bitsOf (w 1) 31 9 == 0 && !bitOf (w 1) 3
  && bitsOf (w 2) 31 9 == 0 && bitsOf (w 3) 31 10 == 0 && bitsOf (w 4) 31 8 == 0 && bitsOf (w 6) 31 24 == 0
  && (slice bs 56 6).all (fun b => decide (b.toNat < 64)) && fieldAt bs 62 2 == 0
  && (slice bs 80 256).all (fun b => !b.getLsbD 7)
  && bitsOf (fieldAt bs 720 8) 63 15 == 0 && !bitOf (fieldAt bs 720 8) 7
  && bitsOf (fieldAt bs 728 8) 63 9 == 0 && (slice bs 736 288).all fun b => b == 0

/-- No reserved bit of a sub-gang's entry is set. -/
def subEntryOk (bs : List Byte) : Bool :=
  bitsOf (fieldAt bs 10 2) 15 10 == 0 && decide (fieldAt bs 13 1 < 8) && decide (fieldAt bs 15 1 < 2)
  && bitsOf (fieldAt bs 32 8) 63 56 == 0 && bitsOf (fieldAt bs 40 2) 15 10 == 0 && (slice bs 50 14).all fun b => b == 0

/-- No reserved bit of an access-list entry's state is set. -/
def accessEntryOk (bs : List Byte) : Bool :=
  let st := fieldAt bs 32 8
  bitsOf st 7 2 == 0 && bitsOf st 63 16 == 0

/-- No reserved bit of a RAYQ's entry is set. -/
def rayEntryOk (bs : List Byte) : Bool := bitsOf (fieldAt bs 8 8) 63 2 == 0 && (slice bs 24 24).all fun b => b == 0

/-- The entries of a gang that its block lists as accesses, in issue order. -/
def Gang.listed (g : Gang) : List Pending :=
  g.pending.filter fun p => match p.op with
    | .mem .. => true
    | _ => false

/-- The RAYQs of a gang that its block lists, in issue order. -/
def Gang.rays (g : Gang) : List Pending :=
  g.pending.filter fun p => match p.op with
    | .rayq .. => true
    | _ => false

/-- The slots that the bits of a map of 1,024 name, in increasing order. -/
def mapSlots (bs : List Byte) : List Nat := (List.range 1024).filter fun n => (nth bs (n / 8) 0).getLsbD (n % 8)

/-- The written slots of a gang block (R383). -/
def blockSlots (bs : List Byte) : List Nat := mapSlots (slice bs 336 128)

/-- Where a gang block's slot values, its access entries and its RAYQ entries begin. -/
def Gang.slotsAt (g : Gang) : Nat := 1024 + 320 * g.subs.length
def Gang.entriesAt (g : Gang) (bs : List Byte) : Nat := g.slotsAt + 4 * g.width * (blockSlots bs).length
def Gang.raysAt (g : Gang) (bs : List Byte) : Nat := g.entriesAt bs + (48 + 24 * g.width) * g.listed.length

/-- The entry of an access, and of a RAYQ, in a gang's block. -/
def Gang.accessBytes (g : Gang) (bs : List Byte) (j : Nat) : List Byte :=
  slice bs (g.entriesAt bs + (48 + 24 * g.width) * j) (48 + 24 * g.width)
def Gang.rayBytes (g : Gang) (bs : List Byte) (j : Nat) : List Byte :=
  slice bs (g.raysAt bs + (48 + 32 * g.width) * j) (48 + 32 * g.width)

/-- No reserved bit of a gang's block is set. -/
def Gang.blockOk (g : Gang) (bs : List Byte) : Bool :=
  blockHeadOk bs && (List.range g.subs.length).all (fun j => subEntryOk (slice bs (1024 + 320 * j) 320))
  && (List.range g.listed.length).all (fun j => accessEntryOk (g.accessBytes bs j))
  && (List.range g.rays.length).all fun j => rayEntryOk (g.rayBytes bs j)

/-- The offsets that a frame's header gives: of its gang blocks, and last of the team block. -/
def frameOffsets (gangs : Nat) (bs : List Byte) : List Nat :=
  (List.range gangs).map (fun k => fieldAt bs (48 + 4 * k) 4) ++ [fieldAt bs 112 4]

/-- No reserved bit of a frame is set (R8, R383). -/
def Frame.bytesOk (f : Frame) (bs : List Byte) : Bool :=
  headerOk bs && (f.gangs.zip (frameOffsets f.gangs.length bs)).all fun x => x.1.blockOk (slice bs x.2 x.1.blockBytes)

/-! ### What a restored team takes from the bytes -/

/-- Seven predicates from their 128 bytes. -/
def predsOf (bs : List Byte) : List Lanes :=
  (List.range 7).map fun n => Lanes.ofPred 128 fun i => (nth bs i 0).getLsbD n

/-- A sub-gang parked for a cause of R383, item 5. What the cause leaves open stays as State has it where the causes agree
(log entry 38). -/
def SubGang.withCause (b : SubGang) (g : Gang) (cause : Nat) : SubGang :=
  let waits := fun (test : POp → Bool) => { b with
    park := .run
    waits := (g.pending.filter fun p => p.sub == b.id && test p.op).map fun p => p.id }
  let stop := fun (park : Park) => { b with
    park := park
    waits := [] }
  if g.parkCause b == cause then b
  else
    match cause with
    | 1 => waits fun op => match op with
      | .barrier .. => true
      | _ => false
    | 2 => waits fun op => op == .txwait
    | 3 => waits fun op => match op with
      | .raywait _ => true
      | _ => false
    | 4 => waits fun op => match op with
      | .mem .. => true
      | _ => false
    | 5 => stop .parkBit
    | 6 => stop (.register 0 [])
    | 7 => stop (.fault none g.frec)
    | _ => stop .run

/-- The clause that a sub-gang stands inside, from the header of its entry: where State has none, the word before the PC is
taken for its header (log entry 38). -/
def SubGang.clauseFrom (b : SubGang) (header pc : Nat) : Option (DWord × BitVec 56) :=
  if header == 0 then none
  else some (BitVec.ofNat 64 header, (b.inClause.map fun x => x.2).getD (BitVec.ofNat 56 (pc + 2 ^ 56 - 8)))

/-- Handler context from an entry: where State has none, it begins with what is created next. -/
def SubGang.handlerFrom (b : SubGang) (next : Nat) (bs : List Byte) : Option Handler :=
  let hret := BitVec.ofNat 64 (fieldAt bs 32 8)
  let wb := BitVec.ofNat 10 (fieldAt bs 40 2)
  if fieldAt bs 15 1 == 0 then none
  else
    match b.handler with
    | some h =>
      some { h with
        hret := hret
        wb := wb }
    | none => some { since := next, hret := hret, skip := hret, wb := wb, entry := none, inClause := none }

/-- A sub-gang with the fields of its entry, its fibres among the live ones. -/
def SubGang.fromEntry (b : SubGang) (g : Gang) (next : Nat) (live : Lanes) (bs : List Byte) : SubGang :=
  { b.withCause g (fieldAt bs 13 1) with
    fibres := BitVec.ofNat 128 (fieldAt bs 16 16) &&& live
    pc := BitVec.ofNat 64 (fieldAt bs 0 8)
    turn := BitVec.ofNat 16 (fieldAt bs 8 2)
    wb := BitVec.ofNat 10 (fieldAt bs 10 2)
    passOver := fieldAt bs 12 1
    inClause := b.clauseFrom (fieldAt bs 42 8) (fieldAt bs 0 8)
    handler := b.handlerFrom next bs
    sregs := (List.range 64).map fun k => BitVec.ofNat 32 (fieldAt bs (64 + 4 * k) 4) }

/-- The state of an access from its numbers: what they leave open is as State has it, or taken from the entry's lanes. -/
def Pending.stateFrom (p : Pending) (n c : Nat) : PState :=
  let lowest := p.live.toList.headD 0
  let addr := BitVec.ofNat 64 (Table.getD p.addrs lowest 0)
  if p.st.numbers == (n, c) then p.st
  else
    match n, codeOf c with
    | 1, some code => .faulted code p.live addr 0
    | 2, some code => .reported code p.live addr 0
    | 3, _ => .behind p.id
    | _, _ => .pending

/-- An access of the restartable list with its entry: word, PC, lanes, state and code, destinations, addresses and data. The
instruction that the word encodes stays (log entry 38). -/
def Pending.fromEntry (p : Pending) (width : Nat) (bs : List Byte) : Pending :=
  let count := fieldAt bs 44 4
  let first := fieldAt bs 40 4
  let p := { p with
    word := BitVec.ofNat 64 (fieldAt bs 0 8)
    pc := BitVec.ofNat 56 (fieldAt bs 8 8)
    live := BitVec.ofNat 128 (fieldAt bs 16 16)
    vdst := if p.vdst.headD 0 == first && p.vdst.length == count then p.vdst else (List.range (min count 1024)).map fun k => first + k
    addrs := p.addrs.map fun (x : Nat × Nat) => (x.1, fieldAt bs (48 + 8 * x.1) 8)
    data := p.data.map fun (x : Nat × List Word) =>
      (x.1, (List.range x.2.length).map fun k =>
        if k < 4 then BitVec.ofNat 32 (fieldAt bs (48 + 8 * width + 16 * x.1 + 4 * k) 4) else nth x.2 k 0) }
  let st := fieldAt bs 32 8
  { p with st := p.stateFrom (bitsOf st 1 0) (bitsOf st 15 8) }

/-- A pending RAYQ with its entry: root, flags, destination slot and rays. -/
def Pending.fromRay (p : Pending) (bs : List Byte) : Pending :=
  let flags := fieldAt bs 8 8
  let dst := fieldAt bs 16 8
  { p with
    op := .rayq (bitOf flags 0) (bitOf flags 1) (fieldAt bs 0 8)
    vdst := if p.vdst.headD 0 == dst then p.vdst else vRun (dst % 1024) 4
    data := p.data.map fun (x : Nat × List Word) =>
      (x.1, (List.range 8).map fun k => BitVec.ofNat 32 (fieldAt bs (48 + 32 * x.1 + 4 * k) 4)) }

/-- The fault record from the ten words of the block (R178). -/
def recordFrom (bs : List Byte) : FaultRec :=
  { code := codeOf (fieldAt bs 0 1)
    pc := BitVec.ofNat 56 (fieldAt bs 4 8)
    addr := BitVec.ofNat 64 (fieldAt bs 12 8)
    lanes := BitVec.ofNat 128 (fieldAt bs 20 16)
    aux := BitVec.ofNat 32 (fieldAt bs 36 4) }

/-- The debug state from its eight bytes. -/
def DebugState.fromBytes (d : DebugState) (subs : List SubGang) (n : Nat) : DebugState :=
  { d with
    halted := bitOf n 0
    stepping := if bitOf n 1 then (subs.map fun b => b.id)[bitsOf n 8 2]? else none }

/-- A waiting barrier's phase from the entry of the sub-gang that waits (R283, R383). -/
def Gang.phaseFrom (g : Gang) (bs : List Byte) (p : Pending) : Pending :=
  match p.op, g.subs.findIdx? fun b => b.waits.contains p.id with
  | .barrier bar _ n, some j => { p with op := .barrier bar (fieldAt bs (1024 + 320 * j + 14) 1) n }
  | _, _ => p

/-- A gang with what its block holds (R184, R383): status, modes and flags, the window, fault record and counters, predicates,
debug state, its sub-gangs, slots, accesses and ray queries. Which slots are not ready or faulted follows from the entries. -/
def Gang.fromBlock (g : Gang) (next : Nat) (bs : List Byte) : Gang :=
  let mode := fieldAt bs 4 4
  let live := BitVec.ofNat 128 (fieldAt bs 64 16)
  let ids := g.listed.map fun p => p.id
  let rays := g.rays.map fun p => p.id
  let names := blockSlots bs
  let slot := fun (x : Nat × Nat) =>
    (x.1, (List.range g.width).map fun i => BitVec.ofNat 32 (fieldAt bs (g.slotsAt + 4 * g.width * x.2 + 4 * i) 4))
  { g with
    usplit := bitOf (fieldAt bs 0 4) 0
    rpark := bitOf (fieldAt bs 0 4) 1
    restored := bitOf (fieldAt bs 0 4) 2
    rm := BitVec.ofNat 3 mode
    flags := BitVec.ofNat 5 (bitsOf mode 8 4)
    accBase := if fieldAt bs 8 4 == g.accBase % 512 then g.accBase else fieldAt bs 8 4
    accLim := fieldAt bs 12 4
    frec := recordFrom (slice bs 16 40)
    counters := (slice bs 56 6).map fun b => b.toNat
    preds := predsOf (slice bs 80 128)
    handlerPreds := predsOf (slice bs 208 128)
    dbg := g.dbg.fromBytes g.subs (fieldAt bs 728 8)
    slots := (names.zip (List.range names.length)).map slot
    subs := (g.subs.zip (List.range g.subs.length)).map fun x =>
      x.1.fromEntry g next live (slice bs (1024 + 320 * x.2) 320)
    pending := g.pending.map fun p =>
      if ids.contains p.id then p.fromEntry g.width (g.accessBytes bs (ids.idxOf p.id))
      else if rays.contains p.id then p.fromRay (g.rayBytes bs (rays.idxOf p.id))
      else g.phaseFrom bs p }

/-- A granule state from its number; 3 is no state and counts as full (log entry 38). -/
def granuleOf (n : Nat) : Granule :=
  match n with
  | 0 => .empty
  | 2 => .poison
  | _ => .full

/-- A bank from its 1,056 bytes. -/
def Bank.fromBytes (bs : List Byte) : Bank :=
  { entries := (List.range 256).filterMap fun n =>
      let w := BitVec.ofNat 32 (fieldAt bs (4 * n) 4)
      if w == 0 then none else some (n, w)
    valid := (List.range 256).filter fun n => (nth bs (1024 + n / 8) 0).getLsbD (n % 8) }

/-- A team with what its block holds. -/
def Team.fromBlock (t : Team) (bs : List Byte) : Team :=
  let n := t.scratchBytes
  let at1 := n + ceilDiv n 64
  let at2 := at1 + 128 * t.accRows
  let state := fun k => granuleOf (fieldAt bs (n + k / 4) 1 / 4 ^ (k % 4) % 4)
  { t with
    scratch := (List.range n).filterMap fun a =>
      let b := nth bs a 0
      if b == 0 then none else some (a, b)
    granules := (List.range (n / 16)).filterMap fun k => if state k == .full then none else some (k, state k)
    acc := t.acc.map fun (x : Nat × List Word) =>
      (x.1, (List.range 32).map fun i => BitVec.ofNat 32 (fieldAt bs (at1 + 128 * x.1 + 4 * i) 4))
    banks := (List.range t.banks.length).map fun k => Bank.fromBytes (slice bs (at2 + 1056 * k) 1056) }

/-- A saved team with what its frame's bytes hold; `next` is the number of the device's next creation. -/
def Frame.fromBytes (f : Frame) (next : Nat) (bs : List Byte) : Frame :=
  let offs := frameOffsets f.gangs.length bs
  let team := f.team.fromBlock (bs.drop (offs.getLastD 0))
  { f with
    gangs := (f.gangs.zip offs).map fun x => x.1.fromBlock next (slice bs x.2 x.1.blockBytes)
    team := { team with
      tx := fieldAt bs 8 2
      ty := fieldAt bs 10 2
      tz := fieldAt bs 12 2 } }

end Sys2Proof.Machine
end

