-- ==== Sys2Proof/Machine/Teams.lean ====
section
/-! DEFINITION. Teams on cores: placement and admission (R160, R161, R171, R276, R372, R373), retirement of gangs (R26,
R121, R211), and saving and restoring a team (R30, R183 to R186, R258, R283, R299, R357, R380 to R384). -/

namespace Sys2Proof.Machine

/-! ### Placement (R160, R171) -/

/-- The lowest offset of a contiguous free run beside the ranges in use. -/
def freeRun (used : List (Nat × Nat)) (limit need : Nat) : Option Nat :=
  let ok := fun (a : Nat) => decide (a + need ≤ limit) && !used.any fun x => rangesMeet x (a, need)
  ((0 :: used.map fun x => x.1 + x.2).filter ok).foldl (fun (m : Option Nat) a => match m with
    | none => some a
    | some b => some (min a b)) none

/-- Where a core would place a scratchpad region. -/
def Core.scratchFor (k : Core) (bytes : Nat) : Option Nat :=
  freeRun (k.teams.map fun t => (t.2.scratchAt, t.2.scratchBytes)) 262144 bytes

/-- Where a core would place a run of accumulator rows. -/
def Core.rowsFor (k : Core) (rows : Nat) : Option Nat := freeRun (k.teams.map fun t => (t.2.accAt, t.2.accRows)) 512 rows

/-- A core's codebook banks in use. -/
def Core.banksUsed (k : Core) : Nat := (k.teams.map fun t => t.2.banks.length).sum

/-- Whether teams, gangs, rows, banks and registers fit a core (R160); the place of the region and of the rows. -/
def Core.place (k : Core) (gangs scratch rows banks regs : Nat) : Option (Nat × Nat) :=
  if 8 ≤ k.teams.length || 32 < k.gangs.length + gangs || 4 < k.banksUsed + banks || k.regFree < regs then none
  else
    match k.scratchFor scratch, k.rowsFor rows with
    | some a, some b => some (a, b)
    | _, _ => none

/-- The place of a team of a kernel on a core. -/
def Core.placeKernel (k : Core) (d : KDesc) : Option (Nat × Nat) :=
  k.place d.ngang d.scratch d.acc d.cbk (d.rest * (d.width / 32) * d.ngang)

/-- Whether a grid has a team on a core. -/
def State.resident (s : State) (grid : Nat) : Bool :=
  s.cores.any fun (k : Nat × Core) => k.2.teams.any fun t => t.2.grid == grid

/-- The cores of a pinned grid (R373). -/
def LaunchRec.pinCores (r : LaunchRec) : List Nat :=
  (List.range r.total).map fun t => 16 * r.placeCluster + r.placeCore + t

/-- Whether a pinned grid with a resident team keeps a core closed to the teams of others (R373); `own` is the grid that asks.
-/
def State.pinned (s : State) (core : Nat) (own : Option Nat) : Bool :=
  s.grids.any fun (g : Nat × Grid) => g.2.lr.pin && own != some g.1 && g.2.lr.pinCores.contains core && s.resident g.1

/-- Whether a cluster's pre-emption is over, or none is in progress (R384): no team is left on it. -/
def State.clusterOpen (s : State) (p : Partition) (cl : Nat) : Bool :=
  !p.preempting.getLsbD cl || s.cores.all fun (k : Nat × Core) => clusterOf k.1 != cl || k.2.teams.isEmpty

/-- Whether a core of the partition takes a team of a grid that is saved, or a new one. -/
def State.takesTeams (s : State) (p : Partition) (core : Nat) (own : Option Nat) : Bool :=
  decide (core < 1024) && p.cmask.getLsbD (clusterOf core) && s.clusterOpen p (clusterOf core) && !s.pinned core own
  && !s.pkg.hot

/-- Whether a grid could place its next team somewhere (R372, R373). -/
def State.canPlace (s : State) (p : Partition) (g : Grid) : Bool :=
  if g.lr.pin then
    g.lr.pinCores.all fun c =>
      s.takesTeams p c none && (s.core c).teams.isEmpty && ((s.core c).placeKernel g.kd).isSome
  else (coarseCores p.cmask).any fun c => s.takesTeams p c none && ((s.core c).placeKernel g.kd).isSome

/-! ### Saved teams waiting for a core (R185, R381) -/

/-- Physical registers of a saved team. -/
def Frame.physical (f : Frame) : Nat := (f.gangs.map Gang.physical).sum

/-- Registers that its register parks wait for, which they take at the restore (log entry 62). -/
def Frame.parkNeed (f : Frame) : Nat :=
  (f.gangs.flatMap fun g => g.subs.filterMap fun b => b.regPark?.map fun o => g.slotsNeed o.2).sum

/-- Whether every park that R381 names has been released. A `PARK` bit's ends on the core before the save, but for one that waits
behind what only the restore, firmware or another team ends (`Gang.parkEnds`, log entry 62); a register park's is met by the
place on the core. -/
def Frame.ready (f : Frame) : Bool :=
  f.gangs.all fun g => g.subs.all fun b => match b.park with
    | .fault .. | .behindFault => false
    | _ => true

/-- The place of a saved team on a core (R185): its slots take registers at once. -/
def Core.placeFrame (k : Core) (f : Frame) : Option (Nat × Nat) :=
  k.place f.gangs.length f.team.scratchBytes f.team.accRows f.team.banks.length (f.physical + f.parkNeed)

/-- Whether a saved team may return to a core (R373, R381): a pinned grid's team t to core first + t alone. -/
def State.restoresTo (s : State) (p : Partition) (f : Frame) (core : Nat) : Bool :=
  s.takesTeams p core (some f.team.grid) && ((s.core core).placeFrame f).isSome
  && (match s.grid? f.team.grid with
      | some g => !g.lr.pin || core == 16 * g.lr.placeCluster + g.lr.placeCore + f.team.linear
      | none => false)

def State.canRestore (s : State) (p : Partition) (f : Frame) : Bool :=
  f.ready && (coarseCores p.cmask).any (s.restoresTo p f)

/-- The effective class of a saved team. -/
def State.frameClass (s : State) (f : Frame) : Nat :=
  match s.grid? f.team.grid with
  | some g => g.eff
  | none => 0

/-! ### Order of admission (R372, R381) -/

/-- Eligible grids with a team to admit, of every partition (R372). -/
def State.candidates (s : State) : List (Nat × Grid) :=
  s.grids.filter fun (g : Nat × Grid) => g.2.st == .eligible && decide (g.2.nextTeam < g.2.lr.total)

/-- Saved teams whose parks are released, of every partition, each with its partition (R381). -/
def State.waitingFrames (s : State) : List (Partition × Frame) :=
  s.parts.flatMap fun (p : Nat × Partition) => (p.2.frames.filter fun f => f.2.ready).map fun f => (p.2, f.2)

/-- Whether a grid can place its next team in its partition. -/
def State.fits (s : State) (g : Grid) : Bool :=
  match s.part? g.pid with
  | some p => s.canPlace p g
  | none => false

/-- Whether a grid or a saved team of a higher class than c waits (R372, R381). -/
def State.higherWaits (s : State) (c : Nat) : Bool :=
  s.candidates.any (fun x => decide (c < x.2.eff)) || s.waitingFrames.any fun x => decide (c < s.frameClass x.2)

/-- Whether a grid's team goes next (R372; log entry 37): no grid or saved team of higher class waits, and none of its own
class that was accepted earlier, or saved, could be placed. -/
def State.goesNext (s : State) (grid : Nat) (g : Grid) : Bool :=
  !s.higherWaits g.eff
  && s.candidates.all (fun x => !(x.2.eff == g.eff && decide (x.1 < grid) && s.fits x.2))
  && s.waitingFrames.all fun x => !(s.frameClass x.2 == g.eff && s.canRestore x.1 x.2)

/-- Aging (R372): an admission passes over every other grid that cannot place a team, or waits behind one that cannot. -/
def State.age (s : State) (grid : Nat) : State :=
  let cands := s.candidates
  let step := fun (g : Grid) => (s.part? g.pid).map fun p => p.agen
  let stuck := fun (x : Nat × Grid) => !s.fits x.2 || cands.any fun y => decide (x.2.eff < y.2.eff) && !s.fits y.2
  let older := (cands.filter fun x => x.1 != grid && (step x.2).getD 0 != 0 && stuck x).map fun x => x.1
  let pass := fun (g : Grid) =>
    if (step g).getD 0 ≤ g.passes + 1 then
      { g with
        passes := 0
        eff := min 7 (g.eff + 1) }
    else { g with passes := g.passes + 1 }
  { s with grids := s.grids.map fun (x : Nat × Grid) => if older.contains x.1 then (x.1, pass x.2) else x }

/-! ### Priority pre-emption and the rasteriser gates (R384) -/

/-- Whether a team of a partition waits that cannot be placed, of a class that a test picks: a grid's next one, or a saved
one. -/
def State.unplaced (s : State) (pid : Nat) (p : Partition) (test : Nat → Bool) (here : Option Nat → Grid → Bool) : Bool :=
  s.candidates.any (fun x => x.2.pid == pid && test x.2.eff && here none x.2 && !s.canPlace p x.2)
  || p.frames.any fun (f : Nat × Frame) =>
    f.2.ready && test (s.frameClass f.2) && !s.canRestore p f.2
    && (match s.grid? f.2.team.grid with
        | some g => here (some f.2.team.grid) g
        | none => false)

/-- The lowest-class resident team of a partition, youngest first (R384): its core and number. -/
def State.victim (s : State) (pid : Nat) : Option (Nat × Nat) :=
  let teams := s.cores.flatMap fun (k : Nat × Core) => k.2.teams.filterMap fun t =>
    match s.grid? t.2.grid with
    | some g => if g.pid == pid then some (k.1, t.1, g.eff, t.2.order) else none
    | none => none
  (leastBy (fun (x : Nat × Nat × Nat × Nat) => [x.2.2.1, s.next - x.2.2.2]) teams).map fun x => (x.1, x.2.1)

/-- Whether a team is the one that a partition with `PREEMPT` pre-empts now (R384). -/
def State.yields (s : State) (pid core team : Nat) (p : Partition) (g : Grid) : Bool :=
  p.preempt && s.victim pid == some (core, team)
  && s.unplaced pid p (fun c => decide (g.eff < c)) fun _ _ => true

/-- Whether a compute team is pre-empted now (R384): firmware pre-empts its cluster, or it yields. -/
def State.preempted (s : State) (pid core team : Nat) (p : Partition) (g : Grid) : Bool :=
  !g.lr.prs && (p.preempting.getLsbD (clusterOf core) || s.yields pid core team p g)

/-- Whether a cluster's gate must stay closed (R384): it is being pre-empted, a team saved for it has not been restored, or a
resolve team on it is to yield. -/
def State.gateNeeded (s : State) (cl : Nat) : Bool :=
  s.parts.any fun (p : Nat × Partition) =>
    p.2.preempting.getLsbD cl
    || (p.2.cmask.getLsbD cl && p.2.frames.any fun f => f.2.cut == some cl)
    || s.cores.any fun (k : Nat × Core) => clusterOf k.1 == cl && k.2.teams.any fun t =>
      match s.grid? t.2.grid with
      | some g => g.pid == p.1 && g.lr.prs && s.yields p.1 k.1 t.1 p.2 g
      | none => false

/-- Closed gates that nothing keeps closed open again. -/
def State.reopenGates (s : State) : State :=
  let shut := (s.clusters.filter fun k => k.2.vis.gateClosed && !s.gateNeeded k.1).map fun k => k.1
  shut.foldl (fun s cl => s.modVis cl fun v => { v with gateClosed := false }) s

/-- A team has been placed on a cluster, which was empty if it was being pre-empted: that pre-emption is complete (R384). -/
def State.placed (s : State) (pid cl : Nat) : State :=
  (s.modPart pid fun p => { p with preempting := p.preempting &&& ~~~(BitVec.ofNat 64 (2 ^ cl)) }).reopenGates

/-! ### Admission (R160, R161, R171, R276) -/

/-- The free gang slots of a core, lowest first. -/
def Core.freeSlots (k : Core) : List Nat := (List.range 32).filter fun n => (Table.get? k.gangs n).isNone

/-- The lines that a core's L1 has no room for any more leave it before the admission ends (R171): the first ones stay, by the
model's choice (log entry 28). -/
def State.settleL1 (s : State) (core : Nat) : State :=
  let room := if s.l1On core then (8 - (s.core core).split) * 256 else 0
  (((s.core core).l1.filter fun x => !x.lost).drop room).foldl (fun s x => s.putLine core x) s

/-- The transform bindings of a grid (R276, R367): a record's address, or its descriptor's. -/
def Grid.bindings (g : Grid) : List Nat :=
  (List.range 4).filterMap fun i =>
    let x := nth g.lr.xb i 0
    let a := if x == 0 then nth g.kd.tb i 0 else x
    if a == 0 then none else some a

/-- One team of a grid on a core, at its place (R161): its gangs at launch. -/
def State.admitTeam (s : State) (grid core : Nat) (at_ : Nat × Nat) : State :=
  match s.grid? grid with
  | none => s
  | some g =>
    let (uid, s) := s.fresh
    let t := launchTeam uid grid g.nextTeam g.lr g.kd at_.1 at_.2 g.bindings
    let slots := ((s.core core).freeSlots.take g.kd.ngang).zip (List.range g.kd.ngang)
    let halted := (s.core core).coreHalt
    let s := slots.foldl (fun s x =>
      let (id, s) := s.fresh
      let b := launchSub id g.kd.width g.kd.entry g.args
      let y := launchGang uid x.2 g.kd.width g.kd.acc uid b
      s.setGang core x.1 { y with dbg := { y.dbg with halted := halted } }) s
    let s := s.modCore core fun k =>
      let teams := Table.put k.teams uid t
      { k with
        teams := teams
        split := splitFor teams }
    let s := s.modGrid grid fun g =>
      { g with
        nextTeam := g.nextTeam + 1
        unretired := g.unretired ++ [(uid, false)]
        eff := g.prio
        passes := 0 }
    ((s.settleL1 core).placed g.pid (clusterOf core)).queueBinding (clusterOf core) core uid

/-- TEAM_ADMIT (R160, R372, R373): the grid that goes next has its next team admitted to a core that fits it, or with
`PIN` all its teams to their cores. -/
def execTeamAdmit (grid core : Nat) (s : State) : Host.Outcome State Fault Refusal :=
  match s.grid? grid with
  | none => .next s
  | some g =>
    match s.part? g.pid with
    | none => .next s
    | some p =>
      if g.st != .eligible || g.lr.total ≤ g.nextTeam || !s.goesNext grid g then .next s
      else if g.lr.pin then
        if !s.canPlace p g then .next s
        else
          .next ((g.lr.pinCores.foldl (fun s c =>
            match (s.core c).placeKernel g.kd with
            | some at_ => s.admitTeam grid c at_
            | none => s) s).age grid)
      else if !s.takesTeams p core none then .next s
      else
        match (s.core core).placeKernel g.kd with
        | none => .next s
        | some at_ => .next ((s.admitTeam grid core at_).age grid)

/-! ### Retirement of a gang (R26, R121, R211 point 5) -/

/-- The oldest fault of a gang with no live fibre is reported at its retirement, with no sub-gang to run a handler: under
HANDLER it is KILL (R121). Under RESOLVE the gang waits for firmware. -/
def State.reportAtEnd (s : State) (c g : Nat) (x : Gang) (p : Pending) (code : Code) (lanes : Lanes) (addr : DWord)
    (rcode : BitVec 8) : State :=
  let more := x.pending.any fun q => q.id != p.id && q.unreported
  let fr := deferredRecord p code lanes addr rcode more
  let d := s.gangDisposition c g code
  let s := s.modGang c g fun x =>
    if removedOnReport code then x.dropPending p.id
    else x.modPending p.id fun q => { q with st := .reported code lanes addr rcode }
  let s := s.writeRecord c g fr
  match d, s.team? c x.team with
  | .resolve, _ => s
  | _, some t => s.killGrid t.grid fr t.linear x.number
  | _, none => s

/-- Whether nothing that a gang still counts can complete before its fault is disposed (R49): every counter is zero, or all that
is counted is held behind the fault. -/
def State.drained (s : State) (core slot : Nat) (x : Gang) : Bool :=
  x.counters.all (fun n => n == 0)
  || (match s.runner? core slot with
      | some r => s.parkOver r
      | none => false)

/-- GANG_RETIRE (R26, R121): a gang with no live fibre reports its oldest fault once nothing else can complete (R211, point
5), or with its counters at zero retires. One halted by a debugger stays until it is resumed (log entry 63). -/
def execGangRetire (core gang : Nat) (s : State) : Host.Outcome State Fault Refusal :=
  match s.gang? core gang with
  | none => .next s
  | some x =>
    if !x.subs.isEmpty || x.dbg.halted || !s.drained core gang x then .next s
    else
      match x.oldestFault with
      | some p =>
        if x.faultUnresolved then .next s
        else
          match p.st with
          | .faulted code lanes addr rcode => .next (s.reportAtEnd core gang x p code lanes addr rcode)
          | _ => .next s
      | none =>
        if !x.pending.isEmpty then .next s else .next ((s.dropGang core gang).registerDeadlock core)

/-! ### Saving a team (R183, R380, R383, R384) -/

/-- Whether a sub-gang is parked (R29). -/
def SubGang.parked (b : SubGang) : Bool := b.park != .run || (!b.waits.isEmpty && b.inClause.isNone)

/-- Whether a gang is wholly parked. -/
def Gang.parked (g : Gang) : Bool := !g.subs.isEmpty && g.subs.all SubGang.parked

/-- The gangs of a team on a core, by slot. -/
def Core.teamGangs (k : Core) (team : Nat) : Table Gang := k.gangs.filter fun g => g.2.team == team

/-- Whether an outstanding entry may go into a frame as it stands (R183, R299, R357): an access on this device's own way that no
other access of its gang has gone ahead of, a wait, an undelivered ray query, or a fault that has been answered. -/
def State.savable (s : State) (core slot : Nat) (p : Pending) : Bool :=
  let busy := s.mem.txns.any fun t => t.kind == .write core slot p.id
  match p.st, p.op with
  | .pending, .mem .. => !s.awaits core slot p.id none && !busy
  | .pending, .barrier .. => p.sent
  | .pending, .rayq .. => true
  | .pending, .raywait _ => true
  | .pending, .txwait => true
  | .pending, _ => false
  | .failing .., _ => false
  | _, _ => true

/-- Whether a sub-gang's state may go into a frame: no jump-table read is on its way (R183). -/
def SubGang.savable (b : SubGang) : Bool :=
  match b.park with
  | .jumpTable .. => false
  | _ => true

/-- Whether a PRIM holds the pipe at the closed gate of its cluster (R384). -/
def State.heldPrim (s : State) (core : Nat) (cl : Clause) : Bool :=
  (s.cluster (clusterOf core)).vis.gateClosed && opByte (nth cl.words cl.idx 0) == 0xC0

/-- A PRIM held at the gate withdrawn: its sub-gang stands at it again (R384). -/
def State.withdraw (s : State) (core pipe team : Nat) : State :=
  match (s.core core).pipe? pipe with
  | none => s
  | some cl =>
    match s.gang? core cl.gang with
    | none => s
    | some g =>
      if g.team != team || !s.heldPrim core cl then s
      else
        let pc := cl.haddr + BitVec.ofNat 56 (8 * (cl.idx + 1))
        let s := s.modGang core cl.gang fun g => g.modSub cl.sub fun b =>
          { b with
            pc := pc.setWidth 64
            inClause := some (cl.header, cl.haddr) }
        s.modCore core fun k => k.setPipe pipe none

/-- Whether a `PARK` bit's park of a gang is to end on the core before a save (R381): nothing that only a restore, firmware or
another team can end holds its counters (log entry 62). -/
def Gang.parkEnds (g : Gang) : Bool :=
  g.subs.any (fun b => b.park == .parkBit) && !g.faultUnresolved && !g.pending.any fun p => p.counted && (match p.op with
    | .barrier .. | .txwait => true
    | _ => false)

/-- Whether a team's work is settled (R183): nothing that a frame cannot hold is outstanding. -/
def State.settled (s : State) (core team : Nat) : Bool :=
  let k := s.core core
  let cl := s.cluster (clusterOf core)
  let mine := k.teamGangs team
  let ahead := s.mem.holds.any fun h => h.core == core && mine.any (fun g => g.1 == h.gang) && s.holdStands h
  !cl.leat0.holds team && !cl.leat1.holds team && !ahead
  && mine.all (fun g => !k.inIssue g.1 && g.2.subs.all SubGang.savable && !g.2.parkEnds && g.2.pending.all (s.savable core g.1))

/-- Whether a parked team may be evicted (R380): every gang is parked, and none stands at a debug halt. -/
def Core.evictable (k : Core) (team : Nat) : Bool :=
  let mine := k.teamGangs team
  !mine.isEmpty && mine.all fun g => g.2.parked && !g.2.dbg.halted

/-- Whether the scheduler has a reason to evict a parked team (R380; log entry 61): a team of its partition, of equal or
higher class, that its core could take but that cannot be placed; a gang of the core that waits for registers which the pool
does not hold; or firmware's pre-emption of the cluster. -/
def State.evictReason (s : State) (pid core team : Nat) (p : Partition) (g : Grid) : Bool :=
  let out := s.modCore core fun k => { k with teams := Table.del k.teams team }
  let here := fun (own : Option Nat) (x : Grid) =>
    out.takesTeams p core own && (!x.lr.pin || x.lr.pinCores.contains core)
  let starved := match (s.core core).oldestPark with
    | some (_, need, _) => decide ((s.core core).regFree < need)
    | none => false
  starved || p.preempting.getLsbD (clusterOf core) || s.unplaced pid p (fun c => decide (g.eff ≤ c)) here

/-- An entry as a frame holds it: a load takes what it has not taken, and what no later load relies on, again (R196); a wait
looks again; a ray query starts again. -/
def Pending.saved (p : Pending) : Pending :=
  let p := { p with passed := false }
  match p.st, p.op with
  | .pending, .mem k f =>
    match k with
    | .ld | .sld => if (p.openElems k f).isEmpty then p else p.discard
    | _ => p
  | .pending, .barrier bar phase _ =>
    { p with
      sent := false
      op := .barrier bar phase 1 }
  | .pending, .rayq .. =>
    { p with
      got := []
      done := [] }
  | _, _ => p

/-- A team as a frame holds it. -/
def State.frameOf (s : State) (core team : Nat) (t : Team) (cut : Option Nat) : Frame :=
  { team := { t with stopping := false }
    gangs := ((s.core core).teamGangs team).map fun g => { g.2 with pending := g.2.pending.map Pending.saved }
    cut := cut }

/-- The address of a frame (R364). -/
def Partition.frameAt (p : Partition) (n : Nat) : Nat := p.fbase + n * p.fsize

/-- The team leaves its core for a frame; an unused reservation of it is cancelled (R258). -/
def State.saveTeam (s : State) (pid core team frame : Nat) (f : Frame) : State :=
  let slots := ((s.core core).teamGangs team).map fun g => g.1
  let s := s.modPart pid fun p => { p with frames := Table.put p.frames frame f }
  let s := s.modMem fun m => { m with claims := m.claims.filter fun c => !(c.core == core && slots.contains c.gang) }
  s.modCore core fun k =>
    let teams := Table.del k.teams team
    { k with
      teams := teams
      gangs := k.gangs.filter fun g => g.2.team != team
      reservations := k.reservations.filter fun r => r.team != team
      split := splitFor teams }

/-- A compute team stops for a priority pre-emption, or goes on once it is over. -/
def State.stopping (s : State) (core team : Nat) (on : Bool) : State := s.modTeam core team fun t => { t with stopping := on }

/-- A settled team is written to a free frame and leaves its core (R183, R383); with no frame that holds it, or where the write
meets a fault, it stays. -/
def State.evictTeam (s : State) (pid core team : Nat) (p : Partition) (g : Grid) (t : Team) (cut : Option Nat) : State :=
  let f := s.frameOf core team t cut
  match p.freeFrame (frameBytes t f.gangs) with
  | none => s
  | some n =>
    match s.schedWrite p.vmid (Config.frameAsid pid % 2 ^ 16) (p.frameAt n) (frameImage (s.core core) t f.gangs g) with
    | .done u => u.saveTeam pid core team n f
    | .later w => s.stalled w
    | .fault .. => s

/-- TEAM_EVICT (R380, R384): a parked or pre-empted team is settled and saved, once a frame is free. A resolve team that is to
yield has its cluster's gate closed instead. -/
def execTeamEvict (core team : Nat) (s : State) : Host.Outcome State Fault Refusal :=
  match s.team? core team with
  | none => .next s
  | some t =>
    match s.grid? t.grid with
    | none => .next s
    | some g =>
      match s.part? g.pid with
      | none => .next s
      | some p =>
        let cl := clusterOf core
        if g.lr.prs then
          .next (if s.yields g.pid core team p g then s.modVis cl fun v => { v with gateClosed := true } else s.reopenGates)
        else
          let pre := s.preempted g.pid core team p g
          let idle := (s.core core).evictable team && s.evictReason g.pid core team p g
          if t.killed || !t.started || !(pre || idle) then .next (s.stopping core team false)
          else
            let s' := (s.withdraw core 0 team).withdraw core 1 team
            if ((s'.core core).teamGangs team).isEmpty then .next s
            else if !s'.settled core team then .next (if pre then s.stopping core team true else s)
            else .next (s'.evictTeam g.pid core team p g t (if p.preempting.getLsbD cl then some cl else none))

/-! ### Restoring a team (R185, R214, R381) -/

/-- Whether a reissued entry holds the resumption of a sub-gang (R214). -/
def Pending.holdsResume (p : Pending) : Bool :=
  match p.mem? with
  | some (k, f) => isReadEntry k f
  | none => false

/-- The numbers of the entries whose values a resuming sub-gang waits for (R214). -/
def Gang.reissueIds (g : Gang) : List Nat := (g.pending.filter fun p => p.counted && p.holdsResume).map fun p => p.id

/-- Whether an entry is a Millpond instruction: `addrs` keeps the view entries that it read at issue (R340). -/
def Pending.pondOp (p : Pending) : Bool :=
  match p.op with
  | .txreq _ | .txwait | .txframe _ | .txpin _ => true
  | .request (.txfill ..) | .request (.txinvKey ..) | .request (.txinvInfl ..) => true
  | _ => false

/-- An entry with its faults forgotten, but for the lanes that another device has refused or not answered: those are never
reissued, and the entry goes on failing for them (R215, R422). -/
def Pending.rearmed (p : Pending) : Pending :=
  let once := match p.mem? with
    | some (k, _) => k.once
    | none => false
  let fails := p.fails.filter fun x => removedOnReport x.2.1
  { p with
    fails := fails
    st := failState once fails }

/-- An entry reissued: a faulted or held one is counted again. A load takes its value anew, unless it has taken all of it; what
a later load has relied on stays (R196). An ATOMS that has begun is past its check (R202). A Millpond instruction that faulted
reads its view anew (R340). -/
def Pending.reissued (p : Pending) : Pending :=
  let p := if p.pondOp && !p.counted then { p with addrs := [] } else p
  let p := match p.mem? with
    | some (k, f) => if k.load && !k.scratch && !(p.openElems k f).isEmpty then p.discard else p
    | none => p
  let begun := match p.mem? with
    | some (.atoms, _) => !p.done.isEmpty
    | _ => false
  match p.st with
  | .failing .. => p
  | _ => { p.rearmed with passed := begun }

/-- An entry that has failed at another device and has not been reported: it is never reissued (R215). -/
def Pending.remains (p : Pending) : Bool :=
  match p.st with
  | .faulted code .. => removedOnReport code
  | _ => false

/-- Whether the reissue takes an entry (R203, R214, R215): not one that has failed at another device, nor a load held with one. -/
def Gang.reissues (g : Gang) (p : Pending) : Bool :=
  !p.remains && (match p.st with
    | .behind id => !g.pending.any fun q => q.id == id && q.remains
    | _ => true)

/-- What a sub-gang waits for that resumes after a reissue (R214). -/
def Gang.reissuePark (g : Gang) : Park := if g.reissueIds.isEmpty then .run else .reissue g.reissueIds false

/-- Every entry of the list reissued, and the sub-gangs that waited behind a report released (R211, R214). -/
def Gang.reissueAll (g : Gang) : Gang :=
  let old := g
  let g := (g.pending.filter fun p => !p.counted && old.reissues p).foldl (fun (g : Gang) p => g.addCounter p.ctr true) g
  let g := { g with pending := g.pending.map fun p => if old.reissues p then p.reissued else p }
  let one := fun (b : SubGang) => if b.park == .behindFault then { b with park := g.reissuePark } else b
  { g with subs := g.subs.map one }

/-- A restored gang (R180, R185, R214): `RESTORED` is set, every entry of its list is reissued, and its sub-gangs resume after
that; a register park has ended, its registers taken. -/
def Gang.restore (g : Gang) : Gang :=
  let slots := (g.subs.filterMap fun b => b.regPark?.map fun o => o.2).flatten
  let g := (slots.filter fun d => (Table.get? g.slots d).isNone).foldl (fun g d => g.writeSlot d []) g
  let g := g.reissueAll
  let one := fun (b : SubGang) => match b.park with
    | .run | .register .. | .reissue _ false => { b with park := g.reissuePark }
    | .reissue _ true => { b with park := .reissue g.reissueIds true }
    | _ => b
  { g with
    restored := true
    subs := g.subs.map one }

/-- A saved team placed on a core (R185). The core's copies of WO lines and of other devices' lines are older than what the team's
gangs may have acquired elsewhere, and leave its L1 (R227, R418). -/
def State.restoreTeam (s : State) (pid frame core : Nat) (f : Frame) (at_ : Nat × Nat) : State :=
  let t := { f.team with
    scratchAt := at_.1
    accAt := at_.2 }
  let slots := (s.core core).freeSlots.zip f.gangs
  let halted := (s.core core).coreHalt
  let s := slots.foldl (fun s x =>
    let g := x.2.restore
    let stop := g.dbg.halted || (halted && !g.subs.any SubGang.goesOn)
    s.setGang core x.1 { g with dbg := { g.dbg with halted := stop } }) s
  let s := s.modCore core fun k =>
    let teams := Table.put k.teams t.uid t
    { k with
      teams := teams
      split := splitFor teams
      l1 := k.l1.filter fun x => x.st != .wo && x.st != .remote }
  let s := s.modPart pid fun p => { p with frames := Table.del p.frames frame }
  (s.settleL1 core).placed pid (clusterOf core)

/-- TEAM_RESTORE (R185, R381, R383): a saved team whose parks are released returns to a core of its partition that fits it, with
what its frame holds; a frame with a reserved bit set ends its grid. While the frame cannot be read the team waits. -/
def execTeamRestore (pid frame core : Nat) (s : State) : Host.Outcome State Fault Refusal :=
  match s.part? pid with
  | none => .next s
  | some p =>
    match Table.get? p.frames frame with
    | none => .next s
    | some f =>
      if !f.ready || s.higherWaits (s.frameClass f) || !s.restoresTo p f core then .next s
      else
        match s.schedRead p.vmid (Config.frameAsid pid % 2 ^ 16) (p.frameAt frame) (frameBytes f.team f.gangs) with
        | .bytes bs =>
          let t := s.schedTouch p.vmid (Config.frameAsid pid % 2 ^ 16) (p.frameAt frame) (frameBytes f.team f.gangs)
          if !f.bytesOk bs then
            .next (t.killGrid f.team.grid { FaultRec.zero with code := some .reservedField } f.team.linear 0)
          else
            match (s.core core).placeFrame (f.fromBytes s.next bs) with
            | some at_ => .next (t.restoreTeam pid frame core (f.fromBytes s.next bs) at_)
            | none => .next s
        | _ => .next s

end Sys2Proof.Machine
end

