-- ==== Sys2Proof/Machine/System.lean ====
section
/-! DEFINITION. System instructions and firmware's part in faults: SYSRD, SYSWR, ERET, FIRMCALL, ATTRSET, TLBSHOOT and CACHEOP
(R232, R233, R325 to R331, R388 to R391), and the disposition of a fault that firmware took (R106, R214, R382, R386). -/

namespace Sys2Proof.Machine

/-- PRIV: a privileged instruction outside system context (R43, R389). -/
def Issuer.checkPriv (c : Issuer) : Except Stop Unit :=
  if c.grid.sys then .ok () else .error (.fault (c.record .priv c.sub.fibres 0 0))

/-! ### SYSRD and SYSWR (R390) -/

/-- SYSRD (R390): a register of the fibre or sub-gang is read at once, any other when the answer arrives. -/
def execSysrd (f : YForm) (s : State) : Host.Outcome State Fault Refusal :=
  runInstr s fun c => do
    c.checkPriv
    c.checkOnce (uDstS false f.d)
    c.checkCounter .enc
    let sel := f.sel.toNat
    let d := sNum f.d
    if SubGang.owns sel then .ok (s.issueKnown c [(d, c.sub.special sel)])
    else
      .ok ((s.issue c .enc [] [] [d] none c.sub.fibres fun p =>
        { p with
          sent := false
          op := .sysrd sel d }).advance c)

/-- SYSWR (R390). -/
def execSyswr (f : YForm) (s : State) : Host.Outcome State Fault Refusal :=
  runInstr s fun c => do
    c.checkPriv
    c.checkOnce (opdS .n32 f.a)
    c.checkCounter .enc
    .ok ((s.issue c .enc [] [] [] none c.sub.fibres fun p =>
      { p with
        sent := false
        op := .syswr f.sel.toNat (c.sreg (sNum f.a)) }).advance c)

/-- The answer of a SYSRD (R390, R7): the register as it stands, and its RC fields clear, also where every fibre that asked has
ended. -/
def State.sysrdArrive (s : State) (r : Runner) (p : Pending) (sel d : Nat) : State :=
  let s := s.tick r.core sel
  let out := match r.gang.subs.find? fun b => b.anc.contains p.sub with
    | none => Out.none
    | some b => { Out.none with sregs := [(d, s.special r.core r.gang b r.team r.grid sel)] }
  (s.afterRead r.core r.slot sel).deliver r.core r.slot p.id out

/-- A SYSWR takes effect (R390). -/
def State.syswrArrive (s : State) (r : Runner) (p : Pending) (sel : Nat) (w : Word) : State :=
  (s.writeSpecial r.core r.slot r.grid.pid sel w).deliver r.core r.slot p.id Out.none

/-! ### Resumption (R214) -/

/-- A stopped sub-gang resumes after the reissue (R50, R214). -/
def Gang.resumeSub (g : Gang) (sub : Nat) : Gang :=
  let g := g.reissueAll
  g.modSub sub fun b => { b with park := g.reissuePark }

/-- The park of a sub-gang that a `PARK` bit parks once it has resumed (R49, R50). -/
def Park.thenPark : Park → Park
  | .run => .parkBit
  | .reissue ids _ => .reissue ids true
  | k => k

/-- The faulted entries of a gang discarded: their destinations become ready with their old values; what was held behind
them goes on (R388). -/
def Gang.discardFaulted (g : Gang) : Gang :=
  let gone := fun (p : Pending) => match p.st with
    | .faulted .. | .reported .. => true
    | _ => false
  let held := g.pending.filter fun p => !p.counted && !gone p
  let g := held.foldl (fun (g : Gang) p => g.addCounter p.ctr true) g
  let left := (g.pending.filter fun p => !gone p).map fun p => if p.counted then p else p.rearmed
  let one := fun (b : SubGang) => if b.park == .behindFault then { b with park := .run } else b
  { g with
    pending := left
    subs := g.subs.map one }

/-! ### ERET (R387, R388) -/

/-- The gang with a sub-gang out of its handler context: predicates and WB are those of the interrupted code. -/
def Gang.leaveHandler (g : Gang) (b : SubGang) (h : Handler) (pc : DWord) (inClause : Option (DWord × BitVec 56))
    (park : Bool) : Gang :=
  let m := b.fibres
  let g := { g with preds := (List.range 7).map fun p =>
    (nth g.preds p 0 &&& ~~~m) ||| (nth g.handlerPreds p 0 &&& m) }
  g.modSub b.id fun x =>
    { x with
      pc := pc
      wb := h.wb
      handler := none
      inClause := inClause
      park := if park then x.park.thenPark else x.park }

/-- Where `eret.skip` leaves a sub-gang after a precise fault (R388): the word after the instruction, in its clause or past
it, where the clause's `PARK` still applies (R50). -/
def Handler.skipTo (h : Handler) : Option (DWord × BitVec 56) × Bool :=
  match h.inClause with
  | none => (none, false)
  | some (hd, ha) =>
    if h.skip == ha.setWidth 64 + BitVec.ofNat 64 (8 * (headerCount hd + 1)) then (none, headerPark hd)
    else (some (hd, ha), false)

/-- The sub-gangs in which the handler contexts of one leave their handlers, numbered from `n` where there are several. -/
def SubGang.perContext (b : SubGang) (n : Nat) : List (SubGang × Handler) :=
  match b.contexts with
  | [(_, some h)] => [(b, h)]
  | cs => (cs.zip (List.range cs.length)).filterMap fun x => x.1.2.map fun h =>
      ({ b with
        id := n + x.2, anc := (n + x.2) :: b.anc, fibres := x.1.1, handler := some h, others := [] }, h)

/-- The issuing sub-gang leaves its handler, each context at its own resume point (log entry 23); the clause of the ERET ends,
and the pipe is free. `k` is what becomes of the access list for a context. -/
def State.eretTo (s : State) (c : Issuer) (dest : Handler → DWord × Option (DWord × BitVec 56) × Bool)
    (k : Handler → Nat → Gang → Gang) : State :=
  let subs := c.sub.perContext s.next
  let s := { s with next := s.next + subs.length }
  let s := s.modCore c.core fun k => k.setPipe c.pipe none
  let leave := fun (g : Gang) (x : SubGang × Handler) =>
    let t := dest x.2
    (k x.2 x.1.id g).leaveHandler x.1 x.2 t.1 t.2.1 (t.2.2 || headerPark c.clause.header)
  let s := s.modGang c.core c.slot fun g => subs.foldl leave (g.replaceSub c.sub.id (subs.map fun x => x.1))
  s.boundary c.core c.slot c.sub.id

/-- An ERET: PRIV where a fibre is not in handler context (R43), and ENC counts it as the rest of its class (R48, R65). -/
def eret (s : State) (dest : Handler → DWord × Option (DWord × BitVec 56) × Bool) (k : Handler → Nat → Gang → Gang) :
    Host.Outcome State Fault Refusal :=
  runInstr s fun c => do
    if !c.sub.allHandler then .error (.fault (c.record .priv c.sub.fibres 0 0))
    c.checkCounter .enc
    .ok (s.eretTo c dest k)

/-- ERET (R388): resumes at `HRET`, after the access list has been reissued. -/
def execEret (_f : CForm) (s : State) : Host.Outcome State Fault Refusal :=
  eret s (fun h => (h.hret, h.inClause, false)) fun _ sub g => g.resumeSub sub

/-- ERET with `.skip` (R388): resumes past the fault. After a deferred one the faulted entries are discarded and what was held
behind them is reissued first (R214). -/
def execEretSkip (_f : CForm) (s : State) : Host.Outcome State Fault Refusal :=
  eret s
    (fun h => match h.entry with
      | some _ => (h.hret, h.inClause, false)
      | none => (h.skip, h.skipTo.1, h.skipTo.2))
    fun h sub g => if h.entry.isSome then g.discardFaulted.resumeSub sub else g

/-! ### Firmware's answer to a fault (R106, R382, R386) -/

/-- The accumulator rows of a gang's window that an emulation writes (R106). -/
def Team.emulate (t : Team) (g : Gang) (rows : List (Nat × List Word)) : Team :=
  (rows.filter fun x => decide (g.accBase ≤ x.1) && decide (x.1 < g.accLim)).foldl (fun t x => t.setRow x.1 x.2) t

/-- A sub-gang parked under RESOLVE goes on at its instruction, or after an emulated one. -/
def Gang.answer (g : Gang) (sub : Nat) (fr : FaultRec) (act : FirmwareAct) : Gang :=
  match act with
  | .emulate _ flags =>
    if fr.code != some .formatUnsupported then g.resumeSub sub
    else
      let g := { g with flags := g.flags ||| flags }
      let g := g.resumeSub sub
      g.modSub sub fun b =>
        match b.inClause with
        | none => b
        | some (hd, ha) =>
          let pc := b.pc + 8
          if pc == ha.setWidth 64 + BitVec.ofNat 64 (8 * (headerCount hd + 1)) then
            { b with
              pc := pc
              inClause := none
              park := if headerPark hd then b.park.thenPark else b.park }
          else { b with pc := pc }
  | _ => g.resumeSub sub

/-- The rows that an answer writes. -/
def emulated (fr : FaultRec) : FirmwareAct → List (Nat × List Word)
  | .emulate rows _ => if fr.code == some .formatUnsupported then rows else []
  | _ => []

/-- A sub-gang's fault under RESOLVE, if it has one. -/
def SubGang.resolving (b : SubGang) : Option (Option Nat × FaultRec) :=
  match b.park with
  | .fault entry fr => some (entry, fr)
  | _ => none

/-- Firmware answers for a sub-gang on a core (R386). -/
def State.answerOnCore (s : State) (core slot sub : Nat) (g : Gang) (act : FirmwareAct) : State :=
  match g.sub? sub with
  | none =>
    if !g.subs.isEmpty || !g.faultUnresolved then s
    else
      match act, s.team? core g.team with
      | .decline, some t => s.killGrid t.grid g.frec t.linear g.number
      | _, _ => s.modGang core slot Gang.reissueAll
  | some b =>
    match b.resolving with
    | none => s
    | some (entry, fr) =>
      match act with
      | .decline => s.dispose core slot sub .handler fr { pc := b.pc, inClause := b.inClause, entry := entry }
      | _ =>
        (s.modTeam core g.team fun t => t.emulate g (emulated fr act)).modGang core slot fun g => g.answer sub fr act

/-- A saved sub-gang: its partition, frame and gang. -/
def State.savedSub (s : State) (sub : Nat) : Option (Nat × Nat × Frame × Gang × SubGang) :=
  s.parts.findSome? fun (p : Nat × Partition) => p.2.frames.findSome? fun (f : Nat × Frame) =>
    f.2.gangs.findSome? fun g => (g.sub? sub).map fun b => (p.1, f.1, f.2, g, b)

/-- A saved gang changed. -/
def Frame.modGang (f : Frame) (number : Nat) (k : Gang → Gang) : Frame :=
  { f with gangs := f.gangs.map fun g => if g.number == number then k g else g }

/-- Firmware answers for a sub-gang of a saved team (R382): the reissue follows at the restore. -/
def State.answerSaved (s : State) (sub : Nat) (act : FirmwareAct) : State :=
  match s.savedSub sub with
  | none => s
  | some (pid, n, f, g, b) =>
    match b.resolving, s.grid? f.team.grid with
    | some (entry, fr), some gr =>
      let put := fun (s : State) (f : Frame) => s.modPart pid fun p => { p with frames := Table.put p.frames n f }
      match act with
      | .decline =>
        if gr.kd.handler == 0 || b.inHandler || decide (1016 < b.wb.toNat + 8 * gr.kd.hws) then
          s.killGrid f.team.grid fr f.team.linear g.number
        else
          put s (f.modGang g.number fun g =>
            g.enterHandler sub { pc := b.pc, inClause := b.inClause, entry := entry } fr gr.kd.handler gr.kd.hws s.next)
      | _ =>
        let f := { f with team := f.team.emulate g (emulated fr act) }
        put s (f.modGang g.number fun g => g.answer sub fr act)
    | _, _ => s

/-- FAULT_RESOLVE_RESUME (R386): firmware resumes a sub-gang parked under RESOLVE, emulates its tile, or declines. -/
def execFaultResolveResume (core gang sub : Nat) (act : FirmwareAct) (s : State) : Host.Outcome State Fault Refusal :=
  match (s.savedSub sub), s.gang? core gang with
  | some _, _ => .next (s.answerSaved sub act)
  | none, some g => .next (s.answerOnCore core gang sub g act)
  | none, none => .next s

/-! ### FIRMCALL (R67, R391) -/

/-- FIRMCALL (R391): the sub-gang parks at `clause_end` until its service returns. -/
def execFirmcall (f : CForm) (s : State) : Host.Outcome State Fault Refusal :=
  runInstr s fun c => do
    let n := sNum f.a
    c.checkOnce (vRun n 4)
    c.checkCounter .enc
    let id := s.nextId
    let s := s.issue c .enc [] [] (vRun n 4) none c.sub.fibres fun p =>
      { p with
        sent := false
        op := .firmcall (bitsOf f.imm.toNat 23 0) ((vRun n 3).map c.sreg) }
    .ok ((s.waitFor c id).advance c)

/-- The physical line of a line, from a cached copy or its translation; none where the page is not present. -/
def State.plineOf (s : State) (vmid asid line : Nat) : Option Nat :=
  match s.lineAt none vmid asid (128 * line) (asid == heapAsid) with
  | .ok l => some l.pline
  | .error _ => none

/-- The instruction-fetch copies of lines dropped in every core of the partition that holds a VM, and the writes to them noted
as invalidated (R331, R44). -/
def State.dropFetched (s : State) (vmid asid first n : Nat) : State :=
  let lines := List.range n
  let hit := fun (x : StaleCode) => lines.any fun i => s.plineOf vmid asid (first + i) == some x.pline
  let s := s.modMem fun m => { m with stale := m.stale.map fun x => if hit x then { x with inv := true } else x }
  match s.partOfVm vmid with
  | none => s
  | some (_, p) =>
    let keep := fun (x : FetchCopy) => !(x.tag == tagOf vmid asid && decide (first ≤ x.line) && decide (x.line < first + n))
    let one := fun (k : Nat × Core) =>
      if p.cmask.getLsbD (clusterOf k.1) then (k.1, { k.2 with fetched := k.2.fetched.filter keep }) else k
    { s with cores := s.cores.map one }

/-- The results of a service: the registers written, and the state after its effect (R391). -/
def State.service (s : State) (core slot : Nat) (r : Runner) (service : Nat) (args rs : List Word) : State × List Word :=
  let a := fun k => (nth args k 0).toNat
  if service == 0 then
    if 1 ≤ a 0 && a 0 ≤ 4 then (s.modGang core slot fun g => g.setRm (BitVec.ofNat 3 (a 0)), [0]) else (s, [1])
  else if service == 1 then
    let va := a 0 + 2 ^ 32 * a 1
    if 2 ^ 56 ≤ va then (s, [1]) else (s.dropFetched r.grid.vmid r.grid.asid (va / 128) (a 2), [0])
  else if service < 0x800000 then (s, [0xFFFFFFFF])
  else (s, rs)

/-- FIRMCALL_RETURN (R391): the service returns; results of services 0x80_0000 and above are firmware's own. -/
def execFirmcallReturn (core gang sub : Nat) (r0 r1 r2 r3 : Word) (s : State) : Host.Outcome State Fault Refusal :=
  match s.runner? core gang with
  | none => .next s
  | some r =>
    let calls := r.gang.pending.find? fun p => p.sub == sub && (match p.op with
      | .firmcall .. => true
      | _ => false)
    match calls with
    | none => .next s
    | some p =>
      match p.op with
      | .firmcall n args =>
        let x := s.service core gang r n args [r0, r1, r2, r3]
        .next (x.1.deliver core gang p.id { Out.none with sregs := p.sdst.zip x.2 })
      | _ => .next s

/-! ### ATTRSET (R232, R233, R329) -/

/-- An identity register: VMID, ASID, and whether its reserved bits are clear (R328). -/
def identity (w : Word) : Nat × Nat × Bool := (bitsOf w.toNat 23 16, bitsOf w.toNat 15 0, bitsOf w.toNat 31 24 == 0)

/-- ALIGN and ADDR_NONCANON of a range of n bytes (R329 to R331). -/
def Issuer.checkVaRange (c : Issuer) (va unit n : Nat) : Except Stop Unit :=
  if va % unit != 0 then .error (.fault (c.record .align c.sub.fibres va 0))
  else if 2 ^ 56 ≤ va || 2 ^ 56 < va + n then .error (.fault (c.record .addrNoncanon c.sub.fibres va 0))
  else .ok ()

/-- Whether a core belongs to the partition that holds a VM (R329). -/
def State.coreOfVm (s : State) (vmid core : Nat) : Bool :=
  match s.partOfVm vmid with
  | some (_, p) => p.cmask.getLsbD (clusterOf core)
  | none => false

/-- A system request that waits for nothing more at issue: a release at system scope (R211, R328). -/
def State.issueSystem (s : State) (c : Issuer) (r : Request) : State :=
  (s.issue c .enc [] [] [] none c.sub.fibres fun p =>
    { p with
      sent := false
      op := .request r }).advance c

/-- ATTRSET at issue (R329). -/
def execAttrset (f : EForm) (s : State) : Host.Outcome State Fault Refusal :=
  runInstr s fun c => do
    c.checkPriv
    let n := sNum f.a
    c.checkOnce (vRun n 4)
    let va := c.spair n
    let id := identity (c.sreg (n + 2))
    let w := (c.sreg (n + 3)).toNat
    let count := bitsOf w 31 16
    let attr := attrOf (bitsOf w 1 0)
    let owner := bitsOf w 11 2
    c.checkRange (id.2.2 && bitsOf w 15 12 == 0 && (attr != .ip || s.coreOfVm id.1 owner))
    c.checkVaRange va 65536 (65536 * count)
    c.checkReport
    c.checkCounter .enc
    .ok (s.issueSystem c (.attrset id.1 id.2.1 va (va + 65536 * count) owner attr))

/-- Whether an access of some gang has passed its checks on one of the pages that a test names by core, VM, ASID and address,
and has not performed. -/
def State.passedOn (s : State) (test : Nat → Nat → Nat → Nat → Bool) : Bool :=
  s.cores.any fun (k : Nat × Core) => k.2.gangs.any fun (g : Nat × Gang) =>
    match s.runner? k.1 g.1 with
    | none => false
    | some r =>
      g.2.pending.any fun p => p.passed && p.going && p.rest.any fun x =>
        (List.range ((x.2 + 65535) / 65536)).any fun i =>
          let va := x.1 + 65536 * i
          s.route r.grid va == .local_ && test k.1 r.grid.vmid r.grid.asid va

/-- Whether a page of `bytes` bytes and an entry's page meet. -/
def TlbEntry.meets (e : TlbEntry) (vmid asid va bytes : Nat) : Bool :=
  let n := if e.big then 1024 else 1
  e.vmid == vmid && e.asid == asid && decide (va < 65536 * (e.page + n)) && decide (65536 * e.page < va + bytes)

/-- A page recalled (R232): every L1 and L2 line of it written back and invalidated, and its TLB entries dropped. A lost L1 copy
stays until a CACHEOP invalidates it (R175). -/
def State.recallPage (s : State) (vmid asid va bytes frame : Nat) : State :=
  let tag := tagOf vmid asid
  let inPage := fun (line : Nat) => decide (va ≤ 128 * line) && decide (128 * line < va + bytes)
  let inFrame := fun (pline : Nat) => decide (512 * frame ≤ pline) && decide (128 * pline < 65536 * frame + bytes)
  let s := s.cores.foldl (fun s (k : Nat × Core) =>
    (k.2.l1.filter fun x => x.tag == tag && inPage x.line && !x.lost).foldl (fun s x => s.putLine k.1 x) s) s
  let mine := fun (x : L2Line) =>
    !x.remote && ((x.tag == tag && inPage x.line) || (x.tag == physAsid && inFrame x.pline))
  let s := (s.mem.l2.filter mine).foldl State.evictL2 s
  s.modMem fun m => { m with tlb := m.tlb.filter fun e => !e.meets vmid asid va bytes }

/-- A leaf with a new attribute and owner (R322). -/
def leafWith (e : Nat) (attr : Attr) (owner : Nat) : Nat :=
  let a := match attr with
    | .sc => 0
    | .rc => 1
    | .wo => 2
    | .ip => 3
  e - bitsOf e 62 61 * 2 ^ 61 - bitsOf e 15 6 * 2 ^ 6 + a * 2 ^ 61 + owner * 2 ^ 6

/-- The masks of a page's lines cleared (R233), and what is remembered of other devices' stores to them (R417). -/
def State.clearMasks (s : State) (frame bytes : Nat) : State :=
  let hit := fun (pline : Nat) => decide (512 * frame ≤ pline) && decide (128 * pline < 65536 * frame + bytes)
  s.modMem fun m =>
    { m with
      claims := m.claims.filter fun c => !(hit c.pline && remoteClaimer c.core)
      lines := m.lines.filterMap fun (x : Nat × LineMeta) =>
        let y := if hit x.1 then { x.2 with womask := 0 } else x.2
        if y == LineMeta.zero then none else some (x.1, y) }

/-- Whether a line of a page has a home transaction in progress or an engine that owns it. -/
def State.pageBusy (s : State) (tag va bytes frame : Nat) : Bool :=
  let inPage := fun (line : Nat) => decide (va ≤ 128 * line) && decide (128 * line < va + bytes)
  let inFrame := fun (pline : Nat) => decide (512 * frame ≤ pline) && decide (128 * pline < 65536 * frame + bytes)
  s.mem.txns.any (fun t => t.tag == tag && inPage t.line)
  || s.mem.l2.any fun x => x.dir.st == .en && ((x.tag == tag && inPage x.line) || (x.tag == physAsid && inFrame x.pline))

/-- A page's recall and its completion (R232, R233): the page, as its start and bytes, takes its new attribute. -/
def State.pageChange (s : State) (vmid asid va bytes entry pa frame : Nat) (attr : Attr) (owner : Nat) : State :=
  let old := attrOf (bitsOf entry 62 61)
  let s := s.recallPage vmid asid va bytes frame
  let s := s.physWrite pa (leBytes 8 (leafWith entry attr owner))
  if (old == .wo) != (attr == .wo) then s.clearMasks frame bytes else s

/-- ATTRSET_PAGE_COMPLETE (R232, R329): the next page of an ATTRSET, from its B to its C; a walk that fails is a deferred
fault at its address. -/
def execAttrsetPageComplete (core gang id : Nat) (s : State) : Host.Outcome State Fault Refusal :=
  match s.runner? core gang with
  | none => .next s
  | some r =>
    match r.gang.pending? id with
    | none => .next s
    | some p =>
      match p.op, p.st with
      | .request (.attrset vmid asid va stop owner attr), .pending =>
        if stop ≤ va || s.blocked r p [] then .next s
        else
          match s.walk vmid asid va with
          | .fail code bad =>
            .next ((s.recordWalk asid va (.fail code bad)).modGang core gang fun g => g.modPending id fun q =>
              { q with st := .failing code q.lanes (BitVec.ofNat 64 va) 0 })
          | .leaf e pa frame big =>
            let bytes := if big then 2 ^ 26 else 65536
            let start := va / bytes * bytes
            let base := frame - (va - start) / 65536
            let onPage := fun (_ v a x : Nat) => v == vmid && a == asid && decide (start ≤ x) && decide (x < start + bytes)
            if s.pageBusy (tagOf vmid asid) start bytes base || s.passedOn onPage then .next s
            else
              let s := s.pageChange vmid asid start bytes e pa base attr owner
              let next := start + bytes
              if stop ≤ next then .next (s.deliver core gang id Out.none)
              else
                .next (s.modGang core gang fun g => g.modPending id fun q =>
                  { q with op := .request (.attrset vmid asid next stop owner attr) })
      | _, _ => .next s

/-! ### TLBSHOOT (R325, R330) -/

/-- TLBSHOOT at issue (R330). -/
def execTlbshoot (f : EForm) (s : State) : Host.Outcome State Fault Refusal :=
  runInstr s fun c => do
    c.checkPriv
    let sub := f.sub.toNat
    let range := sub == 0
    c.checkOnce ((if range then vRun (sNum f.a) 2 ++ opdS .n32 f.b else []) ++ (if sub < 3 then opdS .n32 f.c else []))
    let va := if range then c.spair (sNum f.a) else 0
    let units := if range then (c.sreg (sNum f.b)).toNat else 0
    let id := if sub < 3 then identity (c.sreg (sNum f.c)) else (0, 0, true)
    c.checkRange id.2.2
    if range then c.checkVaRange va 65536 (65536 * units)
    c.checkReport
    c.checkCounter .enc
    .ok (s.issueSystem c (.tlbshoot sub va units id.1 id.2.1))

/-- Whether a shoot-down matches a page unit of an address space (R330). -/
def shootMatches (sub va units vmid asid v a x : Nat) : Bool :=
  match sub with
  | 0 => v == vmid && a == asid && decide (va < x + 65536) && decide (x < va + 65536 * units)
  | 1 => v == vmid && a == asid
  | 2 => v == vmid
  | _ => true

/-- Whether a shoot-down matches a TLB entry, by the whole page it belongs to. -/
def TlbEntry.shot (e : TlbEntry) (sub va units vmid asid : Nat) : Bool :=
  if e.big && sub == 0 then units != 0 && e.meets vmid asid va (65536 * units)
  else shootMatches sub va units vmid asid e.vmid e.asid (65536 * e.page)

/-- A TLBSHOOT performs (R325, R330): in every unit at one instant, when nothing that has passed its checks on a page it
matches is left to perform. -/
def State.tlbshootArrive (s : State) (r : Runner) (p : Pending) (sub va units vmid asid : Nat) : State :=
  if s.passedOn fun _ v a x => shootMatches sub va units vmid asid v a (x / 65536 * 65536) then s
  else
    let s := s.modMem fun m => { m with tlb := m.tlb.filter fun e => !e.shot sub va units vmid asid }
    s.deliver r.core r.slot p.id Out.none

/-! ### CACHEOP (R331) -/

/-- CACHEOP at issue (R331). -/
def cacheopIssue (sub : Nat) (f : EForm) (s : State) : Host.Outcome State Fault Refusal :=
  runInstr s fun c => do
    c.checkPriv
    c.checkOnce (vRun (sNum f.a) 2 ++ opdS .n32 f.b ++ opdS .n32 f.c)
    let va := c.spair (sNum f.a)
    let lines := (c.sreg (sNum f.b)).toNat
    let id := identity (c.sreg (sNum f.c))
    c.checkRange id.2.2
    c.checkVaRange va 128 (128 * lines)
    c.checkReport
    c.checkCounter .enc
    .ok (s.issueSystem c (.cacheop sub va lines id.1 id.2.1))

/-- CACHEOP `.wb` (R331). -/
def execCacheopWb (f : EForm) (s : State) : Host.Outcome State Fault Refusal := cacheopIssue 0 f s

/-- CACHEOP `.inv` (R331). -/
def execCacheopInv (f : EForm) (s : State) : Host.Outcome State Fault Refusal := cacheopIssue 1 f s

/-- CACHEOP `.discard` (R331). -/
def execCacheopDiscard (f : EForm) (s : State) : Host.Outcome State Fault Refusal := cacheopIssue 2 f s

/-- CACHEOP `.iinv` (R331). -/
def execCacheopIinv (f : EForm) (s : State) : Host.Outcome State Fault Refusal := cacheopIssue 3 f s

/-- CACHEOP `.clrlost` (R331). -/
def execCacheopClrlost (f : EForm) (s : State) : Host.Outcome State Fault Refusal := cacheopIssue 4 f s

/-- An L1 copy cleaned: its bytes are at the home, and it stays (R331). -/
def L1Line.cleaned (x : L1Line) : L1Line :=
  let st := match x.st with
    | .m => L1St.e
    | .o => .s
    | st => st
  { x with
    st := st
    dirty := false }

/-- The directory entry once the owner's copy is clean. -/
def DirEntry.cleaned (d : DirEntry) : DirEntry :=
  match d.st with
  | .m => { d with st := .e }
  | .o => { { d with
      st := .s
      owner := 0 }.addSharer d.owner with eown := 0 }
  | _ => d

/-- Every dirty copy of a line written to memory; the copies stay, clean. A lost L1 copy is left as it is. -/
def State.writeBackLine (s : State) (tag line pline : Nat) : State :=
  let s := s.cores.foldl (fun s (k : Nat × Core) =>
    match k.2.l1? tag line with
    | some x =>
      if x.leavesDirty && !x.lost then (s.writeHome tag line x.pline 0 x.data).modL1 k.1 tag line L1Line.cleaned else s
    | none => s) s
  match s.l2? tag line pline with
  | some x =>
    let s := if x.dirty && !x.remote then s.physWrite (128 * x.pline) x.data else s
    s.modL2 tag line pline fun y =>
      { y with
        dirty := false
        dir := y.dir.cleaned }
  | none => s

/-- Every copy of a line dropped, nothing written. -/
def State.discardLine (s : State) (tag line pline : Nat) : State :=
  let s := s.cores.foldl (fun s (k : Nat × Core) => s.delL1 k.1 tag line) s
  let key := if s.boot.memSide then (physAsid, pline) else (tag, line)
  let s := s.modMem fun m => { m with l2 := m.l2.filter fun y => !(y.tag == key.1 && y.line == key.2) }
  { s with pond := { s.pond with
      lineGuards := if key.1 == heapTag || key.1 == physAsid then Table.del s.pond.lineGuards pline else s.pond.lineGuards } }

/-- Every copy of another device's line dropped (R418). -/
def State.dropRemote (s : State) (tag line : Nat) : State :=
  let key := remoteTag tag
  (s.cores.foldl (fun s (k : Nat × Core) => s.delL1 k.1 key line) s).modMem fun m =>
    { m with l2 := m.l2.filter fun y => !(y.tag == key && y.line == line) }

/-- One line of a CACHEOP (R331); none while a transaction or an engine holds it. `.clrlost` translates the line, cached or
not, and skips one of a page that is not present. In memory-side mode a line that no page maps has no copy (R309). -/
def State.cacheLine (s : State) (sub vmid asid line : Nat) : Option State :=
  let tag := tagOf vmid asid
  let found := s.plineOf vmid asid line
  let pline := found.getD 0
  if sub == 3 then some (s.dropFetched vmid asid line 1)
  else if sub != 4 && found.isNone && s.boot.memSide then some s
  else if s.lineBusy tag line pline then none
  else
    match sub with
    | 0 => some (s.writeBackLine tag line pline)
    | 1 => some (((s.writeBackLine tag line pline).discardLine tag line pline).dropRemote tag line)
    | 2 => some ((s.discardLine tag line pline).dropRemote tag line)
    | _ =>
      match s.translate vmid asid (128 * line) with
      | .ok x =>
        let l := 512 * x.frame + line % 512
        some (s.setLineMeta l { s.lineMeta l with lost := false })
      | .error w => some (s.recordWalk asid (128 * line) w)

/-- The lines of a CACHEOP that are left, in order; it stops at one that is busy. -/
def State.cacheLines (s : State) (r : Runner) (id sub vmid asid : Nat) : List Nat → State
  | [] => s
  | line :: rest =>
    match s.cacheLine sub vmid asid line with
    | none => s
    | some t =>
      (t.modGang r.core r.slot fun g => g.modPending id fun p => { p with done := insertNat line p.done }).cacheLines
        r id sub vmid asid rest

/-- A CACHEOP acts on one line, or on all that are left; it performs when every line is done (R331). -/
def State.cacheopArrive (s : State) (r : Runner) (p : Pending) (sub va lines vmid asid : Nat) (part : Option Nat) : State :=
  let first := va / 128
  let left := ((List.range lines).map fun i => first + i).filter fun l => !p.done.contains l
  let now := match part with
    | some l => left.filter fun x => x == l
    | none => left
  let s := s.cacheLines r p.id sub vmid asid now
  match (s.gang? r.core r.slot).bind fun g => g.pending? p.id with
  | some q => if q.done.length == lines then s.deliver r.core r.slot p.id Out.none else s
  | none => s

end Sys2Proof.Machine
end

