-- ==== Sys2Proof/Machine/Reset.lean ====
section
/-! DEFINITION. The reset of a partition and what leads to it, uncorrectable errors, failed die links, and the host's
accesses to device memory (R175, R236, R308, R327, R392, R395, R397, R407). -/

namespace Sys2Proof.Machine

/-! ### The reset of a partition (R392) -/

/-- A core after a partition reset: no team, no gang, and nothing in flight. Its own registers and its L1 stay. -/
def Core.emptied (k : Core) : Core :=
  { k with
    teams := []
    gangs := []
    pipe0 := none
    pipe1 := none
    split := 0
    prefs := []
    accOps := []
    bankOps := []
    winOps := []
    reservations := [] }

/-- Whether a core lies in a partition. -/
def Partition.holdsCore (p : Partition) (core : Nat) : Bool := p.cmask.getLsbD (clusterOf core)

/-- Whether a number of R310 names an engine of a partition's clusters. -/
def Partition.holdsEngine (p : Partition) (eown : Nat) : Bool := eown % 8 != 7 && p.cmask.getLsbD (eown / 8)

/-- Point 1 of R392: cores and cluster units stop, the units take the state of R264, what they held at the homes is given up, and
nobody waits for what a copy had asked of another device. -/
def State.stopUnits (s : State) (p : Partition) : State :=
  let free := fun (x : L2Line) =>
    if x.dir.st == .en && p.holdsEngine x.dir.eown then
      { x with
        dir := DirEntry.empty
        dirty := true }
    else x
  let ends := fun (t : Txn) => match t.kind with
    | .getm core => p.holdsCore core
    | .write core _ _ => p.holdsCore core
    | .engine cl unit => p.holdsEngine (engineNo cl unit)
  let core := fun (k : Nat × Core) => (k.1, if p.holdsCore k.1 then k.2.emptied else k.2)
  let cluster := fun (k : Nat × Cluster) => (k.1, if p.cmask.getLsbD k.1 then Cluster.reset else k.2)
  let asks := fun (o : Outgoing) => match o.waiter with
    | .leat cl _ _ _ => if p.cmask.getLsbD cl then { o with waiter := .nobody } else o
    | _ => o
  { s with
    cores := s.cores.map core
    clusters := s.clusters.map cluster
    fabric := { s.fabric with out := s.fabric.out.map fun x => (x.1, asks x.2) }
    mem := { s.mem with
      l2 := s.mem.l2.map free
      txns := s.mem.txns.filter fun t => !ends t
      holds := s.mem.holds.filter fun h => !p.holdsCore h.core
      claims := s.mem.claims.filter fun c => !(c.core < 1024 && p.holdsCore c.core) } }

/-- Point 3 of R392: a grid in flight ends with status 4 and the code of the reset's cause. -/
def Grid.cut (g : Grid) (code : Option Code) : Grid :=
  { g.ended 4 { FaultRec.zero with code := code } 0 0 with
    unretired := g.unretired.map fun u => (u.1, true) }

/-- Point 4 of R392: the scheduler goes back to the first record that has not ended, and the parents whose
grids the reset ends are gone. -/
def Queue.rewound (q : Queue) (cut : Nat → Bool) : Queue :=
  { q with
    head := q.done
    rewind := true
    ended := []
    parents := q.parents.map fun x => (x.1, x.2.filter fun y => !cut y.grid) }

/-- A partition reset with a cause (R392). Status records and `QHEAD`s that a busy line or a full dirty ring keeps waiting
follow with later events, in this order. -/
def State.resetPartition (s : State) (pid : Nat) (code : Option Code) : State :=
  match s.part? pid with
  | none => s
  | some p =>
    let s := s.stopUnits p
    let queues := p.queues.map fun (q : Nat × Queue) => (q.1, q.2.rewound fun g => (s.grid? g).isSome)
    let s := s.modPart pid fun p =>
      { p with
        frames := []
        preempting := 0
        queues := queues }
    let cut := fun (g : Nat × Grid) => (g.1, if g.2.pid == pid then g.2.cut code else g.2)
    let s := { s with grids := s.grids.map cut }
    let mine := (s.grids.filter fun g => g.2.pid == pid).map fun g => g.1
    let s := mine.reverse.foldl State.retireGrid s
    let s := queues.foldl (fun (s : State) (q : Nat × Queue) => s.writeHead pid q.1 p q.2) s
    s.raiseIrq p.fn (Config.errorVector % 2048)

/-- A reset of every partition that a test names. -/
def State.resetWhere (s : State) (test : Partition → Bool) (code : Option Code) : State :=
  ((s.parts.filter fun p => test p.2).map fun p => p.1).foldl (fun (s : State) pid => s.resetPartition pid code) s

/-- Whether a partition holds a resident or an eligible team (R392). -/
def State.works (s : State) (pid : Nat) (p : Partition) : Bool :=
  s.cores.any (fun (k : Nat × Core) => p.holdsCore k.1 && !k.2.teams.isEmpty)
  || s.grids.any fun (g : Nat × Grid) => g.2.pid == pid && g.2.st == .eligible && decide (g.2.nextTeam < g.2.lr.total)

/-- WATCHDOG_EXPIRE (R392, R393). -/
def execWatchdogExpire (pid : Nat) (s : State) : Host.Outcome State Fault Refusal :=
  match s.part? pid with
  | none => .next s
  | some p =>
    if p.wdlim == 0 || p.paused || !s.works pid p then .next s else .next (s.resetPartition pid (some .watchdog))

/-- A queue disabled: `QEN` clear, and no watch on its header (R366, R395). -/
def State.disableQueue (s : State) (pid queue : Nat) : State :=
  match s.part? pid with
  | none => s
  | some p =>
    let q := p.queue queue
    (s.modQueue pid queue fun q =>
      { q with
        desc := q.desc &&& ~~~(BitVec.ofNat 128 (2 ^ 35))
        opened := false
        notice := false
        unread := false
        watched := none }).unwatch q.watched

/-- VF_FLR (R395): the VF's partition resets, and then every queue of it is disabled. In minimal mode there is no VF (R406). -/
def execVfFlr (vf : Nat) (s : State) : Host.Outcome State Fault Refusal :=
  let mine := if s.boot.minimal then [] else s.parts.filter fun p => p.2.spect == vf
  .next (mine.foldl (fun (s : State) (p : Nat × Partition) =>
    p.2.queues.foldl (fun (s : State) (q : Nat × Queue) => s.disableQueue p.1 q.1) (s.resetPartition p.1 none)) s)

/-- THERMAL_TRIP (R407). The event's partition and address are free. -/
def execThermalTrip (s : State) : Host.Outcome State Fault Refusal :=
  let s := s.resetWhere (fun _ => true) none
  let s := { s with pkg := { s.pkg with hot := true } }
  let (n, s) := s.takeFree
  let (m, s) := s.takeFree
  .next (s.post 0 { kind := .thermalTrip, pid := (Config.freeWord n).toNat, addr := (Config.freeDWord m).toNat })

/-- THERMAL_TRIP_CLEAR (R407): every sensor reads below 95 C. -/
def execThermalTripClear (s : State) : Host.Outcome State Fault Refusal :=
  .next { s with pkg := { s.pkg with hot := false } }

/-! ### Uncorrectable errors (R175, R308) -/

/-- A count that stays at its greatest value. -/
def satAdd (w : Word) : Word := if w == BitVec.allOnes 32 then w else w + 1

/-- An uncorrectable error in an L1 line: a clean line is dropped, a dirty one is lost (R175). -/
def State.l1Error (s : State) (core tag line : Nat) : State :=
  match (s.core core).l1? tag line with
  | none => s
  | some x => if x.leavesDirty then s.modL1 core tag line fun y => { y with lost := true } else s.putClean core tag line x

/-- SRAM_UNCORRECTABLE (R175): the error is counted in `SRAMERR`. -/
def execSramUncorrectable (core : Nat) (site : SramSite) (s : State) : Host.Outcome State Fault Refusal :=
  let s := s.modCore core fun k => k.countErrors 1
  match site with
  | .scratch team granule =>
    .next (s.modTeam core team fun t => if 16 * granule < t.scratchBytes then t.setGranule granule .poison else t)
  | .l1 tag line => .next (s.l1Error core tag line)
  | _ =>
    match s.partOfCluster (clusterOf core) with
    | some (pid, _) => .next (s.resetPartition pid none)
    | none => .next s

/-- A physical line is lost (R308, R327). -/
def State.loseLine (s : State) (pline : Nat) : State := s.setLineMeta pline { s.lineMeta pline with lost := true }

/-- Bytes that an uncorrectable error leaves: free (log entry 7). -/
def State.freeLine (s : State) : List Byte × State :=
  let n := s.free
  ((List.range 16).flatMap fun k => leBytes 8 (Config.freeDWord (n + k)).toNat, { s with free := n + 16 })

/-- The control core of a die counts an uncorrectable error of its L2 or memory (R308). -/
def State.countError (s : State) (die : Nat) : State :=
  s.modMem fun m => { m with errors := Table.put m.errors die (Table.getD m.errors die 0 + 1) }

/-- L2_UNCORRECTABLE (R308): a clean line is dropped and refetched, so that it holds memory's bytes; a dirty line, or a
line of HBM4, becomes `LOST`, and its bytes are free. The die's control core counts it. -/
def execL2Uncorrectable (site : L2Site) (s : State) : Host.Outcome State Fault Refusal :=
  match site with
  | .hbm pline =>
    if s.deviceBytes ≤ 128 * pline then .next s
    else
      let (bs, s) := s.freeLine
      .next (((s.physWrite (128 * pline) bs).loseLine pline).countError (physSlice pline / 128))
  | .l2 tag line =>
    match s.mem.l2.find? fun x => x.tag == tag && x.line == line with
    | none => .next s
    | some x =>
      let s := s.countError (x.slice / 128)
      let one := fun (f : L2Line → L2Line) (m : MemSide) =>
        { m with l2 := m.l2.map fun y => if y.tag == tag && y.line == line then f y else y }
      if x.remote then
        .next (s.modMem fun m => { m with l2 := m.l2.filter fun y => !(y.tag == tag && y.line == line) })
      else if x.dirty then
        let (bs, s) := s.freeLine
        .next ((s.modMem (one fun y => { y with data := bs })).loseLine x.pline)
      else .next (s.modMem (one fun y => { y with data := Memory.readN s.mem.hbm (128 * x.pline) 128 }))

/-! ### A failed die link (R327) -/

/-- Whether a partition's VM has an ASID (R318, R321): its ASID table holds a valid entry. -/
def State.hasAsid (s : State) (p : Partition) (asid : Nat) : Bool := (s.physNat (p.asidBase + 8 * asid) 8).testBit 63

/-- The physical lines of a line with a message on a failed link: those that the L2 holds under its ASID, and those that the
tables of the partitions with that ASID lead to (R318, R327). -/
def State.plinesOf (s : State) (asid line : Nat) : List Nat :=
  let cached := (s.mem.l2.filter fun x => x.tag % 2 ^ 20 == asid && x.tag != physAsid && x.line == line && !x.remote).map
    fun x => x.pline
  let mapped := s.parts.filterMap fun p => if s.hasAsid p.2 asid then s.plineOf p.2.vmid asid line else none
  let heap := if asid == heapAsid then (s.plineOf 0xFF heapAsid line).toList else []
  unionNat (unionNat cached mapped) heap

/-- A transaction with a message on the failed link ends: its line is lost, and a write held by it is not performed. -/
def State.cutLine (s : State) (asid line : Nat) : State :=
  let lost := s.plinesOf asid line
  let s := s.modMem fun m => { m with txns := m.txns.filter fun t => !(t.tag % 2 ^ 20 == asid && t.line == line) }
  lost.foldl State.loseLine s

/-- Whether a partition had a message on a line of the failed link (R327): a home transaction of the line is one of its cores or
engines, or a counted access of one of its gangs has bytes of the line left. -/
def State.hasMessage (s : State) (p : Partition) (asid line : Nat) : Bool :=
  let mine := fun (t : Txn) => t.tag % 2 ^ 20 == asid && t.line == line && (match t.kind with
    | .getm core => p.holdsCore core
    | .write core _ _ => p.holdsCore core
    | .engine cl unit => p.holdsEngine (engineNo cl unit))
  s.mem.txns.any mine || s.cores.any fun (k : Nat × Core) => p.holdsCore k.1 && k.2.gangs.any fun (g : Nat × Gang) =>
    match s.runner? k.1 g.1 with
    | none => false
    | some r =>
      g.2.pending.any fun q => q.counted && q.rest.any fun x =>
        (if s.inHeap x.1 then heapAsid else r.grid.asid) == asid && rangesMeet x (128 * line, 128)

/-- DIE_LINK_FAIL (R327): the link's lines are lost, and every partition that holds one of their ASIDs, or that had a message
on one of them, resets. -/
def execDieLinkFail (a b : Nat) (lines : List (Nat × Nat)) (s : State) : Host.Outcome State Fault Refusal :=
  if !(decide (a < b) && decide (b < 4)) || s.mem.failedLinks.contains (a, b) then .next s
  else
    let s := s.modMem fun m => { m with failedLinks := m.failedLinks ++ [(a, b)] }
    let hit := (s.parts.filter fun p => lines.any fun l => s.hasAsid p.2 l.1 || s.hasMessage p.2 l.1 l.2).map fun p => p.1
    let t := lines.foldl (fun (s : State) (l : Nat × Nat) => s.cutLine l.1 l.2) s
    .next (hit.foldl (fun (s : State) pid => s.resetPartition pid (some .lineLost)) t)

/-! ### The host's accesses to device memory (R236, R396, R397) -/

/-- Whether the HDM decoder maps an access. -/
def State.hdmMaps (s : State) (pa len : Nat) : Bool := decide (pa + len ≤ min s.pkg.hdm s.deviceBytes)

/-- A refused host access is counted, recorded while `VALID` is clear, and posted (R397). The event's partition is free. -/
def State.hostRefused (s : State) (pa : Nat) (wr : Bool) : State :=
  let g := s.pkg
  let s := { s with pkg := { g with
    hvCount := satAdd g.hvCount
    hvValid := true
    hvWr := if g.hvValid then g.hvWr else wr
    hvAddr := if g.hvValid then g.hvAddr else pa } }
  let (n, s) := s.takeFree
  s.post 0 { kind := .hostViolation, pid := (Config.freeWord n).toNat, addr := pa }

/-- The L2 line of a physical line that a host access hits is the most recently used (R319). -/
def State.touchPline (s : State) (pline : Nat) : State :=
  match s.mem.l2.find? fun x => x.pline == pline && !x.remote with
  | some x => s.touchL2 x.tag x.line pline
  | none => s

/-- A host write performs at the home: every copy on the device takes part (R44, R219, R317). -/
def State.hostWrite (s : State) (pa : Nat) (bs : List Byte) : State :=
  let pline := pa / 128
  let s := s.noteStale pline (lineWords (s.performedLine pline))
  let held := s.mem.l2.filter fun x => x.pline == pline && !x.remote
  let s := held.foldl (fun (s : State) x => (s.dropTracked x.tag x.line).modMem fun m =>
    { m with l2 := m.l2.map fun y =>
        if y.tag == x.tag && y.line == x.line then
          { y with
            data := patch y.data (pa % 128) bs
            dir := DirEntry.empty }
        else y }) s
  (s.physWrite pa bs).notify pline

/-- The valid entries of a table of n entries, by their numbers, among those that memory lists: any other reads as zero
(log entry 4). -/
def State.validEntries (s : State) (base n : Nat) : List (Nat × Nat) :=
  let at_ := (s.mem.hbm.filter fun c => decide (base ≤ c.1) && decide (c.1 < base + 8 * n)).map fun c => (c.1 - base) / 8
  (at_.eraseDups.map fun i => (i, s.physNat (base + 8 * i) 8)).filter fun e => e.2.testBit 63

/-- The pages that the tables of an address space lead to, each by ASID and address (R321). -/
def State.pagesOf (s : State) (p : Partition) : List (Nat × Nat) :=
  (s.validEntries p.asidBase 65536).flatMap fun a =>
    (s.validEntries (tableAddr a.2) 16).flatMap fun r =>
      (s.validEntries (tableAddr r.2) 8192).flatMap fun x =>
        (s.validEntries (tableAddr x.2) 8192).flatMap fun y =>
          let va := 2 ^ 52 * r.1 + 2 ^ 39 * x.1 + 2 ^ 26 * y.1
          if y.2.testBit 60 then [(a.1, va)]
          else (s.validEntries (tableAddr y.2) 1024).map fun z => (a.1, va + 65536 * z.1)

/-- Whether a frame lies on an IP page of some VM (R229). -/
def State.ipFrame (s : State) (frame : Nat) : Bool :=
  s.parts.any fun (p : Nat × Partition) => (s.pagesOf p.2).any fun x =>
    match s.walk p.2.vmid x.1 x.2 with
    | .leaf e _ f big => (leafPerms e).attr == .ip && decide (f ≤ frame) && decide (frame < f + (if big then 1024 else 1))
    | .fail .. => false

/-- Whether a physical line lies on an IP page: a page table, a cache or the TLB says so (R229). -/
def State.ipLine (s : State) (pline : Nat) : Bool :=
  s.mem.l2.any (fun x => x.pline == pline && x.perms.attr == .ip)
  || s.cores.any (fun (k : Nat × Core) => k.2.l1.any fun x => x.pline == pline && x.perms.attr == .ip)
  || s.mem.tlb.any (fun e =>
    e.perms.attr == .ip && decide (e.frame ≤ pline / 512) && decide (pline / 512 < e.frame + (if e.big then 1024 else 1)))
  || s.ipFrame (pline / 512)

/-- The answer to a host access. -/
def State.hostAnswer (s : State) (r : HostReply) : State := { s with pkg := { s.pkg with hostReply := some r } }

/-- The answer to a host access that is not served: poison, and the code that it reports (R206, R229, R236). -/
def poisoned (pa : Nat) (code : Option Code) : HostReply := { pa := pa, data := [], poison := true, code := code }

/-- HOST_MEM_ACCESS (R229, R236, R397): of a host-owned page it performs; of a device-owned page a read returns poison and a
write is discarded, and both are logged. Of an IP page it is refused with IP_OWNER, whoever owns the frame. Beyond the HDM
window, and of a lost line, a read returns poison and a write is discarded. One access lies in one line, and waits while the
home is busy with it. -/
def execHostMemAccess (pa len : Nat) (write : Option (List Byte)) (s : State) : Host.Outcome State Fault Refusal :=
  let pline := pa / 128
  let unserved := fun (s : State) (code : Option Code) =>
    if write.isNone || code.isSome then s.hostAnswer (poisoned pa code) else s
  if len == 0 || 128 < pa % 128 + len then .next s
  else if !s.hdmMaps pa len then .next (unserved s none)
  else if !(s.frameBits (pa / 65536)).host then
    .next (unserved (s.hostRefused pa write.isSome) (if s.ipLine pline then some .ipOwner else none))
  else if s.ipLine pline then .next (unserved s (some .ipOwner))
  else if (s.lineMeta pline).lost then .next (unserved s (some .lineLost))
  else if s.mem.l2.any (fun x => x.pline == pline && ((s.txn? x.tag x.line).isSome || x.dir.st == .en)) then .next s
  else
    match write with
    | none =>
      .next ((s.touchPline pline).hostAnswer
        { pa := pa, data := slice (s.performedLine pline) (pa % 128) len, poison := false, code := none })
    | some bs => .next (if bs.length == len then (s.hostWrite pa bs).touchPline pline else s)

end Sys2Proof.Machine
end

