-- ==== Sys2Proof/Machine/Host.lean ====
section
/-! DEFINITION. Start and boot, the mailbox and its basic commands, and the debugger (R237, R336, R340, R364, R365, R384,
R395, R398 to R407). -/

namespace Sys2Proof.Machine

/-! ### Start (R403 to R406) -/

/-- A mailbox after a restart: its registers at their after-reset values; what the device has sent stays sent. -/
def Mailbox.restarted (m : Mailbox) : Mailbox := { Mailbox.reset with events := m.events, irqs := m.irqs }

/-- The package restarted: every unit at its after-reset value, with the given boot state and surviving memory. After a thermal
trip it goes on issuing nothing until the sensors have cooled (R407). -/
def State.restarted (s : State) (boot : Boot) (hbm : List Host.Cell) (lines : Table LineMeta) : State :=
  { State.reset with
    agenda := s.agenda
    cur := s.cur
    free := s.free
    next := s.next
    boot := boot
    pkg := { State.reset.pkg with hot := s.pkg.hot }
    mailboxes := s.mailboxes.map fun m => (m.1, m.2.restarted)
    mem := { MemSide.reset with
      hbm := hbm
      lines := lines } }

/-- The host's memory, which no reset of the device changes. -/
def hostCells (hbm : List Host.Cell) : List Host.Cell := hbm.filter fun c => isHostPa c.1

/-- A start from stage 0 (R404, R406): in minimal mode after three failed starts, or when asked. The cause of the last
failed start is given. -/
def State.start (s : State) (cause detail : BitVec 8) : State :=
  let b := s.boot
  let minimal := b.fails == 3 || b.askMinimal
  s.restarted
    { b with
      stage := 0
      minimal := minimal
      slot := b.preferred
      cause := cause
      detail := detail
      stopped := false
      memSide := minimal || b.options.getLsbD 8
      runningSvn := 0
      entry := 0
      askMinimal := false } (hostCells s.mem.hbm) []

/-- COLD_RESET (R9, R404). A device in minimal mode starts in it again: only RESTART 0 leads back (R406; log entry 42). -/
def execColdReset (s : State) : Host.Outcome State Fault Refusal :=
  .next (State.start { s with boot := { s.boot with askMinimal := s.boot.minimal } } 0 0)

/-- A failed start (R406): it is counted, the slot not used becomes the preferred one, and the package starts again; a
minimal start stops at its stage. -/
def State.failStart (s : State) (cause detail : Nat) : State :=
  let b := { s.boot with
    fails := min 3 (s.boot.fails + 1)
    preferred := !s.boot.slot
    cause := BitVec.ofNat 8 cause
    detail := BitVec.ofNat 8 detail }
  let s := { s with boot := b }
  if b.minimal then { s with boot := { b with stopped := true } } else s.start b.cause b.detail

/-- Bytes of an image slot. -/
def Image.bytes (i : Image) (off n : Nat) : List Byte := (List.range n).map fun k => Table.getD i (off + k) 0

/-- Whether a slot holds an image: its header has the magic and the format (R403). -/
def Image.present (i : Image) : Bool :=
  leNat (i.bytes 0 8) == 0x31474D494E545258 && leNat (i.bytes 8 4) == 1

/-- The security version of an image (R403). -/
def Image.svn (i : Image) : Nat := leNat (i.bytes 12 4)

/-- Whether an image passes the checks of R403 on its key, its signature and its reserved bytes. -/
def Image.signed (i : Image) : Bool :=
  let key := i.bytes 40 97
  sha384 key == Config.fusedKeyHash && ecdsaOk key (i.bytes 137 96) (i.bytes 0 137 ++ i.bytes 512 (leNat (i.bytes 16 8)))
  && (i.bytes 233 279).all fun b => b == 0

/-- Whether an image verifies (R403). -/
def Boot.verifies (b : Boot) (i : Image) : Bool := i.present && i.signed && decide (b.fusedSvn ≤ i.svn)

/-- The image of a slot, if it holds one. -/
def Boot.image (b : Boot) (slot : Bool) : Option Image :=
  match if slot then b.imageB else b.imageA with
  | some i => if i.present then some i else none
  | none => none

/-- The slot that stage 2 loads (R404): the preferred one, or the other one if the preferred one does not verify and the
other holds an image. -/
def Boot.choose (b : Boot) : Option Bool :=
  match b.image b.preferred, b.image (!b.preferred) with
  | none, none => none
  | some _, none => some b.preferred
  | none, some _ => some (!b.preferred)
  | some i, some _ => some (if b.verifies i then b.preferred else !b.preferred)

/-- What the check of stage 3 finds (R404): a cause, or the image's security version. -/
def Boot.check (b : Boot) : Except Nat Nat :=
  match b.image b.slot with
  | none => .error 3
  | some i => if !i.signed then .error 3 else if i.svn < b.fusedSvn then .error 4 else .ok i.svn

/-- A stage of the start completes, and the next one is in progress. -/
def State.nextStage (s : State) (f : Boot → Boot) : State :=
  { s with boot := f { s.boot with stage := s.boot.stage + 1 } }

/-- Whether a stage may fail with a cause and detail (R404): in minimal mode only die 0 runs. -/
def Boot.mayFail (b : Boot) (cause detail : Nat) : Bool :=
  match b.stage, cause with
  | 1, 1 => decide (detail < if b.minimal then 3 else 12)
  | 4, 5 => !b.minimal && decide (detail < 6)
  | 4, 6 => decide (detail < if b.minimal then 1 else 4)
  | 5, 8 => decide (detail < 256)
  | _, _ => false

/-- The Herlet ports as stage 5 begins to train them; in minimal mode Herlet is off (R404, R406). -/
def State.trainPorts (s : State) : State :=
  if s.boot.minimal then s
  else
    { s with fabric := { s.fabric with
        ports := (List.range 36).map fun n => (n, { Port.reset with st := 1 }) } }

/-- Stage 2 loads the image of a slot (R403, R404): its body goes to device memory from its load address on, where the primary
control core is to begin at its entry. A cleared memory holds the body's zero bytes already. -/
def State.loadImage (s : State) (slot : Bool) : State :=
  let i := (s.boot.image slot).getD []
  let load := leNat (i.bytes 24 8)
  let body := i.filter fun x => decide (512 ≤ x.1) && decide (x.1 < 512 + leNat (i.bytes 16 8))
  let put := fun (s : State) (x : Nat × Byte) =>
    let pa := load + (x.1 - 512)
    if pa < s.deviceBytes then s.physWrite pa [x.2] else s
  (body.foldl put s).nextStage fun b =>
    { b with
      slot := slot
      entry := leNat (i.bytes 32 8) }

/-- START_STAGE_COMPLETE (R404 to R406). Stages 2 and 3 are decided by the images; what the others meet is given. -/
def execStartStageComplete (fail : Option (Nat × Nat)) (s : State) : Host.Outcome State Fault Refusal :=
  let b := s.boot
  if 6 ≤ b.stage || b.stopped then .next s
  else
    match b.stage, fail with
    | 0, _ => .next (s.nextStage id)
    | 2, _ =>
      match b.choose with
      | none => .next (s.failStart 2 0)
      | some slot => .next (s.loadImage slot)
    | 3, _ =>
      match b.check with
      | .error cause => .next (s.failStart cause 0)
      | .ok svn => .next (s.nextStage fun b => { b with runningSvn := svn })
    | _, some (cause, detail) => .next (if b.mayFail cause detail then s.failStart cause detail else s)
    | 4, none => .next (s.nextStage id).trainPorts
    | 5, none =>
      .next { s.nextStage (fun b => { b with fails := if b.minimal then 3 else 0 }) with
        fabric := { s.fabric with devid := Config.deviceId }
        pkg := { s.pkg with hdm := Config.hdmWindow } }
    | _, none => .next (s.nextStage id)

/-- START_WATCHDOG_EXPIRE (R404). -/
def execStartWatchdogExpire (s : State) : Host.Outcome State Fault Refusal :=
  if 6 ≤ s.boot.stage || s.boot.stopped then .next s else .next (s.failStart 7 s.boot.stage)

/-- HOST_RESET (R395): the package restarts at stage 4, and HBM4 keeps its contents. A start that has not come so far, or
that has stopped, stays where it is. -/
def execHostReset (s : State) : Host.Outcome State Fault Refusal :=
  if s.boot.stage < 4 || s.boot.stopped then .next s
  else
    .next (s.restarted
      { s.boot with
        stage := 4
        cause := 0
        detail := 0 } s.mem.hbm s.mem.lines)

/-- `BOOTSTS` (R405). -/
def Boot.status (b : Boot) : Nat :=
  b.stage * 2 ^ 28 + (if b.minimal then 2 ^ 26 else 0) + b.fails * 2 ^ 22 + (if b.slot then 2 ^ 21 else 0)
  + b.cause.toNat * 256 + b.detail.toNat

/-! ### The mailbox (R398, R399) -/

/-- A command's number is one of R399's. -/
def knownCommand (opc : Nat) : Bool :=
  [0x01, 0x02, 0x03, 0x04, 0x10, 0x11, 0x12, 0x13, 0x20, 0x30, 0x31, 0x32, 0x40, 0x41, 0x42, 0x50, 0x60, 0x70, 0x71, 0x72,
    0x73, 0x74, 0x75, 0x76, 0x77, 0x8000, 0x8001].contains opc

/-- The commands that a VF may issue (R399). -/
def vfCommand (opc : Nat) : Bool :=
  [0x01, 0x12, 0x13, 0x20, 0x50, 0x70, 0x71, 0x72, 0x73, 0x74, 0x75, 0x76, 0x77].contains opc

/-- The commands accepted from stage 1 onward (R404). -/
def earlyCommand (opc : Nat) : Bool := decide (1 ≤ opc) && decide (opc ≤ 4)

/-- Whether a function's command is the next one that the primary control core performs (R398). -/
def State.commandNext (s : State) (fn opc : Nat) : Bool :=
  let m := s.mailbox fn
  m.db && m.opc.toNat == opc
  && s.mailboxes.all fun (x : Nat × Mailbox) => !x.2.db || x.1 == fn || decide (m.arrival < x.2.arrival)

/-- Bytes of a payload replaced; zero bytes are not listed. -/
def putBytes (t : Table Byte) (off : Nat) : List Byte → Table Byte
  | [] => t
  | b :: bs => putBytes (if b == 0 then Table.del t off else Table.put t off b) (off + 1) bs

/-- The command whose doorbell arrived first of those that stand (R398). -/
def State.firstCommand (s : State) : Option Nat :=
  let ahead := fun (m : Mailbox) => (List.range 65).all fun n => !(s.mailbox n).db || decide (m.arrival ≤ (s.mailbox n).arrival)
  (List.range 65).find? fun fn => (s.mailbox fn).db && ahead (s.mailbox fn)

/-- The code of a command that no stage and no mode performs (R398, R399): a VF's that is not one of its own, an unknown one,
or one whose `LEN` is over the limit. -/
def Mailbox.refusal (m : Mailbox) (fn : Nat) : Option Nat :=
  if fn != 0 && !vfCommand m.opc.toNat then some 2
  else if !knownCommand m.opc.toNat then some 1
  else if 4096 < m.len.toNat then some 3
  else none

/-- A command's registers as it completes (R398): result bytes in the payload, `RLEN`, `RC`, and `DB` clear. -/
def State.finish (s : State) (fn rc : Nat) (result : List Byte) : State :=
  s.modMailbox fn fun m =>
    { m with
      db := false
      rc := BitVec.ofNat 16 rc
      rlen := BitVec.ofNat 32 result.length
      payload := putBytes m.payload 0 result }

/-- The commands next in order that are refused whatever the mode, each answered in its turn (R398). -/
def State.answered (s : State) : Nat → State
  | 0 => s
  | n + 1 =>
    match s.firstCommand with
    | none => s
    | some fn =>
      match (s.mailbox fn).refusal fn with
      | some rc => (s.finish fn rc []).answered n
      | none => s

/-- A command completes (R398), and those that follow it and are refused whatever the mode are answered. -/
def State.complete (s : State) (fn rc : Nat) (result : List Byte) : State := (s.finish fn rc result).answered 65

/-- What a command comes to: it is refused with a code, it is done with a result, or it waits. -/
inductive Answer where
  | refused (rc : Nat)
  | done (s : State) (result : List Byte)
  | wait
  deriving DecidableEq, Repr

/-- A command done with no result. -/
def Answer.ok (s : State) : Answer := .done s []

/-- A command of a function (R398, R399, R404): known, allowed to the function and in the mode, and then carried out. At
stage 0 the early commands wait, unless the start has stopped there (R406). -/
def State.command (s : State) (fn opc : Nat) (run : State → Answer) : Host.Outcome State Fault Refusal :=
  if !s.commandNext fn opc then .next s
  else
    let ready := s.boot.stage == 6 && !s.boot.stopped
    if let some rc := (s.mailbox fn).refusal fn then .next (s.complete fn rc [])
    else if !ready && !earlyCommand opc then .next (s.complete fn 4 [])
    else if s.boot.stage == 0 && !s.boot.stopped then .next s
    else
      match run s with
      | .refused rc => .next (s.complete fn rc [])
      | .done t result => .next (t.complete fn 0 result)
      | .wait => .next s

/-- The partition that a command of a function acts on (R398, R399): the one it names for the PF, and a VF's own whatever
it names. -/
def State.partFor (s : State) (fn pid : Nat) : Option (Nat × Partition) :=
  if fn == 0 then (s.part? pid).map fun p => (pid, p) else s.parts.find? fun (n, p) => p.fn == fn && s.part? n == some p

/-- A write to a mailbox or to a package register that has no command (R7, R8, R397, R398). -/
def State.busWrite (s : State) (v : Nat) : BusReg → State
  | .mbctl fn =>
    let m := s.mailbox fn
    if !bitOf v 0 || m.db then s
    else
      let (n, s) := s.fresh
      (s.modMailbox fn fun m =>
        { m with
          db := true
          arrival := n }).answered 65
  | .mbcmd fn =>
    s.modMailbox fn fun m =>
      if m.db then m else { m with len := BitVec.ofNat 32 (bitsOf v 63 32), opc := BitVec.ofNat 16 v }
  | .mbpayload fn off =>
    if 4088 < off || off % 8 != 0 then s
    else s.modMailbox fn fun m => if m.db then m else { m with payload := putBytes m.payload off (leBytes 8 v) }
  | .hvinfo => { s with pkg := { s.pkg with hvValid := s.pkg.hvValid && !bitOf v 63 } }
  | .walkerr unit =>
    s.modMem fun m =>
      { m with walkerr := Table.modify m.walkerr unit fun w => { w with valid := w.valid && !bitOf v 63 } }
  | _ => s

/-- Whether a bus register's function exists: the PF, and outside minimal mode 64 VFs (R394, R406). -/
def State.functionOf (s : State) : BusReg → Bool
  | .mbctl fn | .mbcmd fn | .mbpayload fn _ | .mbcap fn | .mbsts fn => fn == 0 || (!s.boot.minimal && decide (fn ≤ 64))
  | _ => true

/-- REGISTER_WRITE (R7, R8, R398). -/
def execRegisterWrite (reg : BusReg) (value : DWord) (s : State) : Host.Outcome State Fault Refusal :=
  .next (if s.functionOf reg then s.busWrite value.toNat reg else s)

/-- GETSTATUS (R399): `BOOTSTS`, the firmware's version and its security version, each in four bytes. -/
def execGetstatus (fn : Nat) (s : State) : Host.Outcome State Fault Refusal :=
  s.command fn 0x01 fun s =>
    .done s (leBytes 4 s.boot.status ++ leBytes 4 (Config.firmwareVersion s.boot.runningSvn).toNat
      ++ leBytes 4 s.boot.runningSvn)

/-- RESTART (R399, R406): the package starts again, in minimal mode when asked. -/
def execRestart (fn arg : Nat) (s : State) : Host.Outcome State Fault Refusal :=
  s.command fn 0x02 fun s =>
    if 2 ≤ arg then .refused 3
    else
      .ok (State.start { s with boot := { s.boot with
        fails := if arg == 0 then 0 else s.boot.fails
        askMinimal := arg == 1 } } 0 0)

/-- IMGWRITE (R399): a chunk of at most 4,096 bytes goes to the slot not in use. -/
def execImgwrite (fn off : Nat) (chunk : List Byte) (s : State) : Host.Outcome State Fault Refusal :=
  s.command fn 0x03 fun s =>
    if 4096 < chunk.length then .refused 3
    else
      let put := fun (i : Option Image) => some (putBytes (i.getD []) off chunk)
      let b := s.boot
      .ok { s with boot :=
        if b.slot then { b with imageA := put b.imageA } else { b with imageB := put b.imageB } }

/-- IMGSELECT (R399): bit 0 names the preferred slot, and bit 8 asks for memory-side mode, from the next start on. -/
def execImgselect (fn : Nat) (arg : Word) (s : State) : Host.Outcome State Fault Refusal :=
  s.command fn 0x04 fun s =>
    .ok { s with boot := { s.boot with
      preferred := arg.getLsbD 0
      options := arg } }

/-! ### Partitions and queues (R364, R365, R384, R392) -/

/-- Whether a partition holds a resident team (R364). -/
def State.residentIn (s : State) (p : Partition) : Bool :=
  s.cores.any fun (k : Nat × Core) => p.holdsCore k.1 && !k.2.teams.isEmpty

/-- Whether clusters may belong to a partition (R364, R406): none lies in another one, and in minimal mode all are of
die 0. -/
def State.clustersOk (s : State) (pid : Nat) (mask : BitVec 64) : Bool :=
  s.parts.all (fun (p : Nat × Partition) => p.1 == pid || (p.2.cmask &&& mask) == 0)
  && (!s.boot.minimal || decide (mask.toNat < 2 ^ 16))

/-- Whether a VM and a VF may belong to a partition: both to no other one (R318, R337, R395). -/
def State.identityOk (s : State) (pid vmid vf : Nat) : Bool :=
  decide (vmid < 0xFF) && decide (vf < 64)
  && s.parts.all fun (p : Nat × Partition) => p.1 == pid || (p.2.vmid != vmid && p.2.spect != vf)

/-- PARTCREATE (R364, R399). -/
def execPartcreate (fn pid : Nat) (clusters : BitVec 64) (vmid vf : Nat) (s : State) : Host.Outcome State Fault Refusal :=
  s.command fn 0x10 fun s =>
    if 64 ≤ pid || (s.part? pid).isSome || !s.clustersOk pid clusters || !s.identityOk pid vmid vf then .refused 3
    else
      let p := { Partition.reset with cmask := clusters, vmid := vmid, spect := vf }
      .ok { s with parts := Table.put s.parts pid p }

/-- The L1s of a partition's cores written back and emptied, as firmware does before their clusters pass on (R318). -/
def State.cleanL1s (s : State) (p : Partition) : State :=
  (s.cores.filter fun k => p.holdsCore k.1).foldl (fun (s : State) (k : Nat × Core) =>
    k.2.l1.foldl (fun s x => s.putLine k.1 x) s) s

/-- PARTDESTROY (R364, R399): a partition with a resident team or a grid in flight is refused (log entry 19). -/
def execPartdestroy (fn pid : Nat) (s : State) : Host.Outcome State Fault Refusal :=
  s.command fn 0x11 fun s =>
    match s.part? pid with
    | none => .refused 3
    | some p =>
      if s.residentIn p || s.grids.any fun (g : Nat × Grid) => g.2.pid == pid then .refused 3
      else
        let s := p.queues.foldl (fun (s : State) (q : Nat × Queue) => s.disableQueue pid q.1) (s.cleanL1s p)
        .ok { s with parts := Table.del s.parts pid }

/-- PARTRESET (R392, R399). -/
def execPartreset (fn pid : Nat) (s : State) : Host.Outcome State Fault Refusal :=
  s.command fn 0x12 fun s =>
    match s.partFor fn pid with
    | none => .refused 3
    | some (pid, _) => .ok (s.resetPartition pid none)

/-- PREEMPT (R384): the clusters named are pre-empted, and their rasteriser gates close. -/
def execPreemptCmd (fn pid : Nat) (clusters : BitVec 64) (s : State) : Host.Outcome State Fault Refusal :=
  s.command fn 0x13 fun s =>
    match s.partFor fn pid with
    | none => .refused 3
    | some (pid, p) =>
      if (clusters &&& ~~~p.cmask) != 0 then .refused 3
      else
        let s := s.modPart pid fun p => { p with preempting := p.preempting ||| clusters }
        let close := fun (k : Cluster) => { k with vis := { k.vis with gateClosed := true } }
        .ok (((List.range 64).filter fun c => clusters.getLsbD c).foldl (fun (s : State) c => s.modCluster c close) s)

/-- Whether the mailbox takes a queue descriptor (R365). A 56-bit `QBASE` is canonical. -/
def queueDescOk (desc : BitVec 128) : Bool :=
  let d := desc.toNat
  bitsOf d 33 0 == 0 && bitsOf d 55 52 != 1 && bitsOf d 127 72 % 256 == 0

/-- A queue descriptor set (R365): `QEN` from 0 to 1 opens the queue, and a queue disabled is no longer watched. -/
def State.setQueue (s : State) (pid queue : Nat) (desc : BitVec 128) : State :=
  match s.part? pid with
  | none => s
  | some p =>
    let on := (p.queue queue).enabled
    let s := s.modQueue pid queue fun q =>
      { q with
        desc := desc
        opened := q.opened && on
        notice := q.notice || (!on && desc.getLsbD 35) }
    if desc.getLsbD 35 then s else s.disableQueue pid queue

/-- QUEUESET (R364, R365; log entry 64). A queue with `QSYS` is enabled by the PF's function alone (R389). -/
def execQueueset (fn pid queue : Nat) (desc : BitVec 128) (s : State) : Host.Outcome State Fault Refusal :=
  s.command fn 0x20 fun s =>
    match s.partFor fn pid with
    | none => .refused 3
    | some (pid, p) =>
      if fn != 0 && desc.getLsbD 36 && desc.getLsbD 35 then .refused 2
      else if 16 ≤ queue || s.residentIn p || !queueDescOk desc then .refused 3 else .ok (s.setQueue pid queue desc)

/-! ### Millpond pools and views (R335, R336, R340) -/

/-- A pool as its record describes it, at its enable (R336). The counts of its status words go on (R358). -/
def poolOf (old : Option Pool) (bs : List Byte) : Pool :=
  let d := dwordAt bs
  let n := bitsOf (d 1) 22 0
  { enabled := true, hbase := bitsOf (d 0) 55 0, strict := bitOf (d 1) 62, big := bitOf (d 1) 61, hcount := n,
    qlog := bitsOf (d 2) 63 59, qbase := bitsOf (d 2) 55 0, agethr := bitsOf (d 3) 63 48, inflim := bitsOf (d 3) 47 32,
    wmark := bitsOf (d 3) 22 0, frame := 0, free := List.range n, quar := [], noallocs := (old.map Pool.noallocs).getD 0,
    sluiceovf := (old.map Pool.sluiceovf).getD 0, qtail := 0, hands := [] }

/-- Whether a record's `EN` is set, its reserved bits clear and its values inside their limits (R336). -/
def poolRecordOk (bs : List Byte) : Bool :=
  let d := dwordAt bs
  bitOf (d 1) 63 && bitsOf (d 0) 63 56 == 0 && bitsOf (d 1) 60 23 == 0 && bitsOf (d 2) 58 56 == 0
  && bitsOf (d 3) 31 23 == 0 && (d 4 == 0 && d 5 == 0 && d 6 == 0 && d 7 == 0)
  && bitsOf (d 0) 15 0 == 0 && bitsOf (d 2) 5 0 == 0 && decide (4 ≤ bitsOf (d 2) 63 59) && decide (bitsOf (d 2) 63 59 ≤ 20)
  && decide (1 ≤ bitsOf (d 3) 63 48) && decide (2 ≤ bitsOf (d 3) 47 32)

/-- Whether the page of an address lies in the heap window, present, RC and writable (R336, R337). -/
def State.heapPageOk (s : State) (va : Nat) : Bool :=
  s.inHeap va && (match s.walk 0xFF heapAsid va with
    | .leaf e _ _ _ => attrOf (bitsOf e 62 61) == .rc && e.testBit 58
    | .fail .. => false)

/-- Whether every page of a range is such a page. -/
def State.heapRangeOk (s : State) (va n : Nat) : Bool :=
  (List.range ((va + n + 65535) / 65536 - va / 65536)).all fun k => s.heapPageOk (va / 65536 * 65536 + 65536 * k)

/-- Whether the Millpond may enable a pool (R336). -/
def State.poolOk (s : State) (pool : Nat) (bs : List Byte) (p : Pool) : Bool :=
  let others := s.pond.pools.filter fun x => x.1 != pool && x.2.enabled
  poolRecordOk bs && decide ((others.map fun x => x.2.hcount).sum + p.hcount ≤ 4194304)
  && s.inHeap p.hbase && s.inHeap p.qbase && s.heapRangeOk p.hbase (p.hcount * p.tileBytes)
  && s.heapRangeOk p.qbase (64 + 32 * 2 ^ p.qlog)

/-- POOLON (R336, R338). -/
def execPoolon (fn pool : Nat) (s : State) : Host.Outcome State Fault Refusal :=
  s.command fn 0x30 fun s =>
    let bs := Memory.readN s.mem.hbm (s.pkg.poolTable.toNat + 64 * pool) 64
    let p := poolOf (Table.get? s.pond.pools pool) bs
    if 256 ≤ pool || !s.poolOk pool bs p then .refused 3
    else if !(List.range 4).all fun d => s.heapMay d p.qbase then .wait
    else
      let s := s.modPond fun q =>
        { q with
          pools := Table.put q.pools pool p
          guards := q.guards.filter fun g => g.1 / 2 ^ 23 != pool }
      .ok ((s.heapWrite p.qbase (leBytes 8 0)).heapWrite (p.qbase + 8) (leBytes 8 0))

/-- A pool disabled (R335): every entry of it is invalid, and waiters retry. -/
def State.poolOff (s : State) (pool : Nat) : State :=
  let s := s.modPond fun q => { q with pools := Table.modify q.pools pool fun p => { p with enabled := false } }
  let mine := (s.pond.entries.filter fun (x : Nat × PondEntry) => keyPool x.2.key == pool && x.2.st != .invalid).map
    fun x => x.1
  mine.foldl (fun (s : State) w =>
    let x := s.pondEntry w
    if x.isLive then s.dropLive w
    else s.setEntry w
      { x with
        st := .invalid
        pin := false }) s

/-- POOLOFF (R335, R336). -/
def execPooloff (fn pool : Nat) (s : State) : Host.Outcome State Fault Refusal :=
  s.command fn 0x31 fun s => if 256 ≤ pool then .refused 3 else .ok (s.poolOff pool)

/-- The fields of `PONDVIEW` that a write sets (R340). -/
def viewMask : DWord := 0x800FFFFFFFFFFC00

/-- VIEWSET (R340, R364; log entry 64). -/
def execViewset (fn vmid : Nat) (view : DWord) (s : State) : Host.Outcome State Fault Refusal :=
  s.command fn 0x32 fun s =>
    match s.partOfVm vmid with
    | none => .refused 3
    | some (pid, p) =>
      if s.residentIn p then .refused 3 else .ok (s.modPart pid fun p => { p with pondview := view &&& viewMask })

/-! ### Frames that change hands (R236, R237) -/

/-- A frame descriptor with another owner (R324). -/
def State.setHost (s : State) (frame : Nat) (host : Bool) : State :=
  let at_ := s.pkg.frameTable.toNat + 4 * frame
  let d := s.physNat at_ 4
  s.physWrite at_ (leBytes 4 (d % 2 ^ 31 + if host then 2 ^ 31 else 0))

/-- Whether frames may pass: every one is backed, and belongs to the side that gives it. -/
def State.framesOk (s : State) (frames : List Nat) (host : Bool) : Bool :=
  frames.all fun f => s.backed (65536 * f) && (s.frameBits f).host == host

/-- Whether an entry of the TLB translates to a frame. -/
def TlbEntry.hasFrame (e : TlbEntry) (frame : Nat) : Bool :=
  decide (e.frame ≤ frame) && decide (frame < e.frame + if e.big then 1024 else 1)

/-- The TLB entries of a frame dropped. -/
def State.dropFrame (s : State) (frame : Nat) : State :=
  s.modMem fun m => { m with tlb := m.tlb.filter fun e => !e.hasFrame frame }

/-- PAGEGIVE (R237): host-owned frames pass to the device, and no translation keeps their old owner. -/
def execPagegive (fn : Nat) (frames : List Nat) (s : State) : Host.Outcome State Fault Refusal :=
  s.command fn 0x40 fun s =>
    if s.framesOk frames true then .ok (frames.foldl (fun (s : State) f => (s.setHost f false).dropFrame f) s)
    else .refused 3

/-- Whether a frame still has a device access that has passed its checks and has not performed, a line in transaction, or
an engine that owns one of its lines. -/
def State.frameBusy (s : State) (frame : Nat) : Bool :=
  let mine := s.mem.l2.filter fun x => x.pline / 512 == frame && !x.remote
  mine.any (fun x => s.lineBusy x.tag x.line x.pline)
  || s.mem.claims.any (fun c => c.pline / 512 == frame && !remoteClaimer c.core)
  || s.passedOn fun core vmid asid va => match s.lineAt (some core) vmid asid va false with
    | .ok l => l.pline / 512 == frame
    | .error _ => false

/-- Every L1, L2 and TLB copy of a frame written back and invalidated (R237). A lost L1 copy stays until a CACHEOP invalidates
it (R175). -/
def State.recallFrame (s : State) (frame : Nat) : State :=
  let inFrame := fun (pline : Nat) => pline / 512 == frame
  let s := s.cores.foldl (fun (s : State) (k : Nat × Core) =>
    (k.2.l1.filter fun x => inFrame x.pline && x.st != .remote && !x.lost).foldl (fun s x => s.putLine k.1 x) s) s
  let s := (s.mem.l2.filter fun x => inFrame x.pline && !x.remote).foldl State.evictL2 s
  s.dropFrame frame

/-- PAGETAKE (R237): device-owned frames pass to the host at one instant, after every device write to them. -/
def execPagetake (fn : Nat) (frames : List Nat) (s : State) : Host.Outcome State Fault Refusal :=
  s.command fn 0x41 fun s =>
    if !s.framesOk frames false then .refused 3
    else if frames.any s.frameBusy then .wait
    else .ok (frames.foldl (fun (s : State) f => (s.recallFrame f).setHost f true) s)

/-- DRRESUME (R393, R399). -/
def execDrresume (fn vmid : Nat) (s : State) : Host.Outcome State Fault Refusal :=
  s.command fn 0x42 fun s =>
    match s.partOfVm vmid with
    | none => .refused 3
    | some (pid, p) =>
      if (s.physNat p.drbase 8 + 2 ^ 64 - s.physNat (p.drbase + 8) 8) % 2 ^ 64 == 2 ^ p.drlog then .refused 3
      else .ok (s.modPart pid fun p => { p with paused := false })

/-- EVRING (R399): the function's event ring, by its base and entries. -/
def execEvring (fn base entries : Nat) (s : State) : Host.Outcome State Fault Refusal :=
  s.command fn 0x50 fun s => .ok (s.modMailbox fn fun m => 
    { m with
      ring := some (base, entries)
      posted := 0 })

/-- SVNRAISE (R399). -/
def execSvnraise (fn : Nat) (s : State) : Host.Outcome State Fault Refusal :=
  s.command fn 0x60 fun s => .ok { s with boot := { s.boot with fusedSvn := max s.boot.fusedSvn s.boot.runningSvn } }

/-! ### The debugger (R36, R37, R400) -/

/-- A debug command acts on the partition of the function that issues it, and on no other (R400). -/
def State.debugPart (s : State) (fn pid : Nat) : Option Partition :=
  match s.part? pid with
  | some p => if p.fn == fn then some p else none
  | none => none

/-- A gang resumes (R400). -/
def Gang.resumed (g : Gang) : Gang :=
  { g with dbg := { g.dbg with
      request := none
      halted := false
      stepping := none
      waitingReconverge := false } }

/-- Whether the debugger holds a gang: it is halted, or a step of it waits for reconvergence (R37). -/
def Gang.held (g : Gang) : Bool := g.dbg.halted || g.dbg.waitingReconverge

/-- Every halted gang of a partition resumes. -/
def State.resumeAll (s : State) (p : Partition) : State :=
  let go := fun (g : Nat × Gang) => (g.1, if g.2.held then g.2.resumed else g.2)
  let core := fun (k : Nat × Core) =>
    (k.1, if p.holdsCore k.1 then { k.2 with gangs := k.2.gangs.map go } else k.2)
  { s with cores := s.cores.map core }

/-- DBGATTACH (R400). -/
def execDbgattach (fn pid arg : Nat) (s : State) : Host.Outcome State Fault Refusal :=
  s.command fn 0x70 fun s =>
    match s.debugPart fn pid with
    | none => .refused 3
    | some p =>
      if 2 ≤ arg then .refused 3
      else
        let s := s.modPart pid fun p => { p with debugger := arg == 1 }
        .ok (if arg == 1 then s else s.resumeAll p)

/-- The 32 bytes that `DBGLIST` returns for a halted gang, in the order of R400. -/
def State.listEntry (s : State) (core slot : Nat) (g : Gang) : List Byte :=
  match s.team? core g.team with
  | none => []
  | some t =>
    match s.grid? t.grid with
    | none => []
    | some gr =>
      leBytes 4 (core + 1024 * slot) ++ leBytes 4 gr.lr.gridid.toNat ++ leBytes 4 (bitsOf t.linear 31 0)
      ++ leBytes 4 (bitsOf t.linear 47 32) ++ leBytes 2 g.number ++ leBytes 2 g.frec.number ++ leBytes 8 g.frec.pc.toNat
      ++ leBytes 4 g.frec.aux.toNat

/-- DBGLIST (R400): as many gangs as the payload holds. -/
def execDbglist (fn pid : Nat) (s : State) : Host.Outcome State Fault Refusal :=
  s.command fn 0x71 fun s =>
    match s.debugPart fn pid with
    | none => .refused 3
    | some p =>
      let all := (s.cores.filter fun k => p.holdsCore k.1).flatMap fun (k : Nat × Core) =>
        (k.2.gangs.filter fun g => g.2.held).flatMap fun (g : Nat × Gang) => s.listEntry k.1 g.1 g.2
      .done s (all.take 4096)

/-- A held gang of a partition, by its name (R400). -/
def State.heldGang (s : State) (fn pid core slot : Nat) : Option Runner :=
  match s.debugPart fn pid with
  | none => none
  | some p =>
    match s.runner? core slot with
    | some r => if p.holdsCore core && r.gang.held then some r else none
    | none => none

/-- DBGREAD (R400): the gang block, as far as the payload holds it. Whether this counts as a read of `GSTAT` and `GMODE`, whose
`RC` bits a read clears, is left open: here it does not (log entry 18). -/
def execDbgread (fn pid core slot : Nat) (s : State) : Host.Outcome State Fault Refusal :=
  s.command fn 0x72 fun s =>
    match s.heldGang fn pid core slot with
    | none => .refused 3
    | some r => .done s ((gangBlock (s.core core) r.gang r.team r.grid).take 4096)

/-- Whether a debugger may write a field of a gang (R400). -/
def Gang.mayWrite (g : Gang) : DebugField → Bool
  | .vreg slot lane _ => decide (slot < 1024) && decide (lane < g.width)
  | .sreg sub n _ => (g.sub? sub).isSome && decide (n < 64)
  | .pred n lane _ => decide (n < 7) && decide (lane < g.width)
  | .roundMode _ => true
  | .other => false

/-- A field written. -/
def Gang.writeField (g : Gang) : DebugField → Gang
  | .vreg slot lane w => g.writeSlot slot [(lane, w)]
  | .sreg sub n w => g.writeSreg sub n w
  | .pred n lane b => g.writePred n (Lanes.one lane) (if b then Lanes.one lane else 0)
  | .roundMode m => g.setRm m
  | .other => g

/-- The slots that a list of writes names. -/
def DebugField.slot : DebugField → List Nat
  | .vreg slot _ _ => [slot]
  | _ => []

/-- DBGWRITE (R400): all of the fields, or none and `RC` 3. Fresh slots need free physical registers. -/
def execDbgwrite (fn pid core slot : Nat) (fields : List DebugField) (s : State) : Host.Outcome State Fault Refusal :=
  s.command fn 0x73 fun s =>
    match s.heldGang fn pid core slot with
    | none => .refused 3
    | some r =>
      let need := r.gang.slotsNeed (fields.flatMap DebugField.slot)
      if fields.all r.gang.mayWrite && decide (need ≤ (s.core core).regFree) then
        .ok (s.modGang core slot fun g => fields.foldl Gang.writeField g)
      else .refused 3

/-- DBGSTEP (R37, R400): the sub-gang of a fibre is to issue one clause. -/
def execDbgstep (fn pid core slot fibre : Nat) (s : State) : Host.Outcome State Fault Refusal :=
  s.command fn 0x74 fun s =>
    match s.heldGang fn pid core slot with
    | none => .refused 3
    | some r =>
      match r.gang.subs.find? fun b => b.fibres.getLsbD fibre with
      | none => .refused 3
      | some b =>
        .ok (s.modGang core slot fun g =>
          { g with dbg := { g.dbg with
              request := none
              halted := false
              stepping := some b.id
              waitingReconverge := false } })

/-- DBGRESUME (R400): the named gang, or every halted gang of the partition. -/
def execDbgresume (fn pid : Nat) (all : Bool) (core slot : Nat) (s : State) : Host.Outcome State Fault Refusal :=
  s.command fn 0x75 fun s =>
    match s.debugPart fn pid with
    | none => .refused 3
    | some p =>
      if all then .ok (s.resumeAll p)
      else
        match s.heldGang fn pid core slot with
        | none => .refused 3
        | some _ => .ok (s.modGang core slot Gang.resumed)

/-- DBGHALT (R36, R400): core-halt mode of a core of the partition. -/
def execDbghalt (fn pid core : Nat) (on : Bool) (s : State) : Host.Outcome State Fault Refusal :=
  s.command fn 0x76 fun s =>
    match s.debugPart fn pid with
    | none => .refused 3
    | some p => if p.holdsCore core then .ok (s.modCore core fun k => k.setHalt on) else .refused 3

/-- DBGBKPT (R178, R400): an address breakpoint of every core of the partition. -/
def execDbgbkpt (fn pid n : Nat) (lo hi : Word) (s : State) : Host.Outcome State Fault Refusal :=
  s.command fn 0x77 fun s =>
    match s.debugPart fn pid with
    | none => .refused 3
    | some p =>
      if 4 ≤ n then .refused 3
      else
        let set := fun (k : Core) => (k.setSpecial (0x410 + 2 * n) lo).setSpecial (0x411 + 2 * n) hi
        .ok (((List.range 1024).filter p.holdsCore).foldl (fun (s : State) c => s.modCore c set) s)

end Sys2Proof.Machine
end

