-- ==== Sys2Proof/Machine/Expert.lean ====
section
/-! DEFINITION. Expert access to registers by address, and the limits that every such write passes (R7, R8, R364, R401). -/

namespace Sys2Proof.Machine

/-! ### Addresses (R401) -/

/-- A register by its block class, instance and byte offset. -/
structure RegAddr where
  cls : Nat
  inst : Nat
  off : Nat
  deriving DecidableEq, Repr

/-- The fields of an expert address. -/
def regAddr (a : DWord) : RegAddr :=
  { cls := bitsOf a.toNat 63 60, inst := bitsOf a.toNat 59 48, off := bitsOf a.toNat 47 0 }

/-! ### Values -/

/-- `HVINFO` (R397). -/
def Pkg.hvinfo (g : Pkg) : Nat :=
  (if g.hvValid then 2 ^ 63 else 0) + (if g.hvWr then 2 ^ 62 else 0) + g.hvCount.toNat

/-- `WALKERR` of a unit (R323). -/
def WalkErr.value (w : WalkErr) : Nat := (if w.valid then 2 ^ 63 else 0) + w.level * 2 ^ 52 + w.pa / 8 % 2 ^ 49 * 8

/-- A pool's status words (R358). -/
def Pool.stat0 (p : Pool) : Nat := p.frame.toNat * 2 ^ 48 + p.quar.length % 2 ^ 23 * 2 ^ 23 + p.free.length % 2 ^ 23
def Pool.stat1 (p : Pool) : Nat := p.noallocs.toNat * 2 ^ 32 + p.sluiceovf.toNat

/-- The 64-bit word at word k of a wide register's value. -/
def wordAt (v k : Nat) : Nat := bitsOf v (64 * k + 63) (64 * k)

/-- A wide register's value with its 64-bit word k replaced. -/
def putWord (v k w : Nat) : Nat := v - wordAt v k * 2 ^ (64 * k) + w % 2 ^ 64 * 2 ^ (64 * k)

/-- The registers of a partition (R319, R340, R364, R365, R374, R393). `FDISP` and a launch queue's descriptor are read
64 bits at a time (log entry 44). -/
def Partition.register (p : Partition) (off : Nat) : Option Nat :=
  match off with
  | 0x000 => some p.cmask.toNat
  | 0x008 => some (p.vmid * 256 + p.spect)
  | 0x030 => some (p.fbase + p.fcnt)
  | 0x038 => some p.fsize
  | 0x040 => some p.wdlim
  | 0x048 => some p.agen
  | 0x050 => some (if p.preempt then 1 else 0)
  | 0x058 => some p.waymask.toNat
  | 0x060 => some p.pondview.toNat
  | 0x068 => some p.asidBase
  | 0x070 => some p.nodeTable
  | 0x080 => some p.drbase
  | 0x088 => some p.drlog
  | _ =>
    if off % 8 != 0 then none
    else if 0x010 ≤ off && off < 0x030 then some (wordAt p.fdisp.toNat ((off - 0x010) / 8))
    else if 0x100 ≤ off && off < 0x200 then some (wordAt (p.queue ((off - 0x100) / 16)).desc.toNat (off / 8 % 2))
    else none

/-- The package's registers. -/
def State.pkgRegister (s : State) (off : Nat) : Option Nat :=
  match off with
  | 0x000 => some s.pkg.heapwin.toNat
  | 0x008 => some s.pkg.poolTable.toNat
  | 0x010 => some s.pkg.frameTable.toNat
  | 0x020 => some s.pkg.hvinfo
  | 0x028 => some s.pkg.hvAddr
  | 0x030 => some s.boot.status
  | 0x038 => some s.pkg.pwrcap.toNat
  | _ => none

/-- Whether a selector names a core register of R178 at 0x0400 or above. -/
def coreSelector (sel : Nat) : Bool :=
  (decide (0x400 ≤ sel) && decide (sel ≤ 0x403)) || (decide (0x410 ≤ sel) && decide (sel ≤ 0x417))

/-- The value of the register at an expert address; none where R401 lists none. -/
def State.register (s : State) (a : RegAddr) : Option Nat :=
  let sel := a.off / 8
  match a.cls with
  | 0 => if a.inst == 0 then s.pkgRegister a.off else none
  | 1 => (s.part? a.inst).bind fun p => p.register a.off
  | 2 =>
    let p := Table.get? s.pond.pools a.inst
    if 256 ≤ a.inst then none
    else
      match a.off with
      | 0 => some ((p.map Pool.stat0).getD 0)
      | 8 => some ((p.map Pool.stat1).getD 0)
      | _ => none
  | 3 =>
    if 12 ≤ a.inst || a.off != 0 then none
    else some (((Table.get? s.mem.walkerr a.inst).map WalkErr.value).getD 0)
  | 4 =>
    if 1024 ≤ a.inst || a.off % 8 != 0 || !coreSelector sel then none
    else some (s.coreSpecial a.inst sel).toNat
  | 5 =>
    if 64 ≤ a.inst then none
    else
      match a.off with
      | 0x2800 => some (s.cluster a.inst).vis.weirthr.toNat
      | 0x2808 => some (s.cluster a.inst).vis.binflush.toNat
      | _ => none
  | _ => none

/-! ### Limits (R364, R385) -/

/-- Whether the field of a code in `FDISP` may hold a value (R364, R385). -/
def dispFieldOk (n v : Nat) : Bool :=
  match codeOf n with
  | none => v == 0
  | some .spurPartner => v == 0
  | some .watchdog => v == 0
  | some .lineLost => v == 0 || v == 3
  | some c => v != 1 || mayResolve c

/-- Whether `FDISP` may hold a value (R364). -/
def fdispOk (v : Nat) : Bool := (List.range 128).all fun n => dispFieldOk n (bitsOf v (2 * n + 1) (2 * n))

/-! ### Writes -/

/-- The grids of a partition back at their own class, as `AGEN` 0 turns aging off (R372). -/
def State.unaged (s : State) (pid : Nat) : State :=
  let own := fun (g : Grid) => if g.pid == pid then { g with eff := g.prio, passes := 0 } else g
  { s with grids := s.grids.map fun x => (x.1, own x.2) }

/-- What an expert write comes to: it is refused, it waits, or it is done. -/
inductive Written where
  | refused
  | wait
  | done (s : State)
  deriving DecidableEq, Repr

/-- A write that is done where it is possible at all. -/
def Written.of : Option State → Written
  | some s => .done s
  | none => .refused

/-- A write of a partition's register that the limits allow (R319, R340, R364, R365, R374, R393). A partition that holds a
resident team takes one of `FDISP`, `WDLIM` and `AGEN` only (log entry 64). -/
def State.writePart (s : State) (pid : Nat) (p : Partition) (off v : Nat) : Written :=
  let free := decide (0x010 ≤ off) && decide (off < 0x030) || off == 0x040 || off == 0x048
  let put := fun (f : Partition → Partition) => Written.done (s.modPart pid f)
  if s.residentIn p && !free then .refused
  else
    match off with
    | 0x000 => if s.clustersOk pid (BitVec.ofNat 64 v) then put fun p => { p with cmask := BitVec.ofNat 64 v } else .refused
    | 0x008 => put fun p => { p with vmid := bitsOf v 15 8, spect := bitsOf v 7 0 }
    | 0x030 => put fun p => { p with fbase := bitsOf v 63 8 * 256, fcnt := bitsOf v 7 0 }
    | 0x038 => put fun p => { p with fsize := bitsOf v 31 0 }
    | 0x040 => put fun p => { p with wdlim := bitsOf v 31 0 }
    | 0x048 =>
      let t := s.modPart pid fun p => { p with agen := bitsOf v 7 0 }
      .done (if bitsOf v 7 0 == 0 then t.unaged pid else t)
    | 0x050 => put fun p => { p with preempt := bitOf v 0 }
    | 0x058 => put fun p => { p with waymask := BitVec.ofNat 16 v }
    | 0x060 => put fun p => { p with pondview := BitVec.ofNat 64 v &&& viewMask }
    | 0x068 => put fun p => { p with asidBase := bitsOf v 63 0 }
    | 0x070 =>
      match (s.modPart pid fun p => { p with nodeTable := bitsOf v 63 0 }).readNodes pid with
      | some t => .done t
      | none => .wait
    | 0x080 => put fun p => { p with drbase := bitsOf v 55 0 }
    | 0x088 => put fun p => { p with drlog := bitsOf v 4 0 }
    | _ =>
      if off % 8 != 0 then .refused
      else if 0x010 ≤ off && off < 0x030 then
        let d := putWord p.fdisp.toNat ((off - 0x010) / 8) v
        if fdispOk d then put fun p => { p with fdisp := BitVec.ofNat 256 d } else .refused
      else if 0x100 ≤ off && off < 0x200 then
        let q := (off - 0x100) / 16
        let desc := BitVec.ofNat 128 (putWord (p.queue q).desc.toNat (off / 8 % 2) v)
        if queueDescOk desc then .done (s.setQueue pid q desc) else .refused
      else .refused

/-- The fields of `HEAPWIN` that a write sets (R337). -/
def heapwinMask : DWord := 0x80FFFFFFFC0000FF

/-- A write of a package register: RO fields stay, and W1C bits clear (R337, R397, R405, R407). -/
def State.writePkg (s : State) (off v : Nat) : Option State :=
  let d := BitVec.ofNat 64 v
  match off with
  | 0x000 => some { s with pkg := { s.pkg with heapwin := d &&& heapwinMask } }
  | 0x008 => some { s with pkg := { s.pkg with poolTable := d } }
  | 0x010 => some { s with pkg := { s.pkg with frameTable := d } }
  | 0x020 => some (s.busWrite v .hvinfo)
  | 0x028 => some s
  | 0x030 => some s
  | 0x038 => some { s with pkg := { s.pkg with pwrcap := d &&& 0xFFFF } }
  | _ => none

/-- An expert write of a register that exists (R7, R8, R401). -/
def State.writeRegister (s : State) (a : RegAddr) (v : Nat) : Written :=
  let sel := a.off / 8
  match a.cls with
  | 0 => .of (s.writePkg a.off v)
  | 1 =>
    match s.part? a.inst with
    | some p => s.writePart a.inst p a.off v
    | none => .refused
  | 2 =>
    .done (if a.off == 8 then s.modPond fun q =>
      { q with pools := Table.modify q.pools a.inst fun p =>
          { p with sluiceovf := p.sluiceovf &&& ~~~(BitVec.ofNat 32 v) } } else s)
  | 3 => .done (s.busWrite v (.walkerr a.inst))
  | 4 =>
    let w := BitVec.ofNat 32 v
    if sel == 0x400 && !govcapOk w then .refused else .done (s.modCore a.inst fun k => k.setSpecial sel w)
  | _ =>
    .done (if a.off == 0x2800 then
      s.modCluster a.inst fun k => { k with vis := { k.vis with weirthr := BitVec.ofNat 32 v } } else s)

/-- Whether a register belongs to a die (R320, R401); in minimal mode dies 1 to 3 do not run (R406). -/
def RegAddr.die (a : RegAddr) : Nat :=
  match a.cls with
  | 3 => a.inst / 3
  | 4 => a.inst / 256
  | 5 => a.inst / 16
  | _ => 0

/-- REGREAD (R399, R401). In minimal mode a register of dies 1 to 3 reads as zero, and no other is served (R406; log entry
65). -/
def execRegread (fn : Nat) (addr : DWord) (s : State) : Host.Outcome State Fault Refusal :=
  s.command fn 0x8000 fun s =>
    let a := regAddr addr
    match s.register a with
    | none => if s.boot.minimal then .refused 4 else .refused 3
    | some v =>
      if !s.boot.minimal then .done s (leBytes 8 v)
      else if a.die == 0 then .refused 4
      else .done s (leBytes 8 0)

/-- REGWRITE (R399, R401): a refused write changes nothing. In minimal mode a write to a register of dies 1 to 3 returns 3, and
any other 4 (R406; log entry 65). -/
def execRegwrite (fn : Nat) (addr : DWord) (value : DWord) (s : State) : Host.Outcome State Fault Refusal :=
  s.command fn 0x8001 fun s =>
    let a := regAddr addr
    match s.register a with
    | none => if s.boot.minimal then .refused 4 else .refused 3
    | some _ =>
      if s.boot.minimal then (if a.die == 0 then .refused 4 else .refused 3)
      else
        match s.writeRegister a value.toNat with
        | .done t => .ok t
        | .wait => .wait
        | .refused => .refused 3

/-- `MBCAP` (R398): expert commands on the PF, and a payload of 2^12 bytes. -/
def mbcap (fn : Nat) : Nat := (if fn == 0 then 256 else 0) + 12

/-- What a bus register reads as (R323, R397, R398, R405); one of a function that does not exist reads as zero. -/
def State.busValue (s : State) (r : BusReg) : Nat :=
  if !s.functionOf r then 0
  else
    match r with
    | .mbcap fn => mbcap fn
    | .mbctl fn => if (s.mailbox fn).db then 1 else 0
    | .mbcmd fn => (s.mailbox fn).len.toNat * 2 ^ 32 + (s.mailbox fn).opc.toNat
    | .mbsts fn => (s.mailbox fn).rlen.toNat * 2 ^ 32 + (s.mailbox fn).rc.toNat
    | .mbpayload fn off => leNat ((List.range 8).map fun k => Table.getD (s.mailbox fn).payload (off + k) 0)
    | .hvinfo => s.pkg.hvinfo
    | .hvaddr => s.pkg.hvAddr
    | .bootsts => s.boot.status
    | .walkerr unit => ((Table.get? s.mem.walkerr unit).map WalkErr.value).getD 0

end Sys2Proof.Machine
end

