-- ==== Sys2Proof/Machine/Fabric.lean ====
section
/-! DEFINITION. The fabric: requests that arrive from other devices, replies to this one's, and the ports (R408 to
R424). -/

namespace Sys2Proof.Machine

/-! ### The target (R415 to R417, R420, R422) -/

/-- What a target does with a request: it answers, or the request waits at the home. -/
inductive Served where
  | done (s : State) (reply : RemoteReply)
  | later (s : State)
  deriving DecidableEq, Repr

/-- A refusal: recorded in `FXLOG0` to `FXLOG2` while `VALID` is clear, and sent back with its code (R422). -/
def State.refuse (s : State) (req : RemoteRequest) (code : Code) : Served :=
  let f := s.fabric
  let f := if f.logValid then f
    else
      { f with
        logValid := true
        logCode := BitVec.ofNat 8 (codeNum code)
        logSrc := BitVec.ofNat 16 req.src
        logVa := BitVec.ofNat 56 req.va }
  .done { s.noteWalk req.vmid req.asid req.va with fabric := f } (.refusal code)

/-- Whether the partition of the target VMID accepts a request (R415). -/
def State.accepts (s : State) (req : RemoteRequest) : Bool :=
  match s.partOfVm req.vmid with
  | some (_, p) => p.fxctl.getLsbD 31 && bitsOf p.fxctl.toNat 15 0 == req.gtag
  | none => false

/-- The target's own check of an access (R203, R415). -/
def State.targetLine (s : State) (req : RemoteRequest) (k : Acc) (va n : Nat) : Except Code Ln :=
  if 2 ^ 56 ≤ va then .error .pageNotPresent else s.access k none req.vmid req.asid va n

/-- Whether an access of another device may be performed at a line's home now (R216, R222, R230). -/
def State.outsideMay (s : State) (l : Ln) (write : Bool) : Bool :=
  !s.lineBusy l.tag l.line l.pline && !s.held .outside l.tag l.line write

/-- The granules of a WO line that one instruction of another device has claimed (R207, R417). -/
def State.remoteClaim (s : State) (req : RemoteRequest) (pline : Nat) : BitVec 8 :=
  (s.mem.claims.filter fun c => c.pline == pline && c.core == 2 ^ 32 + req.src && c.id == req.inst).foldl
    (fun (m : BitVec 8) c => m ||| c.mask) 0

/-- A store of another device to a WO line (R207, R417): its claim on the granules that its instruction does not hold yet fails
it, or stands, and the bytes are written. -/
def State.targetClaim (s : State) (req : RemoteRequest) (l : Ln) (bs : List Byte) (reply : RemoteReply) : Served :=
  let off := req.va % 128
  let mask := granuleMask off bs.length
  let new := mask &&& ~~~s.remoteClaim req l.pline
  if s.claimTaken l.pline new (2 ^ 32 + req.src) 0 req.inst != 0 then s.refuse req .woRewrite
  else
    let claim := { pline := l.pline, mask := mask, core := 2 ^ 32 + req.src, gang := 0, id := req.inst : Claim }
    .done ((s.woWrite none l [(0, off, bs)]).modMem fun m => { m with claims := m.claims ++ [claim] }) reply

/-- Bytes written at their home for an outside agent, with the page's rules (R207, R216, R417). -/
def State.targetWrite (s : State) (req : RemoteRequest) (l : Ln) (bs : List Byte) (reply : RemoteReply) : Served :=
  let go := s.logWrite req.vmid req.asid req.va
  if !s.outsideMay l true then .later s
  else if !go.1 then .later go.2
  else if l.perms.attr == .wo then (go.2.keepFill l req.va).targetClaim req l bs reply
  else .done ((go.2.keepFill l req.va).writeAtHome l [(req.va % 128, bs)]) reply

/-- Whether the initiator may keep a copy of a line (R417): of a WO page, or of a read-only RC page. -/
def Ln.mayKeep (l : Ln) : Bool := !l.heap && (l.perms.attr == .wo || (l.perms.attr == .rc && !l.perms.w))

/-- A load: the reply carries the whole line of a page whose copy the initiator may keep (R417, R418). -/
def State.targetLoad (s : State) (req : RemoteRequest) (n : Nat) : Served :=
  match s.targetLine req .load req.va n with
  | .error c => s.refuse req c
  | .ok l =>
    if !s.outsideMay l false then .later s
    else
      let data := s.coherentData l.tag l.line l.pline
      let s := (s.keepFill l req.va).touchLine l
      if l.mayKeep then .done s (.copy data) else .done s (.data (slice data (req.va % 128) n))

/-- A read-modify-write: the bytes at the address replaced by a function of them, with a reply made from them. -/
def State.targetModify (s : State) (req : RemoteRequest) (l : Ln) (n : Nat) (f : List Byte → List Byte)
    (reply : List Byte → RemoteReply) : Served :=
  let old := slice (s.coherentData l.tag l.line l.pline) (req.va % 128) n
  s.targetWrite req l (f old) (reply old)

/-- An atomic (R200, R417). -/
def State.targetAtomic (s : State) (req : RemoteRequest) (op : Nat) (t : Ty) (d0 d1 : DWord) : Served :=
  let n := t.accessSize
  match s.targetLine req .atomic req.va n with
  | .error c => s.refuse req c
  | .ok l => s.targetModify req l n (fun old => leBytes n (atomNew op t (leNat old) d0.toNat d1.toNat)) .data

/-- A reduction (R420): each element is the rounded sum. -/
def State.targetReduce (s : State) (req : RemoteRequest) (t : Ty) (data : List Byte) : Served :=
  let n := data.length
  let w := t.accessSize
  match s.targetLine req .engineWrite req.va n with
  | .error c => s.refuse req c
  | .ok l =>
    if l.perms.attr == .wo then s.refuse req .attrIllegalOp
    else
      s.targetModify req l n (fun old =>
        (List.range (n / w)).flatMap fun u => leBytes w (deltaAdd t (leNat (slice old (w * u) w)) (leNat (slice data (w * u) w))))
        fun _ => .ack

/-- The first unit of a WORESET that the target refuses (R209). -/
def State.targetBadUnit (s : State) (req : RemoteRequest) (units : Nat) : Option Code :=
  (List.range units).findSome? fun k => match s.targetLine req .woreset (req.va + 65536 * k) 1 with
    | .error c => some c
    | .ok _ => none

/-- A WORESET (R209, R416). -/
def State.targetReset (s : State) (req : RemoteRequest) (units : Nat) : Served :=
  match s.targetBadUnit req units with
  | some c => s.refuse req c
  | none =>
    .done ((List.range units).foldl (fun (s : State) k =>
      match s.targetLine req .woreset (req.va + 65536 * k) 1 with
      | .ok l => s.resetFrame (l.pline / 512)
      | .error _ => s) s) .ack

/-- The bytes that a request reads or writes in one line; 0 for a WORESET. -/
def opInLine : RemoteOp → Nat
  | .woreset _ => 0
  | op => op.bytes

/-- A request served at its target (R415). -/
def State.serve (s : State) (req : RemoteRequest) : Served :=
  if !s.accepts req then s.refuse req .pageProtection
  else
    match req.op with
    | .load n => s.targetLoad req n
    | .store data =>
      match s.targetLine req .store req.va data.length with
      | .error c => s.refuse req c
      | .ok l => s.targetWrite req l data .ack
    | .atomic op t d0 d1 => s.targetAtomic req op t d0 d1
    | .woreset units => s.targetReset req units
    | .reduce t data => s.targetReduce req t data

/-- Whether some port is up. -/
def State.fabricUp (s : State) : Bool := s.fabric.ports.any fun (p : Nat × Port) => p.2.st == 2

/-- REMOTE_REQUEST_ARRIVE (R415, R422): a request is served, and its reply leaves. -/
def execRemoteRequestArrive (req : RemoteRequest) (s : State) : Host.Outcome State Fault Refusal :=
  if !s.fabricUp || 128 < req.va % 128 + opInLine req.op then .next s
  else
    match s.serve req with
    | .later t => .next t
    | .done t reply =>
      .next { t with fabric := { t.fabric with replies := t.fabric.replies ++ [{ dst := req.src, reply := reply }] } }

/-! ### The initiator (R414, R418, R419, R421 to R423) -/

/-- Whether a reply answers a request. -/
def answersOp (op : RemoteOp) : RemoteReply → Bool
  | .ack => match op with
    | .store _ | .woreset _ | .reduce .. => true
    | _ => false
  | .data bs => match op with
    | .load n => bs.length == n
    | .atomic _ t _ _ => bs.length == t.accessSize
    | _ => false
  | .copy line => match op with
    | .load _ => line.length == 128
    | _ => false
  | .refusal _ => true

/-- A line of another device kept in the core's L1 and in the L2 (R418). The pages' rules were checked at the target. -/
def State.keepRemote (s : State) (core vmid asid va : Nat) (data : List Byte) : State :=
  let line := va / 128
  let l : Ln :=
    { vmid := vmid, tag := remoteTag (tagOf vmid asid), line := line, pline := 2 ^ 60 + line,
      perms := { r := true, w := false, x := false, attr := .rc, owner := 0, many := false }, log := false, heap := false,
      fill := none }
  let room := ((s.core core).l1? l.tag line).isSome || !s.l1Full core
  let s := if s.l1On core && room then s.putL1 core (l.l1Copy .remote data) else s
  if s.boot.memSide then s
  else
    match s.fillL2 l (s.maskOfVm vmid) 0 with
    | none => s
    | some t => t.modL2 l.tag l.line l.pline fun x =>
        { x with
          data := data
          remote := true }

/-- An element's bytes from a reply, for every lane that shares the access (R192); an acquire takes effect with the last of them
(R197). -/
def State.elemGot (s : State) (core slot id key : Nat) (bs : List Byte) : State :=
  let s := s.modGang core slot fun g => (g.modPending id fun p => p.keepElem key bs).joinFault id
  match s.runner? core slot with
  | some r => s.afterTake r id
  | none => s

/-- A remote element of an access fails (R215, R422). -/
def State.elemFails (s : State) (core slot id key va : Nat) (code : Code) (rcode : BitVec 8) : State :=
  s.modGang core slot fun g => g.modPending id fun p => p.failLane code (key / 8) va rcode

/-- What is left to do for a gang's access when an acknowledgement has come (R419): a store or a WORESET may complete. -/
def State.laneAcked (s : State) (core slot id : Nat) : State :=
  match s.runner? core slot with
  | none => s
  | some r =>
    match r.gang.pending? id with
    | none => s
    | some p =>
      match p.mem? with
      | some (.st, f) => s.storeDone r p f []
      | some (.woreset, _) => s.woresetDone r id (p.addrs.headD (0, 0)).2
      | _ => s

/-- A store or atomic of a gang at another device has ended: copies of its line from before are not kept, in its core's L1, in the
L2 or on their way, so that the gang's later loads do not take older bytes (R196, R418). -/
def State.dropKept (s : State) (core : Nat) (o : Outgoing) : State :=
  let line := o.va / 128
  match s.vmOfCore core, o.req.op with
  | some vmid, .store _ | some vmid, .atomic .. =>
    let key := remoteTag (tagOf vmid o.asid)
    ((s.delL1 core key line).modMem fun m => { m with l2 := m.l2.filter fun x => !(x.tag == key && x.line == line) }).keepNoCopy
      fun x => x.asid == o.asid && x.va / 128 == line
  | _, _ => s

/-- A reply reaches a gang's access. -/
def State.gangReply (s : State) (o : Outgoing) (core slot id key : Nat) (reply : RemoteReply) : State :=
  match reply with
  | .refusal code => s.elemFails core slot id key o.va .remoteFault (BitVec.ofNat 8 (codeNum code))
  | .ack => s.laneAcked core slot id
  | .data bs => s.elemGot core slot id key bs
  | .copy line =>
    let s := match s.vmOfCore core with
      | some vmid => if o.keep then s.keepRemote core vmid o.asid o.va line else s
      | none => s
    s.elemGot core slot id key (slice line (o.va % 128) o.req.op.bytes)

/-- A copy fails at its first refused or unanswered request (R421). -/
def State.copyFails (s : State) (cl unit seq : Nat) (code : Code) : State :=
  s.modCopy cl unit seq fun c => if c.live && c.code.isNone then { c with code := some code } else c

/-- A reply reaches a Leat's copy (R421): bytes of a source unit, or its granule's acknowledgement. -/
def State.leatReply (s : State) (o : Outgoing) (cl unit seq key : Nat) (reply : RemoteReply) : State :=
  let got := fun (s : State) (bs : List Byte) => s.modCopy cl unit seq fun c =>
    { c with got := Table.put c.got key (BitVec.ofNat 64 (leNat bs)) }
  match reply with
  | .refusal _ => s.copyFails cl unit seq .remoteFault
  | .ack => s.copyAcked cl unit seq
  | .data bs => got s bs
  | .copy line => got s (slice line (o.va % 128) o.req.op.bytes)

/-- A request is no longer outstanding. -/
def State.dropOut (s : State) (id : Nat) : State :=
  { s with fabric := { s.fabric with out := Table.del s.fabric.out id } }

/-- A request is answered. -/
def State.replied (s : State) (id : Nat) (o : Outgoing) (reply : RemoteReply) : State :=
  let s := s.dropOut id
  match o.waiter with
  | .gang core slot p key => (s.dropKept core o).gangReply o core slot p key reply
  | .leat cl unit seq key => s.leatReply o cl unit seq key reply
  | .nobody => s

/-- A request ends without an answer, with REMOTE_TIMEOUT or LINK_DOWN (R410, R423). -/
def State.unanswered (s : State) (id : Nat) (o : Outgoing) (code : Code) : State :=
  let s := s.dropOut id
  match o.waiter with
  | .gang core slot p key => (s.dropKept core o).elemFails core slot p key o.va code 0
  | .leat cl unit seq _ => s.copyFails cl unit seq code
  | .nobody => s

/-- The reply of the device's own target path: a copy is kept when the event's reply is one (R414, R418). -/
def ownReply (op : RemoteOp) (va : Nat) (kept : Bool) : RemoteReply → RemoteReply
  | .copy line => if kept then .copy line else .data (slice line (va % 128) op.bytes)
  | r => r

/-- Whether a reply carries a copy of a line. -/
def replyIsCopy : RemoteReply → Bool
  | .copy _ => true
  | _ => false

/-- A port changed when it stands in a state. -/
def State.portStep (s : State) (port : Nat) (test : Port → Bool) (f : Port → Port) : State :=
  let p := Table.getD s.fabric.ports port Port.reset
  if 36 ≤ port || !test p then s
  else { s with fabric := { s.fabric with ports := Table.put s.fabric.ports port (f p) } }

/-- A flit of a port has been delivered: the replays of the next one are counted from none (R409). -/
def State.delivered (s : State) (port : Nat) : State := s.portStep port (fun _ => true) fun p => { p with tries := 0 }

/-- REMOTE_REPLY_ARRIVE (R414, R419, R422): what another device has answered, or for the device's own rank what its own
target path answers now. -/
def execRemoteReplyArrive (id : Nat) (reply : RemoteReply) (s : State) : Host.Outcome State Fault Refusal :=
  match Table.get? s.fabric.out id with
  | none => .next s
  | some o =>
    match o.port with
    | none =>
      match s.serve o.req with
      | .later t => .next t
      | .done t r => .next (t.replied id o (ownReply o.req.op o.req.va (replyIsCopy reply) r))
    | some port =>
      if !answersOp o.req.op reply || (Table.getD s.fabric.ports port Port.reset).st != 2 then .next s
      else .next ((s.delivered port).replied id o reply)

/-- REMOTE_TIMEOUT (R414, R423). When is timing, and free. -/
def execRemoteTimeout (id : Nat) (s : State) : Host.Outcome State Fault Refusal :=
  match Table.get? s.fabric.out id with
  | none => .next s
  | some o => .next (if o.port.isSome then s.unanswered id o .remoteTimeout else s)

/-- SWITCH_UNDELIVERABLE (R410, R414). -/
def execSwitchUndeliverable (id : Nat) (s : State) : Host.Outcome State Fault Refusal :=
  match Table.get? s.fabric.out id with
  | none => .next s
  | some o => .next (if o.port.isSome then s.unanswered id o .linkDown else s)

/-! ### Ports (R409 to R411) -/

/-- FLIT_REPLAY (R409, R411): the replayed flit is counted, also among the replays of one flit, of which there are at most 16
before the port delivers it or retrains (log entry 45). -/
def execFlitReplay (port : Nat) (s : State) : Host.Outcome State Fault Refusal :=
  .next (s.portStep port (fun p => p.st == 2 && decide (p.tries < 16)) fun p =>
    { p with
      replay := if p.replay == BitVec.allOnes 16 then p.replay else p.replay + 1
      tries := p.tries + 1 })

/-- PORT_RETRAIN (R409, R411): a port that is up retrains once it has replayed one flit 16 times, and firmware
retrains one that is down, outside minimal mode (R406). -/
def execPortRetrain (port : Nat) (s : State) : Host.Outcome State Fault Refusal :=
  let down := decide (5 ≤ s.boot.stage) && !s.boot.minimal
  .next (s.portStep port (fun p => (p.st == 2 && decide (16 ≤ p.tries)) || (p.st == 0 && down)) fun p =>
    { p with
      st := 1
      retrain := if p.retrain == BitVec.allOnes 8 then p.retrain else p.retrain + 1
      tries := 0 })

/-- PORT_TRAINED (R409). -/
def execPortTrained (port : Nat) (s : State) : Host.Outcome State Fault Refusal :=
  .next (s.portStep port (fun p => p.st == 1) fun p => { p with st := 2 })

/-- PORT_DOWN (R409, R410): a port that has not retrained in time is down, and the requests that await a reply over it
end with LINK_DOWN. -/
def execPortDown (port : Nat) (s : State) : Host.Outcome State Fault Refusal :=
  if 36 ≤ port || (Table.getD s.fabric.ports port Port.reset).st != 1 then .next s
  else
    let s := s.portStep port (fun _ => true) fun p => { p with st := 0 }
    let lost := s.fabric.out.filter fun x => x.2.port == some port
    .next (lost.foldl (fun (s : State) (x : Nat × Outgoing) => s.unanswered x.1 x.2 .linkDown) s)

end Sys2Proof.Machine
end

