-- ==== Sys2Proof/Machine/Arrive.lean ====
section
/-! DEFINITION. The arrival of a long-class instruction's result, or of its request at the unit that serves it (R46, R195,
R211, R221). -/

namespace Sys2Proof.Machine

/-- A request reaches its unit (R211, R221): it waits for what its release orders before it, and for its own unit. -/
def State.requestArrive (s : State) (r : Runner) (p : Pending) (q : Request) (part : Option Nat) : State :=
  if s.blocked r p [] then s
  else
    match q with
    | .cpy desc unit _ => s.cpyRequest r p desc unit
    | .arrive bar count err wait => s.arriveRequest r.core r.slot p.id bar count err wait
    | .txfill token _ mask shared bytes => s.txfillArrive r p token mask shared bytes
    | .txinvKey pool lo hi => s.txinvArrive r p pool (some (lo, hi)) 0 part.isSome
    | .txinvInfl pool mask => s.txinvArrive r p pool none mask part.isSome
    | .attrset _ _ va stop _ _ => if stop ≤ va then s.deliver r.core r.slot p.id Out.none else s
    | .tlbshoot sub va units vmid asid => s.tlbshootArrive r p sub va units vmid asid
    | .cacheop sub va lines vmid asid => s.cacheopArrive r p sub va lines vmid asid part
    | .spuracc => s.postReservation r.core r.slot p.id

/-- What arrives for an outstanding instruction. -/
def State.arriveFor (s : State) (r : Runner) (p : Pending) (part : Option Nat) : State :=
  match p.op with
  | .result => s.deliver r.core r.slot p.id p.out
  | .mem .. => s.memArrive r p part
  | .occq .. => s.memArrive r p part
  | .barrier bar phase d => if p.sent then s else s.barrierLook r.core r.slot p.id bar phase (d == 1)
  | .request q => s.requestArrive r p q part
  | .raywait ids => if raywaitOver r.gang ids then s.deliver r.core r.slot p.id Out.none else s
  | .txreq _ => s.txreqArrive r p part.isSome
  | .txwait => s.txwaitArrive r p
  | .txframe pool => s.txframeArrive r p pool
  | .txpin on => s.txpinArrive r p on
  | .sysrd sel d => s.sysrdArrive r p sel d
  | .syswr sel w => s.syswrArrive r p sel w
  | .queue q pred => s.queueArrive r p q pred part.isSome
  | .prim flush => s.primArrive r p flush
  | .unit | .rayq .. | .firmcall .. => s

/-- LONG_RESULT_ARRIVE (R46): the results of an instruction that has not failed arrive, or of a memory instruction the
lanes of the line `part`. The results of a unit's own operations arrive with that unit's events. -/
def execLongResultArrive (core gang id : Nat) (part : Option Nat) (s : State) : Host.Outcome State Fault Refusal :=
  match s.runner? core gang with
  | none => .next s
  | some r =>
    match r.gang.pending? id with
    | none => .next s
    | some p => .next (if p.going then s.arriveFor r p part else s)

end Sys2Proof.Machine
end

