-- ==== Sys2Proof/Machine/Dispatch.lean ====
section
/-! DEFINITION. The dispatch of every step to its meaning: one arm per constructor of Instr. -/

namespace Sys2Proof.Machine

/-- The meaning of one instruction or event. -/
def exec (i : Instr) (s : State) : Host.Outcome State Fault Refusal :=
  match i with
  | .clauseIssue core pipe => Sys2Proof.Machine.execClauseIssue core pipe s
  | .longResultArrive core gang id part => Sys2Proof.Machine.execLongResultArrive core gang id part s
  | .parkRelease core gang sub => Sys2Proof.Machine.execParkRelease core gang sub s
  | .registerParkRelease core => Sys2Proof.Machine.execRegisterParkRelease core s
  | .deferredFaultArrive core gang id => Sys2Proof.Machine.execDeferredFaultArrive core gang id s
  | .faultResolveResume core gang sub act => Sys2Proof.Machine.execFaultResolveResume core gang sub act s
  | .memoryAccessPerform core gang id line => Sys2Proof.Machine.execMemoryAccessPerform core gang id line s
  | .gangRetire core gang => Sys2Proof.Machine.execGangRetire core gang s
  | .teamAdmit grid core => Sys2Proof.Machine.execTeamAdmit grid core s
  | .teamEvict core team => Sys2Proof.Machine.execTeamEvict core team s
  | .teamRestore pid frame core => Sys2Proof.Machine.execTeamRestore pid frame core s
  | .nop f => Sys2Proof.Machine.execNop f s
  | .br f => Sys2Proof.Machine.execBr f s
  | .brc f => Sys2Proof.Machine.execBrc f s
  | .brx f => Sys2Proof.Machine.execBrx f s
  | .jumpTableEntryReturn core gang sub => Sys2Proof.Machine.execJumpTableEntryReturn core gang sub s
  | .lpad f => Sys2Proof.Machine.execLpad f s
  | .call f => Sys2Proof.Machine.execCall f s
  | .callx f => Sys2Proof.Machine.execCallx f s
  | .ret f => Sys2Proof.Machine.execRet f s
  | .spawn f => Sys2Proof.Machine.execSpawn f s
  | .endFibre f => Sys2Proof.Machine.execEndFibre f s
  | .yield f => Sys2Proof.Machine.execYield f s
  | .trap f => Sys2Proof.Machine.execTrap f s
  | .bkpt f => Sys2Proof.Machine.execBkpt f s
  | .pset d a b tt g => Sys2Proof.Machine.execPset d a b tt g s
  | .pmovGet f => Sys2Proof.Machine.execPmovGet f s
  | .pmovSet f => Sys2Proof.Machine.execPmovSet f s
  | .smov f => Sys2Proof.Machine.execSmov f s
  | .smovi f => Sys2Proof.Machine.execSmovi f s
  | .sadd f => Sys2Proof.Machine.execSadd f s
  | .ssub f => Sys2Proof.Machine.execSsub f s
  | .smul f => Sys2Proof.Machine.execSmul f s
  | .sand f => Sys2Proof.Machine.execSand f s
  | .sor f => Sys2Proof.Machine.execSor f s
  | .sxor f => Sys2Proof.Machine.execSxor f s
  | .sshl f => Sys2Proof.Machine.execSshl f s
  | .sshr f => Sys2Proof.Machine.execSshr f s
  | .ssar f => Sys2Proof.Machine.execSsar f s
  | .scmp f => Sys2Proof.Machine.execScmp f s
  | .ssel f => Sys2Proof.Machine.execSsel f s
  | .srd f => Sys2Proof.Machine.execSrd f s
  | .vadd f => Sys2Proof.Machine.execVadd f s
  | .vaddc f => Sys2Proof.Machine.execVaddc f s
  | .vsub f => Sys2Proof.Machine.execVsub f s
  | .vmul f => Sys2Proof.Machine.execVmul f s
  | .vmad f => Sys2Proof.Machine.execVmad f s
  | .vmin f => Sys2Proof.Machine.execVmin f s
  | .vmax f => Sys2Proof.Machine.execVmax f s
  | .vand f => Sys2Proof.Machine.execVand f s
  | .vor f => Sys2Proof.Machine.execVor f s
  | .vxor f => Sys2Proof.Machine.execVxor f s
  | .vnot f => Sys2Proof.Machine.execVnot f s
  | .vshl f => Sys2Proof.Machine.execVshl f s
  | .vshr f => Sys2Proof.Machine.execVshr f s
  | .vsar f => Sys2Proof.Machine.execVsar f s
  | .vpopc f => Sys2Proof.Machine.execVpopc f s
  | .vclz f => Sys2Proof.Machine.execVclz f s
  | .vctz f => Sys2Proof.Machine.execVctz f s
  | .vbfe f => Sys2Proof.Machine.execVbfe f s
  | .vbfi f => Sys2Proof.Machine.execVbfi f s
  | .vcmp f => Sys2Proof.Machine.execVcmp f s
  | .vsel f => Sys2Proof.Machine.execVsel f s
  | .vmov f => Sys2Proof.Machine.execVmov f s
  | .vmovi f => Sys2Proof.Machine.execVmovi f s
  | .vfadd f => Sys2Proof.Machine.execVfadd f s
  | .vfsub f => Sys2Proof.Machine.execVfsub f s
  | .vfmul f => Sys2Proof.Machine.execVfmul f s
  | .vfma f => Sys2Proof.Machine.execVfma f s
  | .vfmin f => Sys2Proof.Machine.execVfmin f s
  | .vfmax f => Sys2Proof.Machine.execVfmax f s
  | .vfcmp f => Sys2Proof.Machine.execVfcmp f s
  | .vfclass f => Sys2Proof.Machine.execVfclass f s
  | .vrcp f => Sys2Proof.Machine.execVrcp f s
  | .vrsq f => Sys2Proof.Machine.execVrsq f s
  | .vsqrt f => Sys2Proof.Machine.execVsqrt f s
  | .vdiv f => Sys2Proof.Machine.execVdiv f s
  | .vexp2 f => Sys2Proof.Machine.execVexp2 f s
  | .vlog2 f => Sys2Proof.Machine.execVlog2 f s
  | .vsinpi f => Sys2Proof.Machine.execVsinpi f s
  | .vcospi f => Sys2Proof.Machine.execVcospi f s
  | .vfract f => Sys2Proof.Machine.execVfract f s
  | .vfrnd f => Sys2Proof.Machine.execVfrnd f s
  | .vldexp f => Sys2Proof.Machine.execVldexp f s
  | .vfrexp f => Sys2Proof.Machine.execVfrexp f s
  | .vcvt src f => Sys2Proof.Machine.execVcvt src f s
  | .vpack f => Sys2Proof.Machine.execVpack f s
  | .vunpack f => Sys2Proof.Machine.execVunpack f s
  | .vcamrel f => Sys2Proof.Machine.execVcamrel f s
  | .vshuf f => Sys2Proof.Machine.execVshuf f s
  | .vswz f => Sys2Proof.Machine.execVswz f s
  | .vbcast f => Sys2Proof.Machine.execVbcast f s
  | .vvote f => Sys2Proof.Machine.execVvote f s
  | .vred f => Sys2Proof.Machine.execVred f s
  | .vscan f => Sys2Proof.Machine.execVscan f s
  | .vfree f => Sys2Proof.Machine.execVfree f s
  | .ld f => Sys2Proof.Machine.execLd f s
  | .st f => Sys2Proof.Machine.execSt f s
  | .sld f => Sys2Proof.Machine.execSld f s
  | .lds f => Sys2Proof.Machine.execLds f s
  | .sts f => Sys2Proof.Machine.execSts f s
  | .atom f => Sys2Proof.Machine.execAtom f s
  | .atoms f => Sys2Proof.Machine.execAtoms f s
  | .fence f => Sys2Proof.Machine.execFence f s
  | .pref f => Sys2Proof.Machine.execPref f s
  | .fec f => Sys2Proof.Machine.execFec f s
  | .woreset f => Sys2Proof.Machine.execWoreset f s
  | .mma f => Sys2Proof.Machine.execMma f s
  | .mmaRetire core id => Sys2Proof.Machine.execMmaRetire core id s
  | .acczero f => Sys2Proof.Machine.execAcczero f s
  | .accld f => Sys2Proof.Machine.execAccld f s
  | .accst f => Sys2Proof.Machine.execAccst f s
  | .accout src f => Sys2Proof.Machine.execAccout src f s
  | .accwin f => Sys2Proof.Machine.execAccwin f s
  | .accwinPerform core id => Sys2Proof.Machine.execAccwinPerform core id s
  | .cbload f => Sys2Proof.Machine.execCbload f s
  | .cbvalid f => Sys2Proof.Machine.execCbvalid f s
  | .codebookBankWrite core id => Sys2Proof.Machine.execCodebookBankWrite core id s
  | .vexpand f => Sys2Proof.Machine.execVexpand f s
  | .spuracc f => Sys2Proof.Machine.execSpuracc f s
  | .spur f => Sys2Proof.Machine.execSpur f s
  | .spurPartnerWork cluster id partner => Sys2Proof.Machine.execSpurPartnerWork cluster id partner s
  | .spurStatusReady cluster id => Sys2Proof.Machine.execSpurStatusReady cluster id s
  | .cpy f => Sys2Proof.Machine.execCpy f s
  | .cpystat f => Sys2Proof.Machine.execCpystat f s
  | .copyStart cluster unit => Sys2Proof.Machine.execCopyStart cluster unit s
  | .copyGranuleDeliver cluster unit => Sys2Proof.Machine.execCopyGranuleDeliver cluster unit s
  | .copyEnd cluster unit => Sys2Proof.Machine.execCopyEnd cluster unit s
  | .barinit f => Sys2Proof.Machine.execBarinit f s
  | .bara f => Sys2Proof.Machine.execBara f s
  | .barw f => Sys2Proof.Machine.execBarw f s
  | .baraw f => Sys2Proof.Machine.execBaraw f s
  | .rangeset f => Sys2Proof.Machine.execRangeset f s
  | .take f => Sys2Proof.Machine.execTake f s
  | .prim f => Sys2Proof.Machine.execPrim f s
  | .rasterSampleWrite cluster => Sys2Proof.Machine.execRasterSampleWrite cluster s
  | .flushClassesArrive core gang id => Sys2Proof.Machine.execFlushClassesArrive core gang id s
  | .occq f => Sys2Proof.Machine.execOccq f s
  | .rayq f => Sys2Proof.Machine.execRayq f s
  | .rayqDeliver core gang id lane => Sys2Proof.Machine.execRayqDeliver core gang id lane s
  | .raywait f => Sys2Proof.Machine.execRaywait f s
  | .txreq f => Sys2Proof.Machine.execTxreq f s
  | .txwait f => Sys2Proof.Machine.execTxwait f s
  | .txfill f => Sys2Proof.Machine.execTxfill f s
  | .txinvKey f => Sys2Proof.Machine.execTxinvKey f s
  | .txinvInfl f => Sys2Proof.Machine.execTxinvInfl f s
  | .txframe f => Sys2Proof.Machine.execTxframe f s
  | .txpinSet f => Sys2Proof.Machine.execTxpinSet f s
  | .txpinClr f => Sys2Proof.Machine.execTxpinClr f s
  | .clockHandAdvance die pool => Sys2Proof.Machine.execClockHandAdvance die pool s
  | .qpush f => Sys2Proof.Machine.execQpush f s
  | .qpop f => Sys2Proof.Machine.execQpop f s
  | .amplify f => Sys2Proof.Machine.execAmplify f s
  | .launch f => Sys2Proof.Machine.execLaunch f s
  | .wallowerFire pid node => Sys2Proof.Machine.execWallowerFire pid node s
  | .sysrd f => Sys2Proof.Machine.execSysrd f s
  | .syswr f => Sys2Proof.Machine.execSyswr f s
  | .eret f => Sys2Proof.Machine.execEret f s
  | .eretSkip f => Sys2Proof.Machine.execEretSkip f s
  | .attrset f => Sys2Proof.Machine.execAttrset f s
  | .attrsetPageComplete core gang id => Sys2Proof.Machine.execAttrsetPageComplete core gang id s
  | .tlbshoot f => Sys2Proof.Machine.execTlbshoot f s
  | .cacheopWb f => Sys2Proof.Machine.execCacheopWb f s
  | .cacheopInv f => Sys2Proof.Machine.execCacheopInv f s
  | .cacheopDiscard f => Sys2Proof.Machine.execCacheopDiscard f s
  | .cacheopIinv f => Sys2Proof.Machine.execCacheopIinv f s
  | .cacheopClrlost f => Sys2Proof.Machine.execCacheopClrlost f s
  | .firmcall f => Sys2Proof.Machine.execFirmcall f s
  | .firmcallReturn core gang sub r0 r1 r2 r3 => Sys2Proof.Machine.execFirmcallReturn core gang sub r0 r1 r2 r3 s
  | .gets core asid line => Sys2Proof.Machine.execGets core asid line s
  | .getm core asid line => Sys2Proof.Machine.execGetm core asid line s
  | .homeAtomic core gang id => Sys2Proof.Machine.execHomeAtomic core gang id s
  | .engineLineRequest cluster unit asid line => Sys2Proof.Machine.execEngineLineRequest cluster unit asid line s
  | .putsPute core tag line => Sys2Proof.Machine.execPutsPute core tag line s
  | .putmPuto core tag line => Sys2Proof.Machine.execPutmPuto core tag line s
  | .l2EvictRecall tag line => Sys2Proof.Machine.execL2EvictRecall tag line s
  | .probeAck core tag line => Sys2Proof.Machine.execProbeAck core tag line s
  | .engineLineRelease cluster unit asid line => Sys2Proof.Machine.execEngineLineRelease cluster unit asid line s
  | .watchNotice pline => Sys2Proof.Machine.execWatchNotice pline s
  | .translationWalk vmid asid page => Sys2Proof.Machine.execTranslationWalk vmid asid page s
  | .dieLinkFail a b lines => Sys2Proof.Machine.execDieLinkFail a b lines s
  | .sramUncorrectable core site => Sys2Proof.Machine.execSramUncorrectable core site s
  | .l2Uncorrectable site => Sys2Proof.Machine.execL2Uncorrectable site s
  | .queueAccept pid queue => Sys2Proof.Machine.execQueueAccept pid queue s
  | .gridEligible grid => Sys2Proof.Machine.execGridEligible grid s
  | .gridRetire grid => Sys2Proof.Machine.execGridRetire grid s
  | .watchdogExpire pid => Sys2Proof.Machine.execWatchdogExpire pid s
  | .hostMemAccess pa len write => Sys2Proof.Machine.execHostMemAccess pa len write s
  | .remoteRequestArrive req => Sys2Proof.Machine.execRemoteRequestArrive req s
  | .remoteReplyArrive id reply => Sys2Proof.Machine.execRemoteReplyArrive id reply s
  | .remoteTimeout id => Sys2Proof.Machine.execRemoteTimeout id s
  | .flitReplay port => Sys2Proof.Machine.execFlitReplay port s
  | .portRetrain port => Sys2Proof.Machine.execPortRetrain port s
  | .portDown port => Sys2Proof.Machine.execPortDown port s
  | .coldReset => Sys2Proof.Machine.execColdReset s
  | .startStageComplete fail => Sys2Proof.Machine.execStartStageComplete fail s
  | .startWatchdogExpire => Sys2Proof.Machine.execStartWatchdogExpire s
  | .hostReset => Sys2Proof.Machine.execHostReset s
  | .vfFlr vf => Sys2Proof.Machine.execVfFlr vf s
  | .thermalTrip => Sys2Proof.Machine.execThermalTrip s
  | .getstatus fn => Sys2Proof.Machine.execGetstatus fn s
  | .restart fn arg => Sys2Proof.Machine.execRestart fn arg s
  | .imgwrite fn off chunk => Sys2Proof.Machine.execImgwrite fn off chunk s
  | .imgselect fn arg => Sys2Proof.Machine.execImgselect fn arg s
  | .partcreate fn pid clusters vmid vf => Sys2Proof.Machine.execPartcreate fn pid clusters vmid vf s
  | .partdestroy fn pid => Sys2Proof.Machine.execPartdestroy fn pid s
  | .partreset fn pid => Sys2Proof.Machine.execPartreset fn pid s
  | .preemptCmd fn pid clusters => Sys2Proof.Machine.execPreemptCmd fn pid clusters s
  | .queueset fn pid queue desc => Sys2Proof.Machine.execQueueset fn pid queue desc s
  | .poolon fn pool => Sys2Proof.Machine.execPoolon fn pool s
  | .pooloff fn pool => Sys2Proof.Machine.execPooloff fn pool s
  | .viewset fn vmid view => Sys2Proof.Machine.execViewset fn vmid view s
  | .pagegive fn frames => Sys2Proof.Machine.execPagegive fn frames s
  | .pagetake fn frames => Sys2Proof.Machine.execPagetake fn frames s
  | .drresume fn vmid => Sys2Proof.Machine.execDrresume fn vmid s
  | .evring fn base entries => Sys2Proof.Machine.execEvring fn base entries s
  | .svnraise fn => Sys2Proof.Machine.execSvnraise fn s
  | .dbgattach fn pid arg => Sys2Proof.Machine.execDbgattach fn pid arg s
  | .dbglist fn pid => Sys2Proof.Machine.execDbglist fn pid s
  | .dbgread fn pid core slot => Sys2Proof.Machine.execDbgread fn pid core slot s
  | .dbgwrite fn pid core slot fields => Sys2Proof.Machine.execDbgwrite fn pid core slot fields s
  | .dbgstep fn pid core slot fibre => Sys2Proof.Machine.execDbgstep fn pid core slot fibre s
  | .dbgresume fn pid all core slot => Sys2Proof.Machine.execDbgresume fn pid all core slot s
  | .dbghalt fn pid core on => Sys2Proof.Machine.execDbghalt fn pid core on s
  | .dbgbkpt fn pid n lo hi => Sys2Proof.Machine.execDbgbkpt fn pid n lo hi s
  | .regread fn addr => Sys2Proof.Machine.execRegread fn addr s
  | .regwrite fn addr value => Sys2Proof.Machine.execRegwrite fn addr value s
  | .registerWrite reg value => Sys2Proof.Machine.execRegisterWrite reg value s
  | .thermalTripClear => Sys2Proof.Machine.execThermalTripClear s
  | .portTrained port => Sys2Proof.Machine.execPortTrained port s
  | .engineFirmwareServiceDone cluster unit => Sys2Proof.Machine.execEngineFirmwareServiceDone cluster unit s
  | .switchUndeliverable id => Sys2Proof.Machine.execSwitchUndeliverable id s

end Sys2Proof.Machine
end

