-- ==== Sys2Proof/Machine/Step.lean ====
section
/-! DEFINITION. One step of the device: the next turn of the agenda, or the next word of the clause on the current pipe. -/

namespace Sys2Proof.Machine

/-- The next word of the clause on the current pipe runs; with no clause there, nothing happens (log entry 1). -/
def runPipe (s : State) : Host.Outcome State Fault Refusal :=
  match s.issuer with
  | none => .next s
  | some c =>
    match c.fetched with
    | .ok i => exec i s
    | .error code => .next (s.decodeFault c code)

/-- One step: the agenda's next turn, or the current pipe when the agenda is empty (log entry 1). An instruction word is
no event, so an agenda that names one changes nothing by it. -/
def step (s : State) : Host.Outcome State Fault Refusal :=
  match s.agenda with
  | [] => runPipe s
  | .pipe c p :: rest => runPipe { s with agenda := rest, cur := (c, p) }
  | .event e :: rest => if isEvent e then exec e { s with agenda := rest } else .next { s with agenda := rest }

/-- The state whose next step runs the instruction word `w`, every bit above `nbits` zero (log entry 2). -/
def State.withFetchWord (s : State) (_nbits w : Nat) : State := s.placeWord (BitVec.ofNat 64 w)

end Sys2Proof.Machine
end

