-- ==== Sys2Proof/Safety.lean ====
section
/-! DEFINITION. The terms that claims use: when the operands of an instruction let it execute, what a step may change, and
what a safe state keeps. -/

namespace Sys2Proof.Machine

/-! ### When an instruction executes -/

/-- Every v register named lies within the gang's slots (R116), and nothing outstanding writes a register or predicate
named (R47). -/
def Issuer.Ready (c : Issuer) (t : Touch) : Prop :=
  (∀ v ∈ t.v, c.slotOf v ≤ 1023) ∧ c.blockers t = []

/-- Scratchpad accesses (lane, address, bytes, whether read) that are aligned, inside the team's share and, when read, clear
of poison (R135, R136). -/
def Issuer.ScratchOk (c : Issuer) (xs : List (Nat × Nat × Nat × Bool)) : Prop :=
  ∀ x ∈ xs, x.2.1 % x.2.2.1 = 0 ∧ x.2.1 + x.2.2.1 ≤ c.team.scratchBytes ∧ x.2.1 < 2 ^ 18
    ∧ (x.2.2.2 = true → c.team.meetsPoison x.2.1 x.2.2.1 = false)

/-- The pool has the registers that writing the v registers named takes (R165): none are needed, or no sub-gang of the core is
parked for registers and as many are free (log entry 56). -/
def Issuer.PoolHas (c : Issuer) (s : State) (vs : List Nat) : Prop :=
  c.gang.slotsNeed (vs.map c.slotOf) = 0 ∨
    ((s.core c.core).regParks = [] ∧ c.gang.slotsNeed (vs.map c.slotOf) ≤ (s.core c.core).regFree)

/-- An instruction of vector operands executes (R136, R165): the operands `us`, the guard and the predicates `preds` are
ready, the scratchpad elements are accessible, and the pool has the registers of `dst`. -/
structure Issuer.Executes (c : Issuer) (s : State) (us : List Use) (g : Guard) (preds dst : List Nat) : Prop where
  issues : s.issuer = some c
  ready : c.Ready (touchOf us g preds)
  scratch : c.ScratchOk (c.spUses us (c.active g))
  pool : c.PoolHas s dst

/-- A long-class instruction executes when, also, its counter is below 63 (R48), and the gang's list holds fewer than 63 of the
counter's entries (R213; log entry 68). -/
def Issuer.CounterFree (c : Issuer) (k : Ctr) : Prop := c.gang.counter k < 63 ∧ c.gang.onList k < 63

/-- The effect of writing `val i` of type `t` to operand `d` in each active lane i (R133 to R135). -/
def Issuer.writes (c : Issuer) (t : Ty) (d : Opd) (g : Guard) (val : Nat → Nat) : Effect :=
  c.writeDst t d ((c.active g).toList.map fun i => (i, val i)) Effect.none

/-- Element by element over the elements of a type. -/
def Issuer.elementwise (c : Issuer) (f : RForm) (op : Nat → Nat → Nat → Nat) (lane : Nat) : Nat :=
  packElems f.t fun k =>
    op (elemOf f.t (c.read f.t f.a lane) k) (elemOf f.t (c.read f.t f.b lane) k) (elemOf f.t (c.read f.t f.c lane) k)

/-- A uniform instruction (R127) with its s registers ready writes its value to its destination, and changes nothing
else. `bT` and `cT` are the types of B and C where they are not the instruction's; `one` says that D is one register. -/
def UniformOp (mk : RForm → Instr) (aT bT cT : RForm → Ty) (dWide : RForm → Bool) (val : Issuer → RForm → Nat) : Prop :=
  ∀ (s : State) (c : Issuer) (f : RForm), s.issuer = some c →
    c.Ready { v := [], s := uDstS (dWide f) f.d ++ opdS (aT f) f.a ++ opdS (bT f) f.b ++ opdS (cT f) f.c, p := [] } →
    exec (mk f) s = .next (s.commit c { Effect.none with s := uWrite (dWide f) f.d (val c f) })

/-- A short vector instruction whose operands let it execute commits the effect `eff`, and releases the registers whose
last read it marks. -/
def VectorOp (mk : RForm → Instr) (ta tb tc td : RForm → Ty) (preds : RForm → List Nat) (eff : Issuer → RForm → Effect) :
    Prop :=
  ∀ (s : State) (c : Issuer) (f : RForm),
    c.Executes s (rUses f (ta f) (tb f) (tc f) (td f)) f.g (preds f) (dstV (td f) f.d) →
    exec (mk f) s = .next (s.commit c { eff c f with rel := rRel f (ta f) (tb f) (tc f) })

/-- A short vector instruction that writes one value in each active lane. -/
def LaneOp (mk : RForm → Instr) (ta tb tc td : RForm → Ty) (val : Issuer → RForm → Nat → Nat) : Prop :=
  VectorOp mk ta tb tc td (fun _ => []) fun c f => c.writes (td f) f.d f.g (val c f)

/-- A short vector instruction that works element by element in its own type. -/
def ElementOp (mk : RForm → Instr) (op : RForm → Nat → Nat → Nat → Nat) : Prop :=
  LaneOp mk RForm.t RForm.t RForm.t RForm.t fun c f => c.elementwise f (op f)

/-- Float flags that are the OR of those that each of a list raises (R144): each is set exactly when one of them raises it. -/
def Ored {α : Type} (fl : Flags) (xs : List α) (raised : α → Flags) : Prop :=
  ∀ b, fl.getLsbD b = true ↔ ∃ x ∈ xs, (raised x).getLsbD b = true

/-- A short float instruction that works element by element in a float format, the flags of every element ORed (R144). -/
def FloatOp (mk : RForm → Instr) (op : RForm → Fmt → Mode → Nat → Nat → Nat → Nat × Flags) : Prop :=
  ∀ (s : State) (c : Issuer) (f : RForm) (fm : Fmt), fmtOf f.t = some fm →
    c.Executes s (rUses f f.t f.t f.t f.t) f.g [] (dstV f.t f.d) →
    let at_ := fun (i k : Nat) => op f fm (c.mode f) (elemOf f.t (c.read f.t f.a i) k) (elemOf f.t (c.read f.t f.b i) k)
      (elemOf f.t (c.read f.t f.c i) k)
    ∃ fl, exec (mk f) s = .next (s.commit c
        { c.writes f.t f.d f.g (fun i => packElems f.t fun k => (at_ i k).1) with
          rel := rRel f f.t f.t f.t
          flags := fl }) ∧
      ∀ b, fl.getLsbD b = true ↔
        ∃ i ∈ (c.active f.g).toList, ∃ k ∈ List.range (elemShape f.t).2, (at_ i k).2.getLsbD b = true

/-- The registers of a cross-lane instruction's destination: `n` from the one named. -/
def runOf (n : Nat) (d : Opd) : List Nat :=
  match d with
  | .v r => (List.range n).map fun k => r.toNat + k
  | _ => []

/-- A cross-lane instruction (R46, R154) issues on XLC with its results found then, over the fibres present: `vals` in the
active lanes, `pred` for a predicate. D covers `words` registers, and `elems` are the scratchpad elements it accesses; the
flags are the OR of those `raised`. -/
def CrossOp (mk : RForm → Instr) (tb td : RForm → Ty) (preds : RForm → List Nat) (words : Issuer → RForm → Nat)
    (elems : Issuer → RForm → List (Nat × Nat × Nat × Bool)) (vals : Issuer → RForm → List (Nat × Nat))
    (pred : Issuer → RForm → Option (Nat × List (Nat × Bool))) (raised : Issuer → RForm → List Flags) : Prop :=
  ∀ (s : State) (c : Issuer) (f : RForm), s.issuer = some c →
    let vdst := runOf (words c f) f.d
    let t := touchOf (rUses f f.t (tb f) f.t (td f)) f.g (preds f)
    c.Ready { t with v := t.v ++ vdst } → c.ScratchOk (elems c f) → c.CounterFree .xlc → c.PoolHas s vdst →
    ∃ fl, Ored fl (raised c f) (fun x => x) ∧ exec (mk f) s = .next ((s.issue c .xlc (rRel f f.t (tb f) f.t) vdst []
        ((pred c f).map fun x => x.1) (c.active f.g) fun p =>
      { p with out :=
          { (match f.d with
             | .v n =>
               { Out.none with vregs := (List.range (words c f)).map fun k =>
                   (c.slotOf (n.toNat + k), (vals c f).map fun (x : Nat × Nat) => (x.1, BitVec.ofNat 32 (x.2 / 2 ^ (32 * k)))) }
             | _ => c.outDst (td f) f.d (vals c f) Out.none) with
            flags := fl
            pred := (pred c f).map fun (x : Nat × List (Nat × Bool)) => (x.1, maskOf x.2) } }).advance c)

/-! ### When a memory instruction and a once-acting instruction execute -/

/-- A memory instruction issues (R46, R189, R211): its registers are ready, it is no report point for a fault of the gang,
every address is aligned and in range, its counter is below 63 and the pool has its destination's registers. -/
structure Issuer.MemExecutes (c : Issuer) (s : State) (k : MemKind) (f : MForm) : Prop where
  issues : s.issuer = some c
  ready : c.Ready (memTouch k f)
  quiet : k.reports f = true → c.sub.inReport = true ∨ (c.gang.oldestFault = none ∧ c.gang.faultUnresolved = false)
  aligned : ∀ x ∈ c.memAddrs k f, x.2 % k.unit f = 0
  inRange : ∀ x ∈ c.memAddrs k f,
    if k.scratch = true then x.2 + k.bytes f ≤ c.team.scratchBytes ∧ x.2 < 2 ^ 18 else x.2 < 2 ^ 56
  counter : c.CounterFree (k.counter f)
  pool : c.PoolHas s (if k ≠ .sld ∧ isV f.d = true then regRun (k.resultRegs f) f.d else [])

/-- The outstanding instruction that a memory instruction becomes, with its addresses and the data it stores (R213). -/
def Issuer.memIssued (c : Issuer) (s : State) (k : MemKind) (f : MForm) : State :=
  s.issue c (k.counter f) (memRel k f) (if k ≠ .sld ∧ isV f.d = true then regRun (k.resultRegs f) f.d else [])
    (if k = .sld then regRun (k.resultRegs f) f.d else []) none (if k.once = true then 0 else c.active f.g) fun p =>
      { p with
        addrs := c.memAddrs k f
        data := c.memData k f (c.memAddrs k f)
        op := .mem k f }

/-- The same with the issuing sub-gang parked at its next clause boundary until the result arrives (R204). -/
def State.waitingIssue (s : State) (c : Issuer) (k : MemKind) (f : MForm) : State :=
  (c.memIssued s k f).modGang c.core c.slot fun g => g.modSub c.sub.id fun b => { b with waits := b.waits ++ [s.next] }

/-- A memory instruction of a kind issues, and the clause goes on. -/
def MemOp (mk : MForm → Instr) (k : MemKind) : Prop :=
  ∀ (s : State) (c : Issuer) (f : MForm), c.MemExecutes s k f →
    exec (mk f) s = .next ((c.memIssued s k f).advance c)

/-- An ENC instruction that acts once for its sub-gang executes when its s registers are ready and its counter is below 63
(R265, R266). -/
structure Issuer.OnceExecutes (c : Issuer) (s : State) (ss : List Nat) (k : Ctr) : Prop where
  issues : s.issuer = some c
  ready : c.Ready { v := [], s := ss, p := [] }
  counter : c.CounterFree k

/-- The gang has no fault to report at a report point of R211. -/
def Issuer.Quiet (c : Issuer) : Prop :=
  c.sub.inReport = true ∨ (c.gang.oldestFault = none ∧ c.gang.faultUnresolved = false)

/-- An outstanding instruction of a gang in a slot of a core, with who runs it. -/
structure State.Outstanding (s : State) (r : Runner) (p : Pending) : Prop where
  runs : s.runner? r.core r.slot = some r
  entry : r.gang.pending? p.id = some p

/-- A memory access is ready to perform: it has not failed, no lane of it fails now, and no earlier access holds the lanes
named back (R195, R203). -/
structure State.Performs (s : State) (r : Runner) (p : Pending) (lanes : Table Nat) : Prop where
  out : s.Outstanding r p
  pending : p.st = .pending
  clean : s.laneFaults r p = []
  free : s.blocked r p lanes = false

/-- Accumulator rows of active lanes within the window (R243, R247), held by nothing in flight (R245), with no change of the
window on its way (R250). -/
structure Issuer.RowsFree (c : Issuer) (s : State) (owned : List (Nat × List Nat)) : Prop where
  settled : c.windowPending s = false
  inside : ∀ x ∈ owned, ∀ r ∈ x.2, r < c.gang.accLim
  idle : (s.core c.core).rowsBusy c.gang.team (owned.flatMap fun x => x.2) none = false
  counter : c.CounterFree .mxc

/-- A command of a function is the next that the primary control core performs, the function may issue it, and the start has
come far enough for it (R398, R399, R404). -/
structure State.TakesCommand (s : State) (fn opc : Nat) : Prop where
  next : s.commandNext fn opc = true
  allowed : fn = 0 ∨ vfCommand opc = true
  fits : (s.mailbox fn).len.toNat ≤ 4096
  started : (s.boot.stage = 6 ∧ s.boot.stopped = false) ∨
    (earlyCommand opc = true ∧ (s.boot.stage ≠ 0 ∨ s.boot.stopped = true))

/-! ### What a step may change -/

/-- Nothing but one gang of one core, and the scratchpad of its team, differs; `next` is left to the claim. -/
structure OnlyGang (core slot team : Nat) (s t : State) : Prop where
  agenda : t.agenda = s.agenda
  cur : t.cur = s.cur
  free : t.free = s.free
  clusters : t.clusters = s.clusters
  mem : t.mem = s.mem
  bytes : ∀ a, Memory.read t.mem.hbm a = Memory.read s.mem.hbm a
  pond : t.pond = s.pond
  parts : t.parts = s.parts
  grids : t.grids = s.grids
  mailboxes : t.mailboxes = s.mailboxes
  boot : t.boot = s.boot
  pkg : t.pkg = s.pkg
  fabric : t.fabric = s.fabric
  cores : ∀ k, k ≠ core → t.core k = s.core k
  unit : { t.core core with gangs := (s.core core).gangs, teams := (s.core core).teams } = s.core core
  gangs : ∀ g, g ≠ slot → t.gang? core g = s.gang? core g
  teams : ∀ u, u ≠ team → t.team? core u = s.team? core u

/-! ### What a safe state keeps -/

/-- Device and host memory are in their canonical form (log entry 4). -/
def State.MemCanonical (s : State) : Prop := Memory.wf s.mem.hbm = true

end Sys2Proof.Machine
end

