-- ==== Sys2Proof/Certificates/Slice0/Obligations.lean ====
section
/-! DEFINITION. The statements of this model for the provers: each names the rules of the manual that it states. -/

open Sys2Proof Sys2Proof.Machine

/-! ### Steps, words and resets -/

/-- A step whose turn is a pipe's runs the instruction that the pipe's next word decodes to, and nothing else; a turn of
an event runs that event; and a word placed by the host runs as the first step. -/
def Obligations.StepRunsDecodedInstruction : Prop :=
  (∀ (s : State) (c : Issuer) (i : Instr), s.agenda = [] → s.issuer = some c → decode c.word = .ok i →
    step s = exec i s) ∧
  (∀ (s : State) (k p : Nat) (rest : List Turn) (c : Issuer) (i : Instr),
    s.agenda = .pipe k p :: rest → s.issuerAt k p = some c → decode c.word = .ok i →
    step s = exec i { s with agenda := rest, cur := (k, p) }) ∧
  (∀ (s : State) (e : Instr) (rest : List Turn), s.agenda = .event e :: rest → isEvent e = true →
    step s = exec e { s with agenda := rest }) ∧
  ∀ (n w : Nat) (i : Instr), decode (BitVec.ofNat 64 w) = .ok i →
    step (State.reset.withFetchWord n w) = exec i (State.reset.withFetchWord n w)

/-- A word that does not decode runs nothing: the sub-gang stops at it with a precise fault of the code that the static
checks name, whose record holds the word's address and every fibre of the sub-gang (R43, R136), whether its pipe issues for want
of an agenda or has its turn from it. -/
def Obligations.UndecodableWordFaults : Prop :=
  ∀ (s : State) (c : Issuer) (code : Code), decode c.word = .error code →
    let stops := fun (t : State) => Host.Outcome.next (t.takeFault c.core c.slot c.sub.id
      { code := some code, pc := c.pc, addr := 0, lanes := c.sub.fibres, aux := 0 }
      { pc := c.pc.setWidth 64, inClause := some (c.clause.header, c.clause.haddr), entry := none })
    (s.agenda = [] → s.issuer = some c → step s = stops s) ∧
    ∀ (k p : Nat) (rest : List Turn), s.agenda = .pipe k p :: rest → s.issuerAt k p = some c →
      step s = stops { s with agenda := rest, cur := (k, p) }

/-- The words of Examples 2.1, 3.1 and 4.1 and of the control and vector chapters decode to the instructions that they
are the words of. -/
def Obligations.ManualWordsDecode : Prop :=
  decode 0x1C060BFFFFFFC385 = .ok (.srd
    { sel := 0x85, d := .s 5, a := .none, b := .none, c := .none, lrA := false, lrB := false, lrC := false,
      g := .always }) ∧
  decode 0x36700FFF00001234 = .ok (.vmovi { g := .always, lrA := false, d := .v 7, a := .none, imm := 0x1234 }) ∧
  decode 0x3A40140402E0E100 = .ok (.vfma
    { t := .f32, d := .v 10, a := .v 4, b := .v 5, c := .sp 3, lrA := true, lrB := false, lrC := false,
      g := .pred false 2, rnd := 0, sat := false, fn := 0 }) ∧
  decode 0x60002808004489C0 = .ok (.ld
    { t := .b32, d := .v 20, a := .v 8, off := 4, scope := 2, ord := 1, hint := 0, lrA := true, lrD := false,
      g := .always, sub := 0 }) ∧
  decode 0x8061808083FE0008 = .ok (.mma
    { ta := .e4m3, tb := .e4m3, a := 16, b := 32, s := 0x1FF, row := 0, bank := 0, acct := 0, lrA := true, lrB := false,
      ovw := false, neg := false }) ∧
  decode 0x02100FF8FFFFFFFD = .ok (.brc { g := .pred false 1, aux := 0, a := .none, imm := 0xFFFFFFFD }) ∧
  decode 0x110A0904A0FFC380 = .ok (.sadd
    { t := .i32, d := .s 4, a := .s 4, b := .imm 1, c := .none, lrA := false, lrB := false, lrC := false, g := .always,
      rnd := 0, sat := false, fn := 0 }) ∧
  decode 0x0D03FF41A17FC3B8 = .ok (.pset 3 1 2 8 .always) ∧
  decode 0xFC8C100000000000 = .error .clauseForm

/-- Encoding and decoding agree on every well-formed instruction, with every operand at every value that the encoding
admits: a word decodes to the instruction it encodes, only that word does, and exactly the events have no word. -/
def Obligations.DecodeEncode : Prop :=
  (∀ (i : Instr) (w : DWord), WellFormed i = true → encode i = some w → decode w = .ok i) ∧
  (∀ (i : Instr) (w : DWord), decode w = .ok i → encode i = some w ∧ WellFormed i = true) ∧
  ∀ i : Instr, encode i = none ↔ isEvent i = true

/-- Every step keeps device and host memory in canonical form: addresses strictly rising, and no entry equal to what an
unlisted address reads as (log entry 4). -/
def Obligations.StepKeepsMemoryCanonical : Prop :=
  ∀ s t : State, s.MemCanonical → step s = .next t → t.MemCanonical

/-- The reset state's memory is canonical, and lists nothing: every byte of it reads as `Memory.fill`, a value of the model's,
since the manual says nothing of what memory holds then (DESIGN CHOICE, log entry 4). -/
def Obligations.ResetMemoryCanonical : Prop :=
  State.reset.MemCanonical ∧ ∀ a, Memory.read State.reset.mem.hbm a = Memory.fill

/-- Registers after a cold reset: `GOVCAP` is 16 (R178), a barrier is disabled with phase 0 and a Damsel slot is empty (R264),
`WEIRTHR` is 0x41800000 (R286), every partition-register starts from `AGEN` 16 and way mask 0xFFFF (R364, R319), and `FABTMO`
is 0x000400 (R411). That core-halt mode and the address breakpoints are off is the model's value, since R178 gives `CORECTL`
and `BKADDR` none (DESIGN CHOICE, log entry 8). -/
def Obligations.ResetRegisters : Prop :=
  (∀ c, (State.reset.core c).govcap = 16 ∧ (State.reset.core c).coreHalt = false ∧ (State.reset.core c).cyc = 0 ∧
    ∀ n, n < 4 → (nth (State.reset.core c).bkaddr n { enable := true, addr := 0 }).enable = false) ∧
  (∀ k, (State.reset.cluster k).barriers = [] ∧ (State.reset.cluster k).vis.weirthr = 0x41800000 ∧
    (State.reset.cluster k).vis.binflush = 0) ∧
  Barrier.reset.target = 0 ∧ Barrier.reset.phase = 0 ∧ DamselSlot.empty.next = 0 ∧ DamselSlot.empty.stop = 0 ∧
  Partition.reset.agen = 16 ∧ Partition.reset.waymask = 0xFFFF ∧ State.reset.fabric.tmo = 0x000400 ∧
  State.reset.fabric.devid = 0 ∧ State.reset.boot.stage = 0

/-! ### What a commit, an issue, a result and the end of a clause change -/

/-- A commit changes nothing but its gang and the scratchpad of its team; of the gang, only the v slots it releases or
writes, the s registers and predicates it writes, and the flags it ORs in (R97, R108, R127, R164). A released slot becomes
unwritten before the destinations are written; a lane that is not written keeps its word; another sub-gang's uniform
registers, the outstanding instructions, the counters and the fault record stay. -/
def Obligations.CommitChangesOnly : Prop :=
  ∀ (s : State) (c : Issuer) (e : Effect), s.issuer = some c → ∃ x y b,
    (s.applyEffect c e).gang? c.core c.slot = some x ∧ (s.applyEffect c e).team? c.core c.gang.team = some y ∧
    OnlyGang c.core c.slot c.gang.team s (s.applyEffect c e) ∧
    { x with slots := c.gang.slots, preds := c.gang.preds, subs := c.gang.subs, flags := c.gang.flags } = c.gang ∧
    x.flags = c.gang.flags ||| e.flags ∧
    (∀ slot lane, lane < c.gang.width → x.slotWord slot lane =
      e.v.foldl (fun w d => if c.slotOf d.1 = slot then laneWord d.2 lane w else w)
        (if ∃ v ∈ e.rel, c.slotOf v = slot then 0 else c.gang.slotWord slot lane)) ∧
    (∀ p, p < 7 → nth x.preds p 0 =
      e.p.foldl (fun m d => if d.1 = p then (m &&& ~~~d.2.1) ||| (d.2.2 &&& d.2.1) else m) (nth c.gang.preds p 0)) ∧
    (∀ id, id ≠ c.sub.id → x.sub? id = c.gang.sub? id) ∧
    x.sub? c.sub.id = some b ∧ { b with sregs := c.sub.sregs } = c.sub ∧
    (∀ n, n < 64 → nth b.sregs n 0 = e.s.foldl (fun w d => if d.1 = n then d.2 else w) (c.sreg n)) ∧
    { y with scratch := c.team.scratch } = c.team ∧
    ∀ a, y.byte a = e.mem.foldl
      (fun w d => if d.1 ≤ a ∧ a < d.1 + d.2.length then nth d.2 (a - d.1) 0 else w) (c.team.byte a)

/-- An instruction that commits inside its clause moves the clause on by one word and changes nothing else; the last word of a
clause that no branch ends falls through: every fibre stands at the word after the clause (R41), parked when the header's
`PARK` bit is set (R49), and the pipe is free. That is said where nothing waits for the boundary: no debugger's request, step,
halt or address breakpoint (R36, R37), and no stopped team (R386). -/
def Obligations.ClauseGoesOn : Prop :=
  ∀ (s : State) (c : Issuer), s.issuer = some c →
    (c.clause.idx + 1 < c.clause.words.length →
      s.advance c = s.modCore c.core fun k => k.setPipe c.pipe (some { c.clause with idx := c.clause.idx + 1 })) ∧
    (¬ c.clause.idx + 1 < c.clause.words.length → c.team.killed = false → c.gang.dbg.stepping = none →
      c.gang.dbg.request = none → (s.core c.core).coreHalt = false →
      (∀ x ∈ (s.core c.core).bkaddr, x.enable = false) →
      s.advance c =
        (({ s with next := s.next + 1 } : State).modCore c.core fun k => k.setPipe c.pipe none).modGang c.core c.slot
          fun g => g.replaceSub c.sub.id
            [{ c.sub.restrict c.sub.fibres with
               pc := c.clauseEnd
               inClause := none
               park := if headerPark c.clause.header then .parkBit else c.sub.park }])

/-- The fibres of a sub-gang that move are split by where they arrive: each group holds exactly the fibres that arrive at
its key, no two groups share a key, and no fibre is lost (R17, R18). -/
def Obligations.FibresSplitByKey : Prop :=
  ∀ (m : Lanes) (keyOf : Nat → Machine.Key),
    (∀ g ∈ groupByKey m keyOf, ∀ i, g.2.getLsbD i = (m.getLsbD i && keyOf i == g.1)) ∧
    (∀ i, m.getLsbD i = true → ∃ g ∈ groupByKey m keyOf, g.1 = keyOf i) ∧
    ((groupByKey m keyOf).map fun g => g.1).Nodup

/-- A long-class instruction that issues changes nothing but its gang (R46, R164): the slots whose last read it marks
become unwritten, its destination slots are written and keep the words they had, its counter rises by one, and it stands
last among the outstanding instructions under a number of its own. -/
def Obligations.IssueChangesOnly : Prop :=
  ∀ (s : State) (c : Issuer) (k : Ctr) (rel vdst sdst : List Nat) (pdst : Option Nat) (lanes : Lanes)
    (mk : Pending → Pending), s.issuer = some c → ∃ x p,
    (s.issue c k rel vdst sdst pdst lanes mk).gang? c.core c.slot = some x ∧
    (s.issue c k rel vdst sdst pdst lanes mk).next = s.next + 1 ∧
    OnlyGang c.core c.slot c.gang.team s (s.issue c k rel vdst sdst pdst lanes mk) ∧
    (s.issue c k rel vdst sdst pdst lanes mk).team? c.core c.gang.team = s.team? c.core c.gang.team ∧
    { x with slots := c.gang.slots, counters := c.gang.counters, pending := c.gang.pending } = c.gang ∧
    x.pending = c.gang.pending ++ [mk p] ∧ p.id = s.next ∧ p.ctr = k ∧ p.word = c.word ∧ p.pc = c.pc ∧
    p.lanes = lanes ∧ p.live = lanes ∧ p.vdst = vdst.map c.slotOf ∧ p.sdst = sdst ∧ p.pdst = pdst ∧ p.st = .pending ∧
    (∀ j, x.counter j = if j = k then c.gang.counter j + 1 else c.gang.counter j) ∧
    (∀ slot lane, lane < c.gang.width → x.slotWord slot lane =
      if ∃ v ∈ rel, c.slotOf v = slot then 0 else c.gang.slotWord slot lane) ∧
    ∀ v ∈ vdst, (Table.get? x.slots (c.slotOf v)).isSome = true

/-- When the result of a long-class instruction arrives, the instruction leaves the outstanding ones, its counter falls
while it was counted, its flags are merged, and its words, its predicate and its scratchpad bytes are written in the lanes
whose fibres have not ended since (R46, R97, R121). Its s registers are written in the copies of the sub-gangs that stem from
the one that issued it (R193), and no sub-gang waits for it any longer. Nothing but its gang and the scratchpad of its team
changes. -/
def Obligations.ResultArrives : Prop :=
  ∀ (s : State) (core slot id : Nat) (o : Out) (g : Gang) (p : Pending), s.gang? core slot = some g →
    g.pending? id = some p →
    (∃ x, (s.deliver core slot id o).gang? core slot = some x ∧
      OnlyGang core slot g.team s (s.deliver core slot id o) ∧ (s.deliver core slot id o).next = s.next ∧
      { x with slots := g.slots, subs := g.subs, preds := g.preds, flags := g.flags, counters := g.counters,
               pending := g.pending } = g ∧
      x.pending = g.pending.filter (fun q => q.id != p.id) ∧ x.flags = g.flags ||| o.flags ∧
      (∀ j, x.counter j = if j = p.ctr ∧ p.counted = true then g.counter j - 1 else g.counter j) ∧
      x.subs = g.subs.map (fun b =>
        { (if p.sub ∈ b.anc then b.setSregs o.sregs else b) with waits := b.waits.filter fun w => w != p.id }) ∧
      (∀ n, n < 7 → nth x.preds n 0 = match o.pred with
        | some (m, vals) =>
          if m = n then (nth g.preds n 0 &&& ~~~p.live) ||| (vals &&& p.live) else nth g.preds n 0
        | none => nth g.preds n 0) ∧
      ∀ sl lane, lane < g.width → x.slotWord sl lane =
        o.vregs.foldl (fun w d => if d.1 = sl then laneWord (d.2.filter fun y => p.live.getLsbD y.1) lane w else w)
          (g.slotWord sl lane)) ∧
    ∀ t, s.team? core g.team = some t → ∃ y, (s.deliver core slot id o).team? core g.team = some y ∧
      { y with scratch := t.scratch } = t ∧
      ∀ a, y.byte a = o.mem.foldl (fun w d =>
        if p.live.getLsbD d.1 = true ∧ d.2.1 ≤ a ∧ a < d.2.1 + d.2.2.length then nth d.2.2 (a - d.2.1) 0 else w) (t.byte a)

/-! ### Control, predicates and uniform registers -/

/-- NOP changes no visible state, whatever its guard (R108), and LPAD reached otherwise than through BRX or CALLX is a
no-op (R115): where the guard's predicate is ready, they commit an effect that writes nothing. -/
def Obligations.NopLpadChangeNothing : Prop :=
  ∀ (s : State) (c : Issuer) (f : CForm), c.Executes s [] f.g [] [] →
    exec (.nop f) s = .next (s.commit c Effect.none) ∧ exec (.lpad f) s = .next (s.commit c Effect.none)

/-- BR and BRC (R109, R110): an active fibre whose condition holds goes to the branch's own address plus 8 × the immediate,
TURN counting the branch when it is backward; every other fibre goes to the word after the branch; WB stays. -/
def Obligations.BranchesMoveFibres : Prop :=
  ∀ (s : State) (c : Issuer) (f : CForm), c.Executes s (CForm.uses f) f.g [] [] →
    let target := c.pc.setWidth 64 + (f.imm.signExtend 64 <<< 3)
    let key := fun i : Nat =>
      if (c.active f.g).getLsbD i = true ∧ brCond f.aux.toNat (BitVec.ofNat 32 (c.read .n32 f.a i)) = true then
        ({ pc := target
           turn := if target ≤ c.clause.haddr.setWidth 64 then c.sub.turn + 1 else c.sub.turn
           wb := c.sub.wb } : Machine.Key)
      else { pc := c.clauseEnd, turn := c.sub.turn, wb := c.sub.wb }
    exec (.br f) s = .next (s.endClause c (groupByKey c.sub.fibres key)) ∧
    exec (.brc f) s = .next (s.endClause c (groupByKey c.sub.fibres key))

/-- CALL (R117) and RET (R119) with their windows in range: CALL writes the return address and the window shift into the
callee's first two registers and moves each active fibre to its target in the new window; RET takes each active fibre back
through its link pair. Fibres that are not active go to the word after the clause. -/
def Obligations.CallsAndReturns : Prop :=
  (∀ (s : State) (c : Issuer) (f : CForm), s.issuer = some c →
    c.Ready { v := [8 * f.aux.toNat, 8 * f.aux.toNat + 1], s := [], p := guardP f.g } →
    c.PoolHas s [8 * f.aux.toNat, 8 * f.aux.toNat + 1] → c.sub.wb.toNat + 8 * f.aux.toNat ≤ 1016 →
    let act := c.active f.g
    let link := linkWords f.aux.toNat c.clauseEnd
    exec (.call f) s = .next ((s.applyEffect c { Effect.none with
        v := [(8 * f.aux.toNat, act.toList.map fun i => (i, link.1)),
              (8 * f.aux.toNat + 1, act.toList.map fun i => (i, link.2))] }).endClause c
      (groupByKey c.sub.fibres fun i =>
        if act.getLsbD i then
          { pc := c.pc.setWidth 64 + (f.imm.signExtend 64 <<< 3), turn := c.sub.turn,
            wb := c.sub.wb + BitVec.ofNat 10 (8 * f.aux.toNat) }
        else { pc := c.clauseEnd, turn := c.sub.turn, wb := c.sub.wb }))) ∧
  ∀ (s : State) (c : Issuer) (f : CForm),
    c.Executes s [{ o := f.a, t := .b64, reads := true }] f.g [] [] →
    (∀ i ∈ (c.active f.g).toList, 8 * bitsOf (c.read .b64 f.a i) 63 56 ≤ c.sub.wb.toNat) →
    exec (.ret f) s = .next (s.endClause c (groupByKey c.sub.fibres fun i =>
      if (c.active f.g).getLsbD i then
        { pc := BitVec.ofNat 64 (bitsOf (c.read .b64 f.a i) 55 3 * 8), turn := c.sub.turn,
          wb := c.sub.wb - BitVec.ofNat 10 (8 * bitsOf (c.read .b64 f.a i) 63 56) }
      else { pc := c.clauseEnd, turn := c.sub.turn, wb := c.sub.wb }))

/-- BRX and CALLX (R112 to R114, R117, R118) with every index below the bound: with no fibre active every fibre goes to the
word after the clause; else the sub-gang parks at the instruction until its entries return. JUMP_TABLE_ENTRY_RETURN then moves
each active fibre to its entry's target, every other to the word after the clause, CALLX having written the link of CALL and
moved the window; or, where an entry fails, it faults and commits nothing. An entry passes only when the word at its target is
a header and the word after that an LPAD which carries the entry's label (R113, R115). -/
def Obligations.JumpTables : Prop :=
  (∀ (s : State) (c : Issuer) (f : CForm) (call : Bool), s.issuer = some c →
    let k := 2 * (f.imm.toNat % 32)
    let sh := 8 * f.aux.toNat
    let act := c.active f.g
    let link := if call then [sh, sh + 1] else []
    let t := touchOf (CForm.uses f) f.g []
    let exec_ := exec (if call then .callx f else .brx f) s
    (call = true → c.sub.wb.toNat + sh ≤ 1016) →
    c.Ready { t with s := t.s ++ [k, k + 1, k + 2], v := t.v ++ link } →
    c.ScratchOk (c.spUses (CForm.uses f) act) → c.PoolHas s link →
    (∀ i ∈ act.toList, c.read .n32 f.a i < (c.sreg (k + 2)).toNat) →
    (act.toList = [] → exec_ = .next (s.endClause c
      [({ pc := c.clauseEnd, turn := c.sub.turn, wb := c.sub.wb }, c.sub.fibres)])) ∧
    (act.toList ≠ [] → exec_ = .next ((({ s with next := s.next + 1 } : State).modGang c.core c.slot fun g =>
      g.modSub c.sub.id fun b =>
        { b with
          park := .jumpTable s.next call f.aux.toNat (c.clause.haddr.setWidth 64) c.clauseEnd (c.spair k)
            (act.toList.map fun i => (i, c.read .n32 f.a i)) act
          pc := c.pc.setWidth 64
          inClause := some (c.clause.header, c.clause.haddr) }).modCore c.core fun x => x.setPipe c.pipe none))) ∧
  (∀ (s u : State) (core slot sub id : Nat) (r : Runner) (b : SubGang) (p : Pending) (call : Bool) (shift : Nat)
    (header clauseEnd : DWord) (base : Nat) (entries : Table Nat) (act : Lanes) (h : DWord) (ha : BitVec 56)
    (bytes : Table (Except Code (List Byte))),
    s.runner? core slot = some r → r.gang.sub? sub = some b →
    b.park = .jumpTable id call shift header clauseEnd base entries act → b.inClause = some (h, ha) →
    r.gang.tableReads.find? (fun q => q.sub == sub) = some p →
    p.addrs = entries.map (fun x => (x.1, (base + 8 * x.2) % 2 ^ 64)) →
    s.readEntries r p p.addrs = some (u, bytes) →
    let t := u.acquireOf r p
    let es := (p.addrs.zip bytes).map fun x => (x.1.1, t.entryOfLane r b.pc base x.1.2 x.2.2)
    let v : State := { t with free := t.free + 1 }
    let lo := b.wb.toNat + 8 * shift
    let need := r.gang.slotsNeed (if call then [lo, lo + 1] else [])
    (∀ fr, tableFault es = some fr → exec (.jumpTableEntryReturn core slot sub) s = .next (v.takeFault core slot b.id fr
      { pc := b.pc, inClause := b.inClause, entry := none })) ∧
    ((∀ x ∈ es, ∃ a, x.2 = .ok a) → need = 0 ∨ ((t.core core).regParks = [] ∧ need ≤ (t.core core).regFree) →
      let groups := groupByKey b.fibres fun i =>
        match es.find? fun x => x.1 == i with
        | some (_, .ok a) =>
          if call then { pc := a, turn := b.turn, wb := b.wb + BitVec.ofNat 10 (8 * shift) }
          else { pc := a, turn := if a ≤ header then b.turn + 1 else b.turn, wb := b.wb }
        | _ => { pc := clauseEnd, turn := b.turn, wb := b.wb }
      let bs := splitSub { b with park := .run, inClause := none } groups v.next
      let each := fun (w : Word) => act.toList.map fun i => (i, w)
      exec (.jumpTableEntryReturn core slot sub) s = .next
        ((({ v with next := v.next + groups.length } : State).modGang core slot fun g =>
          (if call then (g.writeSlot lo (each (linkWords shift clauseEnd).1)).writeSlot (lo + 1)
              (each (linkWords shift clauseEnd).2) else g).replaceSub b.id
            (if headerPark h then bs.map fun x => { x with park := .parkBit } else bs)).boundary core slot b.id))) ∧
  ∀ (s : State) (r : Runner) (brx : DWord) (base va : Nat) (bytes : Except Code (List Byte)) (a : DWord),
    s.entryOfLane r brx base va bytes = .ok a → ∃ bs h w, bytes = .ok bs ∧
      let target := wrapTo ((base : Int) + 8 * sext (bitsOf (leNat bs) 39 0) 40) 64
      a = BitVec.ofNat 64 target ∧ s.fetchWord r.core r.grid s.free target = .ok h ∧ isHeader h = true ∧
      s.fetchWord r.core r.grid s.free (target + 8) = .ok w ∧ lpadLabel w = some (bitsOf (leNat bs) 63 40)

/-- SPAWN (R25, R120), END (R26, R121) and YIELD (R122). SPAWN gives the spawners, in increasing order, the gang's free lanes
in increasing order, and sets its predicate in the spawners that got one; the clause goes on under a new number of its
sub-gang, so that what it issues from then on is not of the child (R193; DEDUCED, log entry 23). END retires every active
fibre; YIELD sends every fibre to the word after the clause. -/
def Obligations.FibresComeAndGo : Prop :=
  (∀ (s : State) (c : Issuer) (f : CForm), s.issuer = some c →
    c.Ready { v := List.range 8, s := [], p := f.aux.toNat % 8 :: guardP f.g } →
    let pairs := (c.active f.g).toList.zip c.gang.freeLanes
    let won := pairs.foldl (fun (m : Lanes) x => m ||| Lanes.one x.1) 0
    let born := pairs.foldl (fun (m : Lanes) x => m ||| Lanes.one x.2) 0
    let c' := c.renamed (s.next + 1)
    (pairs = [] → exec (.spawn f) s = .next (s.commit c { Effect.none with p := [(f.aux.toNat % 8, c.active f.g, 0)] })) ∧
    (pairs ≠ [] → ∃ u x, exec (.spawn f) s = .next (u.advance c') ∧ u.gang? c.core c.slot = some x ∧ u.next = s.next + 2 ∧
      OnlyGang c.core c.slot c.gang.team (s.modCore c.core fun k => k.setPipe c.pipe (some c'.clause)) u ∧
      (f.aux.toNat % 8 < 7 → nth x.preds (f.aux.toNat % 8) 0 =
        ((pairs.foldl (fun (g : Gang) y => g.spawnLane c.sub.wb.toNat y.1 y.2) c.gang).preds.getD (f.aux.toNat % 8) 0
          &&& ~~~c.active f.g) ||| (won &&& c.active f.g)) ∧
      x.subs = (c.gang.subs.flatMap fun y => if y.id == c.sub.id then [c'.sub] else [y]) ++
        [{ c.sub with
           id := s.next
           anc := s.next :: c.sub.anc
           fibres := born
           pc := c.pc.setWidth 64 + (f.imm.signExtend 64 <<< 3)
           turn := 0
           passOver := 0
           yielded := false
           park := .run
           waits := []
           inClause := none
           handler := none
           others := [] }])) ∧
  (∀ (s : State) (c : Issuer) (f : CForm), c.Executes s [] f.g [] [] →
    exec (.endFibre f) s = .next ((s.modGang c.core c.slot fun g => g.forgetLanes (c.active f.g)).endClause c
      (groupByKey (c.sub.fibres &&& ~~~c.active f.g) fun _ =>
        { pc := c.clauseEnd, turn := c.sub.turn, wb := c.sub.wb }))) ∧
  ∀ (s : State) (c : Issuer) (f : CForm), c.Executes s [] f.g [] [] →
    exec (.yield f) s = .next ((s.modGang c.core c.slot fun g =>
        { g with yielded := g.yielded || c.active f.g != 0 }).endClause
      { c with sub := { c.sub with yielded := c.sub.yielded || c.active f.g != 0 } }
      [({ pc := c.clauseEnd, turn := c.sub.turn, wb := c.sub.wb }, c.sub.fibres)])

/-- TRAP (R123) with a fibre active: the active fibres form a sub-gang of their own that stops with DEBUG at the word after
the clause, the immediate in `FLTAUX`, while the others fall through; with none active it falls through. BKPT (R124) commits and
asks the gang to halt at the end of its clause. -/
def Obligations.TrapsAndBreakpoints : Prop :=
  (∀ (s : State) (c : Issuer) (f : CForm), c.Executes s [] f.g [] [] → c.active f.g ≠ 0 →
    let rest := c.sub.fibres &&& ~~~c.active f.g
    let key : Machine.Key := { pc := c.clauseEnd, turn := c.sub.turn, wb := c.sub.wb }
    exec (.trap f) s = .next ((s.endClause c
        (if rest = 0 then [(key, c.active f.g)] else [(key, c.active f.g), (key, rest)])).takeFault c.core c.slot
      (if rest = 0 then c.sub.id else s.next)
      { code := some .debug, pc := c.pc, addr := 0, lanes := c.active f.g,
        aux := BitVec.ofNat 32 (2 * 2 ^ 30 + f.imm.toNat % 2 ^ 24) }
      { pc := c.clauseEnd, inClause := none, entry := none })) ∧
  (∀ (s : State) (c : Issuer) (f : CForm), c.Executes s [] f.g [] [] → c.active f.g = 0 →
    exec (.trap f) s = .next (s.fallThrough c)) ∧
  ∀ (s : State) (c : Issuer) (f : CForm), c.Executes s [] f.g [] [] → c.active f.g ≠ 0 →
    exec (.bkpt f) s = .next (((s.modGang c.core c.slot fun g =>
      { g with dbg := { g.dbg with request := some (c.sub.id,
          { code := some .debug, pc := c.pc, addr := 0, lanes := c.active f.g,
            aux := BitVec.ofNat 32 (f.imm.toNat % 2 ^ 24) }) } }).applyEffect c Effect.none).advance c)

/-- PSET (R125) sets predicate d in each active lane to the truth-table function of two predicates, PMOV.get (R126) writes
the predicate word, and PMOV.set sets the masked predicates. -/
def Obligations.PredicatesMove : Prop :=
  (∀ (s : State) (c : Issuer) (d a b : Fin 7) (tt : BitVec 4) (g : Guard), s.issuer = some c →
    c.Ready { v := [], s := [], p := guardP g ++ [d.val, a.val, b.val] } → ∃ val,
    exec (.pset d a b tt g) s = .next (s.commit c { Effect.none with p := [(d.val, c.active g, val)] }) ∧
    ∀ i, i < c.gang.width → i < 128 → val.getLsbD i = tt.getLsbD
      (2 * (if (nth c.gang.preds a.val 0).getLsbD i then 1 else 0) +
        (if (nth c.gang.preds b.val 0).getLsbD i then 1 else 0))) ∧
  (∀ (s : State) (c : Issuer) (f : RForm),
    c.Executes s [{ o := f.d, t := .n32, reads := false }] f.g (List.range 7) (dstV .n32 f.d) →
    exec (.pmovGet f) s = .next (s.commit c (c.writes .n32 f.d f.g c.predWord))) ∧
  (∀ (c : Issuer) (lane k : Nat), k < 7 → (c.predWord lane).testBit k = (nth c.gang.preds k 0).getLsbD lane) ∧
  ∀ (s : State) (c : Issuer) (f : RForm),
    let us : List Use := [{ o := f.a, t := .n32, reads := true }, { o := f.b, t := .n32, reads := true }]
    let act := c.active f.g
    let masked := (List.range 7).filter fun k => act.toList.any fun i => (c.read .n32 f.b i).testBit k
    c.Executes s us f.g [] [] → c.Ready { v := [], s := [], p := masked } →
    exec (.pmovSet f) s = .next (s.commit c { Effect.none with
      rel := lrRel f.lrA .n32 f.a ++ lrRel f.lrB .n32 f.b
      p := masked.map fun k =>
        (k, maskOf (act.toList.map fun i => (i, (c.read .n32 f.b i).testBit k)),
         maskOf (act.toList.map fun i => (i, (c.read .n32 f.a i).testBit k))) })

/-- The uniform instructions (R127 to R131): each writes its value to its destination once for the issuing sub-gang, in that
sub-gang's copy alone, and changes nothing else. -/
def Obligations.UniformOperations : Prop :=
  UniformOp .smov RForm.t RForm.t (fun _ => .n32) (fun f => f.t.wide) (fun c f => c.uread f.t f.a) ∧
  (∀ (s : State) (c : Issuer) (f : IForm), s.issuer = some c → c.Ready { v := [], s := uDstS false f.d, p := [] } →
    exec (.smovi f) s = .next (s.commit c { Effect.none with s := uWrite false f.d f.imm.toNat })) ∧
  UniformOp .sadd RForm.t RForm.t (fun _ => .n32) (fun f => f.t.wide)
    (fun c f => intOp f.t f.sat (· + ·) (c.uread f.t f.a) (c.uread f.t f.b)) ∧
  UniformOp .ssub RForm.t RForm.t (fun _ => .n32) (fun f => f.t.wide)
    (fun c f => intOp f.t f.sat (· - ·) (c.uread f.t f.a) (c.uread f.t f.b)) ∧
  UniformOp .smul RForm.t RForm.t (fun _ => .n32) (fun f => f.t.wide)
    (fun c f => intMul f.t f.sat (f.fn == 1) (c.uread f.t f.a) (c.uread f.t f.b)) ∧
  UniformOp .sand RForm.t RForm.t (fun _ => .n32) (fun f => f.t.wide) (fun c f => c.uread f.t f.a &&& c.uread f.t f.b) ∧
  UniformOp .sor RForm.t RForm.t (fun _ => .n32) (fun f => f.t.wide) (fun c f => c.uread f.t f.a ||| c.uread f.t f.b) ∧
  UniformOp .sxor RForm.t RForm.t (fun _ => .n32) (fun f => f.t.wide) (fun c f => c.uread f.t f.a ^^^ c.uread f.t f.b) ∧
  UniformOp .sshl RForm.t (fun _ => .n32) (fun _ => .n32) (fun f => f.t.wide)
    (fun c f => shiftLeft (elemShape f.t).1 (c.uread f.t f.a) (c.uread .n32 f.b)) ∧
  UniformOp .sshr RForm.t (fun _ => .n32) (fun _ => .n32) (fun f => f.t.wide)
    (fun c f => shiftRight (elemShape f.t).1 (c.uread f.t f.a) (c.uread .n32 f.b)) ∧
  UniformOp .ssar RForm.t (fun _ => .n32) (fun _ => .n32) (fun f => f.t.wide)
    (fun c f => shiftArith (elemShape f.t).1 (c.uread f.t f.a) (c.uread .n32 f.b)) ∧
  UniformOp .scmp RForm.t RForm.t (fun _ => .n32) (fun _ => false)
    (fun c f => if intCompare f.t f.fn.toNat (c.uread f.t f.a) (c.uread f.t f.b) then 1 else 0) ∧
  UniformOp .ssel RForm.t RForm.t (fun _ => .n32) (fun f => f.t.wide)
    (fun c f => if c.uread .n32 f.c ≠ 0 then c.uread f.t f.a else c.uread f.t f.b)

/-- The vector integer instructions that combine elements (R138, R140): sum, difference, product, multiply-add, minimum,
maximum and the bitwise operations, in every type the manual gives them. -/
def Obligations.VectorIntegerElements : Prop :=
  ElementOp .vadd (fun f a b _ => intOp f.t f.sat (· + ·) a b) ∧
  ElementOp .vsub (fun f a b _ => intOp f.t f.sat (· - ·) a b) ∧
  ElementOp .vmul (fun f a b _ => intMul f.t f.sat (f.fn == 1) a b) ∧
  ElementOp .vmad (fun f => intMad f.t f.sat) ∧
  ElementOp .vmin (fun f a b _ => intMinMax f.t false a b) ∧
  ElementOp .vmax (fun f a b _ => intMinMax f.t true a b) ∧
  ElementOp .vand (fun _ a b _ => a &&& b) ∧ ElementOp .vor (fun _ a b _ => a ||| b) ∧
  ElementOp .vxor (fun _ a b _ => a ^^^ b) ∧
  ElementOp .vnot (fun f a _ _ => 2 ^ (elemShape f.t).1 - 1 - a)

/-- VADDC (R139): in each active lane D and the carry out, read as one number, are the exact sum of A, B and the carry in,
which is predicate `FN`; with `FN` = 7 there is no carry, in or out. A carry predicate that is not ready raises
CLAUSE_HAZARD. -/
def Obligations.AddWithCarry : Prop :=
  (∀ (s : State) (c : Issuer) (f : RForm) (w : Nat), (f.t = .n32 ∧ w = 32) ∨ (f.t = .n64 ∧ w = 64) →
    let p := f.fn.toNat
    c.Executes s (rUses f f.t f.t f.t f.t) f.g (if p = 7 then [] else [p]) (dstV f.t f.d) →
    ∃ (val : Nat → Nat) (carry : Nat → Bool) (m : Lanes),
      exec (.vaddc f) s = .next (s.commit c { c.writes f.t f.d f.g val with
        rel := rRel f f.t f.t f.t
        p := if p = 7 then [] else [(p, c.active f.g, m)] }) ∧
      (∀ i, i < 128 → m.getLsbD i = ((c.active f.g).getLsbD i && carry i)) ∧
      ∀ i, i < 128 → val i < 2 ^ w ∧
        c.read f.t f.a i + c.read f.t f.b i + (if p ≠ 7 ∧ (nth c.gang.preds p 0).getLsbD i = true then 1 else 0)
          = val i + (if carry i then 2 ^ w else 0)) ∧
  ∀ (s : State) (c : Issuer) (f : RForm) (q : Pending), s.issuer = some c → f.fn.toNat ≠ 7 →
    (∀ u ∈ rUses f f.t f.t f.t f.t, ∀ v ∈ opdV u.t u.o, c.slotOf v ≤ 1023) →
    q ∈ c.gang.pending → q.pdst = some f.fn.toNat → (∀ p ∈ c.gang.pending, p.destFaulted = false) →
    exec (.vaddc f) s = .next (s.faultHere c (c.record .clauseHazard (c.active f.g) 0 0))

/-- Shifts, bit counts, field extraction and insertion, packing and unpacking, moves and the select (R140, R141, R143, R152),
whose amounts, descriptors and counts are 32-bit (R134). -/
def Obligations.VectorShiftsFieldsMoves : Prop :=
  LaneOp .vshl RForm.t (fun _ => .n32) (fun _ => .n32) RForm.t
    (fun c f i => shiftLeft (elemShape f.t).1 (c.read f.t f.a i) (c.read .n32 f.b i)) ∧
  LaneOp .vshr RForm.t (fun _ => .n32) (fun _ => .n32) RForm.t
    (fun c f i => shiftRight (elemShape f.t).1 (c.read f.t f.a i) (c.read .n32 f.b i)) ∧
  LaneOp .vsar RForm.t (fun _ => .n32) (fun _ => .n32) RForm.t
    (fun c f i => shiftArith (elemShape f.t).1 (c.read f.t f.a i) (c.read .n32 f.b i)) ∧
  LaneOp .vpopc RForm.t (fun _ => .n32) (fun _ => .n32) (fun _ => .n32)
    (fun c f i => popCount (elemShape f.t).1 (c.read f.t f.a i)) ∧
  LaneOp .vclz RForm.t (fun _ => .n32) (fun _ => .n32) (fun _ => .n32)
    (fun c f i => leadingZeros (elemShape f.t).1 (c.read f.t f.a i)) ∧
  LaneOp .vctz RForm.t (fun _ => .n32) (fun _ => .n32) (fun _ => .n32)
    (fun c f i => trailingZeros (elemShape f.t).1 (c.read f.t f.a i)) ∧
  LaneOp .vbfe RForm.t (fun _ => .n32) (fun _ => .n32) RForm.t
    (fun c f i => bitExtract f.t (c.read f.t f.a i) (c.read .n32 f.b i)) ∧
  LaneOp .vbfi RForm.t RForm.t (fun _ => .n32) RForm.t
    (fun c f i => bitInsert (elemShape f.t).1 (c.read f.t f.a i) (c.read f.t f.b i) (c.read .n32 f.c i)) ∧
  LaneOp .vmov RForm.t RForm.t RForm.t RForm.t (fun c f i => c.read f.t f.a i) ∧
  LaneOp .vpack (fun _ => .b32) (fun _ => .b32) (fun _ => .b32) (fun _ => .b32)
    (fun c f i => packInto f.t f.fn.toNat (c.read .b32 f.a i) (c.read .b32 f.c i)) ∧
  LaneOp .vunpack (fun _ => .b32) (fun _ => .b32) (fun _ => .b32) (fun _ => .b32)
    (fun c f i => unpackFrom f.t f.fn.toNat (c.read .b32 f.a i)) ∧
  VectorOp .vsel RForm.t RForm.t (fun _ => .n32) RForm.t (fun f => if f.fn = 1 then (Machine.predOf f.c).toList else [])
    (fun c f => c.writes f.t f.d f.g fun i =>
      if (if f.fn = 1 then ∃ p ∈ Machine.predOf f.c, (nth c.gang.preds p 0).getLsbD i = true else c.read .n32 f.c i ≠ 0)
      then c.read f.t f.a i else c.read f.t f.b i) ∧
  (∀ (s : State) (c : Issuer) (f : IForm),
    c.Executes s [{ o := f.d, t := .b32, reads := false }] f.g [] (dstV .b32 f.d) →
    exec (.vmovi f) s = .next (s.commit c (c.writes .b32 f.d f.g fun _ => f.imm.toNat))) ∧
  ∀ (s : State) (c : Issuer) (f : EForm) (r : BitVec 8) (n : Fin 48), f.a = .v r → f.b = .imm n → s.issuer = some c →
    c.Ready { v := (List.range n.val).map fun k => r.toNat + k, s := [], p := guardP f.g } →
    exec (.vfree f) s = .next (s.commit c { Effect.none with rel := (List.range n.val).map fun k => r.toNat + k })

/-- The float instructions that work element by element in a format (R144, R145, R148): every flag that an element of an
active lane raises is ORed in, and no other. -/
def Obligations.VectorFloatElements : Prop :=
  FloatOp .vfadd (fun f fm m a b _ => addRound fm m f.sat (fm.decode a) (fm.decode b)) ∧
  FloatOp .vfsub (fun f fm m a b _ => addRound fm m f.sat (fm.decode a) (fm.decode b).neg) ∧
  FloatOp .vfmul (fun f fm m a b _ => mulRound fm m f.sat (fm.decode a) (fm.decode b)) ∧
  FloatOp .vfma (fun f fm m a b c => fmaRound fm m f.sat (fm.decode a) (fm.decode b) (fm.decode c)) ∧
  FloatOp .vfmin (fun _ fm _ a b _ => minMax fm false a b) ∧ FloatOp .vfmax (fun _ fm _ a b _ => minMax fm true a b) ∧
  FloatOp .vfract (fun _ fm m a _ _ => fract fm m (fm.decode a)) ∧
  FloatOp .vfrnd (fun f fm _ a _ _ => frnd fm f.fn.toNat a)

/-- The float instructions whose operands or result have another type (R147, R149, R151, R153): the class as one set bit of
ten, scaling by a power of two, fraction and exponent, conversion, and the camera-relative difference. The flags are the OR of
those that the active lanes raise. -/
def Obligations.VectorFloatConversions : Prop :=
  (∀ (s : State) (c : Issuer) (f : RForm) (fm : Fmt), fmtOf f.t = some fm →
    c.Executes s (rUses f f.t .n32 .n32 .n32) f.g [] (dstV .n32 f.d) →
    exec (.vfclass f) s = .next (s.commit c { c.writes .n32 f.d f.g
        (fun i => 2 ^ classBit fm (elemOf f.t (c.read f.t f.a i) 0)) with rel := rRel f f.t .n32 .n32 })) ∧
  (∀ (s : State) (c : Issuer) (f : RForm) (fm : Fmt), fmtOf f.t = some fm →
    c.Executes s (rUses f f.t .i32 .n32 f.t) f.g [] (dstV f.t f.d) →
    let val := fun i => ldexp fm (c.mode f) f.sat (elemOf f.t (c.read f.t f.a i) 0) (sext (c.read .i32 f.b i) 32)
    ∃ fl, Ored fl (c.active f.g).toList (fun i => (val i).2) ∧
      exec (.vldexp f) s = .next (s.commit c { c.writes f.t f.d f.g (fun i => (val i).1) with
          rel := rRel f f.t .i32 .n32
          flags := fl })) ∧
  (∀ (s : State) (c : Issuer) (f : RForm) (fm : Fmt), fmtOf f.t = some fm →
    let td := if f.fn = 1 then Ty.i32 else f.t
    c.Executes s (rUses f f.t .n32 .n32 td) f.g [] (dstV td f.d) →
    let val := fun i => frexp fm (f.fn == 1) (elemOf f.t (c.read f.t f.a i) 0)
    ∃ fl, Ored fl (c.active f.g).toList (fun i => (val i).2) ∧
      exec (.vfrexp f) s = .next (s.commit c { c.writes td f.d f.g (fun i => (val i).1) with
          rel := rRel f f.t .n32 .n32
          flags := fl })) ∧
  (∀ (s : State) (c : Issuer) (src : Ty) (f : RForm), c.Executes s (rUses f src .n32 .n32 f.t) f.g [] (dstV f.t f.d) →
    let val := fun i => convert f.t src (c.mode f) f.sat (c.read src f.a i)
    ∃ fl, Ored fl (c.active f.g).toList (fun i => (val i).2) ∧
      exec (.vcvt src f) s = .next (s.commit c { c.writes f.t f.d f.g (fun i => (val i).1) with
          rel := rRel f src .n32 .n32
          flags := fl })) ∧
  ∀ (s : State) (c : Issuer) (f : RForm), c.Executes s (rUses f .f64 .f64 .n32 .f32) f.g [] (dstV .f32 f.d) →
    let val := fun i => addRound Fmt.f32 (c.mode f) f.sat (Fmt.f64.decode (c.read .f64 f.a i))
      (Fmt.f64.decode (c.read .f64 f.b i)).neg
    ∃ fl, Ored fl (c.active f.g).toList (fun i => (val i).2) ∧
      exec (.vcamrel f) s = .next (s.commit c { c.writes .f32 f.d f.g (fun i => (val i).1) with
          rel := rRel f .f64 .f64 .n32
          flags := fl })

/-- VCMP and VFCMP (R142, R146): D receives a mask of ones in each element that the condition holds for, and with C naming a
predicate that predicate takes the truth of the first element in the active lanes alone. VFCMP's flags are the OR of those of
the active lanes' elements. -/
def Obligations.VectorCompares : Prop :=
  (∀ (s : State) (c : Issuer) (f : RForm),
    let truth := fun i k =>
      intCompare f.t f.fn.toNat (elemOf f.t (c.read f.t f.a i) k) (elemOf f.t (c.read f.t f.b i) k)
    c.Executes s (rUses f f.t f.t .n32 f.t) f.g (Machine.predOf f.c).toList (dstV f.t f.d) → ∃ ps,
    exec (.vcmp f) s = .next (s.commit c { c.writes f.t f.d f.g
        (fun i => packElems f.t fun k => if truth i k then 2 ^ (elemShape f.t).1 - 1 else 0) with
          rel := rRel f f.t f.t .n32
          p := ps }) ∧
    match Machine.predOf f.c with
    | none => ps = []
    | some p => ∃ m : Lanes, ps = [(p, c.active f.g, m)] ∧
        ∀ i, i < 128 → m.getLsbD i = ((c.active f.g).getLsbD i && truth i 0)) ∧
  ∀ (s : State) (c : Issuer) (f : RForm),
    let cmp := fun i k =>
      floatCompare f.t f.fn.toNat (elemOf f.t (c.read f.t f.a i) k) (elemOf f.t (c.read f.t f.b i) k)
    c.Executes s (rUses f f.t f.t .n32 f.t) f.g (Machine.predOf f.c).toList (dstV f.t f.d) → ∃ ps fl,
    Ored fl ((c.active f.g).toList.flatMap fun i => (List.range (elemShape f.t).2).map fun k => (i, k))
      (fun x => (cmp x.1 x.2).2) ∧
    exec (.vfcmp f) s = .next (s.commit c { c.writes f.t f.d f.g
        (fun i => packElems f.t fun k => if (cmp i k).1 then 2 ^ (elemShape f.t).1 - 1 else 0) with
          rel := rRel f f.t f.t .n32
          p := ps
          flags := fl }) ∧
    match Machine.predOf f.c with
    | none => ps = []
    | some p => ∃ m : Lanes, ps = [(p, c.active f.g, m)] ∧
        ∀ i, i < 128 → m.getLsbD i = ((c.active f.g).getLsbD i && (cmp i 0).1)

/-- The special functions (R46, R90, R150) issue on SFC with their results found then: each active lane's result, the exactly
rounded value of the function (R90; how it is computed for VEXP2, VLOG2, VSINPI and VCOSPI is log entry 9), goes to D when it
arrives, and nothing is written before. -/
def Obligations.SpecialFunctionsIssue : Prop :=
  ∀ (s : State) (c : Issuer) (f : RForm) (fm : Fmt), fmtOf f.t = some fm →
    c.Executes s (rUses f f.t f.t f.t f.t) f.g [] (dstV f.t f.d) → c.CounterFree .sfc →
    let out := fun (op : SfuOp) =>
      let vals := (c.active f.g).toList.map fun i =>
        (i, fm.special op (elemOf f.t (c.read f.t f.a i) 0) (elemOf f.t (c.read f.t f.b i) 0))
      c.outDst f.t f.d (vals.map fun x => (x.1, x.2.1)) { Out.none with flags := orFlags (vals.map fun x => x.2.2) }
    let done := fun (op : SfuOp) =>
      (s.issue c .sfc (rRel f f.t f.t f.t) (dstV f.t f.d) [] none (c.active f.g)
        fun p => { p with out := out op }).advance c
    exec (.vrcp f) s = .next (done .rcp) ∧ exec (.vrsq f) s = .next (done .rsq) ∧
    exec (.vsqrt f) s = .next (done .sqrt) ∧ exec (.vdiv f) s = .next (done .div) ∧
    exec (.vexp2 f) s = .next (done .exp2) ∧ exec (.vlog2 f) s = .next (done .log2) ∧
    exec (.vsinpi f) s = .next (done .sinpi) ∧ exec (.vcospi f) s = .next (done .cospi)

/-- The cross-lane instructions (R105, R154 to R157). VSHUF, VSWZ and VBCAST take A at a source lane that is active, and C
elsewhere; VVOTE answers the vote or the ballot of the active lanes; VRED reduces the active lanes in the fixed tree; VSCAN
gives each active lane the tree over the active lanes up to it, or below it. The float flags of these two are those of their
trees. -/
def Obligations.CrossLaneOperations : Prop :=
  (∀ src : RForm → Issuer → Nat → Option Nat,
    (src = (fun f c i => shufSource f.fn.toNat c.gang.width i (c.read .n32 f.b i)) →
      CrossOp .vshuf (fun _ => .n32) RForm.t (fun _ => []) (fun _ f => if f.t.wide then 2 else 1)
        (fun c f => c.fetchElems f (src f))
        (fun c f => c.perLane f.g fun i => match c.fetchFrom f (src f) i with
          | some j => c.read f.t f.a j
          | none => c.read f.t f.c i) (fun _ _ => none) (fun _ _ => [])) ∧
    (src = (fun f c i => some (swzSource i (c.read .n32 f.b i))) →
      CrossOp .vswz (fun _ => .n32) RForm.t (fun _ => []) (fun _ f => if f.t.wide then 2 else 1)
        (fun c f => c.fetchElems f (src f))
        (fun c f => c.perLane f.g fun i => match c.fetchFrom f (src f) i with
          | some j => c.read f.t f.a j
          | none => c.read f.t f.c i) (fun _ _ => none) (fun _ _ => [])) ∧
    (src = (fun f c i => if c.read .n32 f.b i < c.gang.width then some (c.read .n32 f.b i) else none) →
      CrossOp .vbcast (fun _ => .n32) RForm.t (fun _ => []) (fun _ f => if f.t.wide then 2 else 1)
        (fun c f => c.fetchElems f (src f))
        (fun c f => c.perLane f.g fun i => match c.fetchFrom f (src f) i with
          | some j => c.read f.t f.a j
          | none => c.read f.t f.c i) (fun _ _ => none) (fun _ _ => []))) ∧
  CrossOp .vvote (fun _ => .n32) (fun _ => .b32) (fun f => (Machine.predOf f.c).toList)
    (fun c f => if f.fn = 2 then ceilDiv c.gang.width 32 else 1) (fun c f => c.voteElems f)
    (fun c f =>
      let act := (c.active f.g).toList
      let ballot := ((act.filter fun i => c.read f.t f.a i != 0).map fun i => 2 ^ i).sum
      act.map fun i => (i, if f.fn = 2 then ballot
        else if voteTruth f.fn.toNat (act.map fun i => c.read f.t f.a i) then 2 ^ 32 - 1 else 0))
    (fun c f => (Machine.predOf f.c).map fun p =>
      let act := (c.active f.g).toList
      (p, act.map fun i => (i, voteTruth f.fn.toNat (act.map fun i => c.read f.t f.a i)))) (fun _ _ => []) ∧
  CrossOp .vred (fun _ => .n32) RForm.t (fun _ => []) (fun _ f => if f.t.wide then 2 else 1)
    (fun c f => c.spLanes f fun _ => false)
    (fun c f => c.perLane f.g fun _ => (treeReduce (redOp f.t f.fn.toNat (c.mode f)) 8 (c.compacted f)).1)
    (fun _ _ => none) (fun c f => [(treeReduce (redOp f.t f.fn.toNat (c.mode f)) 8 (c.compacted f)).2]) ∧
  CrossOp .vscan (fun _ => .n32) RForm.t (fun _ => []) (fun _ f => if f.t.wide then 2 else 1)
    (fun c f => c.spLanes f fun i => !(f.c == .none) && Lanes.lowest (c.active f.g) == some i)
    (fun c f =>
      let act := (c.active f.g).toList
      let upTo := fun k => (treeReduce (redOp f.t f.fn.toNat (c.mode f)) 8 ((c.compacted f).take k)).1
      (act.zip (List.range act.length)).map fun x =>
        (x.1, if f.c = .none then upTo (x.2 + 1)
              else if x.2 = 0 then packElems f.t (elemOf f.t (c.read f.t f.c x.1)) else upTo x.2))
    (fun _ _ => none)
    (fun c f => (List.range (c.active f.g).toList.length).map fun n =>
      (treeReduce (redOp f.t f.fn.toNat (c.mode f)) 8 ((c.compacted f).take (if f.c = .none then n + 1 else n))).2)

/-! ### Special registers and memory -/

/-- SRD (R132, R178, R180, R181): D takes the special register's word; reading `GSTAT` clears `RESTORED`, `RPARK` and
`USPLIT`, reading `GMODE` clears the five float flags and leaves `RM`, and no other register is changed by its read. `CYC` and
`GOVBUB` have first advanced by a free number of clocks, and `SRAMERR` by a free number of corrected errors (log entry 6). -/
def Obligations.SpecialRegisterReads : Prop :=
  (∀ (s : State) (c : Issuer) (f : YForm), s.issuer = some c → c.Ready { v := [], s := uDstS false f.d, p := [] } →
    let u := s.tick c.core f.sel.toNat
    exec (.srd f) s = .next ((u.afterRead c.core c.slot f.sel.toNat).commit c { Effect.none with
      s := uWrite false f.d (u.special c.core c.gang c.sub c.team c.grid f.sel.toNat).toNat })) ∧
  (∀ (s : State) (core slot : Nat) (g : Gang), s.gang? core slot = some g →
    (s.afterRead core slot 0x40).gang? core slot = some { g with restored := false, rpark := false, usplit := false } ∧
    (s.afterRead core slot 0x41).gang? core slot = some { g with flags := 0 } ∧
    g.clearGmode.gmode.toNat = g.rm.toNat ∧ g.clearGstat.gstat.toNat % 8 = 0) ∧
  (∀ (s : State) (core slot sel : Nat), sel ≠ 0x40 → sel ≠ 0x41 → s.afterRead core slot sel = s) ∧
  ∀ (s : State) (core sel : Nat), sel < 0x60 ∨ 0x64 < sel → s.tick core sel = s

/-- The memory instructions issue (R189, R192, R193, R198, R200, R202, R204, R205, R209, R213): with their operands
accessible they join the gang's outstanding instructions with their lanes' addresses and the data they store, and no byte
of memory is accessed yet. An LDS with `.fe` that meets an empty granule parks its sub-gang at the clause boundary (R204).
PREF releases its registers and asks for its lanes' lines, with its `HINT` and `W` (R208). -/
def Obligations.MemoryInstructionsIssue : Prop :=
  MemOp .ld .ld ∧ MemOp .st .st ∧ MemOp .sld .sld ∧ MemOp .sts .sts ∧ MemOp .atom .atom ∧ MemOp .atoms .atoms ∧
  MemOp .fence .fence ∧ MemOp .fec .fec ∧ MemOp .woreset .woreset ∧
  (∀ (s : State) (c : Issuer) (f : MForm), c.MemExecutes s .lds f →
    let blocked := MForm.fe f = true ∧ ∃ n ∈ addrGranules (c.memAddrs .lds f) (MemKind.bytes .lds f),
      c.team.granule n = .empty
    exec (.lds f) s = .next ((if blocked then s.waitingIssue c .lds f else c.memIssued s .lds f).advance c)) ∧
  ∀ (s : State) (c : Issuer) (f : MForm), s.issuer = some c → c.Ready (memTouch .ld f) →
    exec (.pref f) s = .next ((s.modCore c.core fun k =>
      { k with prefs := k.prefs ++ (c.prefLines s f).filter fun x => !k.prefs.contains x }).commit c
        { Effect.none with rel := lrRel f.lrA .n64 f.a })

/-- The scratchpad instructions perform element by element (R194, R199, R202, R204, R205). STS stores what is left of it and
leaves its counter, or one element that no lower lane's element meets; FEC sets the state of every granule its lanes cover, or
of one; ATOMS reads, changes and writes the word of its lowest lane left, and delivers once every lane has performed; LDS
takes every element left and delivers, or takes one, with `.fe` only where no granule is empty, and `.clr` empties the full
granules it read; the bytes are the scratchpad's, but for words that an ACCST not yet retired may have stored (R51). -/
def Obligations.ScratchAccessesPerform : Prop :=
  (∀ (s : State) (r : Runner) (p : Pending) (f : MForm) (part : Nat), p.op = .mem .sts f →
    s.Performs r p (p.openSpans .sts f) →
    let e := MemKind.elems .sts f
    let left := (elemsAt .sts f p.addrs).filter fun x => !p.done.contains x.1
    let put := fun (es : List (Nat × Nat)) => s.modTeam r.core r.gang.team fun t => es.foldl (fun t x =>
      t.store x.2 (slice (p.bytesOf (e.1 * e.2) (x.1 / 8)) (e.1 * (x.1 % 8)) e.1)) t
    exec (.memoryAccessPerform r.core r.slot p.id 0) s = .next ((put left).deliver r.core r.slot p.id Out.none) ∧
    ((∀ x ∈ left, x.1 = part → ∀ y ∈ left, y.1 < x.1 → rangesMeet (x.2, e.1) (y.2, e.1) = false) →
      let now := left.filter fun x => x.1 == part
      exec (.memoryAccessPerform r.core r.slot p.id (part + 1)) s = .next
        (if now.length = left.length then (put now).deliver r.core r.slot p.id Out.none
         else (put now).modGang r.core r.slot fun g => g.modPending p.id fun q =>
           { q with done := unionNat (now.map fun x => x.1) q.done }))) ∧
  (∀ (s : State) (r : Runner) (p : Pending) (f : MForm) (part : Nat), p.op = .mem .fec f → s.Performs r p p.rest →
    let left := (addrGranules p.addrs (16 * MForm.fecCount f)).eraseDups.filter fun g => !p.done.contains g
    let set := fun (gs : List Nat) =>
      s.modTeam r.core r.gang.team fun t => gs.foldl (fun t g => t.setGranule g (fecState f)) t
    exec (.memoryAccessPerform r.core r.slot p.id 0) s = .next ((set left).deliver r.core r.slot p.id Out.none) ∧
    let now := left.filter fun g => g == part
    exec (.memoryAccessPerform r.core r.slot p.id (part + 1)) s = .next
      (if now.length = left.length then (set now).deliver r.core r.slot p.id Out.none
       else (set now).modGang r.core r.slot fun g => g.modPending p.id fun q => { q with done := unionNat now q.done })) ∧
  (∀ (s : State) (r : Runner) (p : Pending) (f : MForm) (n : Nat), p.op = .mem .atoms f →
    s.Performs r p (p.openSpans .atoms f) →
    (∀ x : Nat × Nat, (p.open_ .atoms f).head? = some x →
      let old := r.team.bytes x.2 (MForm.size f)
      let d := p.atomData f x.1
      let t := ((s.modTeam r.core r.gang.team fun t => t.store x.2 (leBytes (MForm.size f)
          (atomNew (MForm.atomOp f) f.t (leNat old) d.1 d.2))).modGang r.core r.slot fun g => g.modPending p.id fun q =>
        { q.keep x.1 old with
          done := insertNat x.1 q.done
          passed := true }).afterTake r p.id
      (MForm.ret f = false → exec (.memoryAccessPerform r.core r.slot p.id (n + 1)) s = .next t) ∧
      (MForm.ret f = true → exec (.longResultArrive r.core r.slot p.id (some n)) s = .next t)) ∧
    (p.open_ .atoms f = [] →
      let t := if p.addrs = [] then s.acquireOf r p else s.afterTake r p.id
      (MForm.ret f = false →
        exec (.memoryAccessPerform r.core r.slot p.id 0) s = .next (t.deliver r.core r.slot p.id Out.none)) ∧
      (MForm.ret f = true →
        exec (.longResultArrive r.core r.slot p.id none) s = .next (t.deliver r.core r.slot p.id (atomOut f p))))) ∧
  ∀ (s : State) (r : Runner) (p : Pending) (f : MForm) (part : Option Nat), p.op = .mem .lds f →
    s.Performs r p (p.openSpans .lds f) →
    let gs := addrGranules p.addrs (MemKind.bytes .lds f)
    let whole := part.isNone || MForm.fe f || MForm.clr f
    let now := (p.openElems .lds f).filter fun x => whole || part == some x.1
    let taken := fun (q : Pending) => now.foldl (fun (q : Pending) x =>
      q.keepElem x.1 ((s.ldsSees r p).bytes x.2 (MemKind.elems .lds f).1)) q
    ((∀ o ∈ (s.core r.core).accOps, o.team = r.gang.team → o.stores r.team = []) → s.ldsSees r p = r.team) ∧
    ((MForm.fe f = true → ∀ g ∈ gs, r.team.granule g ≠ .empty) →
    let u := s.modGang r.core r.slot fun g => g.modPending p.id taken
    let v := if MForm.clr f = true then
        u.modTeam r.core r.gang.team fun t =>
          gs.foldl (fun t g => if t.granule g == .full then t.setGranule g .empty else t) t
      else u
    (now ≠ [] → exec (.longResultArrive r.core r.slot p.id part) s = .next
      (if whole = true then (v.afterTake r p.id).deliver r.core r.slot p.id (loadOut .lds f (taken p))
       else v.afterTake r p.id)) ∧
    (p.addrs = [] → part = none → exec (.longResultArrive r.core r.slot p.id part) s =
      .next ((v.acquireOf r p).deliver r.core r.slot p.id (loadOut .lds f p))))

/-- Accesses to memory (R192, R195, R196, R198, R201, R203, R207, R210, R311). An element of a load takes, byte by byte, its
gang's youngest earlier store that has passed its checks and has not performed, or what its core sees (on a WO page, where it
goes ahead of an order, what its home holds), and no other agent is held back where nothing went ahead; taken, it is held with
an earlier faulted load that reads a byte of it; a load whose elements all have their values arrives; a line of a store on a
WO page claims its granules and on any other page is written, in the core's own copy that it holds in M or at the home; a
store with nothing left leaves its counter; a FENCE whose halves hold completes; an atomic's lane reads and writes its line at
its home once no L1 holds it; and a failing access leaves its counter and keeps its code. -/
def Obligations.GlobalAccessesPerform : Prop :=
  (∀ (s t : State) (r : Runner) (p : Pending) (k : MemKind) (f : MForm) (key va : Nat) (l : Ln) (g : List Nat × Nat),
    let n := (k.elems f).1
    s.route r.grid va = .local_ → s.accessOf r k va n = .ok l → s.gate r p [(va, n)] l.tag l.line = some g →
    s.readLine r.core r.grid.vmid l f.hint.toNat va = some t → s.held r.agent l.tag l.line false = false →
    (l.fresh g = true → s.lineBusy l.tag l.line l.pline = false) →
    ∃ bs : List Byte, s.takeElem r p k f key va =
      (t.modGang r.core r.slot fun g => (g.relyOn p.id va n).modPending p.id fun q => q.keepElem key bs).addHold r p l.tag
        l.line false g ∧
      bs.length = n ∧ ∀ j, j < n → nth bs j 0 =
        (forwarded ((r.gang.earlier p).filter (t.passes r)) (va + j)).getD (nth (t.viewData r.core l (l.fresh g)) (va % 128 + j) 0)) ∧
  (∀ (s : State) (r : Runner) (p : Pending) (k : MemKind) (f : MForm) (key va : Nat), s.Outstanding r p → p.op = .mem k f →
    k = .ld ∨ k = .sld → p.st = .pending → s.laneFaults r p = [] → p.addrs ≠ [] →
    (p.openElems k f).filter (fun x => x.1 == key) = [(key, va)] → s.awaits r.core r.slot p.id (some key) = false →
    exec (.longResultArrive r.core r.slot p.id (some key)) s =
      .next ((((s.markPassed r p).takeElem r p k f key va).modGang r.core r.slot fun g => g.joinFault p.id).afterTake r p.id)) ∧
  (∀ (g : Gang) (id : Nat), (∀ p ∈ g.pending, p.answered = false) → g.joinFault id = g) ∧
  (∀ (g : Gang) (p q : Pending), g.pending? q.id = some q → g.pending.find? (fun p => p.answered && q.follows p) = some p →
    g.handling q = false → ∃ x, (g.joinFault q.id).pending? q.id = some x ∧ x.st = .behind p.id ∧ x.counted = false) ∧
  (∀ (s : State) (r : Runner) (p : Pending) (k : MemKind) (f : MForm), s.Outstanding r p → p.op = .mem k f →
    k = .ld ∨ k = .sld → p.st = .pending → p.addrs ≠ [] → p.openElems k f = [] →
    exec (.longResultArrive r.core r.slot p.id none) s = .next (s.deliver r.core r.slot p.id (loadOut k f p))) ∧
  (∀ (s v : State) (r : Runner) (p : Pending) (f : MForm) (line : Nat) (l : Ln) (x : Nat × Nat) (xs : Table Nat)
    (g : List Nat × Nat), s.Outstanding r p → p.op = .mem .st f → p.st = .pending → s.laneFaults r p = [] →
    (p.open_ .st f).filter (fun y => y.2 / 128 == line) = x :: xs → s.route r.grid (128 * line) = .local_ →
    s.accessOf r .st x.2 (MemKind.bytes .st f) = .ok l → l.line = line →
    s.gate r p ((x :: xs).map fun y => (y.2, MemKind.bytes .st f)) l.tag l.line = some g →
    s.held r.agent l.tag l.line true = false →
    (s.passAll r p).logWrite r.grid.vmid r.grid.asid (128 * line) = (true, v) →
    exec (.memoryAccessPerform r.core r.slot p.id line) s = .next
      (if l.perms.attr = .wo ∧ l.heap = false then v.claimLine r p f l
       else if v.woLines r p f = [] then v.storeLine r p f l g else v)) ∧
  (∀ (s : State) (r : Runner) (p : Pending) (f : MForm) (l : Ln) (g : List Nat × Nat), l.perms.attr ≠ .ip →
    let ws := p.lineWrites f l.line
    (∀ x : L1Line, s.ownL1 r.core l = some x → x.st = .m → (s.lineMeta l.pline).watch = false →
      s.storeLine r p f l g = ((((s.staleCode l).modL1 r.core l.tag l.line fun x =>
        { x with
          data := patchAll x.data ws
          dirty := true }).addHold r p l.tag l.line true g).storeDone r p f [l.line])) ∧
    ∀ u : State, s.ownL1 r.core l = none → s.lineBusy l.tag l.line l.pline = false →
      s.l1On r.core = false ∨ l.heap = true ∨ (s.lineMeta l.pline).watch = true ∨ f.hint = 1 →
      (s.keepFill l (128 * l.line)).fillL2 l (s.maskOfVm r.grid.vmid) f.hint.toNat = some u →
      (u.dir l.tag l.line l.pline).probes none = [] →
      s.storeLine r p f l g = ((u.storeHome l ws).addHold r p l.tag l.line true g).storeDone r p f [l.line]) ∧
  (∀ (s : State) (r : Runner) (p q : Pending) (f : MForm) (lines : List Nat),
    let u := s.modGang r.core r.slot fun g => g.modPending p.id fun q => { q with done := unionNat lines q.done }
    u.entry? r.core r.slot p.id = some q → q.linesLeft f = [] → q.st = .pending →
    u.awaits r.core r.slot q.id none = false → u.heldOwn r q.id = false →
    s.storeDone r p f lines = (u.acquireOf r q).deliver r.core r.slot q.id Out.none) ∧
  (∀ (s : State) (r : Runner) (p : Pending) (f : MForm) (l : Ln), s.claimFails r p (l, p.lineWrites f l.line) ≠ [] →
    (s.claimLine r p f l).mem.hbm = s.mem.hbm ∧ (s.claimLine r p f l).mem.l2 = s.mem.l2 ∧
    (s.claimLine r p f l).mem.lines = s.mem.lines) ∧
  (∀ (s : State) (r : Runner) (p : Pending) (f : MForm) (part : Nat), s.Outstanding r p → p.op = .mem .fence f →
    p.st = .pending →
    let now := MForm.acq f = true ∧ p.passed = false
    let u := if now then
        (s.acquireOf r p).modGang r.core r.slot fun g => g.modPending p.id fun q => { q with passed := true }
      else s
    (now → s.fenceAcquired r p = true) → (MForm.rel f = true → u.fenceReleased r p f = true) →
    exec (.memoryAccessPerform r.core r.slot p.id part) s =
      .next ((u.fenceCode r.core f.scope.toNat).deliver r.core r.slot p.id Out.none)) ∧
  (∀ (s u v : State) (r : Runner) (p : Pending) (f : MForm) (lane va : Nat) (l : Ln) (g : List Nat × Nat),
    p.op = .mem .atom f → s.Outstanding r p → p.st = .pending → s.laneFaults r p = [] →
    s.nextLaneOf r p f = some (lane, va) → s.route r.grid va = .local_ →
    s.accessOf r .atom va (MForm.size f) = .ok l → s.gate r p [(va, MForm.size f)] l.tag l.line = some g →
    (s.passAll r p).logWrite r.grid.vmid r.grid.asid va = (true, v) → v.held r.agent l.tag l.line true = false →
    l.perms.attr ≠ .ip ∨ v.l1On r.core = false → v.lineBusy l.tag l.line l.pline = false →
    (v.keepFill l va).fillL2 l (v.maskOfVm r.grid.vmid) f.hint.toNat = some u →
    (u.dir l.tag l.line l.pline).probes none = [] →
    let old := slice (u.coherentData l.tag l.line l.pline) (va % 128) (MForm.size f)
    exec (.homeAtomic r.core r.slot p.id) s =
      .next (((u.writeAtHome l [(va % 128, atomLane f p lane old)]).addHold r p l.tag l.line true g).laneDone r p lane old)) ∧
  (∀ (s : State) (l : Ln) (ws : List (Nat × List Byte)), (s.writeAtHome l ws).dir l.tag l.line l.pline = DirEntry.empty) ∧
  ∀ (s : State) (r : Runner) (p : Pending) (code : Code) (lanes : Lanes) (addr : DWord) (rc : BitVec 8),
    s.Outstanding r p → (s.withLocalFaults r p).st = .failing code lanes addr rc →
    s.awaits r.core r.slot p.id none = false → p.quadOpen = false → s.lanesLeft r p = false →
    ∃ t x q, exec (.deferredFaultArrive r.core r.slot p.id) s = .next t ∧ t.gang? r.core r.slot = some x ∧
      x.pending? p.id = some q ∧ q.st = .faulted code lanes addr rc ∧ q.counted = false ∧
      t.grids = s.grids ∧ t.mem.hbm = s.mem.hbm ∧
      (p.quad = false → x.slots = r.gang.slots)

/-- The home's transactions (R310 to R314, R321, R323): what GETS and GETM grant, what a core's clean and dirty copies leave
behind, what an L2 eviction writes to memory, and what a walk leaves in the TLB: an entry where some kind of access passes its
permission and frame checks, and nothing where every one fails. -/
def Obligations.HomeTransactions : Prop :=
  (∀ (s u : State) (core asid line vmid hint : Nat) (l : Ln) (write : Bool), s.vmOfCore core = some vmid →
    s.getsLine core vmid asid line = some (l, write) → s.missHint core asid line l.perms.attr write = some hint →
    s.lineBusy l.tag l.line l.pline = false → (s.core core).l1? l.tag l.line = none →
    let l2Only := l.heap = true ∨ hint = 1 ∨ s.l1On core = false
    (¬ l2Only → s.l1Full core = false) →
    (s.keepFill l (128 * line)).fillL2 l (s.maskOfVm vmid) hint = some u →
    let v := u.dropPref core asid line l.perms.attr write
    exec (.gets core asid line) s = .next (if l2Only then v else v.grantS core l)) ∧
  (∀ (s : State) (core vmid asid line : Nat) (l : Ln),
    s.access .load (some core) vmid asid (128 * line) 1 = .ok l → s.getsLine core vmid asid line = some (l, false)) ∧
  (∀ (u : State) (core : Nat) (l : Ln),
    let d := (u.dir l.tag l.line l.pline).st
    let st := match l.perms.attr with
      | .wo => L1St.wo
      | .ip => L1St.ip
      | _ => if d = .i ∧ (u.lineMeta l.pline).watch = false then L1St.e else L1St.s
    ((u.grantS core l).core core).l1? l.tag l.line =
      some (l.l1Copy st (u.coherentData l.tag l.line l.pline))) ∧
  (∀ (s u : State) (core asid line vmid hint : Nat) (l : Ln), s.vmOfCore core = some vmid →
    s.access .store (some core) vmid asid (128 * line) 1 = .ok l → s.missHint core asid line l.perms.attr true = some hint →
    s.lineBusy l.tag l.line l.pline = false →
    l.heap = false → l.perms.attr = .sc ∨ l.perms.attr = .rc → s.l1On core = true →
    (s.lineMeta l.pline).watch = false →
    (hint ≠ 1 → ((s.core core).l1? l.tag line).isSome = true ∨ s.l1Full core = false) →
    (s.keepFill l (128 * line)).fillL2 l (s.maskOfVm vmid) hint = some u →
    let v := u.dropPref core asid line l.perms.attr true
    let d := v.dir l.tag l.line l.pline
    let waiting := if d.st = .s ∨ d.st = .o then d.probes (some core) else []
    exec (.getm core asid line) s = .next (if hint = 1 then v else if waiting = [] then v.grantM core l
      else v.openTxn { tag := l.tag, line := line, kind := .getm core, waiting := waiting })) ∧
  (∀ (u : State) (core : Nat) (l : Ln), ((u.grantM core l).core core).l1? l.tag l.line =
      some { l.l1Copy .m (u.coherentData l.tag l.line l.pline) with dirty := true }) ∧
  (∀ (s : State) (core tag line : Nat) (x : L1Line), (s.core core).l1? tag line = some x →
    (x.leavesDirty = false → ∃ t, exec (.putsPute core tag line) s = .next t ∧
      (t.core core).l1? tag line = none ∧ t.mem.hbm = s.mem.hbm) ∧
    (x.leavesDirty = true → x.lost = false → ∃ t, exec (.putmPuto core tag line) s = .next t ∧
      (t.core core).l1? tag line = none ∧
      (s.l2? tag line x.pline = none → t.mem.hbm = Memory.writeN s.mem.hbm (128 * x.pline) x.data)) ∧
    (x.lost = true → exec (.putmPuto core tag line) s = .next s)) ∧
  (∀ (s : State) (x : L2Line), s.mem.l2.find? (fun y => y.tag == x.tag && y.line == x.line) = some x →
    s.lineBusy x.tag x.line x.pline = false →
    exec (.l2EvictRecall x.tag x.line) s = .next (s.evictL2 x) ∧
    (s.evictL2 x).mem.l2.find? (fun y => y.tag == x.tag && y.line == x.line) = none ∧
    let copies := s.cores.filterMap fun k => (k.2.l1? x.tag x.line).filter fun y => y.st.tracked && y.dirty
    (∀ k ∈ s.cores, s.core k.1 = k.2) → (copies = [] → (s.evictL2 x).mem.hbm =
      if x.dirty = true then Memory.writeN s.mem.hbm (128 * x.pline) x.data else s.mem.hbm) ∧
    ∀ y : L1Line, s.boot.memSide = false → x.tag ≠ physAsid → copies = [y] → y.lost = false →
      (s.lineMeta y.pline).lost = false → y.data.length = x.data.length →
      (s.evictL2 x).mem.hbm = Memory.writeN s.mem.hbm (128 * x.pline) y.data) ∧
  (∀ (s : State) (core tag line : Nat) (t : Txn), s.txn? tag line = some t → core ∈ t.waiting →
    ∃ u, exec (.probeAck core tag line) s =
        .next (if t.waiting.filter (fun c => c != core) = [] then u.finishTxn t else u) ∧
      ((u.core core).l1? tag line).all (fun x => !x.st.tracked) = true) ∧
  (∀ (s : State) (vmid asid page e pa frame : Nat) (big : Bool), s.tlb? vmid asid page = none →
    s.walk vmid asid (65536 * page) = .leaf e pa frame big → ∀ x, s.translate vmid asid (65536 * page) = .ok x →
    exec (.translationWalk vmid asid page) s = .next
      (if ∃ k ∈ allAccs, x.perms.permitsOn k x.frame = true ∧ x.bits.fault k = none then s.keepTlb vmid asid (65536 * page)
       else s)) ∧
  (∀ (s : State) (vmid asid page : Nat) (w : Walk), s.tlb? vmid asid page = none →
    s.translate vmid asid (65536 * page) = .error w →
    exec (.translationWalk vmid asid page) s =
      .next (s.recordWalk asid (65536 * page) (s.walk vmid asid (65536 * page)))) ∧
  ∀ (s : State) (pline : Nat), ∃ t, exec (.watchNotice pline) s = .next t ∧ pline ∉ t.mem.notices

/-- A copy engine's lines (R230, R316): it takes the line that it has read all the bytes of only when no transaction holds the
line, with the L1 copies that the directory names invalidated first; and it writes all of that line together and gives it up,
with the entry at I and the home's copy dirty, its granules then delivered. A line that is not tracked, of a WO page or in
memory-side mode, it writes at its home at once, all of its bytes together, where no other claim stands on a WO line's granules
(R207). -/
def Obligations.EngineLines : Prop :=
  (∀ (s u v : State) (cl unit : Nat) (c : Copy) (d : CopyDesc) (l : Ln), unit < 2 →
    (s.leat cl unit).head = some c → c.desc = some d → c.lineRead d = true → c.waitCode = none →
    let va := d.dstAt c.granules
    s.linesOwned cl unit = [] → s.access .engineWrite none c.vmid c.asid va 16 = .ok l →
    s.lineBusy l.tag l.line l.pline = false → s.held (engineAgent cl unit) l.tag l.line true = false →
    s.logWrite c.vmid c.asid va = (true, v) → v.needsOwner l = true → v.fillL2 l (s.maskOfVm c.vmid) 0 = some u →
    let t : Txn := { tag := l.tag, line := l.line, kind := .engine cl unit,
                     waiting := (u.dir l.tag l.line l.pline).probes none }
    exec (.engineLineRequest cl unit c.asid (va / 128)) s =
      .next (if t.waiting = [] then u.finishTxn t else u.openTxn t)) ∧
  (∀ (s v : State) (cl unit : Nat) (c : Copy) (d : CopyDesc) (l : Ln), unit < 2 →
    (s.leat cl unit).head = some c → c.desc = some d → c.lineRead d = true → c.waitCode = none →
    let va := d.dstAt c.granules
    let ws := (c.staged.zip (List.range c.staged.length)).map fun g => (d.dstAt (c.granules + g.2) % 128, g.1)
    let put := fun (u : State) => u.modCopy cl unit c.seq fun y =>
      { y with
        granules := y.granules + y.staged.length
        staged := [] }
    s.linesOwned cl unit = [] → s.access .engineWrite none c.vmid c.asid va 16 = .ok l →
    s.lineBusy l.tag l.line l.pline = false → s.held (engineAgent cl unit) l.tag l.line true = false →
    s.logWrite c.vmid c.asid va = (true, v) → v.needsOwner l = false →
    let u := v.keepFill l va
    (l.perms.attr ≠ .wo → exec (.engineLineRequest cl unit c.asid (va / 128)) s = .next (put (u.writeAtHome l ws))) ∧
    (l.perms.attr = .wo → u.claimTaken l.pline (writesMask (ws.map fun w => (0, w))) (2 ^ 32) 0 0 = 0 →
      exec (.engineLineRequest cl unit c.asid (va / 128)) s =
        .next (put (u.woWrite none l (ws.map fun w => (0, w)))))) ∧
  ∀ (s : State) (cl unit : Nat) (c : Copy) (d : CopyDesc) (x : L2Line), unit < 2 → s.boot.memSide = false →
    (s.leat cl unit).head = some c → c.desc = some d → s.mem.l2.find? (fun y => y.tag == x.tag && y.line == x.line) = some x →
    (s.linesOwned cl unit).find? (fun y => y.tag % 2 ^ 20 == x.tag % 2 ^ 20 && y.line == x.line) = some x →
    (∀ k ∈ s.cores, k.2.l1? x.tag x.line = none) → ∃ (u : State) (y : L2Line),
    exec (.engineLineRelease cl unit (x.tag % 2 ^ 20) x.line) s = .next (u.modCopy cl unit c.seq fun y =>
      { y with
        granules := y.granules + y.staged.length
        staged := [] }) ∧
    u.mem.l2.find? (fun y => y.tag == x.tag && y.line == x.line) = some y ∧ y.dir = DirEntry.empty ∧
    y.dirty = (x.dirty || !c.staged.isEmpty) ∧
    y.data = (c.staged.zip (List.range c.staged.length)).foldl
      (fun bs g => patch bs (d.dstAt (c.granules + g.2) % 128) g.1) x.data ∧
    u.cores = s.cores ∧ u.mem.hbm = s.mem.hbm ∧ u.clusters = s.clusters

/-! ### The matrix engine, the codebooks and the Spur -/

/-- The matrix instructions issue on MXC (R243 to R253): with their registers ready, the window settled, their rows inside
it and free, each enters the matrix engine behind what it must follow, and no accumulator row changes yet. -/
def Obligations.MatrixInstructionsIssue : Prop :=
  (∀ (s : State) (c : Issuer) (f : XForm), s.issuer = some c →
    let acct := f.acct.toNat
    let nB := XForm.nB f
    let scale := match XForm.scale? f with
      | some n => [n, n + 1]
      | none => []
    let base := c.gang.accBase + f.row.toNat
    let present := c.sub.fibres
    let rows := present.toList.flatMap fun i => vRun (base + rowsPer acct * i) (rowsPer acct)
    let coded := f.ta.codebook = true ∨ f.tb.codebook = true
    let bank := if coded then nth c.team.banks f.bank.toNat Bank.empty else Bank.empty
    c.Ready { v := vRun f.a.toNat 8 ++ vRun f.b.toNat nB ++ scale, s := [], p := [] } →
    c.windowPending s = false → base + rowsPer acct * c.gang.width ≤ c.gang.accLim →
    (s.core c.core).rowsBusy c.gang.team rows (some (c.slot, acct)) = false →
    f.ta.mma ≠ .ext → f.tb.mma ≠ .ext →
    (coded → (s.core c.core).bankBusy c.gang.team f.bank.toNat = false) → c.badColumns f bank = [] →
    c.CounterFree .mxc → ∃ mk : Nat → AccOp,
    exec (.mma f) s = .next (s.issueAcc c
      ((if f.lrA then vRun f.a.toNat 8 else []) ++ (if f.lrB then vRun f.b.toNat nB else [])) [] present mk) ∧
    ∀ id, (mk id).kind = .mma f ∧ (mk id).base = base ∧ (mk id).rows = rows ∧ (mk id).bank = bank ∧
      (mk id).a = present.toList.map (fun i => (i, (vRun f.a.toNat 8).map fun v => c.vreg v i)) ∧
      (mk id).b = (List.range 32).map (fun n => (n, (vRun f.b.toNat nB).map fun v => c.vreg v n))) ∧
  (∀ (s : State) (c : Issuer) (f : EForm), s.issuer = some c →
    let owned := c.ownedRows f.g (c.num f.a) (if EForm.dbl f then 2 else 1)
    let rows := owned.flatMap fun x => x.2
    let first := c.gang.accBase + c.num f.a
    let act := c.active f.g
    c.Ready (accTouch [f.a, f.b] f.g) → c.RowsFree s owned →
    exec (.acczero f) s = .next (s.issueAcc c [] [] act fun id => c.accOp (.zero (EForm.dbl f)) 0 rows act id) ∧
    (c.checkRanges (c.accRanges f true) = .ok () → c.gang.scratchBusy = false →
      exec (.accld f) s = .next (s.issueAcc c [] [] act fun id =>
        { c.accOp (.ld (EForm.dbl f)) first rows act id with
          a := (c.accRanges f true).map fun x => (x.1, c.seen.words x.2.1 (x.2.2.1 / 4)) })) ∧
    (c.checkRanges (c.accRanges f false) = .ok () →
      exec (.accst f) s = .next (s.issueAcc c [] [] act fun id =>
        c.accOp (.st (EForm.dbl f) (c.num f.b)) first rows act id))) ∧
  (∀ (s : State) (c : Issuer) (src : Ty) (f : RForm), s.issuer = some c →
    let us : List Use := [{ o := f.a, t := .n32, reads := true }, { o := f.b, t := .f32, reads := true }]
    let vdst := runOf (accoutRegs f) f.d
    let act := c.active f.g
    let owned := c.ownedRows f.g (c.num f.a) (rowsPer (accoutAcct src))
    let t := touchOf us f.g []
    c.Ready { t with v := t.v ++ vdst } → c.RowsFree s owned → c.ScratchOk (c.spUses us act) → c.PoolHas s vdst →
    exec (.accout src f) s = .next (s.issueAcc c (lrRel f.lrB .f32 f.b) vdst act fun id =>
      { c.accOp (.out src f) (c.gang.accBase + c.num f.a) (owned.flatMap fun x => x.2) act id with
        sa := act.toList.map fun i => (i, BitVec.ofNat 32 (c.read .f32 f.b i)) })) ∧
  (∀ (s : State) (c : Issuer) (f : EForm), s.issuer = some c → c.Ready (accTouch [f.a, f.b, f.c] f.g) →
    c.CounterFree .mxc → c.gang.number = 0 → c.num f.a < c.team.ngang → c.num f.b ≤ c.num f.c →
    c.num f.c ≤ c.team.accRows →
    exec (.accwin f) s = .next (((s.issue c .mxc [] [] [] none (c.active f.g) fun p => { p with op := .unit }).modCore
      c.core fun k => { k with winOps := k.winOps ++
        [{ id := s.next, gang := c.slot, team := c.gang.team, target := c.num f.a, base := c.num f.b,
           lim := c.num f.c }] }).advance c)) ∧
  (∀ (s : State) (c : Issuer) (f : EForm), s.issuer = some c → c.Ready (accTouch [f.a, f.b, f.c] f.g) →
    c.CounterFree .mxc → c.gang.scratchBusy = false → c.checkCbload (c.active f.g) (c.num f.a) (c.num f.c) = .ok () →
    exec (.cbload f) s = .next (s.issueBank c (c.active f.g) fun id =>
      { id := id, gang := c.slot, team := c.gang.team, bank := f.sub.toNat % 4, first := c.num f.b,
        count := c.num f.c, words := some (c.seen.words (c.num f.a) (min (c.num f.c) 256)),
        valid := if f.sub.getLsbD 2 then some true else none })) ∧
  (∀ (s : State) (c : Issuer) (f : EForm), s.issuer = some c → c.Ready (accTouch [f.a, f.b] f.g) →
    c.CounterFree .mxc →
    exec (.cbvalid f) s = .next (s.issueBank c (c.active f.g) fun id =>
      { id := id, gang := c.slot, team := c.gang.team, bank := f.sub.toNat % 4, first := c.num f.a,
        count := c.num f.b, words := none, valid := some (f.sub.getLsbD 2) })) ∧
  ∀ (s : State) (c : Issuer) (f : RForm) (n : Fin 48), s.issuer = some c → f.b = .imm n →
    let us : List Use := [{ o := f.a, t := .n32, reads := true }]
    let vdst := runOf (if f.t == .cbv8 then 2 else 1) f.d
    let t := touchOf us f.g []
    let act := c.active f.g
    let bank := nth c.team.banks n.val Bank.empty
    let idx := fun i => c.read .n32 f.a i / 2 ^ (indexWidth f.t * f.fn.toNat) % 2 ^ indexWidth f.t
    c.Ready { t with v := t.v ++ vdst } → c.ScratchOk (c.spUses us act) →
    (s.core c.core).bankBusy c.gang.team n.val = false →
    (∀ i ∈ act.toList, bank.valid.contains (indexEntry f.t (idx i)) = true) → c.CounterFree .mxc →
    c.PoolHas s vdst → ∃ mk : Pending → Pending,
    exec (.vexpand f) s = .next ((s.issue c .mxc (lrRel f.lrA .n32 f.a) vdst [] none act mk).advance c) ∧
    ∀ p, (mk p).out.vregs = (vdst.zip (List.range vdst.length)).map fun x => (c.slotOf x.1, act.toList.map fun i =>
      (i, nth (expandWords f.t (bank.entry (indexEntry f.t (idx i))) (idx i)) x.2 0))

/-- What the matrix engine, the window and the banks do when their turn comes (R245 to R252): the oldest operation on its
rows takes effect and retires; an MMA writes each row's cells, ACCLD the rows it read, ACCZERO zeros; a window change
reaches its gang; a bank writer changes its entries below 256 alone. -/
def Obligations.MatrixEngineRetires : Prop :=
  (∀ (s : State) (core : Nat) (o : AccOp) (t : Team) (g : Gang) (p : Pending),
    (s.core core).accOps.find? (fun x => x.id == o.id) = some o → s.team? core o.team = some t →
    s.gang? core o.gang = some g → g.pending? o.id = some p →
    (∀ e ∈ (s.core core).accOps, e.id < o.id → e.team = o.team → meetRows e.rows o.rows = false) →
    exec (.mmaRetire core o.id) s = .next (((s.modTeam core o.team fun _ => (accResult t o p.vdst).1).modCore core fun k =>
      { k with accOps := k.accOps.filter fun e => e.id != o.id }).deliver core o.gang o.id (accResult t o p.vdst).2)) ∧
  (∀ (t : Team) (o : AccOp) (dbl : Bool) (slots : List Nat) (r : Nat), o.kind = .zero dbl →
    (accResult t o slots).1.row r = if r ∈ o.rows then List.replicate 32 0 else t.row r) ∧
  (∀ (t : Team) (o : AccOp) (slots : List Nat), (∀ f, o.kind = .mma f → (accResult t o slots).1 =
      t.setRows (mmaResult t o f).1) ∧
    ∀ src f, o.kind = .out src f → (accResult t o slots).1 = t) ∧
  (∀ (s : State) (core : Nat) (w : WinOp), (s.core core).winOps.find? (fun x => x.id == w.id) = some w →
    let hit := fun (slot : Nat) =>
      ∃ x ∈ (s.core core).gangs, x.1 = slot ∧ x.2.team = w.team ∧ x.2.number = w.target
    (∀ v ∈ (s.core core).winOps, v.id < w.id → v.team = w.team → v.target ≠ w.target) →
    (∀ o ∈ (s.core core).accOps, o.id < w.id → ¬ hit o.gang) →
    ∃ u : State, exec (.accwinPerform core w.id) s = .next (u.deliver core w.gang w.id Out.none) ∧
      ∀ slot g, s.gang? core slot = some g →
        (hit slot → u.gang? core slot = some { g with accBase := w.base, accLim := w.lim }) ∧
        (¬ hit slot → u.gang? core slot = some g)) ∧
  (∀ (s : State) (core : Nat) (o : BankOp), (s.core core).bankOps.find? (fun x => x.id == o.id) = some o →
    (∀ g ∈ (s.core core).gangs, g.2.team = o.team → ∀ p ∈ g.2.pending, p.id < o.id → readsBank p.word ≠ some o.bank) →
    (∀ e ∈ (s.core core).bankOps, e.id < o.id → e.team = o.team → e.bank ≠ o.bank) →
    exec (.codebookBankWrite core o.id) s = .next (((s.modTeam core o.team fun t =>
      { t with banks := t.banks.set o.bank ((nth t.banks o.bank Bank.empty).apply o) }).modCore core fun k =>
        { k with bankOps := k.bankOps.filter fun e => e.id != o.id }).deliver core o.gang o.id Out.none)) ∧
  ∀ (b : Bank) (o : BankOp) (n : Nat), (n < o.first ∨ o.first + o.count ≤ n ∨ 256 ≤ n) →
    (b.apply o).entry n = b.entry n ∧ ((b.apply o).valid.contains n = b.valid.contains n)

/-- The Spur (R254 to R257). SPURACC takes its rows and posts its reservation, in place of any of the core with its tag;
SPUR reads its fragments at issue and enters the cluster; a partner with a posted reservation does all its steps or none,
arrives at the reservation's barrier and reports; with every report in, the status pair and the flags arrive. -/
def Obligations.SpurWorks : Prop :=
  (∀ (s : State) (c : Issuer) (f : EForm),
    let n := sNum f.a
    let r := c.reservation f s.next
    c.OnceExecutes s (vRun n 3) .mxc → c.Quiet →
    spuraccOk (c.sreg n).toNat (c.sreg (n + 1)).toNat (c.sreg (n + 2)).toNat = true → r.region % 32 = 0 →
    c.windowPending s = false → r.base + r.rows ≤ c.gang.accLim → (s.core c.core).reserveBusy r = false →
    exec (.spuracc f) s = .next (((s.issue c .mxc [] [] [] none c.sub.fibres fun p =>
      { p with sent := false, op := .request .spuracc }).modCore c.core fun k =>
        { k with reservations := k.reservations ++ [r] }).advance c)) ∧
  (∀ (s : State) (core slot id : Nat) (r : Reservation), (s.core core).reservations.find? (fun x => x.id == id) = some r →
    ∃ u : State, s.postReservation core slot id = u.deliver core slot id Out.none ∧
      (u.core core).reservations = ((s.core core).reservations.filter fun x =>
        x.id == id || x.tag != r.tag || !x.posted).map fun x => if x.id = id then { x with posted := true } else x) ∧
  (∀ (s : State) (c : Issuer) (f : EForm) (first : BitVec 8), f.b = .v first →
    let w := (c.sreg (sNum f.a)).toNat
    let steps := bitsOf w 23 20 + 1
    let ds := sRegs true f.d
    bitsOf w 19 18 = 0 → twice (spurPartners w) = false → first.toNat + 8 * steps ≤ 256 → s.issuer = some c →
    c.Ready { v := vRun first.toNat (8 * steps), s := ds ++ [sNum f.a], p := [] } → c.CounterFree .mxc →
    exec (.spur f) s = .next (((s.issue c .mxc [] [] ds none c.sub.fibres fun p => { p with op := .unit }).modCluster
      (clusterOf c.core) fun cl => { cl with spurs := cl.spurs ++
        [{ id := s.next, core := c.core, gang := c.slot, tb := subTy f, acct := modAcct f, ovw := f.mod.getLsbD 2,
           neg := f.mod.getLsbD 3, tag := bitsOf w 31 24, steps := steps, partners := spurPartners w,
           b := (List.range 32).map fun n => (n, (vRun first.toNat (8 * steps)).map fun v => c.vreg v n),
           reports := [], flags := 0 }] }).advance c)) ∧
  (∀ (s : State) (cl j : Nat) (o : SpurOp), (s.cluster cl).spurs.find? (fun x => x.id == o.id) = some o →
    j < o.partners.length → Table.get? o.reports j = none →
    let core := 16 * cl + nth o.partners j 0
    let tagged := (s.core core).reservations.find? fun r => r.posted && r.tag == o.tag
    (tagged = none →
      exec (.spurPartnerWork cl o.id j) s = .next (s.spurReport cl o.id j (some .spurPartner) 0)) ∧
    ∀ (r : Reservation) (t : Team) (g : Gang), tagged = some r → s.team? core r.team = some t →
      s.gang? core r.gang = some g → g.team = r.team →
      let u := s.modCore core fun k => { k with reservations := k.reservations.filter fun x => x.id != r.id }
      exec (.spurPartnerWork cl o.id j) s = .next (match spurFailure o r t (some (g.accBase, g.accLim)) with
        | some code => (u.spurReport cl o.id j (some code) 0).arrive cl r.barrier 1 true 0
        | none =>
          let res := (List.range o.steps).foldl (spurStep o r t.width) (t, 0)
          ((u.modTeam core r.team fun _ => res.1).spurReport cl o.id j none res.2).arrive cl r.barrier 1 false 0)) ∧
  ∀ (s : State) (cl : Nat) (o : SpurOp) (g : Gang) (p : Pending),
    (s.cluster cl).spurs.find? (fun x => x.id == o.id) = some o → o.partners.length ≤ o.reports.length →
    s.gang? o.core o.gang = some g → g.pending? o.id = some p →
    exec (.spurStatusReady cl o.id) s = .next ((s.modCluster cl fun k =>
      { k with spurs := k.spurs.filter fun x => x.id != o.id }).deliver o.core o.gang o.id
        { Out.none with
          sregs := p.sdst.zip [o.status.1, o.status.2]
          flags := o.flags })

/-! ### Cluster units -/

/-- The cluster instructions at issue (R265, R274 to R284): CPY, where its Leat holds fewer than 64 copies, and the barrier
instructions go to their unit, BARW and BARAW parking their sub-gang at the clause boundary; CPYSTAT brings its pair, BARINIT
and RANGESET set their unit and write no register. That these three act at issue is the model's reading (DEDUCED, log entry
32). -/
def Obligations.ClusterInstructions : Prop :=
  (∀ (s : State) (c : Issuer) (f : EForm),
    let desc := c.spair (sNum f.a)
    c.OnceExecutes s (sRegs false f.d ++ vRun (sNum f.a) 2) .enc → desc % 64 = 0 → desc < 2 ^ 56 →
    (f.sub.getLsbD 0 = true → c.Quiet) →
    (s.leat (clusterOf c.core) ((s.cluster (clusterOf c.core)).chooseLeat (f.sub.toNat / 2 % 4))).load < 64 →
    exec (.cpy f) s = .next ((s.issue c .enc [] [] (sRegs false f.d) none c.sub.fibres fun p =>
      { p with sent := false, op := .request (.cpy desc (f.sub.toNat / 2 % 4) (f.sub.getLsbD 0)) }).advance c)) ∧
  (∀ (s : State) (c : Issuer) (f : EForm), c.OnceExecutes s (sRegs true f.d ++ [sNum f.a]) .enc →
    let st := (s.cluster (clusterOf c.core)).copyStatus (c.sreg (sNum f.a)).toNat
    exec (.cpystat f) s = .next (s.issueKnown c ((sRegs true f.d).zip [st.1, st.2]))) ∧
  (∀ (s : State) (c : Issuer) (f : EForm), c.OnceExecutes s (opdS .n32 f.a ++ opdS .n32 f.b) .enc →
    c.num f.a < 64 → c.num f.b < 65536 →
    exec (.barinit f) s = .next ((s.setBarrier (clusterOf c.core) (c.num f.a)
      { s.barrier (clusterOf c.core) (c.num f.a) with
        target := c.num f.b, arrived := 0, errp := false, ovrp := false, gsum := 0 }).issueKnown c [])) ∧
  (∀ (s : State) (c : Issuer) (f : EForm) (wait : Bool),
    c.OnceExecutes s (sRegs wait f.d ++ opdS .n32 f.a ++ opdS .n32 f.b) .enc → c.num f.a < 64 → c.num f.b < 65536 →
    c.Quiet →
    let u := s.issue c .enc [] [] (sRegs wait f.d) none c.sub.fibres fun p =>
      { p with sent := false, op := .request (.arrive (c.num f.a) (c.num f.b) (f.sub.getLsbD 0) wait) }
    exec (if wait then .baraw f else .bara f) s = .next ((if wait then u.waitFor c s.next else u).advance c)) ∧
  (∀ (s : State) (c : Issuer) (f : EForm), c.OnceExecutes s (sRegs true f.d ++ opdS .n32 f.a ++ opdS .n32 f.b) .enc →
    c.num f.a < 64 →
    exec (.barw f) s = .next (((s.issue c .enc [] [] (sRegs true f.d) none c.sub.fibres fun p =>
      { p with sent := false, op := .barrier (c.num f.a) (c.num f.b % 256) 0 }).waitFor c s.next).advance c)) ∧
  ∀ (s : State) (c : Issuer) (f : EForm) (n : BitVec 6) (d : DamselSlot), f.b = .s n →
    let w := fun k => (c.sreg (n.toNat + k)).toNat
    c.OnceExecutes s (opdS .n32 f.a ++ vRun n.toNat 4) .enc → c.num f.a < 16 →
    rangeOf (w 0) (w 1) (w 2) (w 3) = some d →
    exec (.rangeset f) s = .next ((s.setDamsel (clusterOf c.core) (c.num f.a) d).issueKnown c [])

/-- An arrival of a nonzero count at an enabled barrier (R279, R280, R282): below the target the barrier only counts; at or
above it the phase completes: the phase number rises by one modulo 256, the counts and errors clear, and the completed
phase's status holds its number, its error, an overrun where the arrivals passed the target, and its granules. A count of
0 completes nothing, and a disabled barrier takes no arrival. -/
def Obligations.BarrierArrivals : Prop :=
  ∀ (b : Barrier) (m n : Nat) (err : Bool),
    let e := b.errp || err
    let g := min (b.gsum + n) (2 ^ 24 - 1)
    (b.target = 0 → b.arrive m err n = (b, false)) ∧
    (b.target ≠ 0 → m = 0 → b.arrive m err n = ({ b with errp := e }, false)) ∧
    (m ≠ 0 → b.arrived + m < b.target →
      b.arrive m err n = ({ b with arrived := b.arrived + m, errp := e, gsum := g }, false)) ∧
    (b.target ≠ 0 → m ≠ 0 → b.target ≤ b.arrived + m → ∃ last,
      b.arrive m err n = ({ b with
        last := last, phase := b.phase + 1, arrived := 0, errp := false, ovrp := false, gsum := 0 }, true) ∧
      last.1.toNat = (if e then 2 ^ 30 else 0) + (if b.ovrp = true ∨ b.target < b.arrived + m then 2 ^ 29 else 0)
        + b.phase.toNat ∧
      last.2.toNat = g)

/-- What the barrier unit does with an arrival, and with a wait (R279, R281 to R283): an arrival that completes a phase releases
every gang of the cluster that waits for it with that phase's status, whose pair has the layout of R282 (`DIS` clear, `ERR`,
`OVR`, zeros in [28:8], the completed phase, and the granules); a BARA's token is the phase it arrived in, with bit 31 set at a
disabled barrier; a wait whose phase is over takes the last status at once, and at a disabled barrier bit 31 alone, where it is
not one that a restore brought back, which looks at the phase alone (R283); otherwise it is left waiting. A BARAW's arrival
reaches the unit as a BARA's does: at a disabled barrier it takes bit 31 alone, and else it waits for the phase that it arrives
in before it arrives. -/
def Obligations.BarrierWaits : Prop :=
  (∀ (s : State) (cl bar m n : Nat) (err : Bool), ((s.barrier cl bar).arrive m err n).2 = false →
    s.arrive cl bar m err n = s.setBarrier cl bar ((s.barrier cl bar).arrive m err n).1) ∧
  (∀ (s : State) (cl bar m n : Nat) (err : Bool), ((s.barrier cl bar).arrive m err n).2 = true →
    s.arrive cl bar m err n = (s.barrierWaiters cl bar (s.barrier cl bar).phase).foldl
      (fun u w => u.deliverWait w.1 w.2.1 w.2.2 ((s.barrier cl bar).arrive m err n).1.last)
      (s.setBarrier cl bar ((s.barrier cl bar).arrive m err n).1)) ∧
  (∀ (b : Barrier) (m n : Nat) (err : Bool), (b.arrive m err n).2 = true →
    let last := (b.arrive m err n).1.last
    last.1.getLsbD 31 = false ∧ last.1.getLsbD 30 = (b.errp || err) ∧
    last.1.getLsbD 29 = (b.ovrp || decide (b.target < b.arrived + m)) ∧
    (∀ k, 8 ≤ k → k < 29 → last.1.getLsbD k = false) ∧ last.1.extractLsb' 0 8 = b.phase ∧
    last.2.toNat = min (b.gsum + n) (2 ^ 24 - 1)) ∧
  (∀ (s : State) (core slot id bar m : Nat) (err : Bool) (p : Pending),
    let u := s.arrive (clusterOf core) bar m err 0
    let b := s.barrier (clusterOf core) bar
    ((u.gang? core slot).bind fun g => g.pending? id) = some p →
    s.arriveRequest core slot id bar m err false = u.deliver core slot id { Out.none with
      sregs := p.sdst.zip [BitVec.ofNat 32 (b.phase.toNat + if b.target = 0 then 2 ^ 31 else 0)] }) ∧
  (∀ (s : State) (core slot id bar m : Nat) (err : Bool),
    let b := s.barrier (clusterOf core) bar
    (b.target = 0 → s.arriveRequest core slot id bar m err true = s.deliverWait core slot id (0x80000000, 0)) ∧
    (b.target ≠ 0 → s.arriveRequest core slot id bar m err true = (s.modGang core slot fun g => g.modPending id fun p =>
      { p with
        op := .barrier bar b.phase.toNat 0
        sent := true }).arrive (clusterOf core) bar m err 0)) ∧
  (∀ (s : State) (r : Runner) (p : Pending) (bar m : Nat) (err wait : Bool) (part : Option Nat), s.Outstanding r p →
    p.op = .request (.arrive bar m err wait) → p.going = true → s.blocked r p [] = false →
    exec (.longResultArrive r.core r.slot p.id part) s = .next (s.arriveRequest r.core r.slot p.id bar m err wait)) ∧
  ∀ (s : State) (r : Runner) (p : Pending) (bar phase n : Nat) (part : Option Nat), s.Outstanding r p →
    p.op = .barrier bar phase n → p.going = true → p.sent = false →
    let b := s.barrier (clusterOf r.core) bar
    exec (.longResultArrive r.core r.slot p.id part) s = .next
      (if b.target = 0 ∧ n ≠ 1 then s.deliverWait r.core r.slot p.id (0x80000000, 0)
       else if b.phase.toNat ≠ phase then s.deliverWait r.core r.slot p.id b.last
       else s.modGang r.core r.slot fun g => g.modPending p.id fun q => { q with sent := true })

/-- The chunks that TAKE claims (R285): in one step the first index and the count of the chunk go to its pair, and the
slot's next index moves past the chunk, whose count is the lesser of what remains and the greater of `MINC` and the
remainder over `KF` × `PW`, rounded up. So a chunk never passes the end, holds at least `MINC` while that much is left, and
is empty for an empty slot; a slot that RANGESET loads has `MINC`, `KF` and `PW` of at least 1 (R284). That TAKE acts at issue is
the model's reading (DEDUCED, log entry 32). -/
def Obligations.DamselChunks : Prop :=
  (∀ (s : State) (c : Issuer) (f : EForm), c.OnceExecutes s (sRegs true f.d ++ opdS .n32 f.a) .enc → c.num f.a < 16 →
    let d := s.damsel (clusterOf c.core) (c.num f.a)
    let rem := d.stop - d.next
    let n := min rem (max d.minc ((rem + d.kf * d.pw - 1) / (d.kf * d.pw)))
    exec (.take f) s = .next ((s.setDamsel (clusterOf c.core) (c.num f.a) { d with next := d.next + n }).issueKnown c
      ((sRegs true f.d).zip [BitVec.ofNat 32 d.next, BitVec.ofNat 32 n]))) ∧
  (∀ d : DamselSlot, d.next ≤ d.stop →
    d.next + d.chunk ≤ d.stop ∧ (d.minc ≤ d.stop - d.next → d.minc ≤ d.chunk) ∧
    (d.stop - d.next ≤ d.minc → d.chunk = d.stop - d.next) ∧ (d.next = d.stop → d.chunk = 0)) ∧
  ∀ (a b c e : Nat) (d : DamselSlot), rangeOf a b c e = some d →
    d.next = a ∧ d.stop = b ∧ d.next ≤ d.stop ∧ d.minc = c % 2 ^ 16 ∧ 1 ≤ d.minc ∧ d.kf = c / 2 ^ 16 % 2 ^ 8 ∧ 1 ≤ d.kf ∧
    d.pw = e % 2 ^ 16 ∧ 1 ≤ d.pw

/-- The copy engine (R267 to R276, R316). A CPY that reaches a Leat with room, no earlier CPY of its gang waiting, is queued
and its ticket arrives; the oldest copy reads its descriptor; each granule goes to the scratchpad, whose granule becomes full,
or, for memory, joins the bytes kept for its line; and a copy that owns no line ends
done when it has delivered everything, or failed when it has met a fault. It ends with its state and code in its record, its
arrival at its barrier (with the error flag where it failed) and the granules it delivered; a failed one poisons the granules
of its scratchpad destination that it did not deliver. -/
def Obligations.CopyEngineWorks : Prop :=
  (∀ (s : State) (r : Runner) (p : Pending) (desc which : Nat) (rel : Bool) (part : Option Nat),
    let cl := clusterOf r.core
    let unit := (s.cluster cl).chooseLeat which
    s.Outstanding r p → p.going = true → p.op = .request (.cpy desc which rel) → s.blocked r p [] = false →
    (∀ q ∈ r.gang.earlier p, ∀ a b e, q.op ≠ .request (.cpy a b e)) → (s.leat cl unit).load < 64 →
    exec (.longResultArrive r.core r.slot p.id part) s = .next ((s.modLeat cl unit fun l =>
      l.accept (newCopy (s.leat cl unit).nextSeq r.core (some (r.slot, r.gang.number)) r.gang.team r.team.grid r.grid.vmid
        r.grid.asid r.grid.group desc
        false)).deliver r.core r.slot p.id
      { Out.none with sregs := p.sdst.zip [ticketOf unit (s.leat cl unit).nextSeq] })) ∧
  (∀ (s : State) (cl unit : Nat) (c : Copy) (t : Team), unit < 2 → (s.leat cl unit).head = some c →
    c.desc = none → c.code = none → c.waitCode = none → s.copyTeam c = some t →
    (∀ bs, s.engineRead .engineRead cl unit c.vmid c.asid c.group c.descAddr 64 = .bytes bs →
      exec (.copyStart cl unit) s = .next ((s.touchRead c.vmid c.asid c.group [c.descAddr]).modCopy cl unit c.seq fun x =>
        { x with
          st := .running
          desc := some (copyDesc bs)
          code := (copyDesc bs).failure t.scratchBytes })) ∧
    ∀ code va, s.engineRead .engineRead cl unit c.vmid c.asid c.group c.descAddr 64 = .fault code va →
      exec (.copyStart cl unit) s = .next ((s.modCopy cl unit c.seq fun x => { x with st := .running }).copyFault cl unit
        { c with st := .running } code va)) ∧
  (∀ (s : State) (cl unit : Nat) (c : Copy) (d : CopyDesc) (bs : List Byte) (y : Stream), unit < 2 →
    (s.leat cl unit).head = some c → c.desc = some d → c.code = none → c.waitCode = none → c.next < d.total →
    c.lineRead d = false → s.copyGranule cl unit c d c.next = .ready bs y →
    let va := d.dst + 16 * c.next
    let records := (List.range (y.recs - c.recs)).map fun k => d.dlt + 8 * (c.recs + k)
    let u := s.touchRead c.vmid c.asid c.group (records ++ (List.range d.units).map fun n => d.srcAt c.next n)
    (d.dsp = true → exec (.copyGranuleDeliver cl unit) s = .next ((u.modTeam c.core c.team fun t =>
      (t.store (16 * (va / 16)) bs).setGranule (va / 16) .full).modCopy cl unit c.seq fun x => x.advanced y)) ∧
    ∀ l : Ln, d.dsp = false → va < 2 ^ 56 → u.routeIn c.group va = .local_ →
      u.access .engineWrite none c.vmid c.asid va 16 = .ok l →
      exec (.copyGranuleDeliver cl unit) s = .next (u.modCopy cl unit c.seq fun x =>
        { x.streamed y with staged := x.staged ++ [bs] })) ∧
  (∀ (c : Copy) (y : Stream), c.advanced y =
    { c with granules := c.granules + 1, recs := y.recs, last := y.last, ahead := y.ahead, got := [], sent := false }) ∧
  (∀ (s : State) (cl unit : Nat) (c : Copy), unit < 2 → (s.leat cl unit).head = some c →
    c.waitCode = none → s.copyAwaits cl unit c.seq none = false → s.linesOwned cl unit = [] →
    (∀ t ∈ s.mem.txns, t.kind ≠ .engine cl unit) → (c.derr = true → c.staged = []) →
    (∀ code, c.code = some code → exec (.copyEnd cl unit) s = .next (s.endCopy cl unit c (some code))) ∧
    ∀ d, c.desc = some d → c.code = none → d.total ≤ c.granules →
      exec (.copyEnd cl unit) s = .next (s.endCopy cl unit c none)) ∧
  (∀ (s : State) (cl unit : Nat) (c : Copy) (d : CopyDesc) (code : Option Code), c.desc = some d →
    let u := (if code.isSome = true then s.poisonRest c else s).modCopy cl unit c.seq fun x =>
      { x with
        st := if code.isSome = true then .failed else .done
        code := code
        staged := []
        waitCode := none }
    s.endCopy cl unit c code = ((if d.bar = true then u.arrive cl d.bnum 1 code.isSome c.granules else u).queueBindings
      cl).releaseTeam c.core c.team) ∧
  ∀ (s : State) (c : Copy) (d : CopyDesc) (t : Team), c.desc = some d → s.copyTeam c = some t →
    (d.dsp = false ∨ d.failure t.scratchBytes ≠ none → s.poisonRest c = s) ∧
    (d.dsp = true → d.failure t.scratchBytes = none → ∃ u, (s.poisonRest c).team? c.core c.team = some u ∧
      { u with granules := t.granules } = t ∧ ∀ n, u.granule n =
        if d.dst / 16 + c.granules ≤ n ∧ n < d.dst / 16 + d.total then .poison else t.granule n)

/-! ### Graphics and the Millpond -/

/-- The graphics instructions issue on ENC (R288, R294, R296, R298): PRIM with its lanes' vertices once the intake is open, OCCQ
as loads of its objects' words, RAYQ with its lanes' rays, and RAYWAIT for the gang's outstanding RAYQs, parking its
sub-gang at the clause boundary. -/
def Obligations.GraphicsInstructionsIssue : Prop :=
  (∀ (s : State) (c : Issuer) (f : EForm) (first : BitVec 8), s.issuer = some c → f.a = .v first →
    let b := sNum f.b
    let act := c.active f.g
    c.Ready { v := runOf 1 f.d ++ vRun first.toNat 11, s := vRun b 2, p := guardP f.g } → c.spair b % 64 = 0 →
    c.spair b < 2 ^ 56 → c.CounterFree .enc → s.intakeClosed (s.cluster (clusterOf c.core)).vis = false →
    c.PoolHas s (runOf 1 f.d) →
    exec (.prim f) s = .next ((s.issue c .enc [] (runOf 1 f.d) [] none act fun p =>
      { p with
        addrs := [(0, c.spair b)]
        data := act.toList.map fun i => (i, (vRun first.toNat 11).map fun v => c.vreg v i)
        sent := false
        op := .prim (f.sub.getLsbD 0) }).advance c)) ∧
  (∀ (s : State) (c : Issuer) (f : EForm), s.issuer = some c →
    let b := sNum f.b
    let act := c.active f.g
    let addr := fun i => (c.spair b + 4 * c.read .n32 f.a i) % 2 ^ 64
    c.Ready { v := runOf 1 f.d ++ opdV .n32 f.a, s := opdS .n32 f.a ++ vRun b 3,
              p := guardP f.g ++ (Machine.predOf f.c).toList } →
    c.spair b % 4 = 0 → (∀ i ∈ act.toList, addr i < 2 ^ 56) → c.CounterFree .enc → c.PoolHas s (runOf 1 f.d) →
    exec (.occq f) s = .next ((s.issue c .enc [] (runOf 1 f.d) [] (Machine.predOf f.c) act fun p =>
      { p with
        addrs := act.toList.map fun i => (i, addr i)
        op := .occq (BitVec.ofNat 31 (c.sreg (b + 2)).toNat) (Machine.predOf f.c) }).advance c)) ∧
  (∀ (s : State) (c : Issuer) (f : EForm) (d a : BitVec 8), s.issuer = some c → f.d = .v d → f.a = .v a →
    let act := c.active f.g
    c.Ready { v := vRun d.toNat 4 ++ vRun a.toNat 8, s := vRun (sNum f.b) 2, p := guardP f.g } → c.CounterFree .enc →
    c.PoolHas s (vRun d.toNat 4) →
    exec (.rayq f) s = .next ((s.issue c .enc [] (vRun d.toNat 4) [] none act fun p =>
      { p with
        data := act.toList.map fun i => (i, (vRun a.toNat 8).map fun v => c.vreg v i)
        op := .rayq (f.sub.getLsbD 0) (f.sub.getLsbD 1) (c.spair (sNum f.b)) }).advance c)) ∧
  ∀ (s : State) (c : Issuer) (f : EForm), c.OnceExecutes s [] .enc → ∃ ids,
    exec (.raywait f) s = .next (((s.issue c .enc [] [] [] none c.sub.fibres fun p =>
      { p with op := .raywait ids }).waitFor c s.next).advance c) ∧
    ∀ id, id ∈ ids ↔ ∃ p ∈ c.gang.pending, p.id = id ∧ ∃ any cullb root, p.op = .rayq any cullb root

/-- The rasteriser and the traversal unit (R289, R291 to R293, R296, R297). A kept sample of the triangle being rasterised
sets the visibility word to the larger of itself and the word there, or in a test draw, where the word there is not larger,
the object's word to the larger of its own and the draw's; a triangle with no sample left is done; a sample whose access
faults is dropped, and the first such fault kept; a FLUSH PRIM whose triangles are rasterised delivers its classes, or fails
with that fault. A ray with a NaN or no direction misses; one whose visit ends delivers its nearest hit's words, or the words
of a miss, or those of a malformed structure; `ANY` ends a visit at its first hit, and a fault of a node is the lane's. A unit
that firmware has served makes its access again. That triangles are sampled one kept sample a step, that a test sample reads the
buffer as it stands and that the first dropped write is the one kept are log entry 33; that a ray's visit is one step is
log entry 67, and that a child pointer is checked when it is entered log entry 34. -/
def Obligations.GraphicsUnitsWork : Prop :=
  (∀ (s : State) (cl : Nat) (t : Tri) (rest : List Tri) (p : Screen), (s.cluster cl).vis.job = t :: rest →
    (s.cluster cl).vis.waitCode = none → screenOf t.verts = some p →
    let box := pixelBox t.ctx p
    let next := nextSample t p box (box.2.2.1 * box.2.2.2 - (s.cluster cl).vis.cursor) (s.cluster cl).vis.cursor
    let move := fun (u : State) (n : Nat) => u.modVis cl fun v => { v with cursor := n + 1 }
    (next = none → exec (.rasterSampleWrite cl) s = .next (s.modVis cl fun v =>
      { v with
        job := rest
        cursor := 0
        binflush := if rest = [] ∧ v.overflow = true then v.binflush + 1 else v.binflush })) ∧
    ∀ n px py word, next = some (n, px, py, word) →
      let va := t.ctx.vbase + py * t.ctx.vpitch + 8 * px
      let oa := t.ctx.obase + 4 * t.inst
      (∀ code, s.visAccess t.ctx (if t.test then .engineRead else .atomic) va 8 = .error code →
        exec (.rasterSampleWrite cl) s = .next (s.visFault cl t.ctx code va n)) ∧
      (∀ l : Ln, t.test = false → s.visAccess t.ctx .atomic va 8 = .ok l → s.engineMay cl 3 l true = true →
        ∀ u : State, s.logWrite t.ctx.vmid t.ctx.asid va = (true, u) →
        let w := u.dropTracked l.tag l.line
        let old := leNat (slice (w.homeData l.tag l.line l.pline) (va % 128) 8)
        exec (.rasterSampleWrite cl) s =
          .next (move (w.writeAtHome l [(va % 128, leBytes 8 (max old word))]) n)) ∧
      ∀ l : Ln, t.test = true → s.visAccess t.ctx .engineRead va 8 = .ok l → s.engineMay cl 3 l false = true →
        let seen := leNat (slice (s.coherentData l.tag l.line l.pline) (va % 128) 8)
        (word < seen → exec (.rasterSampleWrite cl) s = .next (move (s.touchLine l) n)) ∧
        ∀ (o : Ln) (u : State), seen ≤ word → s.visAccess t.ctx .atomic oa 4 = .ok o → s.engineMay cl 3 o true = true →
          s.logWrite t.ctx.vmid t.ctx.asid oa = (true, u) →
          let w := u.dropTracked o.tag o.line
          let old := leNat (slice (w.homeData o.tag o.line o.pline) (oa % 128) 4)
          exec (.rasterSampleWrite cl) s =
            .next (move ((w.writeAtHome o [(oa % 128, leBytes 4 (max old (2 ^ 31 + t.ctx.ftag)))]).touchLine l) n)) ∧
  (∀ (s : State) (cl : Nat) (c : DrawCtx) (code : Code) (va n : Nat), s.serviced c.vmid code = false →
    s.visFault cl c code va n = ((s.noteWalk c.vmid c.asid va).askMigration c.vmid code va).modVis cl fun v =>
      { v with
        cursor := n + 1
        dropped := if v.dropped = none then some (code, va) else v.dropped }) ∧
  (∀ (s : State) (r : Runner) (p : Pending), s.Outstanding r p → p.op = .prim true → p.sent = true → p.st = .pending →
    (s.cluster (clusterOf r.core)).vis.job = [] →
    ((s.cluster (clusterOf r.core)).vis.dropped = none →
      exec (.flushClassesArrive r.core r.slot p.id) s = .next (s.deliver r.core r.slot p.id (primOut p))) ∧
    ∀ code va, (s.cluster (clusterOf r.core)).vis.dropped = some (code, va) →
      exec (.flushClassesArrive r.core r.slot p.id) s = .next ((s.modVis (clusterOf r.core) fun v =>
        { v with dropped := none }).modGang r.core r.slot fun g => g.modPending p.id fun q =>
          { q with st := .failing code q.lanes (BitVec.ofNat 64 va) 0 })) ∧
  (∀ (s : State) (r : Runner) (p : Pending) (any cullb : Bool) (root lane : Nat), s.Outstanding r p →
    p.op = .rayq any cullb root → p.st = .pending → s.blocked r p [] = false →
    let out := exec (.rayqDeliver r.core r.slot p.id lane) s
    (p.data = [] → out = .next (s.deliver r.core r.slot p.id (rayOut p))) ∧
    ∀ ws, p.data ≠ [] → Table.get? p.data lane = some ws → p.laneOpen lane = true →
      let miss : List Word := [0x7F800000, 0xFFFFFFFF, 0xFFFFFFFF, 0]
      (rayOf ws = .miss → out = .next (s.rayLane r p lane miss)) ∧
      ∀ ray : Ray, rayOf ws = .ray ray →
        let v := s.visit (clusterOf r.core) r.grid.vmid r.grid.asid r.grid.group ray any cullb 64 root
          { best := none, stop := none, seen := [] }
        let t := s.touchRead r.grid.vmid r.grid.asid r.grid.group v.seen.reverse
        (v.stop = none ∨ v.stop = some .found →
          (∀ h, v.best = some h → out = .next (t.rayLane r p lane h.words)) ∧
          (v.best = none → out = .next (t.rayLane r p lane miss))) ∧
        (v.stop = some .malformed → out = .next (t.rayLane r p lane [0x7FC00000, 0xFFFFFFFE, 0xFFFFFFFE, 0])) ∧
        ∀ code va, v.stop = some (.fault code va) →
          out = .next ((t.noteWalk r.grid.vmid r.grid.asid va).modGang r.core r.slot fun g =>
            g.modPending p.id fun q => q.addFailure false code lane va 0)) ∧
  (∀ (s : State) (cl vmid asid fuel ptr : Nat) (group : Option Group) (ray : Ray) (any cullb : Bool) (v : Visit),
    (v.stop ≠ none → s.visit cl vmid asid group ray any cullb fuel ptr v = v) ∧
    (v.stop = none → bitsOf ptr 63 56 ≠ 0 ∨ 2 < ptr % 64 →
      s.visit cl vmid asid group ray any cullb fuel ptr v = { v with stop := some .malformed }) ∧
    ∀ bs : List Byte, v.stop = none → bitsOf ptr 63 56 = 0 → ptr % 64 = 2 →
      s.engineRead .engineRead cl 4 vmid asid group (bitsOf ptr 55 6 * 64) 64 = .bytes bs →
      ((nodeWords bs).drop 11).all (fun w => w == 0) = true →
      let seen := bitsOf ptr 55 6 * 64 :: v.seen
      s.visit cl vmid asid group ray any cullb fuel ptr v =
        match ray.hit cullb ((nodeWords bs).take 9) (nth (nodeWords bs) 9 0) (nth (nodeWords bs) 10 0) with
        | none => { v with seen := seen }
        | some h =>
          { best := if (∃ b, v.best = some b ∧ h.before b = false) then v.best else some h
            stop := if any = true then some .found else none
            seen := seen }) ∧
  (∀ (s : State) (cl : Nat), exec (.engineFirmwareServiceDone cl 2) s =
    .next (s.modVis cl fun v => { v with waitCode := none })) ∧
  ∀ (s : State) (cl unit : Nat) (c : Copy), unit < 2 → (s.leat cl unit).head = some c →
    exec (.engineFirmwareServiceDone cl unit) s = .next (s.modCopy cl unit c.seq fun x => { x with waitCode := none })

/-- The Millpond's instructions issue on ENC (R340, R346, R348 to R352): TXREQ with its lanes' keys, TXWAIT with its tokens,
parking its sub-gang when one names a live entry, TXFILL with the tile image it reads then, TXINV, TXFRAME and TXPIN with
their operands, each with the view entries that it presents. A reserved bit of a key or a word stops them before: TXREQ with
RESERVED_FIELD for the lanes whose key has one, the others for their sub-gang (R332, R345). -/
def Obligations.MillpondInstructionsIssue : Prop :=
  (∀ (s : State) (c : Issuer) (f : EForm) (d a : BitVec 8), s.issuer = some c → f.d = .v d → f.a = .v a →
    let act := c.active f.g
    let keys := act.toList.map fun i => (i, (vRun a.toNat 3).map fun v => c.vreg v i)
    c.Ready { v := vRun d.toNat 4 ++ vRun a.toNat 3, s := [], p := guardP f.g } →
    (∀ x ∈ keys, keyOk x.2 = true) → c.CounterFree .enc → c.PoolHas s (vRun d.toNat 4) →
    exec (.txreq f) s = .next ((s.issue c .enc [] (vRun d.toNat 4) [] none act fun p =>
      { p with
        addrs := keys.map fun x => (x.1, s.viewSeen c.grid.vmid (keyPool (keyOf x.2)))
        data := keys
        op := .txreq (f.sub.getLsbD 0) }).advance c)) ∧
  (∀ (s : State) (c : Issuer) (f : EForm) (d a : BitVec 8), s.issuer = some c → f.d = .v d → f.a = .v a →
    let act := c.active f.g
    let tokens := act.toList.map fun i => (i, [c.vreg a.toNat i])
    c.Ready { v := vRun d.toNat 4 ++ [a.toNat], s := [], p := guardP f.g } → c.CounterFree .enc →
    c.PoolHas s (vRun d.toNat 4) → ∃ u : State,
    exec (.txwait f) s = .next ((if ∃ i ∈ act.toList, s.tokenLive (c.vreg a.toNat i).toNat = true
      then u.waitFor c s.next else u).advance c) ∧
    u = s.issue c .enc [] (vRun d.toNat 4) [] none act fun p => s.waitLanes { p with
      addrs := tokens.map fun x => (x.1, s.viewSeen c.grid.vmid (s.tokenPool (nth x.2 0 0).toNat))
      data := tokens
      op := .txwait }) ∧
  (∀ (s : State) (c : Issuer) (f : EForm) (d a : BitVec 8), s.issuer = some c → f.d = .v d → f.a = .v a →
    let key := fun i => (vRun a.toNat 3).map fun v => c.vreg v i
    c.Ready { v := vRun d.toNat 4 ++ vRun a.toNat 3, s := [], p := guardP f.g } →
    (∃ i ∈ (c.active f.g).toList, keyOk (key i) = false) → ∃ bad : Lanes,
    exec (.txreq f) s = .next (s.faultHere c (c.record .reservedField bad 0 0)) ∧
    ∀ i, i < 128 → (bad.getLsbD i = true ↔ i ∈ (c.active f.g).toList ∧ keyOk (key i) = false)) ∧
  (∀ (s : State) (c : Issuer) (f : EForm), s.issuer = some c →
    let n := sNum f.a
    let w := fun k => (c.sreg (n + k)).toNat
    let ready := fun (ss : List Nat) => c.Ready { v := [], s := sRegs false f.d ++ ss, p := [] }
    let stops := fun (i : Instr) => exec i s = .next (s.faultHere c (c.record .reservedField c.sub.fibres 0 0))
    (ready (vRun n 5) → 2 ≤ w 4 → stops (.txfill f)) ∧ (ready (vRun n 3) → 256 ≤ w 0 → stops (.txinvKey f)) ∧
    (ready [n, n + 2, n + 3] → 256 ≤ w 0 → stops (.txinvInfl f)) ∧
    (ready (opdS .n32 f.a) → 256 ≤ c.num f.a → stops (.txframe f)) ∧
    (ready (vRun n 3) → keyOk ((vRun n 3).map c.sreg) = false → stops (.txpinSet f) ∧ stops (.txpinClr f))) ∧
  (∀ (s : State) (c : Issuer) (f : EForm),
    let n := sNum f.a
    let w := fun k => (c.sreg (n + k)).toNat
    let size := s.imageBytes (w 0)
    c.OnceExecutes s (sRegs false f.d ++ vRun n 5) .enc → c.Quiet → w 4 < 2 → c.gang.scratchBusy = false →
    w 1 % 16 = 0 → w 1 + size ≤ c.team.scratchBytes → c.team.meetsPoison (w 1) size = false →
    exec (.txfill f) s = .next ((s.issue c .enc [] [] (sRegs false f.d) none c.sub.fibres fun p =>
      { p with
        addrs := [(0, s.viewSeen c.grid.vmid (s.tokenPool (w 0)))]
        sent := false
        op := .request (.txfill (w 0) (w 1) (BitVec.ofNat 64 (w 2 + 2 ^ 32 * w 3)) (decide (w 4 = 1))
          (c.seen.bytes (w 1) size)) }).advance c)) ∧
  (∀ (s : State) (c : Issuer) (f : EForm),
    let n := sNum f.a
    let w := fun k => (c.sreg (n + k)).toNat
    let out := fun q => (s.issue c .enc [] [] (sRegs false f.d) none c.sub.fibres fun p =>
      { p with addrs := [(0, s.viewSeen c.grid.vmid (w 0))], sent := false, op := .request q }).advance c
    c.Quiet → w 0 < 256 →
    (c.OnceExecutes s (sRegs false f.d ++ vRun n 3) .enc →
      exec (.txinvKey f) s = .next (out (.txinvKey (w 0) (w 1) (w 2)))) ∧
    (c.OnceExecutes s (sRegs false f.d ++ [n, n + 2, n + 3]) .enc →
      exec (.txinvInfl f) s = .next (out (.txinvInfl (w 0) (BitVec.ofNat 64 (w 2 + 2 ^ 32 * w 3)))))) ∧
  (∀ (s : State) (c : Issuer) (f : EForm), c.OnceExecutes s (sRegs false f.d ++ opdS .n32 f.a) .enc →
    c.num f.a < 256 →
    exec (.txframe f) s = .next ((s.issue c .enc [] [] (sRegs false f.d) none c.sub.fibres fun p =>
      { p with addrs := [(0, s.viewSeen c.grid.vmid (c.num f.a))], op := .txframe (c.num f.a) }).advance c)) ∧
  ∀ (s : State) (c : Issuer) (f : EForm) (on : Bool), c.OnceExecutes s (sRegs false f.d ++ vRun (sNum f.a) 3) .enc →
    let key := (vRun (sNum f.a) 3).map c.sreg
    keyOk key = true →
    exec (if on then .txpinSet f else .txpinClr f) s = .next
      ((s.issue c .enc [] [] (sRegs false f.d) none c.sub.fibres fun p =>
        { p with
          addrs := [(0, s.viewSeen c.grid.vmid (keyPool (keyOf key)))]
          data := [(0, key)]
          op := .txpin on }).advance c)

/-- What the Millpond does (R340, R341, R343, R349, R350, R352, R354). A lookup under a view with `V` clear is denied; a valid
entry that the asker may see answers with its heap address; a probe that misses allocates nothing; a fill of a dead token
answers 2, and one with a free tile whose lines are free makes the entry valid with its tile; an invalidation dooms what is in
flight and quarantines what is valid; pinning changes one bit; and a clock hand passes one set and evicts its old entries
while free and quarantined tiles stay below `WMARK`, and else stops, every other entry and every other pool left as it is. -/
def Obligations.MillpondAnswers : Prop :=
  (∀ (s : State) (vmid : Nat) (e : ViewEntry) (probe : Bool) (key : BitVec 81), e.v = false →
    s.pondLookup vmid e probe key = (s, .denied)) ∧
  (∀ (s : State) (vmid way : Nat) (e : ViewEntry) (probe : Bool) (key : BitVec 81) (p : Pool), e.v = true →
    s.pool? (keyPool key) = some p → s.findKey key = some way → (s.pondEntry way).st = .valid →
    (if (s.pondEntry way).shared = true then (s.pondEntry way).act = e.act
     else (s.pondEntry way).ownvm.toNat = vmid) →
    s.pondLookup vmid e probe key = (s.setEntry way { s.pondEntry way with lhf := p.frame },
      .hit (p.hbase + (s.pondEntry way).tile * p.tileBytes))) ∧
  (∀ (s : State) (vmid : Nat) (e : ViewEntry) (key : BitVec 81) (p : Pool), e.v = true →
    s.pool? (keyPool key) = some p → s.findKey key = none → s.pondLookup vmid e true key = (s, .miss 3 0)) ∧
  (∀ (s : State) (r : Runner) (p : Pending) (token : Nat) (mask : DWord) (sh : Bool) (bs : List Byte),
    (s.tokenLive token = false →
      s.txfillArrive r p token mask sh bs = s.deliver r.core r.slot p.id
        { Out.none with sregs := p.sdst.map fun d => (d, 2) }) ∧
    ∀ (q : Pool) (tile : Nat) (rest : List Nat), s.tokenLive token = true →
      let x := s.pondEntry (token / 1024)
      s.pool? (keyPool x.key) = some q → (s.viewFor p 0 r.grid.vmid (keyPool x.key)).f = true → x.st ≠ .doomed →
      q.free = tile :: rest →
      (∀ a ∈ linesOf (q.hbase + tile * q.tileBytes) q.tileBytes, s.heapMay (wayDie (token / 1024)) a = true) →
      s.badHeapLine (q.hbase + tile * q.tileBytes) q.tileBytes = none → ∃ u : State,
      s.txfillArrive r p token mask sh bs = u.deliver r.core r.slot p.id
        { Out.none with sregs := p.sdst.map fun d => (d, 0) } ∧
      u.pondEntry (token / 1024) = { x with st := .valid, shared := sh, infl := mask, tile := tile, lhf := q.frame }) ∧
  (∀ (s : State) (way : Nat) (x : PondEntry), s.pondEntry way = x → x.st = .valid →
    (s.dropValid way).pondEntry way = { x with st := .invalid, pin := false } ∧
    ∀ p, Table.get? s.pond.pools (keyPool x.key) = some p →
      Table.get? (s.dropValid way).pond.pools (keyPool x.key) = some { p with quar := p.quar ++ [(x.tile, p.frame)] }) ∧
  (∀ (s : State) (r : Runner) (id way : Nat), (s.pondEntry way).st = .inFlight →
    (s.txinvEntry r id way).pondEntry way = { s.pondEntry way with st := .doomed }) ∧
  (∀ (s : State) (r : Runner) (p : Pending) (on : Bool) (way : Nat),
    let key := keyOf (Table.getD p.data 0 [])
    (s.pool? (keyPool key)).isSome = true → (s.viewFor p 0 r.grid.vmid (keyPool key)).f = true →
    s.findKey key = some way →
    s.txpinArrive r p on = (s.setEntry way { s.pondEntry way with pin := on }).deliver r.core r.slot p.id
      { Out.none with sregs := p.sdst.map fun d => (d, 1) }) ∧
  ∀ (s : State) (die pool set idle : Nat) (p : Pool), s.pool? pool = some p → die < 4 → p.free.length < p.wmark →
    Table.getD p.hands die (0, 0, false) = (set, idle, false) → ∃ (t : State) (q : Pool) (n : Nat) (stop : Bool),
    exec (.clockHandAdvance die pool) s = .next t ∧ Table.get? t.pond.pools pool = some q ∧ q.free = p.free ∧
      t.cores = s.cores ∧ t.mem = s.mem ∧
      (if p.wmark ≤ p.free.length + p.quar.length then
        Table.get? q.hands die = some (set, idle, true) ∧ t.pond.entries = s.pond.entries
      else
        Table.get? q.hands die = some ((set + 1) % 65536, n, stop) ∧
        ∀ w ∈ waysOfSet (65536 * die + set), (s.pondEntry w).st = .valid → (s.pondEntry w).pin = false →
          keyPool (s.pondEntry w).key = pool → p.agethr ≤ s.entryAge (s.pondEntry w) → (t.pondEntry w).st = .invalid) ∧
    (∀ w, w ∉ waysOfSet (65536 * die + set) ∨ (s.pondEntry w).st ≠ .valid ∨ (s.pondEntry w).pin = true ∨
      keyPool (s.pondEntry w).key ≠ pool ∨ s.entryAge (s.pondEntry w) < p.agethr → t.pondEntry w = s.pondEntry w) ∧
    ∀ n, n ≠ pool → Table.get? t.pond.pools n = Table.get? s.pond.pools n

/-! ### Queues, grids and teams -/

/-- The queue instructions issue with their lanes' images read then (R377, R378): QPUSH and AMPLIFY with a node's record,
LAUNCH with 256 bytes, QPOP with its destinations alone. -/
def Obligations.QueueInstructionsIssue : Prop :=
  ∀ (s : State) (c : Issuer) (f : EForm) (mk : EForm → Instr) (op : Nat → QueueOp) (limit len : Nat) (pop amp : Bool),
    let n := c.num f.b
    let act := c.active f.g
    let p := queuePred f
    let at_ := act.toList.map fun i => (i, c.read .n32 f.a i)
    (mk = .qpush ∧ op = .push ∧ limit = 63 ∧ len = s.imageSize c.grid.pid n ∧ pop = false ∧ amp = false) ∨
      (mk = .qpop ∧ op = .pop ∧ limit = 63 ∧ len = s.imageSize c.grid.pid n ∧ pop = true ∧ amp = false) ∨
      (mk = .amplify ∧ op = .amplify ∧ limit = 63 ∧ len = s.imageSize c.grid.pid n ∧ pop = false ∧ amp = true) ∨
      (mk = .launch ∧ op = .launch ∧ limit = 15 ∧ len = 256 ∧ pop = false ∧ amp = false) →
    s.issuer = some c →
    c.Ready { v := opdV .n32 f.a ++ opdV .n32 f.c, s := opdS .n32 f.a ++ opdS .n32 f.b ++ opdS .n32 f.c,
              p := p :: guardP f.g } →
    n ≤ limit → (amp = true → ∀ i ∈ act.toList, c.read .n32 f.c i ≤ 65536) →
    (pop = false → c.gang.scratchBusy = false) →
    c.checkRanges (at_.map fun x => (x.1, x.2, len, !pop)) = .ok () → c.CounterFree .enc →
    exec (mk f) s = .next ((s.issue c .enc [] [] [] (some p) act fun e =>
      { e with
        addrs := at_
        data := at_.map fun x => (x.1, (if amp then [BitVec.ofNat 32 (c.read .n32 f.c x.1)] else []) ++
          (if pop then [] else c.seen.words x.2 (len / 4)))
        op := .queue (op n) p }).advance c)

/-- A node queue (R375 to R378). A push of no record succeeds at once; one that the ring has no room for is refused and
counted; one with room writes its records, then `QTAIL`. A pop from an empty ring, or from one that the Wallower drains,
takes nothing. The Wallower's firing takes at most one team's records and puts one eligible grid of one team; a fault on its
read of `QTAIL` posts its event (R429). That the room is counted modulo 2^64 is log entry 51, and the ASID of the Wallower's
grid log entry 36. -/
def Obligations.NodeQueues : Prop :=
  (∀ (s : State) (pid n : Nat) (p : Partition) (x : Node), s.nodePush pid n p x [] = .ok (s, true)) ∧
  (∀ (s : State) (pid n : Nat) (p : Partition) (x : Node) (rs : List (List Byte)) (bs : List Byte), rs ≠ [] →
    s.schedRead p.vmid x.nasid (x.nbase + 8) 8 .windowRead = .bytes bs →
    x.ring < (2 ^ 64 + x.reserve + rs.length - leNat bs) % 2 ^ 64 →
    s.nodePush pid n p x rs =
      ((s.schedTouch p.vmid x.nasid (x.nbase + 8) 8).addOverflow pid n p x rs.length).map fun t => (t, false)) ∧
  (∀ (s t u : State) (pid n : Nat) (p : Partition) (x : Node) (rs : List (List Byte)) (bs : List Byte), rs ≠ [] →
    s.schedRead p.vmid x.nasid (x.nbase + 8) 8 .windowRead = .bytes bs →
    (2 ^ 64 + x.reserve + rs.length - leNat bs) % 2 ^ 64 ≤ x.ring →
    (s.schedTouch p.vmid x.nasid (x.nbase + 8) 8).writeRecords p.vmid x x.reserve rs = .done t →
    (t.modNode pid n fun y => { y with reserve := y.reserve + rs.length }).schedPut pid .queueError p.vmid x.nasid x.nbase
      (leBytes 8 (x.reserve + rs.length)) = .ok u →
    s.nodePush pid n p x rs = .ok (u, true)) ∧
  (∀ (s : State) (r : Runner) (n addr : Nat) (p : Partition) (x : Node), x.wl = true →
    s.nodePop r n p x addr = .ok (s, false)) ∧
  (∀ (s : State) (r : Runner) (n addr : Nat) (p : Partition) (x : Node) (bs : List Byte), x.wl = false →
    s.schedRead p.vmid x.nasid x.nbase 8 .windowRead = .bytes bs → leNat bs ≤ x.take →
    s.nodePop r n p x addr = .ok (s.schedTouch p.vmid x.nasid x.nbase 8, false)) ∧
  (∀ (s : State) (pid node va : Nat) (p : Partition) (x : Node) (kd : KDesc) (code : Code), s.part? pid = some p →
    p.node? node = some x → x.kd = some kd → x.wl = true →
    s.schedRead p.vmid x.nasid x.nbase 8 .windowRead = .fault code va →
    exec (.wallowerFire pid node) s = .next (s.schedFault pid .queueError x.nasid va)) ∧
  ∀ (s : State) (pid node : Nat) (p : Partition) (x : Node) (kd : KDesc) (bs : List Byte), s.part? pid = some p →
    p.node? node = some x → x.kd = some kd → s.schedRead p.vmid x.nasid x.nbase 8 .windowRead = .bytes bs → x.wl = true →
    x.take < leNat bs → (x.takes.filter fun t => !t.2.2).length < x.wmax →
    let k := min (leNat bs - x.take) (kd.ngang * kd.width)
    ∃ t g, exec (.wallowerFire pid node) s = .next t ∧ t.grid? s.next = some g ∧ g.st = .eligible ∧ g.lr.total = 1 ∧
      g.asid = x.nasid ∧ g.vmid = p.vmid ∧ g.node = some (node, x.take) ∧
      t.mem = (s.schedTouch p.vmid x.nasid x.nbase 8).mem ∧ t.cores = s.cores ∧
      ∃ p' x', t.part? pid = some p' ∧ Table.get? p'.nodes node = some x' ∧ x'.take = x.take + k ∧
        x'.takes = x.takes ++ [(s.next, x.take + k, false)]

/-- A grid on its way (R366, R370, R371, R392; a grid of status 4 that does not count as ended, one thing a QUEUE_ACCEPT and
the writes of a retirement in one step are log entry 37). An enabled queue with an accepted notice reads its tail; a grid with
no fence and no predicate becomes eligible; a grid whose teams have all retired makes its writes and is gone; and a partition
that makes no progress is reset by its watchdog. A partition reset leaves no team on its cores and none saved, ends every grid
of the partition with status 4 and the reset's code, and takes every queue back to `QHEAD` := `QDONE`, where it forgets the
parents that ended in it alone. -/
def Obligations.GridsComeAndGo : Prop :=
  (∀ (s : State) (pid n : Nat) (p : Partition), s.part? pid = some p → (p.queue n).enabled = true →
    (p.queue n).opened = true → (p.queue n).rewind = false →
    let u := s.watchQueue pid n p (p.queue n)
    ((p.queue n).head < (p.queue n).tail →
      exec (.queueAccept pid n) s = .next (u.acceptNext pid n p (p.queue n))) ∧
    (¬ (p.queue n).head < (p.queue n).tail → (p.queue n).notice = true → (p.queue n).lnch = false →
      exec (.queueAccept pid n) s = .next (u.readTail pid n p (p.queue n)))) ∧
  (∀ (s : State) (pid n : Nat) (p : Partition) (q : Queue) (bs : List Byte), s.part? pid = some p → p.queue n = q →
    s.schedRead p.vmid q.asid q.base 8 = .bytes bs → ∃ p', (s.readTail pid n p q).part? pid = some p' ∧
      (p'.queue n).tail = if q.head ≤ leNat bs ∧ leNat bs ≤ q.head + q.ring then leNat bs else q.tail) ∧
  (∀ (s : State) (grid : Nat) (g : Grid), s.grid? grid = some g → g.st = .accepted → g.lr.faddr = 0 → g.lr.occ = 0 →
    exec (.gridEligible grid) s = .next (s.modGrid grid fun g => { g with st := .eligible })) ∧
  (∀ (s t u v : State) (grid : Nat) (g : Grid), s.grid? grid = some g → s.gridOver grid g = true →
    s.completion g = .ok t →
    (match g.queue with
      | some (q, n) => if g.status = 4 then Except.ok t else t.recordEnded g.pid q n
      | none => .ok t) = .ok u →
    (match g.node with
      | some (n, _) => u.takeEnded g.pid n grid
      | none => .ok u) = .ok v →
    exec (.gridRetire grid) s =
      .next ((({ v with grids := Table.del v.grids grid } : State).unwatch g.watched).announce g)) ∧
  (∀ (g : Grid), g.statusWords.length = 4 ∧ (g.status < 256 → (nth g.statusWords 0 0) % 256 = g.status ∧
    (nth g.statusWords 0 0) / 2 ^ 32 = g.lr.gridid.toNat)) ∧
  (∀ (s : State) (pid : Nat) (p : Partition), s.part? pid = some p → p.wdlim ≠ 0 → p.paused = false →
    s.works pid p = true → exec (.watchdogExpire pid) s = .next (s.resetPartition pid (some .watchdog))) ∧
  ∀ (s : State) (pid : Nat) (code : Option Code) (p : Partition), s.part? pid = some p →
    let t := s.resetPartition pid code
    (∀ n g, t.grid? n = some g → g.pid = pid → g.status = 4 ∧ g.frec.code = code ∧ ∀ u ∈ g.unretired, u.2 = true) ∧
    (∀ c, p.holdsCore c = true → (t.core c).gangs = [] ∧ (t.core c).teams = []) ∧
    ∃ q, t.part? pid = some q ∧ q.frames = [] ∧ q.preempting = 0 ∧ ∀ n,
      (q.queue n).done = (p.queue n).done ∧ (q.queue n).head = (p.queue n).done ∧ (q.queue n).ended = [] ∧
      ∀ r x, Table.get? (q.queue n).parents r = some x → ∃ y, (r, y) ∈ (p.queue n).parents ∧
        x = y.filter fun w => (s.grid? w.grid).isNone

/-- A team on a core (R26, R160, R161, R180, R183, R185, R372, R373, R380, R381, R383). A grid that goes next has a team
admitted to a core that fits it, or with `PIN` all its teams to their cores; its gangs stand at the kernel's entry in slots
that were free; a team that is pre-empted, or parked with a reason to evict it, is written to a free frame of its partition
and leaves its core; a saved team returns from its frame's bytes to a core that fits it, its gangs in free slots with
`RESTORED` set, and one whose frame has a reserved bit set ends its grid with RESERVED_FIELD; and a gang with nothing left
retires: it leaves its slot, and with the team's last gang the team leaves its core. Which team goes next and what is a reason
are the model's readings (log entries 37, 61); the layout of a frame's bytes and their ASID are log entry 38, and when a saved
team is ready log entry 62. -/
def Obligations.TeamsComeAndGo : Prop :=
  (∀ (s : State) (grid core : Nat) (g : Grid) (p : Partition), s.grid? grid = some g →
    s.part? g.pid = some p → g.st = .eligible → g.nextTeam < g.lr.total → s.goesNext grid g = true →
    (∀ at_, g.lr.pin = false → s.takesTeams p core none = true → (s.core core).placeKernel g.kd = some at_ →
      exec (.teamAdmit grid core) s = .next ((s.admitTeam grid core at_).age grid)) ∧
    (g.lr.pin = true → s.canPlace p g = true → exec (.teamAdmit grid core) s = .next
      ((g.lr.pinCores.foldl (fun (u : State) c =>
        match (u.core c).placeKernel g.kd with
        | some at_ => u.admitTeam grid c at_
        | none => u) s).age grid))) ∧
  (∀ (s : State) (grid core : Nat) (at_ : Nat × Nat) (g : Grid), s.grid? grid = some g →
    let t := s.admitTeam grid core at_
    let slots := (s.core core).freeSlots.take g.kd.ngang
    (t.team? core s.next).isSome = true ∧
    (∀ n slot, slots[n]? = some slot → s.gang? core slot = none ∧ ∃ id y,
      y = launchGang s.next n g.kd.width g.kd.acc s.next (launchSub id g.kd.width g.kd.entry g.args) ∧
      t.gang? core slot = some { y with dbg := { y.dbg with halted := (s.core core).coreHalt } }) ∧
    (∀ slot, slot ∉ slots → t.gang? core slot = s.gang? core slot) ∧
    t.grid? grid = some { g with
      nextTeam := g.nextTeam + 1, unretired := g.unretired ++ [(s.next, false)], eff := g.prio, passes := 0 }) ∧
  (∀ (number width rows team order id entry : Nat) (args : List Word),
    let g := launchGang team number width rows order (launchSub id width entry args)
    g.slots = [] ∧ g.pending = [] ∧ (∀ k, g.counter k = 0) ∧ g.rm = 1 ∧ g.flags = 0 ∧ g.accBase = 0 ∧
    g.accLim = (if number = 0 then rows else 0) ∧
    ∃ b, g.subs = [b] ∧ b.pc = BitVec.ofNat 64 entry ∧ b.turn = 0 ∧ b.wb = 0 ∧ b.handler = none ∧
      (∀ i, i < 128 → (b.fibres.getLsbD i = true ↔ i < width)) ∧
      ∀ n, n < 64 → nth b.sregs n 0 = if n < 12 then nth args n 0 else 0) ∧
  (∀ (s u : State) (core team n : Nat) (t : Team) (g : Grid) (p : Partition), s.team? core team = some t →
    s.grid? t.grid = some g → s.part? g.pid = some p → t.killed = false → t.started = true → g.lr.prs = false →
    s.preempted g.pid core team p g = true ∨
      ((s.core core).evictable team = true ∧ s.evictReason g.pid core team p g = true) →
    let v := (s.withdraw core 0 team).withdraw core 1 team
    let f := v.frameOf core team t (if p.preempting.getLsbD (clusterOf core) then some (clusterOf core) else none)
    (v.core core).teamGangs team ≠ [] → v.settled core team = true → p.freeFrame (frameBytes t f.gangs) = some n →
    v.schedWrite p.vmid (Config.frameAsid g.pid % 2 ^ 16) (p.frameAt n) (frameImage (v.core core) t f.gangs g) = .done u →
    exec (.teamEvict core team) s = .next (u.saveTeam g.pid core team n f)) ∧
  (∀ (s : State) (pid core team n : Nat) (f : Frame) (p : Partition), s.part? pid = some p →
    let t := s.saveTeam pid core team n f
    (∃ q, t.part? pid = some q ∧ Table.get? q.frames n = some f) ∧ t.team? core team = none ∧
    (∀ x ∈ (t.core core).gangs, x.2.team ≠ team) ∧
    ∀ slot g, s.gang? core slot = some g → g.team ≠ team → t.gang? core slot = some g) ∧
  (∀ (s : State) (core team : Nat) (t : Team) (cut : Option Nat),
    (s.frameOf core team t cut).team = { t with stopping := false } ∧
    (s.frameOf core team t cut).gangs = ((s.core core).teamGangs team).map fun g =>
      { g.2 with pending := g.2.pending.map Pending.saved }) ∧
  (∀ (s : State) (core team : Nat) (t : Team) (g : Grid) (p : Partition), s.team? core team = some t →
    s.grid? t.grid = some g → s.part? g.pid = some p → g.lr.prs = true → s.yields g.pid core team p g = true →
    exec (.teamEvict core team) s = .next (s.modVis (clusterOf core) fun v => { v with gateClosed := true })) ∧
  (∀ (s : State) (pid n core : Nat) (p : Partition) (f : Frame) (at_ : Nat × Nat) (bs : List Byte), s.part? pid = some p →
    Table.get? p.frames n = some f → f.ready = true → s.higherWaits (s.frameClass f) = false →
    s.restoresTo p f core = true → (s.core core).placeFrame (f.fromBytes s.next bs) = some at_ →
    s.schedRead p.vmid (Config.frameAsid pid % 2 ^ 16) (p.frameAt n) (frameBytes f.team f.gangs) = .bytes bs →
    let t := s.schedTouch p.vmid (Config.frameAsid pid % 2 ^ 16) (p.frameAt n) (frameBytes f.team f.gangs)
    exec (.teamRestore pid n core) s = .next (if f.bytesOk bs = true then t.restoreTeam pid n core (f.fromBytes s.next bs) at_
      else t.killGrid f.team.grid { FaultRec.zero with code := some .reservedField } f.team.linear 0)) ∧
  (∀ (s : State) (pid n core : Nat) (p : Partition) (f : Frame) (at_ : Nat × Nat), s.part? pid = some p →
    let t := s.restoreTeam pid n core f at_
    t.team? core f.team.uid = some { f.team with scratchAt := at_.1, accAt := at_.2 } ∧
    (∃ q, t.part? pid = some q ∧ Table.get? q.frames n = none) ∧
    ∀ (i slot : Nat) (g : Gang), (s.core core).freeSlots[i]? = some slot → f.gangs[i]? = some g →
      t.gang? core slot = some { g.restore with dbg := { g.restore.dbg with
        halted := g.restore.dbg.halted || ((s.core core).coreHalt && !g.restore.subs.any SubGang.goesOn) } }) ∧
  (∀ g : Gang, g.restore.restored = true ∧
    g.restore.pending = (g.pending.map fun p => if g.reissues p then p.reissued else p) ∧
    { g.restore with restored := g.restored, slots := g.slots, counters := g.counters, pending := g.pending,
                     subs := g.subs } = g ∧
    ((∀ b ∈ g.subs, b.regPark? = none) → g.restore.slots = g.slots) ∧
    ((∀ p ∈ g.pending, p.counted = true) → g.restore.counters = g.counters)) ∧
  (∀ (s : State) (core slot : Nat) (g : Gang), s.gang? core slot = some g → g.subs = [] → g.dbg.halted = false →
    (∀ n ∈ g.counters, n = 0) → g.pending = [] →
    exec (.gangRetire core slot) s = .next ((s.dropGang core slot).registerDeadlock core)) ∧
  ∀ (s : State) (core slot : Nat) (g : Gang), s.gang? core slot = some g →
    let t := s.dropGang core slot
    let last := ∀ x ∈ (s.core core).gangs, x.2.team = g.team → x.1 = slot
    t.gang? core slot = none ∧ (∀ n, n ≠ slot → t.gang? core n = s.gang? core n) ∧
    (¬ last → t.team? core g.team = s.team? core g.team) ∧
    (last → (s.cluster (clusterOf core)).leat0.holds g.team = false →
      (s.cluster (clusterOf core)).leat1.holds g.team = false → t.team? core g.team = none)

/-! ### System instructions and exceptions -/

/-- The system instructions in system context (R388 to R391, R329 to R331): SYSRD and SYSWR act when their answer arrives, but
a register of the fibre is read at once; ERET takes the sub-gang back to its interrupted code, fibres of several handler
contexts each to their own (log entry 23 for these); the translation and cache instructions issue with their identity;
FIRMCALL parks its sub-gang at the clause boundary. When SYSRD and SYSWR act, and where `eret.skip` resumes, is log entry
46. -/
def Obligations.SystemInstructions : Prop :=
  (∀ (s : State) (c : Issuer) (f : YForm), c.grid.sys = true → c.OnceExecutes s (uDstS false f.d) .enc →
    (SubGang.owns f.sel.toNat = false → exec (.sysrd f) s = .next ((s.issue c .enc [] [] [sNum f.d] none c.sub.fibres
      fun p => { p with sent := false, op := .sysrd f.sel.toNat (sNum f.d) }).advance c)) ∧
    (SubGang.owns f.sel.toNat = true →
      exec (.sysrd f) s = .next (s.issueKnown c [(sNum f.d, c.sub.special f.sel.toNat)]))) ∧
  (∀ (s : State) (c : Issuer) (f : YForm), c.grid.sys = true → c.OnceExecutes s (opdS .n32 f.a) .enc →
    exec (.syswr f) s = .next ((s.issue c .enc [] [] [] none c.sub.fibres fun p =>
      { p with sent := false, op := .syswr f.sel.toNat (c.sreg (sNum f.a)) }).advance c)) ∧
  (∀ (s : State) (c : Issuer) (f : CForm), s.issuer = some c → c.sub.allHandler = true → c.CounterFree .enc →
    exec (.eret f) s = .next (s.eretTo c (fun h => (h.hret, h.inClause, false)) fun _ sub g => g.resumeSub sub) ∧
    exec (.eretSkip f) s = .next (s.eretTo c
      (fun h => match h.entry with
        | some _ => (h.hret, h.inClause, false)
        | none => (h.skip, h.skipTo.1, h.skipTo.2))
      fun h sub g => if h.entry.isSome then g.discardFaulted.resumeSub sub else g)) ∧
  (∀ (s : State) (c : Issuer) (m : Lanes) (h : Handler) (dest : Handler → DWord × Option (DWord × BitVec 56) × Bool)
      (k : Handler → Nat → Gang → Gang), c.sub.contexts = [(m, some h)] →
    s.eretTo c dest k = ((({ s with next := s.next + 1 }).modCore c.core fun k => k.setPipe c.pipe none).modGang c.core c.slot
      fun g => (k h c.sub.id (g.replaceSub c.sub.id [c.sub])).leaveHandler c.sub h (dest h).1 (dest h).2.1
        ((dest h).2.2 || headerPark c.clause.header)).boundary c.core c.slot c.sub.id) ∧
  (∀ (b : SubGang) (n : Nat), 1 < b.contexts.length → (∀ x ∈ b.contexts, x.2.isSome = true) →
    (b.perContext n).length = b.contexts.length ∧
    ∀ (i : Nat) (m : Lanes) (h : Handler), b.contexts[i]? = some (m, some h) → (b.perContext n)[i]? = some
      ({ b with id := n + i, anc := (n + i) :: b.anc, fibres := m, handler := some h, others := [] }, h)) ∧
  (∀ (s : State) (c : Issuer) (f : CForm), c.OnceExecutes s (vRun (sNum f.a) 4) .enc →
    exec (.firmcall f) s = .next (((s.issue c .enc [] [] (vRun (sNum f.a) 4) none c.sub.fibres fun p =>
      { p with
        sent := false
        op := .firmcall (bitsOf f.imm.toNat 23 0) ((vRun (sNum f.a) 3).map c.sreg) }).waitFor c s.next).advance c)) ∧
  (∀ (s : State) (c : Issuer) (f : EForm),
    let n := sNum f.a
    let va := c.spair n
    let id := identity (c.sreg (n + 2))
    let w := (c.sreg (n + 3)).toNat
    let stop := va + 65536 * bitsOf w 31 16
    c.grid.sys = true → c.OnceExecutes s (vRun n 4) .enc → c.Quiet → id.2.2 = true → bitsOf w 15 12 = 0 →
    (attrOf (bitsOf w 1 0) = .ip → s.coreOfVm id.1 (bitsOf w 11 2) = true) → va % 65536 = 0 → va < 2 ^ 56 →
    stop ≤ 2 ^ 56 →
    exec (.attrset f) s =
      .next (s.issueSystem c (.attrset id.1 id.2.1 va stop (bitsOf w 11 2) (attrOf (bitsOf w 1 0))))) ∧
  (∀ (s : State) (c : Issuer) (f : EForm),
    let va := c.spair (sNum f.a)
    let units := (c.sreg (sNum f.b)).toNat
    let id := identity (c.sreg (sNum f.c))
    c.grid.sys = true → c.Quiet →
    (f.sub = 0 → c.OnceExecutes s (vRun (sNum f.a) 2 ++ opdS .n32 f.b ++ opdS .n32 f.c) .enc → id.2.2 = true →
      va % 65536 = 0 → va < 2 ^ 56 → va + 65536 * units ≤ 2 ^ 56 →
      exec (.tlbshoot f) s = .next (s.issueSystem c (.tlbshoot 0 va units id.1 id.2.1))) ∧
    (f.sub = 1 ∨ f.sub = 2 → c.OnceExecutes s (opdS .n32 f.c) .enc → id.2.2 = true →
      exec (.tlbshoot f) s = .next (s.issueSystem c (.tlbshoot f.sub.toNat 0 0 id.1 id.2.1))) ∧
    (f.sub = 3 → c.OnceExecutes s [] .enc →
      exec (.tlbshoot f) s = .next (s.issueSystem c (.tlbshoot 3 0 0 0 0)))) ∧
  ∀ (s : State) (c : Issuer) (f : EForm),
    let va := c.spair (sNum f.a)
    let lines := (c.sreg (sNum f.b)).toNat
    let id := identity (c.sreg (sNum f.c))
    c.grid.sys = true → c.OnceExecutes s (vRun (sNum f.a) 2 ++ opdS .n32 f.b ++ opdS .n32 f.c) .enc → c.Quiet →
    id.2.2 = true → va % 128 = 0 → va < 2 ^ 56 → va + 128 * lines ≤ 2 ^ 56 →
    exec (.cacheopWb f) s = .next (s.issueSystem c (.cacheop 0 va lines id.1 id.2.1)) ∧
    exec (.cacheopInv f) s = .next (s.issueSystem c (.cacheop 1 va lines id.1 id.2.1)) ∧
    exec (.cacheopDiscard f) s = .next (s.issueSystem c (.cacheop 2 va lines id.1 id.2.1)) ∧
    exec (.cacheopIinv f) s = .next (s.issueSystem c (.cacheop 3 va lines id.1 id.2.1)) ∧
    exec (.cacheopClrlost f) s = .next (s.issueSystem c (.cacheop 4 va lines id.1 id.2.1))

/-- What the system requests do (R232, R325, R330, R331, R390, R391). A SYSRD's answer is the register as it then stands; a
SYSWR changes it; FIRMCALL's service 0 sets `RM` from 1 to 4 and answers 1 for any other mode; a shoot-down drops every TLB
entry that it matches and no other; the instruction-fetch copies of a CACHEOP `.iinv` go from every core of the VM's
partition; and a page of an ATTRSET takes its new attribute in its leaf. That SYSRD and SYSWR act when their answer arrives,
that a shoot-down is one step and that ATTRSET changes one page a step are log entry 46. -/
def Obligations.SystemRequestsAct : Prop :=
  (∀ (s : State) (r : Runner) (p : Pending) (sel d : Nat) (part : Option Nat) (b : SubGang), s.Outstanding r p →
    p.op = .sysrd sel d → p.going = true →
    let u := s.tick r.core sel
    (r.gang.subs.find? (fun x => x.anc.contains p.sub) = some b → exec (.longResultArrive r.core r.slot p.id part) s =
      .next ((u.afterRead r.core r.slot sel).deliver r.core r.slot p.id
        { Out.none with sregs := [(d, u.special r.core r.gang b r.team r.grid sel)] })) ∧
    (r.gang.subs.find? (fun x => x.anc.contains p.sub) = none → exec (.longResultArrive r.core r.slot p.id part) s =
      .next ((u.afterRead r.core r.slot sel).deliver r.core r.slot p.id Out.none))) ∧
  (∀ (s : State) (r : Runner) (p : Pending) (sel : Nat) (w : Word) (part : Option Nat), s.Outstanding r p →
    p.op = .syswr sel w → p.going = true →
    exec (.longResultArrive r.core r.slot p.id part) s =
      .next ((s.writeSpecial r.core r.slot r.grid.pid sel w).deliver r.core r.slot p.id Out.none)) ∧
  (∀ (s : State) (core slot pid : Nat) (w : Word) (g : Gang), s.gang? core slot = some g →
    (s.writeSpecial core slot pid 0x41 w).gang? core slot = some
      (if 1 ≤ w.toNat % 8 ∧ w.toNat % 8 ≤ 4 then { g with rm := BitVec.ofNat 3 w.toNat } else g) ∧
    ∀ sel, sel < 0x400 → sel ≠ 0x41 → s.writeSpecial core slot pid sel w = s) ∧
  (∀ (s : State) (r : Runner) (p : Pending) (n : Nat) (args : List Word) (r0 r1 r2 r3 : Word), s.Outstanding r p →
    r.gang.pending.find? (fun q => q.sub == p.sub && (match q.op with
      | .firmcall .. => true
      | _ => false)) = some p → p.op = .firmcall n args →
    let x := s.service r.core r.slot r n args [r0, r1, r2, r3]
    exec (.firmcallReturn r.core r.slot p.sub r0 r1 r2 r3) s =
      .next (x.1.deliver r.core r.slot p.id { Out.none with sregs := p.sdst.zip x.2 }) ∧
    (n = 0 → x.2 = [if 1 ≤ (nth args 0 0).toNat ∧ (nth args 0 0).toNat ≤ 4 then 0 else 1]) ∧
    (2 ≤ n → n < 0x800000 → x = (s, [0xFFFFFFFF]))) ∧
  (∀ (s : State) (r : Runner) (p : Pending) (sub va units vmid asid : Nat),
    (s.passedOn fun _ v a x => shootMatches sub va units vmid asid v a (x / 65536 * 65536)) = false →
    ∃ u : State, s.tlbshootArrive r p sub va units vmid asid = u.deliver r.core r.slot p.id Out.none ∧
      u.cores = s.cores ∧ u.mem.hbm = s.mem.hbm ∧
      ∀ e, e ∈ u.mem.tlb ↔ e ∈ s.mem.tlb ∧ e.shot sub va units vmid asid = false) ∧
  (∀ (s : State) (vmid asid first n core pid : Nat) (p : Partition), s.partOfVm vmid = some (pid, p) →
    p.cmask.getLsbD (clusterOf core) = true → ∀ x ∈ ((s.dropFetched vmid asid first n).core core).fetched,
      ¬(x.tag = tagOf vmid asid ∧ first ≤ x.line ∧ x.line < first + n)) ∧
  (∀ (s : State) (r : Runner) (p : Pending) (vmid asid va stop owner e pa frame : Nat) (attr : Attr) (big : Bool),
    s.Outstanding r p → p.op = .request (.attrset vmid asid va stop owner attr) → p.st = .pending → va < stop →
    s.blocked r p [] = false → s.walk vmid asid va = .leaf e pa frame big →
    let bytes := if big then 2 ^ 26 else 65536
    let start := va / bytes * bytes
    let base := frame - (va - start) / 65536
    s.pageBusy (tagOf vmid asid) start bytes base = false →
    (s.passedOn fun _ v a x => v == vmid && a == asid && decide (start ≤ x) && decide (x < start + bytes)) = false →
    let u := s.pageChange vmid asid start bytes e pa base attr owner
    exec (.attrsetPageComplete r.core r.slot p.id) s = .next
      (if stop ≤ start + bytes then u.deliver r.core r.slot p.id Out.none
       else u.modGang r.core r.slot fun g => g.modPending p.id fun q =>
         { q with op := .request (.attrset vmid asid (start + bytes) stop owner attr) })) ∧
  ∀ (e owner : Nat) (attr : Attr), e < 2 ^ 64 → owner < 2 ^ 10 →
    attrOf (bitsOf (leafWith e attr owner) 62 61) = attr ∧ bitsOf (leafWith e attr owner) 15 6 = owner ∧
    bitsOf (leafWith e attr owner) 60 16 = bitsOf e 60 16 ∧ (leafWith e attr owner).testBit 63 = e.testBit 63

/-- Privilege (R43, R388, R389). In a grid that is not in system context, SYSRD, SYSWR, ATTRSET, TLBSHOOT and every CACHEOP take
PRIV and change no other state; ERET outside handler context takes PRIV too. The static checks refuse the privileged
words of such a clause before any of it runs. -/
def Obligations.PrivilegedInstructionsFault : Prop :=
  (∀ (s : State) (c : Issuer), s.issuer = some c → c.grid.sys = false → ∀ i : Instr,
    ((∃ f, i = .sysrd f) ∨ (∃ f, i = .syswr f) ∨ (∃ f, i = .attrset f) ∨ (∃ f, i = .tlbshoot f) ∨
      (∃ f, i = .cacheopWb f) ∨ (∃ f, i = .cacheopInv f) ∨ (∃ f, i = .cacheopDiscard f) ∨ (∃ f, i = .cacheopIinv f) ∨
      (∃ f, i = .cacheopClrlost f)) →
    exec i s = .next (s.faultHere c (c.record .priv c.sub.fibres 0 0))) ∧
  (∀ (s : State) (c : Issuer) (f : CForm), s.issuer = some c → c.sub.allHandler = false →
    exec (.eret f) s = .next (s.faultHere c (c.record .priv c.sub.fibres 0 0)) ∧
    exec (.eretSkip f) s = .next (s.faultHere c (c.record .priv c.sub.fibres 0 0))) ∧
  ∀ (g : Gang) (b : SubGang) (t : Team) (gr : Grid) (cls count i : Nat) (w : DWord), gr.sys = false →
    opByte w ∈ [0xE0, 0xE1, 0xE3, 0xE4, 0xE5] → wordFault g b t gr cls count i w = some .priv

/-- Taking a fault (R386, R387). The gang writes its record whatever follows, the sub-gang's pipe is free, and the gang then
stands at a boundary. With disposition RESOLVE the sub-gang parks where it stopped; with HANDLER and a handler address,
outside handler context and within the windows, it enters the handler: `HRET` holds where it stopped, the predicates of its
fibres are saved, WB moves by 8 × `HWS` and PC is the handler; otherwise, and with KILL, the grid ends with status 3 and the
record. A code's disposition is `FDISP`'s, or R385's default where its field is 0. -/
def Obligations.FaultsAreTaken : Prop :=
  (∀ (s : State) (core slot sub : Nat) (fr : FaultRec) (place : StopAt) (g : Gang), s.gang? core slot = some g →
    ∃ u : State, u.gang? core slot = some { g with frec := fr } ∧ u.grids = s.grids ∧ u.parts = s.parts ∧
      (fr.code ≠ some .hostOwned → u.mem = s.mem) ∧ (∀ n cl, (u.core core).pipe? n = some cl →
        (s.core core).pipe? n = some cl ∧ ¬(cl.gang = slot ∧ cl.sub = sub)) ∧
      s.takeFault core slot sub fr place = (u.dispose core slot sub (match fr.code with
        | some code => u.gangDisposition core slot code
        | none => .kill) fr place).boundary core slot sub) ∧
  (∀ (s : State) (core slot sub : Nat) (fr : FaultRec) (place : StopAt) (g : Gang) (t : Team) (gr : Grid) (b : SubGang),
    s.gang? core slot = some g → s.team? core g.team = some t → s.grid? t.grid = some gr → g.sub? sub = some b →
    (fr.code ≠ some .debug → ∃ x c, (s.dispose core slot sub .resolve fr place).gang? core slot = some x ∧
        x.sub? sub = some c ∧
        c = { b with park := .fault place.entry fr, pc := place.pc, inClause := place.inClause }) ∧
    (gr.kd.handler ≠ 0 → b.inHandler = false → b.wb.toNat + 8 * gr.kd.hws ≤ 1016 → ∃ x c,
      (s.dispose core slot sub .handler fr place).gang? core slot = some x ∧ x.sub? sub = some c ∧
      c.pc = BitVec.ofNat 64 gr.kd.handler ∧ c.wb = b.wb + BitVec.ofNat 10 (8 * gr.kd.hws) ∧ c.park = .run ∧
      c.inClause = none ∧ c.fibres = b.fibres ∧ c.sregs = b.sregs ∧
      c.handler = some { since := s.next, hret := place.pc, skip := skipPoint place fr, wb := b.wb, entry := place.entry,
                         inClause := place.inClause } ∧
      ∀ p, p < 7 → nth x.handlerPreds p 0 &&& b.fibres = nth g.preds p 0 &&& b.fibres) ∧
    (gr.kd.handler = 0 ∨ b.inHandler = true ∨ 1016 < b.wb.toNat + 8 * gr.kd.hws →
      s.dispose core slot sub .handler fr place = s.killGrid t.grid fr t.linear g.number) ∧
    s.dispose core slot sub .kill fr place = s.killGrid t.grid fr t.linear g.number) ∧
  (∀ (p : Partition) (code : Code), let v := bitsOf p.fdisp.toNat (2 * codeNum code + 1) (2 * codeNum code)
    p.disposition code = if v = 1 then .resolve else if v = 2 then .handler else if v = 3 then .kill
      else defaultDisposition code) ∧
  ∀ (s : State) (core slot sub : Nat) (g : Gang) (b : SubGang) (entry : Option Nat) (fr : FaultRec),
    s.savedSub sub = none → s.gang? core slot = some g → g.sub? sub = some b → b.park = .fault entry fr →
    exec (.faultResolveResume core slot sub .decline) s = .next (s.dispose core slot sub .handler fr
      { pc := b.pc, inClause := b.inClause, entry := entry })

/-- An ERET ends handler context (R387, R388): the sub-gang's PC and WB are those of the interrupted code, its predicates
in its own lanes are the saved ones, and other lanes' predicates stay. -/
def Obligations.HandlersReturn : Prop :=
  ∀ (g : Gang) (b : SubGang) (h : Handler) (pc : DWord) (ic : Option (DWord × BitVec 56)) (park : Bool),
    g.sub? b.id = some b → ∃ c, (g.leaveHandler b h pc ic park).sub? b.id = some c ∧ c.pc = pc ∧ c.wb = h.wb ∧
      c.handler = none ∧ c.inClause = ic ∧ c.fibres = b.fibres ∧ c.sregs = b.sregs ∧
      (∀ p, p < 7 → nth (g.leaveHandler b h pc ic park).preds p 0 =
        (nth g.preds p 0 &&& ~~~b.fibres) ||| (nth g.handlerPreds p 0 &&& b.fibres)) ∧
      (g.leaveHandler b h pc ic park).slots = g.slots ∧ (g.leaveHandler b h pc ic park).pending = g.pending


/-! ### Clauses that issue -/

/-- A free pipe takes a clause (R20, R23, R24, R34, R49, R122, R165): the core's chosen gang issues its chosen sub-gang, one
passed over 64 times first and then the least PC of those that have not yielded; the sub-gangs that rejoin there merge into
it; and the pipe holds the checked clause from its first word. A `PARK` bit's park ends with the gang's counters at zero
(behind a fault of the gang that is reported and unresolved the sub-gang then parks, R211), and the oldest register park of a
core when the pool holds what it needs, which it then takes (log entry 56). -/
def Obligations.ClausesIssueAndParksEnd : Prop :=
  (∀ (s : State) (core pipe slot : Nat) (r : Runner) (b : SubGang), pipe < 2 → (s.core core).pipe? pipe = none →
    let u := s.markStepped core
    let v := u.countGangs core slot
    let ready := r.gang.subs.filter (v.ready r)
    let g := r.gang.countSubs ready b.id
    u.chooseGang core = some slot → v.runner? core slot = some r → chooseSub ready = some b →
    exec (.clauseIssue core pipe) s = .next ((v.setGang core slot g).goOn { r with gang := g } pipe b)) ∧
  (∀ (ready : List SubGang) (b : SubGang), chooseSub ready = some b → b ∈ ready ∧
    ((∃ x ∈ ready, 64 ≤ x.passOver) → 64 ≤ b.passOver) ∧
    ((∀ x ∈ ready, x.passOver < 64) → ((∃ x ∈ ready, x.yielded = false) → b.yielded = false) ∧
      ∀ x ∈ ready, x.yielded = b.yielded → b.pc ≤ x.pc)) ∧
  (∀ (g : Gang) (b : SubGang) (join : Bool), ∃ (rest : List SubGang) (m : SubGang),
    (g.merge b join).subs = rest ++ [m] ∧ m.id = b.id ∧ m.pc = b.pc ∧ m.wb = b.wb ∧
    m.turn = (if join then 0 else b.turn) ∧ (∀ x ∈ rest, x ∈ g.subs ∧ x.id ≠ b.id) ∧
    ∀ i, m.fibres.getLsbD i = true ↔ ∃ x ∈ g.subs,
      (x.id = b.id ∨ (x.free = true ∧ x.inClause = none ∧ sameKey join b x = true)) ∧ x.fibres.getLsbD i = true) ∧
  (∀ (s : State) (r : Runner) (pipe : Nat) (b : SubGang) (h : DWord) (ws : List DWord), pipe < 2 →
    ((s.startClause r pipe b h ws).core r.core).pipe? pipe = some
      { gang := r.slot, sub := b.id, header := h, haddr := b.pc.setWidth 56, words := ws, idx := 0 }) ∧
  (∀ (s : State) (r : Runner) (b : SubGang), s.runner? r.core r.slot = some r → r.gang.sub? b.id = some b →
    b.park = .parkBit → (∀ n ∈ r.gang.counters, n = 0) → r.gang.oldestFault = none →
    let u := s.modGang r.core r.slot fun g => g.modSub b.id fun x => { x with park := .run }
    (r.gang.faultUnresolved = false ∨ b.inReport = true → exec (.parkRelease r.core r.slot b.id) s = .next u) ∧
    (r.gang.faultUnresolved = true → b.inReport = false → exec (.parkRelease r.core r.slot b.id) s =
      .next (u.parkBehind r.core r.slot b.id { pc := b.pc, inClause := b.inClause, entry := none }))) ∧
  (∀ (s : State) (r : Runner) (pipe : Nat) (b : SubGang) (h : DWord) (ws : List DWord), s.checkClause r b = .good h ws →
    r.gang.broken (s.core r.core) (s.gangDisposition r.core r.slot .debug == .resolve) = [] →
    let m := r.gang.merged b (headerJoin h)
    boundaryReports r m h = false → s.issueClause r pipe b =
      ({ s.setGang r.core r.slot (r.gang.merge b (headerJoin h)) with free := s.free + 1 }).startClause r pipe m h ws) ∧
  (∀ k : Core, match k.oldestPark with
    | none => k.regParks = []
    | some x => x ∈ k.regParks ∧ ∀ y ∈ k.regParks, x.1 ≤ y.1) ∧
  ∀ (s : State) (core slot order need : Nat) (slots : List Nat) (b : SubGang),
    (s.core core).oldestPark = some (order, need, slot, b) → b.park = .register order slots →
    exec (.registerParkRelease core) s = .next (if (s.core core).regFree < need then s.registerDeadlock core
      else s.modGang core slot fun g => ((slots.filter fun d => (Table.get? g.slots d).isNone).foldl
        (fun g d => g.writeSlot d []) g).modSub b.id fun b => { b with park := .run })

/-! ### The host, resets and errors -/

/-- Starts and resets (R236, R392, R395, R397, R403 to R407). A cold reset starts at stage 0 with host memory and the boot
record alone; a stage completes, stages 2 and 3 as their images verify, stage 2 with the image's body placed at its load
address; a start that hangs fails with cause 7 and its stage, counts, and turns to the other slot; a host reset restarts at
stage 4 with device memory intact; a partition reset clears the partition's cores and clusters. What each start clears, that
minimal-mode failures count and turn the slot, and that ports train at the end of stage 4 are log entry 42; that the L1s keep
their lines over a partition reset is log entry 39. -/
def Obligations.StartsAndResets : Prop :=
  (∀ s : State, ∃ t, exec .coldReset s = .next t ∧ t.cores = [] ∧ t.clusters = [] ∧ t.parts = [] ∧ t.grids = [] ∧
    t.fabric = State.reset.fabric ∧ t.pkg = { State.reset.pkg with hot := s.pkg.hot } ∧ t.mem.l2 = [] ∧ t.mem.tlb = [] ∧
    t.boot.stage = 0 ∧
    t.boot.cause = 0 ∧ t.boot.detail = 0 ∧ t.boot.stopped = false ∧ t.boot.slot = s.boot.preferred ∧
    t.boot.fails = s.boot.fails ∧ t.boot.fusedSvn = s.boot.fusedSvn ∧
    (t.boot.minimal = true ↔ s.boot.minimal = true ∨ s.boot.fails = 3) ∧
    ∀ x, x ∈ t.mem.hbm ↔ x ∈ s.mem.hbm ∧ isHostPa x.1 = true) ∧
  (∀ s : State, s.boot.stopped = false →
    (s.boot.stage < 2 → exec (.startStageComplete none) s =
      .next { s with boot := { s.boot with stage := s.boot.stage + 1 } }) ∧
    (s.boot.stage = 2 → exec (.startStageComplete none) s = .next (match s.boot.choose with
      | none => s.failStart 2 0
      | some slot => s.loadImage slot)) ∧
    (s.boot.stage = 3 → exec (.startStageComplete none) s = .next (match s.boot.check with
      | .error cause => s.failStart cause 0
      | .ok svn => { s with boot := { s.boot with stage := 4, runningSvn := svn } })) ∧
    (s.boot.stage = 4 → ∃ t, exec (.startStageComplete none) s = .next t ∧ t.boot = { s.boot with stage := 5 } ∧
      t.mem = s.mem ∧ (s.boot.minimal = false → ∀ n, n < 36 → (Table.getD t.fabric.ports n Port.reset).st = 1)) ∧
    (s.boot.stage = 5 → ∃ t, exec (.startStageComplete none) s = .next t ∧ t.boot.stage = 6 ∧
      t.boot.fails = (if s.boot.minimal = true then 3 else 0) ∧ t.mem = s.mem)) ∧
  (∀ (s : State) (slot : Bool) (i : Image), s.boot.image slot = some i → (i.map fun x => x.1).Nodup →
    let t := s.loadImage slot
    let load := leNat (i.bytes 24 8)
    let size := leNat (i.bytes 16 8)
    t.boot = { s.boot with stage := s.boot.stage + 1, slot := slot, entry := leNat (i.bytes 32 8) } ∧
    (∀ k b, (512 + k, b) ∈ i → k < size → load + k < s.deviceBytes → Memory.read t.mem.hbm (load + k) = b) ∧
    (∀ a, a < load ∨ load + size ≤ a → Memory.read t.mem.hbm a = Memory.read s.mem.hbm a) ∧
    t.mem = { s.mem with hbm := t.mem.hbm }) ∧
  (∀ s : State, s.boot.stage < 6 → s.boot.stopped = false → ∃ t, exec .startWatchdogExpire s = .next t ∧
    t.boot.cause = 7 ∧ t.boot.detail.toNat = s.boot.stage ∧ t.boot.fails = min 3 (s.boot.fails + 1) ∧
    t.boot.preferred = !s.boot.slot ∧ (s.boot.minimal = true → t.boot.stopped = true ∧ t.boot.stage = s.boot.stage) ∧
    (s.boot.minimal = false → t.boot.stage = 0 ∧ t.boot.slot = !s.boot.slot)) ∧
  (∀ s : State, 4 ≤ s.boot.stage → s.boot.stopped = false → ∃ t, exec .hostReset s = .next t ∧
    t.boot = { s.boot with stage := 4, cause := 0, detail := 0 } ∧ t.cores = [] ∧ t.clusters = [] ∧ t.parts = [] ∧
    t.grids = [] ∧ t.mem.hbm = s.mem.hbm ∧ t.mem.lines = s.mem.lines) ∧
  (∀ (s : State) (vf : Nat), (∀ x ∈ s.parts, x.2.spect ≠ vf) → exec (.vfFlr vf) s = .next s) ∧
  (∀ (s : State) (vf : Nat), s.boot.minimal = true → exec (.vfFlr vf) s = .next s) ∧
  (∀ (s : State) (pid vf : Nat) (p : Partition), s.boot.minimal = false → s.parts = [(pid, p)] → p.spect = vf →
    exec (.vfFlr vf) s = .next (p.queues.foldl (fun (u : State) (q : Nat × Queue) => u.disableQueue pid q.1)
      (s.resetPartition pid none))) ∧
  (∀ (s : State) (p : Partition),
    (∀ k, p.holdsCore k = true → ((s.stopUnits p).core k).gangs = [] ∧ ((s.stopUnits p).core k).teams = [] ∧
      ((s.stopUnits p).core k).pipe0 = none ∧ ((s.stopUnits p).core k).pipe1 = none ∧
      ((s.stopUnits p).core k).l1 = (s.core k).l1) ∧
    (∀ k, p.holdsCore k = false → (s.stopUnits p).core k = s.core k) ∧
    ∀ k, (s.stopUnits p).cluster k = if p.cmask.getLsbD k then Cluster.reset else s.cluster k) ∧
  (∀ s : State, ∃ t, exec .thermalTrip s = .next t ∧ t.pkg.hot = true) ∧
  ∀ s : State, exec .thermalTripClear s = .next { s with pkg := { s.pkg with hot := false } }

/-- Errors and the host's accesses (R175, R229, R236, R308, R327, R397). An SRAM error is counted; one in the scratchpad
poisons its granule, a dirty L1 copy is lost and a clean one dropped, and one elsewhere resets the partition. A dirty L2 line
or a line of memory is lost, a clean L2 line is read again, and the die counts the error. The lines of a failed die link are
lost, their transactions end, and every partition that holds an ASID of one of them, or had a message on one, is reset. Of a
host-owned frame the host's reads and writes perform; of a device-owned one a read gives poison, a write is discarded, and
both are logged; of an IP page both are refused with IP_OWNER. Which lines a link failure takes, and that the event names them, is
log entry 40; that a read of a lost line or beyond the window gives poison with no log, log entry 41. -/
def Obligations.ErrorsAndHostAccesses : Prop :=
  (∀ (s : State) (core team n : Nat) (t : Team), s.team? core team = some t → 16 * n < t.scratchBytes →
    ∃ u, exec (.sramUncorrectable core (.scratch team n)) s = .next u ∧
      u.team? core team = some (t.setGranule n .poison) ∧ (u.core core).sramerr = satAdd (s.core core).sramerr) ∧
  (∀ (s : State) (core tag line : Nat) (x : L1Line), (s.core core).l1? tag line = some x →
    ∃ u, exec (.sramUncorrectable core (.l1 tag line)) s = .next u ∧ u.mem.hbm = s.mem.hbm ∧
      (u.core core).l1? tag line = if x.leavesDirty = true then some { x with lost := true } else none) ∧
  (∀ (s : State) (core pid : Nat) (p : Partition) (site : SramSite), s.partOfCluster (clusterOf core) = some (pid, p) →
    site = .register ∨ site = .accRow ∨ site = .codebook →
    exec (.sramUncorrectable core site) s =
      .next ((s.modCore core fun k => k.countErrors 1).resetPartition pid none)) ∧
  (∀ (s : State) (pline : Nat), 128 * pline < s.deviceBytes → ∃ u, exec (.l2Uncorrectable (.hbm pline)) s = .next u ∧
    (u.lineMeta pline).lost = true ∧ (∀ a, a / 128 ≠ pline → Memory.read u.mem.hbm a = Memory.read s.mem.hbm a) ∧
    Table.getD u.mem.errors (physSlice pline / 128) 0 = Table.getD s.mem.errors (physSlice pline / 128) 0 + 1) ∧
  (∀ (s : State) (x : L2Line), s.mem.l2.find? (fun y => y.tag == x.tag && y.line == x.line) = some x →
    x.remote = false → ∃ u, exec (.l2Uncorrectable (.l2 x.tag x.line)) s = .next u ∧ u.mem.hbm = s.mem.hbm ∧
      Table.getD u.mem.errors (x.slice / 128) 0 = Table.getD s.mem.errors (x.slice / 128) 0 + 1 ∧
      (x.dirty = true → (u.lineMeta x.pline).lost = true) ∧
      (x.dirty = false → u.mem.lines = s.mem.lines ∧ u.mem.l2.find? (fun y => y.tag == x.tag && y.line == x.line) =
        some { x with data := Memory.readN s.mem.hbm (128 * x.pline) 128 })) ∧
  (∀ (s : State) (a b : Nat) (lines : List (Nat × Nat)), a < b → b < 4 → (a, b) ∉ s.mem.failedLinks →
    (∀ p ∈ s.parts, ∀ l ∈ lines, s.hasAsid p.2 l.1 = false ∧ s.hasMessage p.2 l.1 l.2 = false) →
    ∃ u, exec (.dieLinkFail a b lines) s = .next u ∧
    u.mem.failedLinks = s.mem.failedLinks ++ [(a, b)] ∧ u.mem.hbm = s.mem.hbm ∧
    (∀ l ∈ lines, ∀ t ∈ u.mem.txns, t.tag % 2 ^ 20 = l.1 → t.line ≠ l.2) ∧
    ∀ l ∈ lines, ∀ x ∈ s.mem.l2, x.tag % 2 ^ 20 = l.1 → x.tag ≠ physAsid → x.line = l.2 → x.remote = false →
      (u.lineMeta x.pline).lost = true) ∧
  (∀ (s : State) (a b : Nat) (lines : List (Nat × Nat)), a < b → b < 4 → (a, b) ∉ s.mem.failedLinks →
    let failed := s.modMem fun m => { m with failedLinks := m.failedLinks ++ [(a, b)] }
    let cut := lines.foldl (fun (u : State) l => u.cutLine l.1 l.2) failed
    ∃ hit : List Nat, exec (.dieLinkFail a b lines) s =
        .next (hit.foldl (fun (u : State) pid => u.resetPartition pid (some .lineLost)) cut) ∧
      ∀ pid, pid ∈ hit ↔ ∃ p, (pid, p) ∈ s.parts ∧
        ∃ l ∈ lines, s.hasAsid p l.1 = true ∨ s.hasMessage p l.1 l.2 = true) ∧
  ∀ (s : State) (pa : Nat) (bs : List Byte), bs ≠ [] → pa % 128 + bs.length ≤ 128 →
    let home := s.hdmMaps pa bs.length = true
    let host := (s.frameBits (pa / 65536)).host
    let lost := (s.lineMeta (pa / 128)).lost
    let ip := s.ipLine (pa / 128) = true
    let read := exec (.hostMemAccess pa bs.length none) s
    (¬ home → read = .next (s.hostAnswer (poisoned pa none)) ∧
      exec (.hostMemAccess pa bs.length (some bs)) s = .next s) ∧
    (home → host = true → ¬ ip → lost = false → (∀ x ∈ s.mem.l2, x.pline ≠ pa / 128) → ∃ u,
      exec (.hostMemAccess pa bs.length (some bs)) s = .next u ∧
      ∀ a, Memory.read u.mem.hbm a =
        if pa ≤ a ∧ a < pa + bs.length then nth bs (a - pa) 0 else Memory.read s.mem.hbm a) ∧
    (home → host = true → ¬ ip → lost = false →
      (∀ x ∈ s.mem.l2, x.pline = pa / 128 → s.txn? x.tag x.line = none ∧ x.dir.st ≠ .en) →
      read = .next ((s.touchPline (pa / 128)).hostAnswer
        { pa := pa
          data := slice (s.performedLine (pa / 128)) (pa % 128) bs.length
          poison := false
          code := none })) ∧
    (home → host = true → ∀ w : Option (List Byte), (w = none ∨ w = some bs) →
      (¬ ip → lost = true →
        exec (.hostMemAccess pa bs.length w) s = .next (s.hostAnswer (poisoned pa (some .lineLost)))) ∧
      (ip → exec (.hostMemAccess pa bs.length w) s = .next (s.hostAnswer (poisoned pa (some .ipOwner))))) ∧
    (home → host = false → ∀ w : Option (List Byte), (w = none ∨ w = some bs) → ∃ u,
      exec (.hostMemAccess pa bs.length w) s = .next u ∧ u.cores = s.cores ∧ u.mem.l2 = s.mem.l2 ∧
      (∀ a, a < 2 ^ 51 → Memory.read u.mem.hbm a = Memory.read s.mem.hbm a) ∧
      u.pkg.hvValid = true ∧ u.pkg.hvCount = satAdd s.pkg.hvCount ∧
      (s.pkg.hvValid = false → u.pkg.hvAddr = pa ∧ u.pkg.hvWr = w.isSome) ∧
      (w = none → ∃ code, u.pkg.hostReply = some (poisoned pa code)) ∧
      (ip → u.pkg.hostReply = some (poisoned pa (some .ipOwner))))

/-- The mailbox (R398 to R400). Ringing an empty mailbox with a known opcode puts its command last in line, and an unknown
one answers 1; a command that a function may not issue answers 2, one before its stage 4, and one whose operands are
refused 3. Every command that is accepted acts and completes with code 0 and its result; a debug command acts only on the
partition of its own function; and a queue with `QSYS` is enabled by the PF's function alone (R389). The model's choices in
it: the payload layouts (log entry 13), the event ring (14), what DBGREAD answers (18), when a partition may be created or
destroyed (19), IMGSELECT and PREEMPT (43), registers by words (44), and what QUEUESET and VIEWSET refuse (64). -/
def Obligations.MailboxCommands : Prop :=
  (∀ (s : State) (fn : Nat) (v : DWord), s.functionOf (.mbctl fn) = true → (s.mailbox fn).db = false →
    v.getLsbD 0 = true →
    exec (.registerWrite (.mbctl fn) v) s = .next ((({ s with next := s.next + 1 } : State).modMailbox fn
      fun m => { m with db := true, arrival := s.next }).answered 65)) ∧
  (∀ (s : State) (n : Nat), (∀ fn, s.firstCommand = some fn → (s.mailbox fn).refusal fn = none) → s.answered n = s) ∧
  (∀ (s : State) (n fn rc : Nat), s.firstCommand = some fn → (s.mailbox fn).refusal fn = some rc →
    s.answered (n + 1) = (s.finish fn rc []).answered n) ∧
  (∀ s : State, match s.firstCommand with
    | some fn => (s.mailbox fn).db = true ∧ ∀ n, n < 65 → (s.mailbox n).db = true →
        (s.mailbox fn).arrival ≤ (s.mailbox n).arrival
    | none => ∀ n, n < 65 → (s.mailbox n).db = false) ∧
  (∀ (m : Mailbox) (fn : Nat), m.refusal fn = if fn ≠ 0 ∧ vfCommand m.opc.toNat = false then some 2
    else if knownCommand m.opc.toNat = false then some 1 else if 4096 < m.len.toNat then some 3 else none) ∧
  (∀ (s : State) (fn rc : Nat) (bs : List Byte), rc < 2 ^ 16 → (s.complete fn rc bs).mailbox fn = { s.mailbox fn with
      db := false, rc := BitVec.ofNat 16 rc, rlen := BitVec.ofNat 32 bs.length,
      payload := putBytes (s.mailbox fn).payload 0 bs } ∧
    ∀ n, n ≠ fn → (s.mailbox n).refusal n = none → (s.complete fn rc bs).mailbox n = s.mailbox n) ∧
  (∀ (s : State) (fn opc : Nat) (run : State → Answer), s.commandNext fn opc = true →
    (fn ≠ 0 → vfCommand opc = false → s.command fn opc run = .next (s.complete fn 2 [])) ∧
    ((s.mailbox fn).refusal fn = none → s.boot.stage ≠ 6 → earlyCommand opc = false →
      s.command fn opc run = .next (s.complete fn 4 []))) ∧
  (∀ fn, fn ≤ 64 → mbcap fn % 256 = 12 ∧ (mbcap fn / 256 = 1 ↔ fn = 0)) ∧
  (∀ (s : State) (fn : Nat), fn = 0 ∨ (fn ≤ 64 ∧ s.boot.minimal = false) → s.busValue (.mbcap fn) = mbcap fn) ∧
  (∀ (s : State) (fn : Nat), s.TakesCommand fn 0x01 → exec (.getstatus fn) s = .next (s.complete fn 0
      (leBytes 4 s.boot.status ++ leBytes 4 (Config.firmwareVersion s.boot.runningSvn).toNat
        ++ leBytes 4 s.boot.runningSvn))) ∧
  (∀ (s : State) (fn arg : Nat), s.TakesCommand fn 0x02 → arg < 2 → ∃ u : State,
    exec (.restart fn arg) s = .next (u.complete fn 0 []) ∧ u.boot.stage = 0 ∧
    (arg = 1 → u.boot.minimal = true) ∧ (arg = 0 → u.boot.fails = 0)) ∧
  (∀ (s : State) (fn off : Nat) (bs : List Byte), s.TakesCommand fn 0x03 → bs.length ≤ 4096 → ∃ u : State,
    exec (.imgwrite fn off bs) s = .next (u.complete fn 0 []) ∧
    (if s.boot.slot = true then u.boot.imageA = some (putBytes (s.boot.imageA.getD []) off bs) ∧
        u.boot.imageB = s.boot.imageB
     else u.boot.imageB = some (putBytes (s.boot.imageB.getD []) off bs) ∧ u.boot.imageA = s.boot.imageA)) ∧
  (∀ (s : State) (fn : Nat) (arg : Word), s.TakesCommand fn 0x04 → exec (.imgselect fn arg) s = .next
    (({ s with boot := { s.boot with preferred := arg.getLsbD 0, options := arg } } : State).complete fn 0 [])) ∧
  (∀ (s : State) (fn pid vmid vf : Nat) (mask : BitVec 64), s.TakesCommand fn 0x10 → pid < 64 → s.part? pid = none →
    s.clustersOk pid mask = true → s.identityOk pid vmid vf = true → ∃ u : State,
    exec (.partcreate fn pid mask vmid vf) s = .next (u.complete fn 0 []) ∧
      u.part? pid = some { Partition.reset with cmask := mask, vmid := vmid, spect := vf } ∧
      ∀ n, n ≠ pid → u.part? n = s.part? n) ∧
  (∀ (s : State) (fn pid : Nat) (p : Partition), s.TakesCommand fn 0x11 → s.part? pid = some p →
    s.residentIn p = false → (∀ g ∈ s.grids, g.2.pid ≠ pid) → ∃ u : State,
    exec (.partdestroy fn pid) s = .next (u.complete fn 0 []) ∧ u.part? pid = none) ∧
  (∀ (s : State) (fn named pid : Nat) (p : Partition), s.partFor fn named = some (pid, p) →
    (s.TakesCommand fn 0x12 → exec (.partreset fn named) s = .next ((s.resetPartition pid none).complete fn 0 [])) ∧
    (∀ mask : BitVec 64, s.TakesCommand fn 0x13 → mask &&& ~~~p.cmask = 0 → ∃ u : State,
      exec (.preemptCmd fn named mask) s = .next (u.complete fn 0 []) ∧
      u.part? pid = some { p with preempting := p.preempting ||| mask } ∧
      ∀ c, (u.cluster c).vis.gateClosed =
        ((s.cluster c).vis.gateClosed || (decide (c < 64) && mask.getLsbD c))) ∧
    ∀ (queue : Nat) (d : BitVec 128), s.TakesCommand fn 0x20 →
      let guestSys := fn ≠ 0 ∧ d.getLsbD 36 = true ∧ d.getLsbD 35 = true
      (guestSys → exec (.queueset fn named queue d) s = .next (s.complete fn 2 [])) ∧
      (¬ guestSys → queue < 16 → s.residentIn p = false → queueDescOk d = true →
        exec (.queueset fn named queue d) s = .next ((s.setQueue pid queue d).complete fn 0 []))) ∧
  (∀ (s : State) (fn pool : Nat), pool < 256 →
    let bs := Memory.readN s.mem.hbm (s.pkg.poolTable.toNat + 64 * pool) 64
    let q := poolOf (Table.get? s.pond.pools pool) bs
    (s.TakesCommand fn 0x30 → s.poolOk pool bs q = true → (∀ d, d < 4 → s.heapMay d q.qbase = true) → ∃ u : State,
      exec (.poolon fn pool) s = .next (u.complete fn 0 []) ∧ Table.get? u.pond.pools pool = some q) ∧
    (s.TakesCommand fn 0x31 → exec (.pooloff fn pool) s = .next ((s.poolOff pool).complete fn 0 []))) ∧
  (∀ (s : State) (fn vmid pid : Nat) (p : Partition), s.partOfVm vmid = some (pid, p) →
    (∀ view : DWord, s.TakesCommand fn 0x32 → exec (.viewset fn vmid view) s =
      .next (if s.residentIn p = true then s.complete fn 3 []
        else (s.modPart pid fun p => { p with pondview := view &&& viewMask }).complete fn 0 [])) ∧
    (s.TakesCommand fn 0x42 →
      (s.physNat p.drbase 8 + 2 ^ 64 - s.physNat (p.drbase + 8) 8) % 2 ^ 64 ≠ 2 ^ p.drlog →
      exec (.drresume fn vmid) s = .next ((s.modPart pid fun p => { p with paused := false }).complete fn 0 []))) ∧
  (∀ (s : State) (fn : Nat) (frames : List Nat),
    (s.TakesCommand fn 0x40 → s.framesOk frames true = true → exec (.pagegive fn frames) s =
      .next ((frames.foldl (fun (u : State) f => (u.setHost f false).dropFrame f) s).complete fn 0 [])) ∧
    (s.TakesCommand fn 0x41 → s.framesOk frames false = true → (∀ f ∈ frames, s.frameBusy f = false) →
      exec (.pagetake fn frames) s =
        .next ((frames.foldl (fun (u : State) f => (u.recallFrame f).setHost f true) s).complete fn 0 []))) ∧
  (∀ (s : State) (fn base entries : Nat), s.TakesCommand fn 0x50 → exec (.evring fn base entries) s =
    .next ((s.modMailbox fn fun m => { m with ring := some (base, entries), posted := 0 }).complete fn 0 [])) ∧
  (∀ (s : State) (fn : Nat), s.TakesCommand fn 0x60 → exec (.svnraise fn) s = .next
    (({ s with boot := { s.boot with fusedSvn := max s.boot.fusedSvn s.boot.runningSvn } } : State).complete fn 0 [])) ∧
  (∀ (s : State) (addr : DWord) (v : Nat), s.boot.minimal = false → s.register (regAddr addr) = some v →
    (s.TakesCommand 0 0x8000 → exec (.regread 0 addr) s = .next (s.complete 0 0 (leBytes 8 v))) ∧
    ∀ (value : DWord) (u : State), s.TakesCommand 0 0x8001 →
      s.writeRegister (regAddr addr) value.toNat = .done u → exec (.regwrite 0 addr value) s = .next (u.complete 0 0 [])) ∧
  (∀ (s : State) (addr value : DWord), s.TakesCommand 0 0x8001 → s.boot.minimal = false →
    s.register (regAddr addr) = none ∨ s.writeRegister (regAddr addr) value.toNat = .refused →
    exec (.regwrite 0 addr value) s = .next (s.complete 0 3 [])) ∧
  (∀ (s : State) (pid off v : Nat) (p : Partition), s.part? pid = some p → s.residentIn p = true →
    ¬(0x010 ≤ off ∧ off < 0x030) → off ≠ 0x040 → off ≠ 0x048 → s.writePart pid p off v = .refused) ∧
  (∀ (s : State) (fn pid : Nat) (p : Partition), s.debugPart fn pid = some p → p.fn = fn ∧ s.part? pid = some p) ∧
  (∀ (s : State) (fn pid : Nat) (p : Partition), s.debugPart fn pid = some p →
    (∀ arg, s.TakesCommand fn 0x70 → arg < 2 → exec (.dbgattach fn pid arg) s = .next
      ((if arg = 1 then s.modPart pid fun p => { p with debugger := true }
        else (s.modPart pid fun p => { p with debugger := false }).resumeAll p).complete fn 0 [])) ∧
    (s.TakesCommand fn 0x71 → ∃ bs : List Byte, exec (.dbglist fn pid) s = .next (s.complete fn 0 bs) ∧
      bs.length ≤ 4096) ∧
    (∀ core slot, s.TakesCommand fn 0x75 → exec (.dbgresume fn pid true core slot) s =
      .next ((s.resumeAll p).complete fn 0 [])) ∧
    (∀ (core : Nat) (on : Bool), s.TakesCommand fn 0x76 → p.holdsCore core = true →
      exec (.dbghalt fn pid core on) s = .next ((s.modCore core fun k => k.setHalt on).complete fn 0 [])) ∧
    ∀ (n : Nat) (lo hi : Word), s.TakesCommand fn 0x77 → n < 4 → ∃ u : State,
      exec (.dbgbkpt fn pid n lo hi) s = .next (u.complete fn 0 []) ∧
      ∀ core, core < 1024 → u.core core = if p.holdsCore core
        then ((s.core core).setSpecial (0x410 + 2 * n) lo).setSpecial (0x411 + 2 * n) hi else s.core core) ∧
  ∀ (s : State) (fn pid core slot : Nat) (r : Runner), s.heldGang fn pid core slot = some r →
    (s.TakesCommand fn 0x72 → exec (.dbgread fn pid core slot) s =
      .next (s.complete fn 0 ((gangBlock (s.core core) r.gang r.team r.grid).take 4096))) ∧
    (∀ fields : List DebugField, s.TakesCommand fn 0x73 → (∀ x ∈ fields, r.gang.mayWrite x = true) →
      r.gang.slotsNeed (fields.flatMap DebugField.slot) ≤ (s.core core).regFree →
      exec (.dbgwrite fn pid core slot fields) s =
        .next ((s.modGang core slot fun g => fields.foldl Gang.writeField g).complete fn 0 [])) ∧
    (∀ (fibre : Nat) (b : SubGang), s.TakesCommand fn 0x74 → r.gang.subs.find? (fun x => x.fibres.getLsbD fibre) = some b →
      exec (.dbgstep fn pid core slot fibre) s = .next ((s.modGang core slot fun g =>
        { g with dbg := { g.dbg with
            request := none, halted := false, stepping := some b.id, waitingReconverge := false } }).complete fn 0 [])) ∧
    (s.TakesCommand fn 0x75 → exec (.dbgresume fn pid false core slot) s =
      .next ((s.modGang core slot Gang.resumed).complete fn 0 []))

/-! ### The fabric -/

/-- Requests, replies and ports (R409 to R411, R414, R415, R417, R419, R422, R423). A request that the target's partition does
not accept is refused with PAGE_PROTECTION and logged; an accepted load answers with the bytes, or with a copy of a line that
may be kept, and an accepted store is written at the home; a reply that answers its request ends it; an unanswered request
ends with REMOTE_TIMEOUT or LINK_DOWN; a gang's acknowledged store or atomic at another device ends the copies of its line that
its core and the L2 keep (R418); and a port trains, retrains once one flit has been replayed 16 times (log entry 45) and falls,
its unanswered requests with it. -/
def Obligations.FabricEvents : Prop :=
  (∀ (s : State) (req : RemoteRequest), s.fabricUp = true → req.va % 128 + opInLine req.op ≤ 128 →
    (∀ (t : State) (reply : RemoteReply), s.serve req = .done t reply → exec (.remoteRequestArrive req) s =
      .next { t with fabric := { t.fabric with replies := t.fabric.replies ++ [{ dst := req.src, reply := reply }] } }) ∧
    (∀ t : State, s.serve req = .later t → exec (.remoteRequestArrive req) s = .next t)) ∧
  (∀ (s : State) (req : RemoteRequest), s.accepts req = false → ∃ t : State,
    s.serve req = .done t (.refusal .pageProtection) ∧ t.fabric.logValid = true ∧ t.mem.hbm = s.mem.hbm ∧
    (s.fabric.logValid = false → t.fabric.logCode.toNat = codeNum .pageProtection) ∧
    (s.fabric.logValid = true → t.fabric = s.fabric)) ∧
  (∀ (s : State) (req : RemoteRequest) (n : Nat) (l : Ln), s.accepts req = true → req.op = .load n →
    s.targetLine req .load req.va n = .ok l → s.outsideMay l false = true →
    s.serve req = .done ((s.keepFill l req.va).touchLine l)
      (if l.heap = false ∧ (l.perms.attr = .wo ∨ (l.perms.attr = .rc ∧ l.perms.w = false))
       then .copy (s.coherentData l.tag l.line l.pline)
       else .data (slice (s.coherentData l.tag l.line l.pline) (req.va % 128) n))) ∧
  (∀ (s u : State) (req : RemoteRequest) (bs : List Byte) (l : Ln), s.accepts req = true → req.op = .store bs →
    s.targetLine req .store req.va bs.length = .ok l → s.outsideMay l true = true → l.perms.attr ≠ .wo →
    s.logWrite req.vmid req.asid req.va = (true, u) →
    s.serve req = .done ((u.keepFill l req.va).writeAtHome l [(req.va % 128, bs)]) .ack) ∧
  (∀ (s : State) (id port : Nat) (o : Outgoing) (reply : RemoteReply), Table.get? s.fabric.out id = some o →
    o.port = some port →
    (answersOp o.req.op reply = true → (Table.getD s.fabric.ports port Port.reset).st = 2 →
      exec (.remoteReplyArrive id reply) s = .next ((s.delivered port).replied id o reply)) ∧
    exec (.remoteTimeout id) s = .next (s.unanswered id o .remoteTimeout) ∧
    exec (.switchUndeliverable id) s = .next (s.unanswered id o .linkDown)) ∧
  (∀ (s t : State) (id : Nat) (o : Outgoing) (reply r : RemoteReply), Table.get? s.fabric.out id = some o →
    o.port = none → s.serve o.req = .done t r →
    exec (.remoteReplyArrive id reply) s = .next (t.replied id o (ownReply o.req.op o.req.va (replyIsCopy reply) r))) ∧
  (∀ (s : State) (id core slot p key : Nat) (o : Outgoing), o.waiter = .gang core slot p key →
    let u := (s.dropOut id).dropKept core o
    let fails := fun (code : Code) (rcode : BitVec 8) => u.modGang core slot fun g => g.modPending p fun q =>
      q.failLane code (key / 8) o.va rcode
    (∀ bs, let t := u.modGang core slot fun g => (g.modPending p fun q => q.keepElem key bs).joinFault p
      s.replied id o (.data bs) = match t.runner? core slot with
        | some r => t.afterTake r p
        | none => t) ∧
    (∀ line, o.keep = false →
      s.replied id o (.copy line) = s.replied id o (.data (slice line (o.va % 128) o.req.op.bytes))) ∧
    (∀ n vmid, o.req.op = .load n → s.vmOfCore core = some vmid → u = s.dropOut id) ∧
    s.replied id o .ack = u.laneAcked core slot p ∧
    (∀ code, s.replied id o (.refusal code) = fails .remoteFault (BitVec.ofNat 8 (codeNum code))) ∧
    ∀ code, s.unanswered id o code = fails code 0) ∧
  (∀ (s : State) (id : Nat), Table.get? (s.dropOut id).fabric.out id = none) ∧
  ∀ (s : State) (port : Nat) (p : Port), port < 36 → Table.getD s.fabric.ports port Port.reset = p →
    let up := fun (q : Port) => ({ s with fabric := { s.fabric with ports := Table.put s.fabric.ports port q } } : State)
    (p.st = 2 → p.tries < 16 → exec (.flitReplay port) s = .next (up
      { p with replay := if p.replay = BitVec.allOnes 16 then p.replay else p.replay + 1, tries := p.tries + 1 })) ∧
    (16 ≤ p.tries → exec (.flitReplay port) s = .next s) ∧ s.delivered port = up { p with tries := 0 } ∧
    ((p.st = 2 ∧ 16 ≤ p.tries) ∨ (p.st = 0 ∧ 5 ≤ s.boot.stage ∧ s.boot.minimal = false) →
      exec (.portRetrain port) s = .next (up
        { p with st := 1, retrain := if p.retrain = BitVec.allOnes 8 then p.retrain else p.retrain + 1, tries := 0 })) ∧
    (p.st = 2 → p.tries < 16 → exec (.portRetrain port) s = .next s) ∧
    (p.st = 1 → exec (.portTrained port) s = .next (up { p with st := 2 })) ∧
    (p.st = 1 → ∃ t, exec (.portDown port) s = .next t ∧ t.fabric.ports = (up { p with st := 0 }).fabric.ports ∧
      ∀ x ∈ t.fabric.out, x.2.port ≠ some port)
end

