-- ==== Sys2Proof/Laws/Table.lean ====
section
/-! SUPPORT. Laws of the sparse tables, of lists with one element replaced, and of the bytes of memory: a read after a write,
and the canonical form that every write keeps. -/

namespace Sys2Proof

variable {α : Type}

theorem Table.get?_put (t : Table α) (k j : Nat) (v : α) :
    Table.get? (Table.put t k v) j = if j = k then some v else Table.get? t j := by
  induction t with
  | nil => simp [Table.put, Table.get?]
  | cons p t ih =>
    obtain ⟨a, w⟩ := p
    simp only [Table.put]
    split
    · simp [Table.get?]
    · split
      · rename_i h; simp at h; subst h
        simp only [Table.get?, beq_iff_eq]; split <;> simp_all
      · rename_i h; simp only [beq_iff_eq] at h
        simp only [Table.get?, beq_iff_eq, ih]
        split <;> simp_all
        omega

@[simp] theorem Table.get?_put_self (t : Table α) (k : Nat) (v : α) : Table.get? (Table.put t k v) k = some v := by
  simp [Table.get?_put]

theorem Table.get?_put_ne (t : Table α) {k j : Nat} (h : j ≠ k) (v : α) :
    Table.get? (Table.put t k v) j = Table.get? t j := by simp [Table.get?_put, h]

@[simp] theorem Table.getD_put_self (t : Table α) (k : Nat) (v d : α) : Table.getD (Table.put t k v) k d = v := by
  simp [Table.getD]

theorem Table.getD_put_ne (t : Table α) {k j : Nat} (h : j ≠ k) (v d : α) :
    Table.getD (Table.put t k v) j d = Table.getD t j d := by simp [Table.getD, Table.get?_put_ne t h]

theorem Table.get?_del (t : Table α) (k j : Nat) :
    Table.get? (Table.del t k) j = if j = k then none else Table.get? t j := by
  unfold Table.del
  induction t with
  | nil => simp [Table.get?]
  | cons p t ih =>
    obtain ⟨a, w⟩ := p
    by_cases h : a = k
    · subst h; simp only [List.filter, bne_self_eq_false, ih, Table.get?, beq_iff_eq]; split <;> rfl
    · have : (a != k) = true := by simp [h]
      simp only [List.filter, this, Table.get?, beq_iff_eq, ih]
      split
      · rename_i e; subst e; simp [h]
      · rfl

theorem Table.get?_del_ne (t : Table α) {k j : Nat} (h : j ≠ k) : Table.get? (Table.del t k) j = Table.get? t j := by
  simp [Table.get?_del, h]

theorem Table.getD_del_ne (t : Table α) {k j : Nat} (h : j ≠ k) (d : α) :
    Table.getD (Table.del t k) j d = Table.getD t j d := by simp [Table.getD, Table.get?_del_ne t h]

theorem Table.get?_modify (t : Table α) (k j : Nat) (f : α → α) :
    Table.get? (Table.modify t k f) j = if j = k then (Table.get? t j).map f else Table.get? t j := by
  unfold Table.modify
  split
  · rename_i v h; rw [Table.get?_put]; split
    · rename_i e; subst e; simp [h]
    · rfl
  · rename_i h; split
    · rename_i e; subst e; simp [h]
    · rfl

@[simp] theorem Table.get?_modify_self (t : Table α) (k : Nat) (f : α → α) :
    Table.get? (Table.modify t k f) k = (Table.get? t k).map f := by simp [Table.get?_modify]

theorem Table.get?_modify_ne (t : Table α) {k j : Nat} (h : j ≠ k) (f : α → α) :
    Table.get? (Table.modify t k f) j = Table.get? t j := by simp [Table.get?_modify, h]

theorem nth_setAt {n : Nat} (l : List α) (k i : Nat) (x d : α) (h : i < n) :
    nth (setAt n l k x d) i d = if i = k then x else nth l i d := by
  simp [nth, setAt, h]

theorem nth_range_map {n i : Nat} (f : Nat → α) (d : α) (h : i < n) : nth ((List.range n).map f) i d = f i := by
  simp [nth, h]

namespace Machine

/-! ### Bytes of memory -/

theorem Memory.wf_cons {p : Host.Cell} {m : List Host.Cell} :
    Memory.wf (p :: m) = true ↔ p.2 ≠ Memory.fill ∧ (∀ q ∈ m.head?, p.1 < q.1) ∧ Memory.wf m = true := by
  obtain ⟨a, b⟩ := p
  cases m with
  | nil => simp [Memory.wf]
  | cons q m => obtain ⟨a', b'⟩ := q; simp [Memory.wf, and_assoc]

theorem Memory.put_wf {m : List Host.Cell} (h : Memory.wf m = true) (a : Nat) {b : Byte} (hb : b ≠ Memory.fill) :
    Memory.wf (Table.put m a b) = true := by
  induction m with
  | nil => simp [Table.put, Memory.wf, hb]
  | cons p m ih =>
    obtain ⟨k, w⟩ := p
    have h' := Memory.wf_cons.1 h
    simp only [Table.put]
    split
    · rw [Memory.wf_cons]; exact ⟨hb, by simpa using ‹a < k›, h⟩
    · split
      · rename_i e; simp only [beq_iff_eq] at e; subst e
        rw [Memory.wf_cons]; exact ⟨hb, h'.2.1, h'.2.2⟩
      · rename_i e1 e2; simp only [beq_iff_eq] at e2
        rw [Memory.wf_cons]
        refine ⟨h'.1, ?_, ih h'.2.2⟩
        cases m with
        | nil => simp [Table.put]; omega
        | cons q m =>
          obtain ⟨k', w'⟩ := q
          have := h'.2.1 (k', w') (by simp)
          simp only [Table.put]
          split
          · simp; omega
          · split <;> simp_all

theorem Memory.del_wf {m : List Host.Cell} (h : Memory.wf m = true) (a : Nat) : Memory.wf (Table.del m a) = true := by
  have key : ∀ (m : List Host.Cell) (k : Nat), Memory.wf m = true → (∀ q ∈ m.head?, k < q.1) →
      Memory.wf (Table.del m a) = true ∧ ∀ q ∈ (Table.del m a).head?, k < q.1 := by
    intro m
    induction m with
    | nil => intro k h _; exact ⟨h, by simp [Table.del]⟩
    | cons p m ih =>
      intro k h hk
      have h' := Memory.wf_cons.1 h
      have hk' : k < p.1 := by simpa using hk
      by_cases e : p.1 = a
      · have : Table.del (p :: m) a = Table.del m a := by simp [Table.del, e]
        rw [this]
        exact ih k h'.2.2 fun q hq => by have := h'.2.1 q hq; omega
      · have : Table.del (p :: m) a = p :: Table.del m a := by simp [Table.del, e]
        rw [this, Memory.wf_cons]
        have := ih p.1 h'.2.2 h'.2.1
        exact ⟨⟨h'.1, this.2, this.1⟩, by simpa using hk'⟩
  cases m with
  | nil => exact h
  | cons p m =>
    have h' := Memory.wf_cons.1 h
    have := key m p.1 h'.2.2 h'.2.1
    by_cases e : p.1 = a
    · have e' : Table.del (p :: m) a = Table.del m a := by simp [Table.del, e]
      rw [e']; exact this.1
    · have e' : Table.del (p :: m) a = p :: Table.del m a := by simp [Table.del, e]
      rw [e', Memory.wf_cons]; exact ⟨h'.1, this.2, this.1⟩

/-- Writing a byte keeps the canonical form. -/
theorem Memory.write_wf {m : List Host.Cell} (h : Memory.wf m = true) (a : Nat) (b : Byte) :
    Memory.wf (Memory.write m a b) = true := by
  unfold Memory.write
  split
  · exact Memory.del_wf h a
  · rename_i e; exact Memory.put_wf h a (by simpa using e)

/-- Writing bytes keeps the canonical form. -/
theorem Memory.writeN_wf {m : List Host.Cell} (h : Memory.wf m = true) (a : Nat) (bs : List Byte) :
    Memory.wf (Memory.writeN m a bs) = true := by
  induction bs generalizing m a with
  | nil => exact h
  | cons b bs ih => exact ih (Memory.write_wf h a b) (a + 1)

/-- A read after a write of a byte. -/
theorem Memory.read_write (m : List Host.Cell) (a j : Nat) (b : Byte) :
    Memory.read (Memory.write m a b) j = if j = a then b else Memory.read m j := by
  unfold Memory.read Memory.write
  split
  · rename_i e; simp only [beq_iff_eq] at e
    split
    · rename_i e'; subst e'; simp [Table.getD, Table.get?_del, e]
    · rename_i e'; simp [Table.getD, Table.get?_del_ne m e']
  · split
    · rename_i e'; subst e'; simp
    · rename_i e'; exact Table.getD_put_ne m e' b _

/-- A read after a write of bytes. -/
theorem Memory.read_writeN (m : List Host.Cell) (a j : Nat) (bs : List Byte) :
    Memory.read (Memory.writeN m a bs) j = if a ≤ j ∧ j < a + bs.length then nth bs (j - a) 0 else Memory.read m j := by
  induction bs generalizing m a with
  | nil => simp only [Memory.writeN, List.length_nil]; rw [if_neg (by omega)]
  | cons b bs ih =>
    simp only [Memory.writeN, ih, Memory.read_write, List.length_cons]
    by_cases e : j = a
    · subst e; rw [if_neg (by omega), if_pos rfl, if_pos (by omega), Nat.sub_self]; rfl
    · by_cases h1 : a + 1 ≤ j ∧ j < a + 1 + bs.length
      · have h2 : a ≤ j ∧ j < a + (bs.length + 1) := by omega
        have h3 : j - a = (j - (a + 1)) + 1 := by omega
        rw [if_pos h1, if_pos h2, h3]; rfl
      · have h2 : ¬(a ≤ j ∧ j < a + (bs.length + 1)) := by omega
        rw [if_neg h1, if_neg e, if_neg h2]

end Machine
end Sys2Proof
end

