-- ==== Sys2Proof/Laws/State.lean ====
section
/-! SUPPORT. What each named update of the state leaves alone, one lemma a field, and what it changes. -/

namespace Sys2Proof.Machine

@[simp] theorem State.setCore_agenda (s : State) (c : Nat) (k : Core) : (s.setCore c k).agenda = s.agenda := rfl
@[simp] theorem State.setCore_cur (s : State) (c : Nat) (k : Core) : (s.setCore c k).cur = s.cur := rfl
@[simp] theorem State.setCore_free (s : State) (c : Nat) (k : Core) : (s.setCore c k).free = s.free := rfl
@[simp] theorem State.setCore_next (s : State) (c : Nat) (k : Core) : (s.setCore c k).next = s.next := rfl
@[simp] theorem State.setCore_clusters (s : State) (c : Nat) (k : Core) : (s.setCore c k).clusters = s.clusters := rfl
@[simp] theorem State.setCore_mem (s : State) (c : Nat) (k : Core) : (s.setCore c k).mem = s.mem := rfl
@[simp] theorem State.setCore_pond (s : State) (c : Nat) (k : Core) : (s.setCore c k).pond = s.pond := rfl
@[simp] theorem State.setCore_parts (s : State) (c : Nat) (k : Core) : (s.setCore c k).parts = s.parts := rfl
@[simp] theorem State.setCore_grids (s : State) (c : Nat) (k : Core) : (s.setCore c k).grids = s.grids := rfl
@[simp] theorem State.setCore_mailboxes (s : State) (c : Nat) (k : Core) : (s.setCore c k).mailboxes = s.mailboxes := rfl
@[simp] theorem State.setCore_boot (s : State) (c : Nat) (k : Core) : (s.setCore c k).boot = s.boot := rfl
@[simp] theorem State.setCore_pkg (s : State) (c : Nat) (k : Core) : (s.setCore c k).pkg = s.pkg := rfl
@[simp] theorem State.setCore_fabric (s : State) (c : Nat) (k : Core) : (s.setCore c k).fabric = s.fabric := rfl

@[simp] theorem State.modCore_agenda (s : State) (c : Nat) (f : Core → Core) : (s.modCore c f).agenda = s.agenda := rfl
@[simp] theorem State.modCore_cur (s : State) (c : Nat) (f : Core → Core) : (s.modCore c f).cur = s.cur := rfl
@[simp] theorem State.modCore_free (s : State) (c : Nat) (f : Core → Core) : (s.modCore c f).free = s.free := rfl
@[simp] theorem State.modCore_next (s : State) (c : Nat) (f : Core → Core) : (s.modCore c f).next = s.next := rfl
@[simp] theorem State.modCore_clusters (s : State) (c : Nat) (f : Core → Core) : (s.modCore c f).clusters = s.clusters := rfl
@[simp] theorem State.modCore_mem (s : State) (c : Nat) (f : Core → Core) : (s.modCore c f).mem = s.mem := rfl
@[simp] theorem State.modCore_pond (s : State) (c : Nat) (f : Core → Core) : (s.modCore c f).pond = s.pond := rfl
@[simp] theorem State.modCore_parts (s : State) (c : Nat) (f : Core → Core) : (s.modCore c f).parts = s.parts := rfl
@[simp] theorem State.modCore_grids (s : State) (c : Nat) (f : Core → Core) : (s.modCore c f).grids = s.grids := rfl
@[simp] theorem State.modCore_mailboxes (s : State) (c : Nat) (f : Core → Core) : (s.modCore c f).mailboxes = s.mailboxes := rfl
@[simp] theorem State.modCore_boot (s : State) (c : Nat) (f : Core → Core) : (s.modCore c f).boot = s.boot := rfl
@[simp] theorem State.modCore_pkg (s : State) (c : Nat) (f : Core → Core) : (s.modCore c f).pkg = s.pkg := rfl
@[simp] theorem State.modCore_fabric (s : State) (c : Nat) (f : Core → Core) : (s.modCore c f).fabric = s.fabric := rfl

@[simp] theorem State.setCluster_agenda (s : State) (c : Nat) (k : Cluster) : (s.setCluster c k).agenda = s.agenda := rfl
@[simp] theorem State.setCluster_cur (s : State) (c : Nat) (k : Cluster) : (s.setCluster c k).cur = s.cur := rfl
@[simp] theorem State.setCluster_free (s : State) (c : Nat) (k : Cluster) : (s.setCluster c k).free = s.free := rfl
@[simp] theorem State.setCluster_next (s : State) (c : Nat) (k : Cluster) : (s.setCluster c k).next = s.next := rfl
@[simp] theorem State.setCluster_cores (s : State) (c : Nat) (k : Cluster) : (s.setCluster c k).cores = s.cores := rfl
@[simp] theorem State.setCluster_mem (s : State) (c : Nat) (k : Cluster) : (s.setCluster c k).mem = s.mem := rfl
@[simp] theorem State.setCluster_pond (s : State) (c : Nat) (k : Cluster) : (s.setCluster c k).pond = s.pond := rfl
@[simp] theorem State.setCluster_parts (s : State) (c : Nat) (k : Cluster) : (s.setCluster c k).parts = s.parts := rfl
@[simp] theorem State.setCluster_grids (s : State) (c : Nat) (k : Cluster) : (s.setCluster c k).grids = s.grids := rfl
@[simp] theorem State.setCluster_mailboxes (s : State) (c : Nat) (k : Cluster) : (s.setCluster c k).mailboxes = s.mailboxes := rfl
@[simp] theorem State.setCluster_boot (s : State) (c : Nat) (k : Cluster) : (s.setCluster c k).boot = s.boot := rfl
@[simp] theorem State.setCluster_pkg (s : State) (c : Nat) (k : Cluster) : (s.setCluster c k).pkg = s.pkg := rfl
@[simp] theorem State.setCluster_fabric (s : State) (c : Nat) (k : Cluster) : (s.setCluster c k).fabric = s.fabric := rfl

@[simp] theorem State.modCluster_agenda (s : State) (c : Nat) (f : Cluster → Cluster) : (s.modCluster c f).agenda = s.agenda := rfl
@[simp] theorem State.modCluster_cur (s : State) (c : Nat) (f : Cluster → Cluster) : (s.modCluster c f).cur = s.cur := rfl
@[simp] theorem State.modCluster_free (s : State) (c : Nat) (f : Cluster → Cluster) : (s.modCluster c f).free = s.free := rfl
@[simp] theorem State.modCluster_next (s : State) (c : Nat) (f : Cluster → Cluster) : (s.modCluster c f).next = s.next := rfl
@[simp] theorem State.modCluster_cores (s : State) (c : Nat) (f : Cluster → Cluster) : (s.modCluster c f).cores = s.cores := rfl
@[simp] theorem State.modCluster_mem (s : State) (c : Nat) (f : Cluster → Cluster) : (s.modCluster c f).mem = s.mem := rfl
@[simp] theorem State.modCluster_pond (s : State) (c : Nat) (f : Cluster → Cluster) : (s.modCluster c f).pond = s.pond := rfl
@[simp] theorem State.modCluster_parts (s : State) (c : Nat) (f : Cluster → Cluster) : (s.modCluster c f).parts = s.parts := rfl
@[simp] theorem State.modCluster_grids (s : State) (c : Nat) (f : Cluster → Cluster) : (s.modCluster c f).grids = s.grids := rfl
@[simp] theorem State.modCluster_mailboxes (s : State) (c : Nat) (f : Cluster → Cluster) : (s.modCluster c f).mailboxes = s.mailboxes := rfl
@[simp] theorem State.modCluster_boot (s : State) (c : Nat) (f : Cluster → Cluster) : (s.modCluster c f).boot = s.boot := rfl
@[simp] theorem State.modCluster_pkg (s : State) (c : Nat) (f : Cluster → Cluster) : (s.modCluster c f).pkg = s.pkg := rfl
@[simp] theorem State.modCluster_fabric (s : State) (c : Nat) (f : Cluster → Cluster) : (s.modCluster c f).fabric = s.fabric := rfl

@[simp] theorem State.setGang_agenda (s : State) (c g : Nat) (x : Gang) : (s.setGang c g x).agenda = s.agenda := rfl
@[simp] theorem State.setGang_cur (s : State) (c g : Nat) (x : Gang) : (s.setGang c g x).cur = s.cur := rfl
@[simp] theorem State.setGang_free (s : State) (c g : Nat) (x : Gang) : (s.setGang c g x).free = s.free := rfl
@[simp] theorem State.setGang_next (s : State) (c g : Nat) (x : Gang) : (s.setGang c g x).next = s.next := rfl
@[simp] theorem State.setGang_clusters (s : State) (c g : Nat) (x : Gang) : (s.setGang c g x).clusters = s.clusters := rfl
@[simp] theorem State.setGang_mem (s : State) (c g : Nat) (x : Gang) : (s.setGang c g x).mem = s.mem := rfl
@[simp] theorem State.setGang_pond (s : State) (c g : Nat) (x : Gang) : (s.setGang c g x).pond = s.pond := rfl
@[simp] theorem State.setGang_parts (s : State) (c g : Nat) (x : Gang) : (s.setGang c g x).parts = s.parts := rfl
@[simp] theorem State.setGang_grids (s : State) (c g : Nat) (x : Gang) : (s.setGang c g x).grids = s.grids := rfl
@[simp] theorem State.setGang_mailboxes (s : State) (c g : Nat) (x : Gang) : (s.setGang c g x).mailboxes = s.mailboxes := rfl
@[simp] theorem State.setGang_boot (s : State) (c g : Nat) (x : Gang) : (s.setGang c g x).boot = s.boot := rfl
@[simp] theorem State.setGang_pkg (s : State) (c g : Nat) (x : Gang) : (s.setGang c g x).pkg = s.pkg := rfl
@[simp] theorem State.setGang_fabric (s : State) (c g : Nat) (x : Gang) : (s.setGang c g x).fabric = s.fabric := rfl

@[simp] theorem State.modGang_agenda (s : State) (c g : Nat) (f : Gang → Gang) : (s.modGang c g f).agenda = s.agenda := rfl
@[simp] theorem State.modGang_cur (s : State) (c g : Nat) (f : Gang → Gang) : (s.modGang c g f).cur = s.cur := rfl
@[simp] theorem State.modGang_free (s : State) (c g : Nat) (f : Gang → Gang) : (s.modGang c g f).free = s.free := rfl
@[simp] theorem State.modGang_next (s : State) (c g : Nat) (f : Gang → Gang) : (s.modGang c g f).next = s.next := rfl
@[simp] theorem State.modGang_clusters (s : State) (c g : Nat) (f : Gang → Gang) : (s.modGang c g f).clusters = s.clusters := rfl
@[simp] theorem State.modGang_mem (s : State) (c g : Nat) (f : Gang → Gang) : (s.modGang c g f).mem = s.mem := rfl
@[simp] theorem State.modGang_pond (s : State) (c g : Nat) (f : Gang → Gang) : (s.modGang c g f).pond = s.pond := rfl
@[simp] theorem State.modGang_parts (s : State) (c g : Nat) (f : Gang → Gang) : (s.modGang c g f).parts = s.parts := rfl
@[simp] theorem State.modGang_grids (s : State) (c g : Nat) (f : Gang → Gang) : (s.modGang c g f).grids = s.grids := rfl
@[simp] theorem State.modGang_mailboxes (s : State) (c g : Nat) (f : Gang → Gang) : (s.modGang c g f).mailboxes = s.mailboxes := rfl
@[simp] theorem State.modGang_boot (s : State) (c g : Nat) (f : Gang → Gang) : (s.modGang c g f).boot = s.boot := rfl
@[simp] theorem State.modGang_pkg (s : State) (c g : Nat) (f : Gang → Gang) : (s.modGang c g f).pkg = s.pkg := rfl
@[simp] theorem State.modGang_fabric (s : State) (c g : Nat) (f : Gang → Gang) : (s.modGang c g f).fabric = s.fabric := rfl

@[simp] theorem State.modTeam_agenda (s : State) (c g : Nat) (f : Team → Team) : (s.modTeam c g f).agenda = s.agenda := rfl
@[simp] theorem State.modTeam_cur (s : State) (c g : Nat) (f : Team → Team) : (s.modTeam c g f).cur = s.cur := rfl
@[simp] theorem State.modTeam_free (s : State) (c g : Nat) (f : Team → Team) : (s.modTeam c g f).free = s.free := rfl
@[simp] theorem State.modTeam_next (s : State) (c g : Nat) (f : Team → Team) : (s.modTeam c g f).next = s.next := rfl
@[simp] theorem State.modTeam_clusters (s : State) (c g : Nat) (f : Team → Team) : (s.modTeam c g f).clusters = s.clusters := rfl
@[simp] theorem State.modTeam_mem (s : State) (c g : Nat) (f : Team → Team) : (s.modTeam c g f).mem = s.mem := rfl
@[simp] theorem State.modTeam_pond (s : State) (c g : Nat) (f : Team → Team) : (s.modTeam c g f).pond = s.pond := rfl
@[simp] theorem State.modTeam_parts (s : State) (c g : Nat) (f : Team → Team) : (s.modTeam c g f).parts = s.parts := rfl
@[simp] theorem State.modTeam_grids (s : State) (c g : Nat) (f : Team → Team) : (s.modTeam c g f).grids = s.grids := rfl
@[simp] theorem State.modTeam_mailboxes (s : State) (c g : Nat) (f : Team → Team) : (s.modTeam c g f).mailboxes = s.mailboxes := rfl
@[simp] theorem State.modTeam_boot (s : State) (c g : Nat) (f : Team → Team) : (s.modTeam c g f).boot = s.boot := rfl
@[simp] theorem State.modTeam_pkg (s : State) (c g : Nat) (f : Team → Team) : (s.modTeam c g f).pkg = s.pkg := rfl
@[simp] theorem State.modTeam_fabric (s : State) (c g : Nat) (f : Team → Team) : (s.modTeam c g f).fabric = s.fabric := rfl

@[simp] theorem State.modPart_agenda (s : State) (p : Nat) (f : Partition → Partition) : (s.modPart p f).agenda = s.agenda := rfl
@[simp] theorem State.modPart_cur (s : State) (p : Nat) (f : Partition → Partition) : (s.modPart p f).cur = s.cur := rfl
@[simp] theorem State.modPart_free (s : State) (p : Nat) (f : Partition → Partition) : (s.modPart p f).free = s.free := rfl
@[simp] theorem State.modPart_next (s : State) (p : Nat) (f : Partition → Partition) : (s.modPart p f).next = s.next := rfl
@[simp] theorem State.modPart_cores (s : State) (p : Nat) (f : Partition → Partition) : (s.modPart p f).cores = s.cores := rfl
@[simp] theorem State.modPart_clusters (s : State) (p : Nat) (f : Partition → Partition) : (s.modPart p f).clusters = s.clusters := rfl
@[simp] theorem State.modPart_mem (s : State) (p : Nat) (f : Partition → Partition) : (s.modPart p f).mem = s.mem := rfl
@[simp] theorem State.modPart_pond (s : State) (p : Nat) (f : Partition → Partition) : (s.modPart p f).pond = s.pond := rfl
@[simp] theorem State.modPart_grids (s : State) (p : Nat) (f : Partition → Partition) : (s.modPart p f).grids = s.grids := rfl
@[simp] theorem State.modPart_mailboxes (s : State) (p : Nat) (f : Partition → Partition) : (s.modPart p f).mailboxes = s.mailboxes := rfl
@[simp] theorem State.modPart_boot (s : State) (p : Nat) (f : Partition → Partition) : (s.modPart p f).boot = s.boot := rfl
@[simp] theorem State.modPart_pkg (s : State) (p : Nat) (f : Partition → Partition) : (s.modPart p f).pkg = s.pkg := rfl
@[simp] theorem State.modPart_fabric (s : State) (p : Nat) (f : Partition → Partition) : (s.modPart p f).fabric = s.fabric := rfl

@[simp] theorem State.modGrid_agenda (s : State) (g : Nat) (f : Grid → Grid) : (s.modGrid g f).agenda = s.agenda := rfl
@[simp] theorem State.modGrid_cur (s : State) (g : Nat) (f : Grid → Grid) : (s.modGrid g f).cur = s.cur := rfl
@[simp] theorem State.modGrid_free (s : State) (g : Nat) (f : Grid → Grid) : (s.modGrid g f).free = s.free := rfl
@[simp] theorem State.modGrid_next (s : State) (g : Nat) (f : Grid → Grid) : (s.modGrid g f).next = s.next := rfl
@[simp] theorem State.modGrid_cores (s : State) (g : Nat) (f : Grid → Grid) : (s.modGrid g f).cores = s.cores := rfl
@[simp] theorem State.modGrid_clusters (s : State) (g : Nat) (f : Grid → Grid) : (s.modGrid g f).clusters = s.clusters := rfl
@[simp] theorem State.modGrid_mem (s : State) (g : Nat) (f : Grid → Grid) : (s.modGrid g f).mem = s.mem := rfl
@[simp] theorem State.modGrid_pond (s : State) (g : Nat) (f : Grid → Grid) : (s.modGrid g f).pond = s.pond := rfl
@[simp] theorem State.modGrid_parts (s : State) (g : Nat) (f : Grid → Grid) : (s.modGrid g f).parts = s.parts := rfl
@[simp] theorem State.modGrid_mailboxes (s : State) (g : Nat) (f : Grid → Grid) : (s.modGrid g f).mailboxes = s.mailboxes := rfl
@[simp] theorem State.modGrid_boot (s : State) (g : Nat) (f : Grid → Grid) : (s.modGrid g f).boot = s.boot := rfl
@[simp] theorem State.modGrid_pkg (s : State) (g : Nat) (f : Grid → Grid) : (s.modGrid g f).pkg = s.pkg := rfl
@[simp] theorem State.modGrid_fabric (s : State) (g : Nat) (f : Grid → Grid) : (s.modGrid g f).fabric = s.fabric := rfl

@[simp] theorem State.modMailbox_agenda (s : State) (n : Nat) (f : Mailbox → Mailbox) : (s.modMailbox n f).agenda = s.agenda := rfl
@[simp] theorem State.modMailbox_cur (s : State) (n : Nat) (f : Mailbox → Mailbox) : (s.modMailbox n f).cur = s.cur := rfl
@[simp] theorem State.modMailbox_free (s : State) (n : Nat) (f : Mailbox → Mailbox) : (s.modMailbox n f).free = s.free := rfl
@[simp] theorem State.modMailbox_next (s : State) (n : Nat) (f : Mailbox → Mailbox) : (s.modMailbox n f).next = s.next := rfl
@[simp] theorem State.modMailbox_cores (s : State) (n : Nat) (f : Mailbox → Mailbox) : (s.modMailbox n f).cores = s.cores := rfl
@[simp] theorem State.modMailbox_clusters (s : State) (n : Nat) (f : Mailbox → Mailbox) : (s.modMailbox n f).clusters = s.clusters := rfl
@[simp] theorem State.modMailbox_mem (s : State) (n : Nat) (f : Mailbox → Mailbox) : (s.modMailbox n f).mem = s.mem := rfl
@[simp] theorem State.modMailbox_pond (s : State) (n : Nat) (f : Mailbox → Mailbox) : (s.modMailbox n f).pond = s.pond := rfl
@[simp] theorem State.modMailbox_parts (s : State) (n : Nat) (f : Mailbox → Mailbox) : (s.modMailbox n f).parts = s.parts := rfl
@[simp] theorem State.modMailbox_grids (s : State) (n : Nat) (f : Mailbox → Mailbox) : (s.modMailbox n f).grids = s.grids := rfl
@[simp] theorem State.modMailbox_boot (s : State) (n : Nat) (f : Mailbox → Mailbox) : (s.modMailbox n f).boot = s.boot := rfl
@[simp] theorem State.modMailbox_pkg (s : State) (n : Nat) (f : Mailbox → Mailbox) : (s.modMailbox n f).pkg = s.pkg := rfl
@[simp] theorem State.modMailbox_fabric (s : State) (n : Nat) (f : Mailbox → Mailbox) : (s.modMailbox n f).fabric = s.fabric := rfl

@[simp] theorem State.setMem_agenda (s : State) (m : MemSide) : (s.setMem m).agenda = s.agenda := rfl
@[simp] theorem State.setMem_cur (s : State) (m : MemSide) : (s.setMem m).cur = s.cur := rfl
@[simp] theorem State.setMem_free (s : State) (m : MemSide) : (s.setMem m).free = s.free := rfl
@[simp] theorem State.setMem_next (s : State) (m : MemSide) : (s.setMem m).next = s.next := rfl
@[simp] theorem State.setMem_cores (s : State) (m : MemSide) : (s.setMem m).cores = s.cores := rfl
@[simp] theorem State.setMem_clusters (s : State) (m : MemSide) : (s.setMem m).clusters = s.clusters := rfl
@[simp] theorem State.setMem_pond (s : State) (m : MemSide) : (s.setMem m).pond = s.pond := rfl
@[simp] theorem State.setMem_parts (s : State) (m : MemSide) : (s.setMem m).parts = s.parts := rfl
@[simp] theorem State.setMem_grids (s : State) (m : MemSide) : (s.setMem m).grids = s.grids := rfl
@[simp] theorem State.setMem_mailboxes (s : State) (m : MemSide) : (s.setMem m).mailboxes = s.mailboxes := rfl
@[simp] theorem State.setMem_boot (s : State) (m : MemSide) : (s.setMem m).boot = s.boot := rfl
@[simp] theorem State.setMem_pkg (s : State) (m : MemSide) : (s.setMem m).pkg = s.pkg := rfl
@[simp] theorem State.setMem_fabric (s : State) (m : MemSide) : (s.setMem m).fabric = s.fabric := rfl

@[simp] theorem State.modMem_agenda (s : State) (f : MemSide → MemSide) : (s.modMem f).agenda = s.agenda := rfl
@[simp] theorem State.modMem_cur (s : State) (f : MemSide → MemSide) : (s.modMem f).cur = s.cur := rfl
@[simp] theorem State.modMem_free (s : State) (f : MemSide → MemSide) : (s.modMem f).free = s.free := rfl
@[simp] theorem State.modMem_next (s : State) (f : MemSide → MemSide) : (s.modMem f).next = s.next := rfl
@[simp] theorem State.modMem_cores (s : State) (f : MemSide → MemSide) : (s.modMem f).cores = s.cores := rfl
@[simp] theorem State.modMem_clusters (s : State) (f : MemSide → MemSide) : (s.modMem f).clusters = s.clusters := rfl
@[simp] theorem State.modMem_pond (s : State) (f : MemSide → MemSide) : (s.modMem f).pond = s.pond := rfl
@[simp] theorem State.modMem_parts (s : State) (f : MemSide → MemSide) : (s.modMem f).parts = s.parts := rfl
@[simp] theorem State.modMem_grids (s : State) (f : MemSide → MemSide) : (s.modMem f).grids = s.grids := rfl
@[simp] theorem State.modMem_mailboxes (s : State) (f : MemSide → MemSide) : (s.modMem f).mailboxes = s.mailboxes := rfl
@[simp] theorem State.modMem_boot (s : State) (f : MemSide → MemSide) : (s.modMem f).boot = s.boot := rfl
@[simp] theorem State.modMem_pkg (s : State) (f : MemSide → MemSide) : (s.modMem f).pkg = s.pkg := rfl
@[simp] theorem State.modMem_fabric (s : State) (f : MemSide → MemSide) : (s.modMem f).fabric = s.fabric := rfl
@[simp] theorem State.modMem_mem (s : State) (f : MemSide → MemSide) : (s.modMem f).mem = f s.mem := rfl

@[simp] theorem State.modPond_agenda (s : State) (f : Pond → Pond) : (s.modPond f).agenda = s.agenda := rfl
@[simp] theorem State.modPond_cur (s : State) (f : Pond → Pond) : (s.modPond f).cur = s.cur := rfl
@[simp] theorem State.modPond_free (s : State) (f : Pond → Pond) : (s.modPond f).free = s.free := rfl
@[simp] theorem State.modPond_next (s : State) (f : Pond → Pond) : (s.modPond f).next = s.next := rfl
@[simp] theorem State.modPond_cores (s : State) (f : Pond → Pond) : (s.modPond f).cores = s.cores := rfl
@[simp] theorem State.modPond_clusters (s : State) (f : Pond → Pond) : (s.modPond f).clusters = s.clusters := rfl
@[simp] theorem State.modPond_mem (s : State) (f : Pond → Pond) : (s.modPond f).mem = s.mem := rfl
@[simp] theorem State.modPond_parts (s : State) (f : Pond → Pond) : (s.modPond f).parts = s.parts := rfl
@[simp] theorem State.modPond_grids (s : State) (f : Pond → Pond) : (s.modPond f).grids = s.grids := rfl
@[simp] theorem State.modPond_mailboxes (s : State) (f : Pond → Pond) : (s.modPond f).mailboxes = s.mailboxes := rfl
@[simp] theorem State.modPond_boot (s : State) (f : Pond → Pond) : (s.modPond f).boot = s.boot := rfl
@[simp] theorem State.modPond_pkg (s : State) (f : Pond → Pond) : (s.modPond f).pkg = s.pkg := rfl
@[simp] theorem State.modPond_fabric (s : State) (f : Pond → Pond) : (s.modPond f).fabric = s.fabric := rfl
@[simp] theorem State.modPond_pond (s : State) (f : Pond → Pond) : (s.modPond f).pond = f s.pond := rfl

@[simp] theorem State.post_agenda (s : State) (n : Nat) (e : Event) : (s.post n e).agenda = s.agenda := rfl
@[simp] theorem State.post_cur (s : State) (n : Nat) (e : Event) : (s.post n e).cur = s.cur := rfl
@[simp] theorem State.post_free (s : State) (n : Nat) (e : Event) : (s.post n e).free = s.free := rfl
@[simp] theorem State.post_next (s : State) (n : Nat) (e : Event) : (s.post n e).next = s.next := rfl
@[simp] theorem State.post_cores (s : State) (n : Nat) (e : Event) : (s.post n e).cores = s.cores := rfl
@[simp] theorem State.post_clusters (s : State) (n : Nat) (e : Event) : (s.post n e).clusters = s.clusters := rfl
@[simp] theorem State.post_l2 (s : State) (n : Nat) (e : Event) : (s.post n e).mem.l2 = s.mem.l2 := rfl
@[simp] theorem State.post_tlb (s : State) (n : Nat) (e : Event) : (s.post n e).mem.tlb = s.mem.tlb := rfl
@[simp] theorem State.post_lines (s : State) (n : Nat) (e : Event) : (s.post n e).mem.lines = s.mem.lines := rfl
@[simp] theorem State.post_txns (s : State) (n : Nat) (e : Event) : (s.post n e).mem.txns = s.mem.txns := rfl
@[simp] theorem State.post_pond (s : State) (n : Nat) (e : Event) : (s.post n e).pond = s.pond := rfl
@[simp] theorem State.post_parts (s : State) (n : Nat) (e : Event) : (s.post n e).parts = s.parts := rfl
@[simp] theorem State.post_grids (s : State) (n : Nat) (e : Event) : (s.post n e).grids = s.grids := rfl
@[simp] theorem State.post_boot (s : State) (n : Nat) (e : Event) : (s.post n e).boot = s.boot := rfl
@[simp] theorem State.post_pkg (s : State) (n : Nat) (e : Event) : (s.post n e).pkg = s.pkg := rfl
@[simp] theorem State.post_fabric (s : State) (n : Nat) (e : Event) : (s.post n e).fabric = s.fabric := rfl

@[simp] theorem State.raiseIrq_agenda (s : State) (n v : Nat) : (s.raiseIrq n v).agenda = s.agenda := rfl
@[simp] theorem State.raiseIrq_cur (s : State) (n v : Nat) : (s.raiseIrq n v).cur = s.cur := rfl
@[simp] theorem State.raiseIrq_free (s : State) (n v : Nat) : (s.raiseIrq n v).free = s.free := rfl
@[simp] theorem State.raiseIrq_next (s : State) (n v : Nat) : (s.raiseIrq n v).next = s.next := rfl
@[simp] theorem State.raiseIrq_cores (s : State) (n v : Nat) : (s.raiseIrq n v).cores = s.cores := rfl
@[simp] theorem State.raiseIrq_clusters (s : State) (n v : Nat) : (s.raiseIrq n v).clusters = s.clusters := rfl
@[simp] theorem State.raiseIrq_mem (s : State) (n v : Nat) : (s.raiseIrq n v).mem = s.mem := rfl
@[simp] theorem State.raiseIrq_pond (s : State) (n v : Nat) : (s.raiseIrq n v).pond = s.pond := rfl
@[simp] theorem State.raiseIrq_parts (s : State) (n v : Nat) : (s.raiseIrq n v).parts = s.parts := rfl
@[simp] theorem State.raiseIrq_grids (s : State) (n v : Nat) : (s.raiseIrq n v).grids = s.grids := rfl
@[simp] theorem State.raiseIrq_boot (s : State) (n v : Nat) : (s.raiseIrq n v).boot = s.boot := rfl
@[simp] theorem State.raiseIrq_pkg (s : State) (n v : Nat) : (s.raiseIrq n v).pkg = s.pkg := rfl
@[simp] theorem State.raiseIrq_fabric (s : State) (n v : Nat) : (s.raiseIrq n v).fabric = s.fabric := rfl

@[simp] theorem State.fresh_agenda (s : State) : s.fresh.2.agenda = s.agenda := rfl
@[simp] theorem State.fresh_cur (s : State) : s.fresh.2.cur = s.cur := rfl
@[simp] theorem State.fresh_free (s : State) : s.fresh.2.free = s.free := rfl
@[simp] theorem State.fresh_cores (s : State) : s.fresh.2.cores = s.cores := rfl
@[simp] theorem State.fresh_clusters (s : State) : s.fresh.2.clusters = s.clusters := rfl
@[simp] theorem State.fresh_mem (s : State) : s.fresh.2.mem = s.mem := rfl
@[simp] theorem State.fresh_pond (s : State) : s.fresh.2.pond = s.pond := rfl
@[simp] theorem State.fresh_parts (s : State) : s.fresh.2.parts = s.parts := rfl
@[simp] theorem State.fresh_grids (s : State) : s.fresh.2.grids = s.grids := rfl
@[simp] theorem State.fresh_mailboxes (s : State) : s.fresh.2.mailboxes = s.mailboxes := rfl
@[simp] theorem State.fresh_boot (s : State) : s.fresh.2.boot = s.boot := rfl
@[simp] theorem State.fresh_pkg (s : State) : s.fresh.2.pkg = s.pkg := rfl
@[simp] theorem State.fresh_fabric (s : State) : s.fresh.2.fabric = s.fabric := rfl
@[simp] theorem State.fresh_id (s : State) : s.fresh.1 = s.next := rfl
@[simp] theorem State.fresh_next (s : State) : s.fresh.2.next = s.next + 1 := rfl
@[simp] theorem State.takeFree_agenda (s : State) : s.takeFree.2.agenda = s.agenda := rfl
@[simp] theorem State.takeFree_cur (s : State) : s.takeFree.2.cur = s.cur := rfl
@[simp] theorem State.takeFree_next (s : State) : s.takeFree.2.next = s.next := rfl
@[simp] theorem State.takeFree_cores (s : State) : s.takeFree.2.cores = s.cores := rfl
@[simp] theorem State.takeFree_clusters (s : State) : s.takeFree.2.clusters = s.clusters := rfl
@[simp] theorem State.takeFree_mem (s : State) : s.takeFree.2.mem = s.mem := rfl
@[simp] theorem State.takeFree_pond (s : State) : s.takeFree.2.pond = s.pond := rfl
@[simp] theorem State.takeFree_parts (s : State) : s.takeFree.2.parts = s.parts := rfl
@[simp] theorem State.takeFree_grids (s : State) : s.takeFree.2.grids = s.grids := rfl
@[simp] theorem State.takeFree_mailboxes (s : State) : s.takeFree.2.mailboxes = s.mailboxes := rfl
@[simp] theorem State.takeFree_boot (s : State) : s.takeFree.2.boot = s.boot := rfl
@[simp] theorem State.takeFree_pkg (s : State) : s.takeFree.2.pkg = s.pkg := rfl
@[simp] theorem State.takeFree_fabric (s : State) : s.takeFree.2.fabric = s.fabric := rfl
@[simp] theorem State.takeFree_id (s : State) : s.takeFree.1 = s.free := rfl
@[simp] theorem State.takeFree_free (s : State) : s.takeFree.2.free = s.free + 1 := rfl

/-! ### What an update changes -/

@[simp] theorem State.setMem_mem (s : State) (m : MemSide) : (s.setMem m).mem = m := rfl

@[simp] theorem State.core_setCore_self (s : State) (c : Nat) (k : Core) : (s.setCore c k).core c = k := by
  simp [State.core, State.setCore]

theorem State.core_setCore_ne (s : State) {c d : Nat} (h : d ≠ c) (k : Core) : (s.setCore c k).core d = s.core d := by
  simp [State.core, State.setCore, Table.getD_put_ne _ h]

@[simp] theorem State.core_modCore_self (s : State) (c : Nat) (f : Core → Core) : (s.modCore c f).core c = f (s.core c) := by
  simp [State.modCore]

theorem State.core_modCore_ne (s : State) {c d : Nat} (h : d ≠ c) (f : Core → Core) :
    (s.modCore c f).core d = s.core d := by simp [State.modCore, State.core_setCore_ne _ h]

@[simp] theorem State.core_modGang_self (s : State) (c g : Nat) (f : Gang → Gang) :
    (s.modGang c g f).core c = { s.core c with gangs := Table.modify (s.core c).gangs g f } := by simp [State.modGang]

theorem State.core_modGang_ne (s : State) {c d : Nat} (h : d ≠ c) (g : Nat) (f : Gang → Gang) :
    (s.modGang c g f).core d = s.core d := State.core_modCore_ne s h _

@[simp] theorem State.gang?_modGang_self (s : State) (c g : Nat) (f : Gang → Gang) :
    (s.modGang c g f).gang? c g = (s.gang? c g).map f := by simp [State.gang?]

theorem State.gang?_modGang_ne (s : State) {c g d j : Nat} (h : ¬(d = c ∧ j = g)) (f : Gang → Gang) :
    (s.modGang c g f).gang? d j = s.gang? d j := by
  by_cases e : d = c
  · subst e; simp [State.gang?, Table.get?_modify_ne _ (fun e => h ⟨rfl, e⟩)]
  · simp [State.gang?, State.core_modGang_ne s e]

@[simp] theorem State.team?_modGang (s : State) (c g : Nat) (f : Gang → Gang) (d t : Nat) :
    (s.modGang c g f).team? d t = s.team? d t := by
  by_cases e : d = c
  · subst e; simp [State.team?]
  · simp [State.team?, State.core_modGang_ne s e]

@[simp] theorem State.core_modTeam_self (s : State) (c t : Nat) (f : Team → Team) :
    (s.modTeam c t f).core c = { s.core c with teams := Table.modify (s.core c).teams t f } := by simp [State.modTeam]

theorem State.core_modTeam_ne (s : State) {c d : Nat} (h : d ≠ c) (t : Nat) (f : Team → Team) :
    (s.modTeam c t f).core d = s.core d := State.core_modCore_ne s h _

@[simp] theorem State.team?_modTeam_self (s : State) (c t : Nat) (f : Team → Team) :
    (s.modTeam c t f).team? c t = (s.team? c t).map f := by simp [State.team?]

theorem State.team?_modTeam_ne (s : State) {c t d u : Nat} (h : ¬(d = c ∧ u = t)) (f : Team → Team) :
    (s.modTeam c t f).team? d u = s.team? d u := by
  by_cases e : d = c
  · subst e; simp [State.team?, Table.get?_modify_ne _ (fun e => h ⟨rfl, e⟩)]
  · simp [State.team?, State.core_modTeam_ne s e]

@[simp] theorem State.gang?_modTeam (s : State) (c t : Nat) (f : Team → Team) (d g : Nat) :
    (s.modTeam c t f).gang? d g = s.gang? d g := by
  by_cases e : d = c
  · subst e; simp [State.gang?]
  · simp [State.gang?, State.core_modTeam_ne s e]

@[simp] theorem State.cluster_setCluster_self (s : State) (c : Nat) (k : Cluster) : (s.setCluster c k).cluster c = k := by
  simp [State.cluster, State.setCluster]

theorem State.cluster_setCluster_ne (s : State) {c d : Nat} (h : d ≠ c) (k : Cluster) :
    (s.setCluster c k).cluster d = s.cluster d := by simp [State.cluster, State.setCluster, Table.getD_put_ne _ h]

@[simp] theorem State.cluster_modCluster_self (s : State) (c : Nat) (f : Cluster → Cluster) :
    (s.modCluster c f).cluster c = f (s.cluster c) := by simp [State.modCluster]

@[simp] theorem State.part?_modPart_self (s : State) (p : Nat) (f : Partition → Partition) :
    (s.modPart p f).part? p = (s.part? p).map f := by simp [State.part?, State.modPart]

theorem State.part?_modPart_ne (s : State) {p q : Nat} (h : q ≠ p) (f : Partition → Partition) :
    (s.modPart p f).part? q = s.part? q := by simp [State.part?, State.modPart, Table.get?_modify_ne _ h]

@[simp] theorem State.grid?_modGrid_self (s : State) (g : Nat) (f : Grid → Grid) :
    (s.modGrid g f).grid? g = (s.grid? g).map f := by simp [State.grid?, State.modGrid]

theorem State.grid?_modGrid_ne (s : State) {g j : Nat} (h : j ≠ g) (f : Grid → Grid) :
    (s.modGrid g f).grid? j = s.grid? j := by simp [State.grid?, State.modGrid, Table.get?_modify_ne _ h]

@[simp] theorem State.mailbox_modMailbox_self (s : State) (n : Nat) (f : Mailbox → Mailbox) :
    (s.modMailbox n f).mailbox n = f (s.mailbox n) := by simp [State.mailbox, State.modMailbox]

theorem State.mailbox_modMailbox_ne (s : State) {n m : Nat} (h : m ≠ n) (f : Mailbox → Mailbox) :
    (s.modMailbox n f).mailbox m = s.mailbox m := by simp [State.mailbox, State.modMailbox, Table.getD_put_ne _ h]

/-! ### Pipes -/

@[simp] theorem Core.pipe?_setPipe_self (k : Core) (p : Nat) (c : Option Clause) : (k.setPipe p c).pipe? p = c := by
  unfold Core.setPipe Core.pipe?; split <;> rfl

@[simp] theorem Core.setPipe_gangs (k : Core) (p : Nat) (c : Option Clause) : (k.setPipe p c).gangs = k.gangs := by
  unfold Core.setPipe; split <;> rfl

@[simp] theorem Core.setPipe_teams (k : Core) (p : Nat) (c : Option Clause) : (k.setPipe p c).teams = k.teams := by
  unfold Core.setPipe; split <;> rfl

end Sys2Proof.Machine
end

