-- ==== Sys2Proof/Laws/Checks.lean ====
section
/-! SUPPORT. The precise checks pass where the terms of Safety hold, and what the issuing gang's place in the state is. -/

namespace Sys2Proof.Machine

theorem Issuer.checkTouch_ok {c : Issuer} {t : Touch} (h : c.Ready t) (m : Lanes) (aux : Nat) :
    c.checkTouch m t aux = .ok () := by
  have : (t.v.any fun v => decide (1023 < c.slotOf v)) = false := by
    simp only [List.any_eq_false, decide_eq_true_eq]
    exact fun v hv => by have := h.1 v hv; omega
  simp [Issuer.checkTouch, this, h.2]

theorem Issuer.spFault_none {c : Issuer} {code : Code} {xs : List (Nat × Nat × Nat × Bool)}
    {bad : Nat × Nat × Nat × Bool → Bool} (h : ∀ x ∈ xs, bad x = false) : c.spFault code xs bad = none := by
  have : xs.filter bad = [] := by simp only [List.filter_eq_nil_iff]; exact fun x hx => by simp [h x hx]
  simp [Issuer.spFault, this]

theorem Issuer.checkSp_ok {c : Issuer} {xs : List (Nat × Nat × Nat × Bool)} (h : c.ScratchOk xs) :
    c.checkSp xs = .ok () := by
  have h1 : c.spFault .align xs (fun x => x.2.1 % x.2.2.1 != 0) = none :=
    c.spFault_none fun x hx => by simp [(h x hx).1]
  have h2 : c.spFault .scratchBound xs
      (fun x => decide (c.team.scratchBytes < x.2.1 + x.2.2.1) || decide (2 ^ 18 ≤ x.2.1)) = none :=
    c.spFault_none fun x hx => by
      have a := (h x hx).2.1; have b := (h x hx).2.2.1
      simp only [Bool.or_eq_false_iff, decide_eq_false_iff_not]; omega
  have h3 : c.spFault .fePoison xs (fun x => x.2.2.2 && c.team.meetsPoison x.2.1 x.2.2.1) = none :=
    c.spFault_none fun x hx => by
      cases e : x.2.2.2
      · rfl
      · simp [(h x hx).2.2.2 e]
  unfold Issuer.checkSp
  rw [h1, h2, h3]

theorem Issuer.checkPool_ok {c : Issuer} {s : State} {vs : List Nat} (h : c.PoolHas s vs) : c.checkPool s vs = .ok () := by
  rcases h with h | ⟨h1, h2⟩
  · simp [Issuer.checkPool, h]
  · simp [Issuer.checkPool, h1, h2]

theorem Issuer.checkCounter_ok {c : Issuer} {k : Ctr} (h : c.CounterFree k) : c.checkCounter k = .ok () := by
  simp only [Issuer.checkCounter, h.1, h.2, decide_true, Bool.and_self, if_true]

theorem Issuer.Executes.checkUses {c : Issuer} {s : State} {us : List Use} {g : Guard} {preds dst : List Nat}
    (h : c.Executes s us g preds dst) : c.checkUses us g preds = .ok () := by
  simp [Issuer.checkUses, c.checkTouch_ok h.ready, c.checkSp_ok h.scratch]

theorem Issuer.Executes.checkPool {c : Issuer} {s : State} {us : List Use} {g : Guard} {preds dst : List Nat}
    (h : c.Executes s us g preds dst) : c.checkPool s dst = .ok () := c.checkPool_ok h.pool

/-- An instruction that no check stops. -/
theorem runInstr_ok {s t : State} {c : Issuer} {k : Issuer → Except Stop State} (hc : s.issuer = some c)
    (hk : k c = .ok t) : runInstr s k = .next t := by simp [runInstr, hc, hk]

theorem runInstr_error {s : State} {c : Issuer} {e : Stop} {k : Issuer → Except Stop State} (hc : s.issuer = some c)
    (hk : k c = .error e) : runInstr s k = .next (s.stopped c e) := by simp [runInstr, hc, hk]

/-- Who issues is on the current pipe, and its parts are the state's. -/
theorem State.issuer_spec {s : State} {c : Issuer} (h : s.issuer = some c) :
    s.cur = (c.core, c.pipe) ∧ (s.core c.core).pipe? c.pipe = some c.clause ∧ s.gang? c.core c.slot = some c.gang ∧
    c.gang.sub? c.clause.sub = some c.sub ∧ s.team? c.core c.gang.team = some c.team ∧
    s.grid? c.team.grid = some c.grid := by
  unfold State.issuer State.issuerAt at h
  split at h; · cases h
  split at h; · cases h
  split at h
  · split at h
    · cases h; simp_all [Issuer.slot]
    · cases h
  · cases h

end Sys2Proof.Machine
end

