-- ==== Sys2Proof/Laws/Commit.lean ====
section
/-! SUPPORT. What the writes of a commit do to a gang and to a team: slots, uniform registers, predicates and scratchpad
bytes, each as the fold of its writes. -/

namespace Sys2Proof.Machine

/-- A projection that one step of a fold keeps, the fold keeps. -/
theorem foldl_keeps {α β γ : Type} (π : α → γ) (f : α → β → α) (h : ∀ a b, π (f a b) = π a) (l : List β) (a : α) :
    π (l.foldl f a) = π a := by
  induction l generalizing a with
  | nil => rfl
  | cons b l ih => simp [ih, h]

/-- A projection of a fold is the fold of what each step does to the projection. -/
theorem foldl_hom_of {α β γ : Type} (π : α → γ) (f : α → β → α) (k : γ → β → γ) (h : ∀ a b, π (f a b) = k (π a) b)
    (l : List β) (a : α) : π (l.foldl f a) = l.foldl k (π a) := by
  induction l generalizing a with
  | nil => rfl
  | cons b l ih => simp [ih, h]

theorem onlyGang_refl (core slot team : Nat) (s : State) : OnlyGang core slot team s s :=
  ⟨rfl, rfl, rfl, rfl, rfl, fun _ => rfl, rfl, rfl, rfl, rfl, rfl, rfl, rfl, fun _ _ => rfl, rfl, fun _ _ => rfl,
    fun _ _ => rfl⟩

theorem onlyGang_modGang (s : State) (core slot team : Nat) (f : Gang → Gang) :
    OnlyGang core slot team s (s.modGang core slot f) := by
  refine ⟨rfl, rfl, rfl, rfl, rfl, fun _ => rfl, rfl, rfl, rfl, rfl, rfl, rfl, rfl, ?_, ?_, ?_, ?_⟩
  · intro k hk; rw [State.core_modGang_ne _ hk]
  · simp
  · intro g hg; rw [State.gang?_modGang_ne]; simp [hg]
  · intro t ht; rw [State.team?_modGang]

theorem onlyGang_modTeam (s : State) (core slot team : Nat) (f : Team → Team) :
    OnlyGang core slot team s (s.modTeam core team f) := by
  refine ⟨rfl, rfl, rfl, rfl, rfl, fun _ => rfl, rfl, rfl, rfl, rfl, rfl, rfl, rfl, ?_, ?_, ?_, ?_⟩
  · intro k hk; rw [State.core_modTeam_ne _ hk]
  · simp
  · intro g hg; rw [State.gang?_modTeam]
  · intro t ht; rw [State.team?_modTeam_ne]; simp [ht]

theorem OnlyGang.trans {core slot team : Nat} {s t u : State} (h : OnlyGang core slot team s t)
    (k : OnlyGang core slot team t u) : OnlyGang core slot team s u := by
  refine ⟨k.agenda.trans h.agenda, k.cur.trans h.cur, k.free.trans h.free, k.clusters.trans h.clusters, k.mem.trans h.mem, fun a => (k.bytes a).trans (h.bytes a), k.pond.trans h.pond,
    k.parts.trans h.parts, k.grids.trans h.grids, k.mailboxes.trans h.mailboxes, k.boot.trans h.boot, k.pkg.trans h.pkg,
    k.fabric.trans h.fabric, fun c hc => (k.cores c hc).trans (h.cores c hc), ?_,
    fun g hg => (k.gangs g hg).trans (h.gangs g hg), fun v hv => (k.teams v hv).trans (h.teams v hv)⟩
  have a := h.unit
  have b := k.unit
  rw [← a, ← b]

theorem Gang.slotWord_writeSlot (g : Gang) (sl : Nat) (ws : List (Nat × Word)) (j : Nat) {lane : Nat}
    (h : lane < g.width) :
    (g.writeSlot sl ws).slotWord j lane
      = if sl = j then laneWord ws lane (g.slotWord j lane) else g.slotWord j lane := by
  unfold Gang.writeSlot Gang.slotWord
  simp only [Table.get?_put]
  by_cases e : j = sl
  · subst e; simp only [if_true, nth_range_map _ _ h, Table.getD]
    congr 1
    cases Table.get? g.slots j <;> rfl
  · have : ¬ sl = j := fun h => e h.symm
    simp [e, this]

theorem Gang.slotWord_release (g : Gang) (sl j lane : Nat) :
    (g.release sl).slotWord j lane = if sl = j then 0 else g.slotWord j lane := by
  unfold Gang.release Gang.slotWord
  simp only [Table.get?_del]
  by_cases e : j = sl
  · subst e; simp
  · have : ¬ sl = j := fun h => e h.symm
    simp [e, this]

/-- The words after a list of releases (R164). -/
theorem Gang.slotWord_releases (c : Issuer) (rel : List Nat) (g : Gang) (j lane : Nat) :
    (rel.foldl (fun (g : Gang) v => g.release (c.slotOf v)) g).slotWord j lane
      = if ∃ v ∈ rel, c.slotOf v = j then 0 else g.slotWord j lane := by
  induction rel generalizing g with
  | nil => simp
  | cons v rel ih =>
    simp only [List.foldl_cons, ih, Gang.slotWord_release, List.mem_cons, exists_eq_or_imp]
    by_cases h1 : c.slotOf v = j <;> simp [h1]

/-- The words after a list of slot writes (R163, R164). -/
theorem Gang.slotWord_writes (c : Issuer) (vs : List (Nat × List (Nat × Word))) (g : Gang) (j : Nat) {lane : Nat}
    (h : lane < g.width) :
    (vs.foldl (fun (g : Gang) w => g.writeSlot (c.slotOf w.1) w.2) g).slotWord j lane
      = vs.foldl (fun w d => if c.slotOf d.1 = j then laneWord d.2 lane w else w) (g.slotWord j lane) := by
  induction vs generalizing g with
  | nil => rfl
  | cons v vs ih =>
    simp only [List.foldl_cons]
    rw [ih _ (by exact h), Gang.slotWord_writeSlot _ _ _ _ h]

theorem Gang.sub?_modSub (g : Gang) (id j : Nat) (f : SubGang → SubGang) (hf : ∀ b, (f b).id = b.id) :
    (g.modSub id f).sub? j = if j = id then (g.sub? j).map f else g.sub? j := by
  unfold Gang.modSub Gang.sub?
  induction g.subs with
  | nil => simp
  | cons b l ih =>
    simp only [List.map_cons, List.find?_cons]
    by_cases e : b.id = id
    · simp only [e, beq_self_eq_true, if_true, hf]
      by_cases e2 : id = j
      · subst e2; simp
      · have : (id == j) = false := by simp [e2]
        simp only [this, ih]
    · have : (b.id == id) = false := by simp [e]
      simp only [this]
      by_cases e2 : b.id = j
      · simp only [e2, beq_self_eq_true]; subst e2; simp [e]
      · have : (b.id == j) = false := by simp [e2]
        simp only [this, Bool.false_eq_true, if_false]; exact ih

/-- A predicate after a list of predicate writes. -/
theorem Gang.preds_writes (l : List (Nat × Lanes × Lanes)) (g : Gang) {p : Nat} (hp : p < 7) :
    nth (l.foldl (fun (g : Gang) w => g.writePred w.1 w.2.1 w.2.2) g).preds p 0
      = l.foldl (fun m d => if d.1 = p then (m &&& ~~~d.2.1) ||| (d.2.2 &&& d.2.1) else m) (nth g.preds p 0) := by
  refine foldl_hom_of (fun g : Gang => nth g.preds p 0) _ _ ?_ l g
  intro g w
  simp only [Gang.writePred, nth_setAt _ _ _ _ _ hp]
  by_cases e : p = w.1
  · subst e; simp
  · have : ¬ w.1 = p := fun h => e h.symm
    simp [e, this]

/-- The sub-gangs after a list of uniform-register writes of one of them (R24, R127). -/
theorem Gang.sub?_writeSregs (l : List (Nat × Word)) (g : Gang) (id j : Nat) :
    (l.foldl (fun (g : Gang) w => g.writeSreg id w.1 w.2) g).sub? j
      = if j = id then (g.sub? j).map (fun b => { b with sregs := l.foldl (fun r w => setAt 64 r w.1 w.2 0) b.sregs })
        else g.sub? j := by
  induction l generalizing g with
  | nil => simp
  | cons w l ih =>
    simp only [List.foldl_cons, ih]
    have : (g.writeSreg id w.1 w.2).sub? j = _ :=
      Gang.sub?_modSub g id j (fun x => { x with sregs := setAt 64 x.sregs w.1 w.2 0 }) (fun _ => rfl)
    rw [this]
    split
    · cases g.sub? j <;> simp
    · rfl

/-- A uniform register after a list of writes. -/
theorem nth_sregs_writes (l : List (Nat × Word)) (r : List Word) {n : Nat} (hn : n < 64) :
    nth (l.foldl (fun r w => setAt 64 r w.1 w.2 0) r) n 0 = l.foldl (fun w d => if d.1 = n then d.2 else w) (nth r n 0) := by
  refine foldl_hom_of (fun r : List Word => nth r n 0) _ _ ?_ l r
  intro r w
  simp only [nth_setAt _ _ _ _ _ hn]
  by_cases e : n = w.1
  · subst e; simp
  · have : ¬ w.1 = n := fun h => e h.symm
    simp [e, this]

/-- A scratchpad byte after a store (R135). -/
theorem Team.byte_store (bs : List Byte) (t : Team) (a j : Nat) :
    (t.store a bs).byte j = if a ≤ j ∧ j < a + bs.length then nth bs (j - a) 0 else t.byte j := by
  induction bs generalizing t a with
  | nil => simp only [Team.store, List.length_nil]; rw [if_neg (by omega)]
  | cons b bs ih =>
    have hw : (t.writeByte a b).byte j = if j = a then b else t.byte j := by
      unfold Team.writeByte Team.byte
      split
      · rename_i e; simp only [beq_iff_eq] at e
        simp only [Table.getD, Table.get?_del]; split <;> simp_all
      · simp only [Table.getD, Table.get?_put]; split <;> simp_all
    simp only [Team.store, ih, hw, List.length_cons]
    by_cases e : j = a
    · subst e; rw [if_neg (by omega), if_pos rfl, if_pos (by omega), Nat.sub_self]; rfl
    · by_cases h1 : a + 1 ≤ j ∧ j < a + 1 + bs.length
      · have h2 : a ≤ j ∧ j < a + (bs.length + 1) := by omega
        have h3 : j - a = (j - (a + 1)) + 1 := by omega
        rw [if_pos h1, if_pos h2, h3]; rfl
      · have h2 : ¬(a ≤ j ∧ j < a + (bs.length + 1)) := by omega
        rw [if_neg h1, if_neg e, if_neg h2]

/-- A scratchpad byte after a list of stores. -/
theorem Team.byte_stores (l : List (Nat × List Byte)) (t : Team) (a : Nat) :
    (l.foldl (fun (t : Team) w => t.store w.1 w.2) t).byte a
      = l.foldl (fun b d => if d.1 ≤ a ∧ a < d.1 + d.2.length then nth d.2 (a - d.1) 0 else b) (t.byte a) :=
  foldl_hom_of (fun t : Team => t.byte a) _ _ (fun t w => Team.byte_store w.2 t w.1 a) l t

theorem Team.store_keeps (bs : List Byte) (t : Team) (a : Nat) (x : Table Byte) :
    { t.store a bs with scratch := x } = { t with scratch := x } := by
  induction bs generalizing t a with
  | nil => rfl
  | cons b bs ih => exact ih (t.writeByte a b) (a + 1)

end Sys2Proof.Machine
end

