-- ==== Sys2Proof/Laws/Encoding.lean ====
section
/-! SUPPORT. Laws of the encodings: splitting a word into its fields undoes joining them, a form is read back from the word
that packs it, and a word of a known OP byte decodes to its well-formed instruction. -/

namespace Sys2Proof

/-! ### Words and their fields -/

theorem splitR_joinR (r : RawR) : splitR (joinR r) = r := by
  obtain ⟨op,t,d,a,b,c,lr,g,m⟩ := r
  simp only [splitR, joinR, RawR.mk.injEq]
  refine ⟨?_,?_,?_,?_,?_,?_,?_,?_,?_⟩ <;>
  (simp (disch := omega) only [BitVec.extractLsb'_append_eq_of_add_le, BitVec.extractLsb'_append_eq_of_le]; simp)

theorem splitM_joinM (r : RawM) : splitM (joinM r) = r := by
  obtain ⟨op,t,d,a,b,c,lr,g,m⟩ := r
  simp only [splitM, joinM, RawM.mk.injEq]
  refine ⟨?_,?_,?_,?_,?_,?_,?_,?_,?_, ?_, ?_⟩ <;>
  (simp (disch := omega) only [BitVec.extractLsb'_append_eq_of_add_le, BitVec.extractLsb'_append_eq_of_le]; simp)

theorem splitI_joinI (r : RawI) : splitI (joinI r) = r := by
  obtain ⟨op,t,d,a,b,c,lr⟩ := r
  simp only [splitI, joinI, RawI.mk.injEq]
  refine ⟨?_,?_,?_,?_,?_,?_,?_⟩ <;>
  (simp (disch := omega) only [BitVec.extractLsb'_append_eq_of_add_le, BitVec.extractLsb'_append_eq_of_le]; simp)

theorem splitX_joinX (r : RawX) : splitX (joinX r) = r := by
  obtain ⟨op,t,d,a,b,c,lr,g,m,k⟩ := r
  simp only [splitX, joinX, RawX.mk.injEq]
  refine ⟨?_,?_,?_,?_,?_,?_,?_,?_,?_, ?_⟩ <;>
  (simp (disch := omega) only [BitVec.extractLsb'_append_eq_of_add_le, BitVec.extractLsb'_append_eq_of_le]; simp)

theorem splitC_joinC (r : RawC) : splitC (joinC r) = r := by
  obtain ⟨op,t,d,a,b,c⟩ := r
  simp only [splitC, joinC, RawC.mk.injEq]
  refine ⟨?_,?_,?_,?_,?_,?_⟩ <;>
  (simp (disch := omega) only [BitVec.extractLsb'_append_eq_of_add_le, BitVec.extractLsb'_append_eq_of_le]; simp)

theorem joinR_splitR (w : DWord) : joinR (splitR w) = w := by
  simp only [splitR, joinR]
  iterate 8 rw [BitVec.extractLsb'_append_extractLsb'_eq_extractLsb' (by rfl)]
  simp

theorem joinM_splitM (w : DWord) : joinM (splitM w) = w := by
  simp only [splitM, joinM]
  iterate 10 rw [BitVec.extractLsb'_append_extractLsb'_eq_extractLsb' (by rfl)]
  simp

theorem joinI_splitI (w : DWord) : joinI (splitI w) = w := by
  simp only [splitI, joinI]
  iterate 6 rw [BitVec.extractLsb'_append_extractLsb'_eq_extractLsb' (by rfl)]
  simp

theorem joinX_splitX (w : DWord) : joinX (splitX w) = w := by
  simp only [splitX, joinX]
  iterate 9 rw [BitVec.extractLsb'_append_extractLsb'_eq_extractLsb' (by rfl)]
  simp

theorem joinC_splitC (w : DWord) : joinC (splitC w) = w := by
  simp only [splitC, joinC]
  iterate 5 rw [BitVec.extractLsb'_append_extractLsb'_eq_extractLsb' (by rfl)]
  simp

/-! ### OP bytes -/

theorem op_joinR (r : RawR) : (joinR r).extractLsb' 56 8 = r.op := congrArg RawR.op (splitR_joinR r)
theorem op_joinM (r : RawM) : (joinM r).extractLsb' 56 8 = r.op := congrArg RawM.op (splitM_joinM r)
theorem op_joinI (r : RawI) : (joinI r).extractLsb' 56 8 = r.op := congrArg RawI.op (splitI_joinI r)
theorem op_joinX (r : RawX) : (joinX r).extractLsb' 56 8 = r.op := congrArg RawX.op (splitX_joinX r)
theorem op_joinC (r : RawC) : (joinC r).extractLsb' 56 8 = r.op := congrArg RawC.op (splitC_joinC r)

/-! ### Operands, guards, types and modifier bits -/

theorem Opd.ofCode_toCode (o : Opd) : Opd.ofCode o.toCode = some o := by
  cases o with
  | v n => revert n; decide
  | s n => revert n; decide
  | imm n => revert n; decide
  | flt n => revert n; decide
  | sp n => revert n; decide
  | lane => rfl
  | none => rfl

theorem Guard.ofCode_toCode (g : Guard) : Guard.ofCode g.toCode = some g := by
  cases g with
  | always => rfl
  | pred n p => revert n p; decide

theorem Ty.ofCode_toCode (t : Ty) : Ty.ofCode t.toCode = some t := by
  cases t with
  | ext n => revert n; decide
  | _ => rfl

theorem Ty.toCode_lt (t : Ty) : t.toCode < 64 := by
  cases t with
  | ext n => revert n; decide
  | _ => decide

theorem lrBits_2 (a b c : Bool) : (lrBits a b c)[2] = a := by cases a <;> cases b <;> cases c <;> rfl
theorem lrBits_1 (a b c : Bool) : (lrBits a b c)[1] = b := by cases a <;> cases b <;> cases c <;> rfl
theorem lrBits_0 (a b c : Bool) : (lrBits a b c)[0] = c := by cases a <;> cases b <;> cases c <;> rfl

theorem mod_rnd (r : BitVec 3) (s : Bool) (f : BitVec 3) : (r ++ BitVec.ofBool s ++ f).extractLsb' 4 3 = r := by
  revert r s f; decide

theorem mod_sat (r : BitVec 3) (s : Bool) (f : BitVec 3) : (r ++ BitVec.ofBool s ++ f)[3] = s := by
  revert r s f; decide

theorem mod_fn (r : BitVec 3) (s : Bool) (f : BitVec 3) : (r ++ BitVec.ofBool s ++ f).extractLsb' 0 3 = f := by
  revert r s f; decide

theorem ty6 (t : Ty) : (BitVec.ofNat 6 t.toCode).toNat = t.toCode := by
  simp [Nat.mod_eq_of_lt t.toCode_lt]

theorem ty9 (t : Ty) : (BitVec.ofNat 9 t.toCode).toNat = t.toCode := by
  have := t.toCode_lt
  simp; omega

/-! ### The forms -/

theorem rForm_packR (op : BitVec 8) (f : RForm) : rForm (packR op f) = some f := by
  simp [rForm, packR, splitR_joinR, Opd.ofCode_toCode, Guard.ofCode_toCode, ty6, Ty.ofCode_toCode, lrBits_2, lrBits_1, lrBits_0,
    mod_rnd, mod_sat, mod_fn, -BitVec.toNat_ofNat]

theorem typedForm_packTyped (op : BitVec 8) (src : Ty) (f : RForm) : typedForm (packTyped op src f) = some (src, {f with c := .none}) := by
  simp [typedForm, packTyped, splitR_joinR, Opd.ofCode_toCode, Guard.ofCode_toCode, ty6, ty9, Ty.ofCode_toCode, lrBits_2, lrBits_1, lrBits_0,
    mod_rnd, mod_sat, mod_fn, -BitVec.toNat_ofNat]

theorem eForm_packE (op : BitVec 8) (f : EForm) : eForm (packE op f) = some f := by
  simp [eForm, packE, splitR_joinR, Opd.ofCode_toCode, Guard.ofCode_toCode, lrBits_2, lrBits_1, lrBits_0]

theorem yForm_packY (op : BitVec 8) (f : YForm) : yForm (packY op f) = some f := by
  have : f.sel.extractLsb' 7 6 ++ f.sel.extractLsb' 0 7 = f.sel := by
    rw [BitVec.extractLsb'_append_extractLsb'_eq_extractLsb' (by rfl)]; simp
  simp [yForm, packY, splitR_joinR, Opd.ofCode_toCode, Guard.ofCode_toCode, lrBits_2, lrBits_1, lrBits_0, this]

theorem iForm_packI (op : BitVec 8) (f : IForm) : iForm (packI op f) = some f := by
  obtain ⟨g,l,d,a,i⟩ := f
  cases l <;> simp [iForm, packI, splitI_joinI, Opd.ofCode_toCode, Guard.ofCode_toCode]

theorem mForm_packM (op : BitVec 8) (f : MForm) : mForm (packM op f) = some f := by
  obtain ⟨t,d,a,o,s,r,h,l,l',g,b⟩ := f
  cases l <;> cases l' <;> simp [mForm, packM, splitM_joinM, Opd.ofCode_toCode, Guard.ofCode_toCode, ty6, Ty.ofCode_toCode, -BitVec.toNat_ofNat]

theorem xForm_packX (op : BitVec 8) (f : XForm) : xForm (packX op f) = some f := by
  obtain ⟨t,d,a,o,s,r,h,l,l1,l2,l3,l4⟩ := f
  cases l1 <;> cases l2 <;> cases l3 <;> cases l4 <;> simp [xForm, packX, splitX_joinX, ty6, Ty.ofCode_toCode, -BitVec.toNat_ofNat]

theorem cForm_packC (op : BitVec 8) (f : CForm) : cForm (packC op f) = some f := by
  simp [cForm, packC, splitC_joinC, Opd.ofCode_toCode, Guard.ofCode_toCode]

/-! ### From a form to its word -/

theorem op_packR (op : BitVec 8) (f : RForm) : (packR op f).extractLsb' 56 8 = op := op_joinR _
theorem op_packTyped (op : BitVec 8) (t : Ty) (f : RForm) : (packTyped op t f).extractLsb' 56 8 = op := op_joinR _
theorem op_packE (op : BitVec 8) (f : EForm) : (packE op f).extractLsb' 56 8 = op := op_joinR _
theorem op_packY (op : BitVec 8) (f : YForm) : (packY op f).extractLsb' 56 8 = op := op_joinR _
theorem op_packI (op : BitVec 8) (f : IForm) : (packI op f).extractLsb' 56 8 = op := op_joinI _
theorem op_packM (op : BitVec 8) (f : MForm) : (packM op f).extractLsb' 56 8 = op := op_joinM _
theorem op_packX (op : BitVec 8) (f : XForm) : (packX op f).extractLsb' 56 8 = op := op_joinX _
theorem op_packC (op : BitVec 8) (f : CForm) : (packC op f).extractLsb' 56 8 = op := op_joinC _
theorem op_packPset (d a b : Fin 7) (tt : BitVec 4) (g : Guard) : (packPset d a b tt g).extractLsb' 56 8 = 0x0D := op_joinR _

/-- A word whose OP byte is known decodes to the well-formed instruction that the OP byte's row reads from it. -/
theorem decode_of {w : DWord} {i : Instr} {op : BitVec 8} (hop : w.extractLsb' 56 8 = op) (h : op.toNat < 0xFC)
  (hi : instrOf op.toNat w = some (some i)) (hw : WellFormed i = true) : decode w = .ok i := by
  unfold decode
  simp only [hop, hi, hw, if_true]
  rw [if_neg (by omega)]

theorem psetForm_packPset (d a b : Fin 7) (tt : BitVec 4) (g : Guard) : psetForm (packPset d a b tt g) = some (.pset d a b tt g) := by
  have hp : ∀ x : Fin 7, Opd.ofCode (BitVec.ofNat 9 (320 + x.val)) = some (.imm ⟨x.val, by omega⟩) := by decide
  have hd : ∀ (x : Fin 7), (BitVec.ofNat 3 x.val).toNat = x.val := by decide
  have hm : ∀ (x : BitVec 3) (t : BitVec 4), (x ++ t).extractLsb' 4 3 = x ∧ (x ++ t).extractLsb' 0 4 = t := by decide
  simp [psetForm, packPset, splitR_joinR, hp, hd, hm, predOf, Guard.ofCode_toCode, -BitVec.toNat_ofNat]

/-! ### From the word back: a form read from a word packs to that word -/
theorem Opd.toCode_ofCode : ∀ x : BitVec 9, ∀ o, Opd.ofCode x = some o → o.toCode = x := by
  intro x; revert x; decide +kernel

theorem Guard.toCode_ofCode : ∀ x : BitVec 4, ∀ o, Guard.ofCode x = some o → o.toCode = x := by
  intro x; revert x; decide +kernel

theorem Ty.toCode_ofCode6 : ∀ x : BitVec 6, ∀ o, Ty.ofCode x.toNat = some o → BitVec.ofNat 6 o.toCode = x := by
  intro x; revert x; decide +kernel

theorem Ty.toCode_ofCode9 : ∀ x : BitVec 9, ∀ o, Ty.ofCode x.toNat = some o → BitVec.ofNat 9 o.toCode = x := by
  intro x; revert x; decide +kernel

theorem lrBits_of : ∀ x : BitVec 3, lrBits (x.getLsbD 2) (x.getLsbD 1) (x.getLsbD 0) = x := by decide

theorem mod_join : ∀ x : BitVec 7, x.extractLsb' 4 3 ++ BitVec.ofBool (x.getLsbD 3) ++ x.extractLsb' 0 3 = x := by decide

theorem lrPair_join : ∀ x : BitVec 2, BitVec.ofBool (x.getLsbD 1) ++ BitVec.ofBool (x.getLsbD 0) = x := by decide

theorem flags_join : ∀ x : BitVec 4, BitVec.ofBool (x.getLsbD 3) ++ BitVec.ofBool (x.getLsbD 2) ++ BitVec.ofBool (x.getLsbD 1) ++ BitVec.ofBool (x.getLsbD 0) = x := by decide

theorem lrBit_join : ∀ x : BitVec 1, BitVec.ofBool (x == 1) = x := by decide

theorem packR_rForm {w : DWord} {f : RForm} (h : rForm w = some f) : packR (w.extractLsb' 56 8) f = w := by
  simp only [rForm, Option.bind_eq_bind, Option.bind_eq_some_iff] at h
  obtain ⟨t, ht, d, hd, a, ha, b, hb, c, hc, g, hg, h⟩ := h
  cases h
  conv => rhs; rw [← joinR_splitR w]
  simp only [packR]
  rw [Ty.toCode_ofCode6 _ _ ht, Opd.toCode_ofCode _ _ hd, Opd.toCode_ofCode _ _ ha, Opd.toCode_ofCode _ _ hb, Opd.toCode_ofCode _ _ hc, Guard.toCode_ofCode _ _ hg, lrBits_of, mod_join]
  rfl

theorem packTyped_typedForm {w : DWord} {s} {f : RForm} (h : typedForm w = some (s, f)) : packTyped (w.extractLsb' 56 8) s f = w := by
  simp only [typedForm, Option.bind_eq_bind, Option.bind_eq_some_iff] at h
  obtain ⟨t, ht, s', hs, d, hd, a, ha, b, hb,  g, hg, h⟩ := h
  cases h
  conv => rhs; rw [← joinR_splitR w]
  simp only [packTyped]
  rw [Ty.toCode_ofCode6 _ _ ht, Ty.toCode_ofCode9 _ _ hs, Opd.toCode_ofCode _ _ hd, Opd.toCode_ofCode _ _ ha, Opd.toCode_ofCode _ _ hb, Guard.toCode_ofCode _ _ hg, lrBits_of, mod_join]
  rfl

theorem packE_eForm {w : DWord} {f : EForm} (h : eForm w = some f) : packE (w.extractLsb' 56 8) f = w := by
  simp only [eForm, Option.bind_eq_bind, Option.bind_eq_some_iff] at h
  obtain ⟨d, hd, a, ha, b, hb, c, hc, g, hg, h⟩ := h
  cases h
  conv => rhs; rw [← joinR_splitR w]
  simp only [packE]
  rw [Opd.toCode_ofCode _ _ hd, Opd.toCode_ofCode _ _ ha, Opd.toCode_ofCode _ _ hb, Opd.toCode_ofCode _ _ hc, Guard.toCode_ofCode _ _ hg, lrBits_of]
  rfl

theorem packY_yForm {w : DWord} {f : YForm} (h : yForm w = some f) : packY (w.extractLsb' 56 8) f = w := by
  simp only [yForm, Option.bind_eq_bind, Option.bind_eq_some_iff] at h
  obtain ⟨d, hd, a, ha, b, hb, c, hc, g, hg, h⟩ := h
  cases h
  conv => rhs; rw [← joinR_splitR w]
  simp only [packY]
  rw [Opd.toCode_ofCode _ _ hd, Opd.toCode_ofCode _ _ ha, Opd.toCode_ofCode _ _ hb, Opd.toCode_ofCode _ _ hc, Guard.toCode_ofCode _ _ hg, lrBits_of]
  congr 2
  · simp (disch := omega) only [BitVec.extractLsb'_append_eq_of_add_le, BitVec.extractLsb'_append_eq_of_le]; simp; rfl
  · simp (disch := omega) only [BitVec.extractLsb'_append_eq_of_add_le, BitVec.extractLsb'_append_eq_of_le]; simp; rfl

theorem packI_iForm {w : DWord} {f : IForm} (h : iForm w = some f) : packI (w.extractLsb' 56 8) f = w := by
  simp only [iForm, Option.bind_eq_bind, Option.bind_eq_some_iff] at h
  obtain ⟨d, hd, a, ha, g, hg, h⟩ := h
  split at h <;> cases h
  rename_i hr
  conv => rhs; rw [← joinI_splitI w]
  simp only [packI]
  rw [Opd.toCode_ofCode _ _ hd, Opd.toCode_ofCode _ _ ha, Guard.toCode_ofCode _ _ hg, lrBit_join]
  have := beq_iff_eq.mp hr
  rw [← this]; rfl

theorem packC_cForm {w : DWord} {f : CForm} (h : cForm w = some f) : packC (w.extractLsb' 56 8) f = w := by
  simp only [cForm, Option.bind_eq_bind, Option.bind_eq_some_iff] at h
  obtain ⟨a, ha, g, hg, h⟩ := h
  split at h <;> cases h
  rename_i hr
  conv => rhs; rw [← joinC_splitC w]
  simp only [packC]
  rw [Opd.toCode_ofCode _ _ ha, Guard.toCode_ofCode _ _ hg]
  have := beq_iff_eq.mp hr
  rw [← this]; rfl

theorem packM_mForm {w : DWord} {f : MForm} (h : mForm w = some f) : packM (w.extractLsb' 56 8) f = w := by
  simp only [mForm, Option.bind_eq_bind, Option.bind_eq_some_iff] at h
  obtain ⟨t, ht, d, hd, a, ha, g, hg, h⟩ := h
  cases h
  conv => rhs; rw [← joinM_splitM w]
  simp only [packM]
  rw [Ty.toCode_ofCode6 _ _ ht, Opd.toCode_ofCode _ _ hd, Opd.toCode_ofCode _ _ ha, Guard.toCode_ofCode _ _ hg, lrPair_join]
  rfl

theorem packX_xForm {w : DWord} {f : XForm} (h : xForm w = some f) : packX (w.extractLsb' 56 8) f = w := by
  simp only [xForm, Option.bind_eq_bind, Option.bind_eq_some_iff] at h
  obtain ⟨t, ht, d, hd, h⟩ := h
  cases h
  conv => rhs; rw [← joinX_splitX w]
  simp only [packX]
  rw [Ty.toCode_ofCode6 _ _ ht, Ty.toCode_ofCode6 _ _ hd, flags_join]
  rfl

theorem predOf_code : ∀ x : BitVec 9, ∀ o, Opd.ofCode x = some o → ∀ p, predOf o = some p → BitVec.ofNat 9 (0x140 + p.val) = x := by
  intro x; revert x; decide +kernel

theorem psetMod_join : ∀ m : BitVec 7, BitVec.ofNat 3 (m.extractLsb' 4 3).toNat ++ m.extractLsb' 0 4 = m := by decide

theorem encode_psetForm {w : DWord} {i : Instr} (hop : w.extractLsb' 56 8 = 0x0D) (h : psetForm w = some i) : encode i = some w := by
  simp only [psetForm, Option.bind_eq_bind, Option.bind_eq_some_iff] at h
  obtain ⟨a, ha, b, hb, pa, hpa, pb, hpb, g, hg, h⟩ := h
  split at h
  next hr =>
    split at h
    next hd =>
      cases h
      simp only [Bool.and_eq_true, beq_iff_eq] at hr
      simp only [encode, Option.some.injEq]
      conv => rhs; rw [← joinR_splitR w]
      simp only [packPset]
      rw [predOf_code _ _ ha _ hpa, predOf_code _ _ hb _ hpb, Guard.toCode_ofCode _ _ hg, psetMod_join]
      obtain ⟨⟨⟨h1, h2⟩, h3⟩, h4⟩ := hr
      rw [← h1, ← h2, ← h4, ← hop]
      simp [splitR] at h2 h3 ⊢
      rw [h2, h3]
    next => simp at h
  next => simp at h

end Sys2Proof
end

