-- ==== Sys2Proof/Laws/PerInstr.lean ====
section
/-! SUPPORT. What is said of every instruction, constructor by constructor: an instruction has a word unless it is an event, and
no word of an instruction is a clause header (R38, R65). -/

/-- An event has no word; every other instruction has one, whose OP byte is below 0xFC. -/
def Sys2Proof.Laws.Encoding.Statement (i : Sys2Proof.Instr) : Prop :=
  match Sys2Proof.encode i with
  | some w => Sys2Proof.isEvent i = false ∧ (w.extractLsb' 56 8).toNat < 0xFC
  | none => Sys2Proof.isEvent i = true

namespace Sys2Proof.Laws.Encoding

set_option Elab.async false

open Sys2Proof

theorem clauseIssue (core pipe : Nat) : Statement (.clauseIssue core pipe) := rfl
theorem longResultArrive (core gang id : Nat) (part : Option Nat) : Statement (.longResultArrive core gang id part) := rfl
theorem parkRelease (core gang sub : Nat) : Statement (.parkRelease core gang sub) := rfl
theorem registerParkRelease (core : Nat) : Statement (.registerParkRelease core) := rfl
theorem deferredFaultArrive (core gang id : Nat) : Statement (.deferredFaultArrive core gang id) := rfl
theorem faultResolveResume (core gang sub : Nat) (act : FirmwareAct) : Statement (.faultResolveResume core gang sub act) :=
  rfl
theorem memoryAccessPerform (core gang id line : Nat) : Statement (.memoryAccessPerform core gang id line) := rfl
theorem gangRetire (core gang : Nat) : Statement (.gangRetire core gang) := rfl
theorem teamAdmit (grid core : Nat) : Statement (.teamAdmit grid core) := rfl
theorem teamEvict (core team : Nat) : Statement (.teamEvict core team) := rfl
theorem teamRestore (pid frame core : Nat) : Statement (.teamRestore pid frame core) := rfl
theorem nop (f : CForm) : Statement (.nop f) := by simp [Statement, encode, isEvent, op_packC]
theorem br (f : CForm) : Statement (.br f) := by simp [Statement, encode, isEvent, op_packC]
theorem brc (f : CForm) : Statement (.brc f) := by simp [Statement, encode, isEvent, op_packC]
theorem brx (f : CForm) : Statement (.brx f) := by simp [Statement, encode, isEvent, op_packC]
theorem jumpTableEntryReturn (core gang sub : Nat) : Statement (.jumpTableEntryReturn core gang sub) := rfl
theorem lpad (f : CForm) : Statement (.lpad f) := by simp [Statement, encode, isEvent, op_packC]
theorem call (f : CForm) : Statement (.call f) := by simp [Statement, encode, isEvent, op_packC]
theorem callx (f : CForm) : Statement (.callx f) := by simp [Statement, encode, isEvent, op_packC]
theorem ret (f : CForm) : Statement (.ret f) := by simp [Statement, encode, isEvent, op_packC]
theorem spawn (f : CForm) : Statement (.spawn f) := by simp [Statement, encode, isEvent, op_packC]
theorem endFibre (f : CForm) : Statement (.endFibre f) := by simp [Statement, encode, isEvent, op_packC]
theorem yield (f : CForm) : Statement (.yield f) := by simp [Statement, encode, isEvent, op_packC]
theorem trap (f : CForm) : Statement (.trap f) := by simp [Statement, encode, isEvent, op_packC]
theorem bkpt (f : CForm) : Statement (.bkpt f) := by simp [Statement, encode, isEvent, op_packC]
theorem pset (d a b : Fin 7) (tt : BitVec 4) (g : Guard) : Statement (.pset d a b tt g) :=
  by simp [Statement, encode, isEvent, op_packPset]
theorem pmovGet (f : RForm) : Statement (.pmovGet f) := by simp [Statement, encode, isEvent, op_packR]
theorem pmovSet (f : RForm) : Statement (.pmovSet f) := by simp [Statement, encode, isEvent, op_packR]
theorem smov (f : RForm) : Statement (.smov f) := by simp [Statement, encode, isEvent, op_packR]
theorem smovi (f : IForm) : Statement (.smovi f) := by simp [Statement, encode, isEvent, op_packI]
theorem sadd (f : RForm) : Statement (.sadd f) := by simp [Statement, encode, isEvent, op_packR]
theorem ssub (f : RForm) : Statement (.ssub f) := by simp [Statement, encode, isEvent, op_packR]
theorem smul (f : RForm) : Statement (.smul f) := by simp [Statement, encode, isEvent, op_packR]
theorem sand (f : RForm) : Statement (.sand f) := by simp [Statement, encode, isEvent, op_packR]
theorem sor (f : RForm) : Statement (.sor f) := by simp [Statement, encode, isEvent, op_packR]
theorem sxor (f : RForm) : Statement (.sxor f) := by simp [Statement, encode, isEvent, op_packR]
theorem sshl (f : RForm) : Statement (.sshl f) := by simp [Statement, encode, isEvent, op_packR]
theorem sshr (f : RForm) : Statement (.sshr f) := by simp [Statement, encode, isEvent, op_packR]
theorem ssar (f : RForm) : Statement (.ssar f) := by simp [Statement, encode, isEvent, op_packR]
theorem scmp (f : RForm) : Statement (.scmp f) := by simp [Statement, encode, isEvent, op_packR]
theorem ssel (f : RForm) : Statement (.ssel f) := by simp [Statement, encode, isEvent, op_packR]
theorem srd (f : YForm) : Statement (.srd f) := by simp [Statement, encode, isEvent, op_packY]
theorem vadd (f : RForm) : Statement (.vadd f) := by simp [Statement, encode, isEvent, op_packR]
theorem vaddc (f : RForm) : Statement (.vaddc f) := by simp [Statement, encode, isEvent, op_packR]
theorem vsub (f : RForm) : Statement (.vsub f) := by simp [Statement, encode, isEvent, op_packR]
theorem vmul (f : RForm) : Statement (.vmul f) := by simp [Statement, encode, isEvent, op_packR]
theorem vmad (f : RForm) : Statement (.vmad f) := by simp [Statement, encode, isEvent, op_packR]
theorem vmin (f : RForm) : Statement (.vmin f) := by simp [Statement, encode, isEvent, op_packR]
theorem vmax (f : RForm) : Statement (.vmax f) := by simp [Statement, encode, isEvent, op_packR]
theorem vand (f : RForm) : Statement (.vand f) := by simp [Statement, encode, isEvent, op_packR]
theorem vor (f : RForm) : Statement (.vor f) := by simp [Statement, encode, isEvent, op_packR]
theorem vxor (f : RForm) : Statement (.vxor f) := by simp [Statement, encode, isEvent, op_packR]
theorem vnot (f : RForm) : Statement (.vnot f) := by simp [Statement, encode, isEvent, op_packR]
theorem vshl (f : RForm) : Statement (.vshl f) := by simp [Statement, encode, isEvent, op_packR]
theorem vshr (f : RForm) : Statement (.vshr f) := by simp [Statement, encode, isEvent, op_packR]
theorem vsar (f : RForm) : Statement (.vsar f) := by simp [Statement, encode, isEvent, op_packR]
theorem vpopc (f : RForm) : Statement (.vpopc f) := by simp [Statement, encode, isEvent, op_packR]
theorem vclz (f : RForm) : Statement (.vclz f) := by simp [Statement, encode, isEvent, op_packR]
theorem vctz (f : RForm) : Statement (.vctz f) := by simp [Statement, encode, isEvent, op_packR]
theorem vbfe (f : RForm) : Statement (.vbfe f) := by simp [Statement, encode, isEvent, op_packR]
theorem vbfi (f : RForm) : Statement (.vbfi f) := by simp [Statement, encode, isEvent, op_packR]
theorem vcmp (f : RForm) : Statement (.vcmp f) := by simp [Statement, encode, isEvent, op_packR]
theorem vsel (f : RForm) : Statement (.vsel f) := by simp [Statement, encode, isEvent, op_packR]
theorem vmov (f : RForm) : Statement (.vmov f) := by simp [Statement, encode, isEvent, op_packR]
theorem vmovi (f : IForm) : Statement (.vmovi f) := by simp [Statement, encode, isEvent, op_packI]
theorem vfadd (f : RForm) : Statement (.vfadd f) := by simp [Statement, encode, isEvent, op_packR]
theorem vfsub (f : RForm) : Statement (.vfsub f) := by simp [Statement, encode, isEvent, op_packR]
theorem vfmul (f : RForm) : Statement (.vfmul f) := by simp [Statement, encode, isEvent, op_packR]
theorem vfma (f : RForm) : Statement (.vfma f) := by simp [Statement, encode, isEvent, op_packR]
theorem vfmin (f : RForm) : Statement (.vfmin f) := by simp [Statement, encode, isEvent, op_packR]
theorem vfmax (f : RForm) : Statement (.vfmax f) := by simp [Statement, encode, isEvent, op_packR]
theorem vfcmp (f : RForm) : Statement (.vfcmp f) := by simp [Statement, encode, isEvent, op_packR]
theorem vfclass (f : RForm) : Statement (.vfclass f) := by simp [Statement, encode, isEvent, op_packR]
theorem vrcp (f : RForm) : Statement (.vrcp f) := by simp [Statement, encode, isEvent, op_packR]
theorem vrsq (f : RForm) : Statement (.vrsq f) := by simp [Statement, encode, isEvent, op_packR]
theorem vsqrt (f : RForm) : Statement (.vsqrt f) := by simp [Statement, encode, isEvent, op_packR]
theorem vdiv (f : RForm) : Statement (.vdiv f) := by simp [Statement, encode, isEvent, op_packR]
theorem vexp2 (f : RForm) : Statement (.vexp2 f) := by simp [Statement, encode, isEvent, op_packR]
theorem vlog2 (f : RForm) : Statement (.vlog2 f) := by simp [Statement, encode, isEvent, op_packR]
theorem vsinpi (f : RForm) : Statement (.vsinpi f) := by simp [Statement, encode, isEvent, op_packR]
theorem vcospi (f : RForm) : Statement (.vcospi f) := by simp [Statement, encode, isEvent, op_packR]
theorem vfract (f : RForm) : Statement (.vfract f) := by simp [Statement, encode, isEvent, op_packR]
theorem vfrnd (f : RForm) : Statement (.vfrnd f) := by simp [Statement, encode, isEvent, op_packR]
theorem vldexp (f : RForm) : Statement (.vldexp f) := by simp [Statement, encode, isEvent, op_packR]
theorem vfrexp (f : RForm) : Statement (.vfrexp f) := by simp [Statement, encode, isEvent, op_packR]
theorem vcvt (src : Ty) (f : RForm) : Statement (.vcvt src f) := by simp [Statement, encode, isEvent, op_packTyped]
theorem vpack (f : RForm) : Statement (.vpack f) := by simp [Statement, encode, isEvent, op_packR]
theorem vunpack (f : RForm) : Statement (.vunpack f) := by simp [Statement, encode, isEvent, op_packR]
theorem vcamrel (f : RForm) : Statement (.vcamrel f) := by simp [Statement, encode, isEvent, op_packR]
theorem vshuf (f : RForm) : Statement (.vshuf f) := by simp [Statement, encode, isEvent, op_packR]
theorem vswz (f : RForm) : Statement (.vswz f) := by simp [Statement, encode, isEvent, op_packR]
theorem vbcast (f : RForm) : Statement (.vbcast f) := by simp [Statement, encode, isEvent, op_packR]
theorem vvote (f : RForm) : Statement (.vvote f) := by simp [Statement, encode, isEvent, op_packR]
theorem vred (f : RForm) : Statement (.vred f) := by simp [Statement, encode, isEvent, op_packR]
theorem vscan (f : RForm) : Statement (.vscan f) := by simp [Statement, encode, isEvent, op_packR]
theorem vfree (f : EForm) : Statement (.vfree f) := by simp [Statement, encode, isEvent, op_packE]
theorem ld (f : MForm) : Statement (.ld f) := by simp [Statement, encode, isEvent, op_packM]
theorem st (f : MForm) : Statement (.st f) := by simp [Statement, encode, isEvent, op_packM]
theorem sld (f : MForm) : Statement (.sld f) := by simp [Statement, encode, isEvent, op_packM]
theorem lds (f : MForm) : Statement (.lds f) := by simp [Statement, encode, isEvent, op_packM]
theorem sts (f : MForm) : Statement (.sts f) := by simp [Statement, encode, isEvent, op_packM]
theorem atom (f : MForm) : Statement (.atom f) := by simp [Statement, encode, isEvent, op_packM]
theorem atoms (f : MForm) : Statement (.atoms f) := by simp [Statement, encode, isEvent, op_packM]
theorem fence (f : MForm) : Statement (.fence f) := by simp [Statement, encode, isEvent, op_packM]
theorem pref (f : MForm) : Statement (.pref f) := by simp [Statement, encode, isEvent, op_packM]
theorem fec (f : MForm) : Statement (.fec f) := by simp [Statement, encode, isEvent, op_packM]
theorem woreset (f : MForm) : Statement (.woreset f) := by simp [Statement, encode, isEvent, op_packM]
theorem mma (f : XForm) : Statement (.mma f) := by simp [Statement, encode, isEvent, op_packX]
theorem mmaRetire (core id : Nat) : Statement (.mmaRetire core id) := rfl
theorem acczero (f : EForm) : Statement (.acczero f) := by simp [Statement, encode, isEvent, op_packE]
theorem accld (f : EForm) : Statement (.accld f) := by simp [Statement, encode, isEvent, op_packE]
theorem accst (f : EForm) : Statement (.accst f) := by simp [Statement, encode, isEvent, op_packE]
theorem accout (src : Ty) (f : RForm) : Statement (.accout src f) := by simp [Statement, encode, isEvent, op_packTyped]
theorem accwin (f : EForm) : Statement (.accwin f) := by simp [Statement, encode, isEvent, op_packE]
theorem accwinPerform (core id : Nat) : Statement (.accwinPerform core id) := rfl
theorem cbload (f : EForm) : Statement (.cbload f) := by simp [Statement, encode, isEvent, op_packE]
theorem cbvalid (f : EForm) : Statement (.cbvalid f) := by simp [Statement, encode, isEvent, op_packE]
theorem codebookBankWrite (core id : Nat) : Statement (.codebookBankWrite core id) := rfl
theorem vexpand (f : RForm) : Statement (.vexpand f) := by simp [Statement, encode, isEvent, op_packR]
theorem spuracc (f : EForm) : Statement (.spuracc f) := by simp [Statement, encode, isEvent, op_packE]
theorem spur (f : EForm) : Statement (.spur f) := by simp [Statement, encode, isEvent, op_packE]
theorem spurPartnerWork (cluster id partner : Nat) : Statement (.spurPartnerWork cluster id partner) := rfl
theorem spurStatusReady (cluster id : Nat) : Statement (.spurStatusReady cluster id) := rfl
theorem cpy (f : EForm) : Statement (.cpy f) := by simp [Statement, encode, isEvent, op_packE]
theorem cpystat (f : EForm) : Statement (.cpystat f) := by simp [Statement, encode, isEvent, op_packE]
theorem copyStart (cluster unit : Nat) : Statement (.copyStart cluster unit) := rfl
theorem copyGranuleDeliver (cluster unit : Nat) : Statement (.copyGranuleDeliver cluster unit) := rfl
theorem copyEnd (cluster unit : Nat) : Statement (.copyEnd cluster unit) := rfl
theorem barinit (f : EForm) : Statement (.barinit f) := by simp [Statement, encode, isEvent, op_packE]
theorem bara (f : EForm) : Statement (.bara f) := by simp [Statement, encode, isEvent, op_packE]
theorem barw (f : EForm) : Statement (.barw f) := by simp [Statement, encode, isEvent, op_packE]
theorem baraw (f : EForm) : Statement (.baraw f) := by simp [Statement, encode, isEvent, op_packE]
theorem rangeset (f : EForm) : Statement (.rangeset f) := by simp [Statement, encode, isEvent, op_packE]
theorem take (f : EForm) : Statement (.take f) := by simp [Statement, encode, isEvent, op_packE]
theorem prim (f : EForm) : Statement (.prim f) := by simp [Statement, encode, isEvent, op_packE]
theorem rasterSampleWrite (cluster : Nat) : Statement (.rasterSampleWrite cluster) := rfl
theorem flushClassesArrive (core gang id : Nat) : Statement (.flushClassesArrive core gang id) := rfl
theorem occq (f : EForm) : Statement (.occq f) := by simp [Statement, encode, isEvent, op_packE]
theorem rayq (f : EForm) : Statement (.rayq f) := by simp [Statement, encode, isEvent, op_packE]
theorem rayqDeliver (core gang id lane : Nat) : Statement (.rayqDeliver core gang id lane) := rfl
theorem raywait (f : EForm) : Statement (.raywait f) := by simp [Statement, encode, isEvent, op_packE]
theorem txreq (f : EForm) : Statement (.txreq f) := by simp [Statement, encode, isEvent, op_packE]
theorem txwait (f : EForm) : Statement (.txwait f) := by simp [Statement, encode, isEvent, op_packE]
theorem txfill (f : EForm) : Statement (.txfill f) := by simp [Statement, encode, isEvent, op_packE]
theorem txinvKey (f : EForm) : Statement (.txinvKey f) := by simp [Statement, encode, isEvent, op_packE]
theorem txinvInfl (f : EForm) : Statement (.txinvInfl f) := by simp [Statement, encode, isEvent, op_packE]
theorem txframe (f : EForm) : Statement (.txframe f) := by simp [Statement, encode, isEvent, op_packE]
theorem txpinSet (f : EForm) : Statement (.txpinSet f) := by simp [Statement, encode, isEvent, op_packE]
theorem txpinClr (f : EForm) : Statement (.txpinClr f) := by simp [Statement, encode, isEvent, op_packE]
theorem clockHandAdvance (die pool : Nat) : Statement (.clockHandAdvance die pool) := rfl
theorem qpush (f : EForm) : Statement (.qpush f) := by simp [Statement, encode, isEvent, op_packE]
theorem qpop (f : EForm) : Statement (.qpop f) := by simp [Statement, encode, isEvent, op_packE]
theorem amplify (f : EForm) : Statement (.amplify f) := by simp [Statement, encode, isEvent, op_packE]
theorem launch (f : EForm) : Statement (.launch f) := by simp [Statement, encode, isEvent, op_packE]
theorem wallowerFire (pid node : Nat) : Statement (.wallowerFire pid node) := rfl
theorem sysrd (f : YForm) : Statement (.sysrd f) := by simp [Statement, encode, isEvent, op_packY]
theorem syswr (f : YForm) : Statement (.syswr f) := by simp [Statement, encode, isEvent, op_packY]
theorem eret (f : CForm) : Statement (.eret f) := by simp [Statement, encode, isEvent, op_packC]
theorem eretSkip (f : CForm) : Statement (.eretSkip f) := by simp [Statement, encode, isEvent, op_packC]
theorem attrset (f : EForm) : Statement (.attrset f) := by simp [Statement, encode, isEvent, op_packE]
theorem attrsetPageComplete (core gang id : Nat) : Statement (.attrsetPageComplete core gang id) := rfl
theorem tlbshoot (f : EForm) : Statement (.tlbshoot f) := by simp [Statement, encode, isEvent, op_packE]
theorem cacheopWb (f : EForm) : Statement (.cacheopWb f) := by simp [Statement, encode, isEvent, op_packE]
theorem cacheopInv (f : EForm) : Statement (.cacheopInv f) := by simp [Statement, encode, isEvent, op_packE]
theorem cacheopDiscard (f : EForm) : Statement (.cacheopDiscard f) := by simp [Statement, encode, isEvent, op_packE]
theorem cacheopIinv (f : EForm) : Statement (.cacheopIinv f) := by simp [Statement, encode, isEvent, op_packE]
theorem cacheopClrlost (f : EForm) : Statement (.cacheopClrlost f) := by simp [Statement, encode, isEvent, op_packE]
theorem firmcall (f : CForm) : Statement (.firmcall f) := by simp [Statement, encode, isEvent, op_packC]
theorem firmcallReturn (core gang sub : Nat) (r0 r1 r2 r3 : Word) : Statement (.firmcallReturn core gang sub r0 r1 r2 r3) :=
  rfl
theorem gets (core asid line : Nat) : Statement (.gets core asid line) := rfl
theorem getm (core asid line : Nat) : Statement (.getm core asid line) := rfl
theorem homeAtomic (core gang id : Nat) : Statement (.homeAtomic core gang id) := rfl
theorem engineLineRequest (cluster unit asid line : Nat) : Statement (.engineLineRequest cluster unit asid line) := rfl
theorem putsPute (core asid line : Nat) : Statement (.putsPute core asid line) := rfl
theorem putmPuto (core asid line : Nat) : Statement (.putmPuto core asid line) := rfl
theorem l2EvictRecall (asid line : Nat) : Statement (.l2EvictRecall asid line) := rfl
theorem probeAck (core asid line : Nat) : Statement (.probeAck core asid line) := rfl
theorem engineLineRelease (cluster unit asid line : Nat) : Statement (.engineLineRelease cluster unit asid line) := rfl
theorem watchNotice (pline : Nat) : Statement (.watchNotice pline) := rfl
theorem translationWalk (vmid asid page : Nat) : Statement (.translationWalk vmid asid page) := rfl
theorem dieLinkFail (a b : Nat) (lines : List (Nat × Nat)) : Statement (.dieLinkFail a b lines) := rfl
theorem sramUncorrectable (core : Nat) (site : SramSite) : Statement (.sramUncorrectable core site) := rfl
theorem l2Uncorrectable (site : L2Site) : Statement (.l2Uncorrectable site) := rfl
theorem queueAccept (pid queue : Nat) : Statement (.queueAccept pid queue) := rfl
theorem gridEligible (grid : Nat) : Statement (.gridEligible grid) := rfl
theorem gridRetire (grid : Nat) : Statement (.gridRetire grid) := rfl
theorem watchdogExpire (pid : Nat) : Statement (.watchdogExpire pid) := rfl
theorem hostMemAccess (pa len : Nat) (write : Option (List Byte)) : Statement (.hostMemAccess pa len write) := rfl
theorem remoteRequestArrive (req : RemoteRequest) : Statement (.remoteRequestArrive req) := rfl
theorem remoteReplyArrive (id : Nat) (reply : RemoteReply) : Statement (.remoteReplyArrive id reply) := rfl
theorem remoteTimeout (id : Nat) : Statement (.remoteTimeout id) := rfl
theorem flitReplay (port : Nat) : Statement (.flitReplay port) := rfl
theorem portRetrain (port : Nat) : Statement (.portRetrain port) := rfl
theorem portDown (port : Nat) : Statement (.portDown port) := rfl
theorem coldReset : Statement .coldReset := rfl
theorem startStageComplete (fail : Option (Nat × Nat)) : Statement (.startStageComplete fail) := rfl
theorem startWatchdogExpire : Statement .startWatchdogExpire := rfl
theorem hostReset : Statement .hostReset := rfl
theorem vfFlr (vf : Nat) : Statement (.vfFlr vf) := rfl
theorem thermalTrip : Statement .thermalTrip := rfl
theorem getstatus (fn : Nat) : Statement (.getstatus fn) := rfl
theorem restart (fn arg : Nat) : Statement (.restart fn arg) := rfl
theorem imgwrite (fn off : Nat) (chunk : List Byte) : Statement (.imgwrite fn off chunk) := rfl
theorem imgselect (fn : Nat) (arg : Word) : Statement (.imgselect fn arg) := rfl
theorem partcreate (fn pid : Nat) (clusters : BitVec 64) (vmid vf : Nat) : Statement (.partcreate fn pid clusters vmid vf) :=
  rfl
theorem partdestroy (fn pid : Nat) : Statement (.partdestroy fn pid) := rfl
theorem partreset (fn pid : Nat) : Statement (.partreset fn pid) := rfl
theorem preemptCmd (fn pid : Nat) (clusters : BitVec 64) : Statement (.preemptCmd fn pid clusters) := rfl
theorem queueset (fn pid queue : Nat) (desc : BitVec 128) : Statement (.queueset fn pid queue desc) := rfl
theorem poolon (fn pool : Nat) : Statement (.poolon fn pool) := rfl
theorem pooloff (fn pool : Nat) : Statement (.pooloff fn pool) := rfl
theorem viewset (fn vmid : Nat) (view : DWord) : Statement (.viewset fn vmid view) := rfl
theorem pagegive (fn : Nat) (frames : List Nat) : Statement (.pagegive fn frames) := rfl
theorem pagetake (fn : Nat) (frames : List Nat) : Statement (.pagetake fn frames) := rfl
theorem drresume (fn vmid : Nat) : Statement (.drresume fn vmid) := rfl
theorem evring (fn base entries : Nat) : Statement (.evring fn base entries) := rfl
theorem svnraise (fn : Nat) : Statement (.svnraise fn) := rfl
theorem dbgattach (fn pid arg : Nat) : Statement (.dbgattach fn pid arg) := rfl
theorem dbglist (fn pid : Nat) : Statement (.dbglist fn pid) := rfl
theorem dbgread (fn pid core slot : Nat) : Statement (.dbgread fn pid core slot) := rfl
theorem dbgwrite (fn pid core slot : Nat) (fields : List DebugField) : Statement (.dbgwrite fn pid core slot fields) := rfl
theorem dbgstep (fn pid core slot fibre : Nat) : Statement (.dbgstep fn pid core slot fibre) := rfl
theorem dbgresume (fn pid : Nat) (all : Bool) (core slot : Nat) : Statement (.dbgresume fn pid all core slot) := rfl
theorem dbghalt (fn pid core : Nat) (on : Bool) : Statement (.dbghalt fn pid core on) := rfl
theorem dbgbkpt (fn pid n : Nat) (lo hi : Word) : Statement (.dbgbkpt fn pid n lo hi) := rfl
theorem regread (fn : Nat) (addr : DWord) : Statement (.regread fn addr) := rfl
theorem regwrite (fn : Nat) (addr value : DWord) : Statement (.regwrite fn addr value) := rfl
theorem registerWrite (reg : BusReg) (value : DWord) : Statement (.registerWrite reg value) := rfl
theorem thermalTripClear : Statement .thermalTripClear := rfl
theorem portTrained (port : Nat) : Statement (.portTrained port) := rfl
theorem engineFirmwareServiceDone (cluster unit : Nat) : Statement (.engineFirmwareServiceDone cluster unit) := rfl
theorem switchUndeliverable (id : Nat) : Statement (.switchUndeliverable id) := rfl

end Sys2Proof.Laws.Encoding
end

