-- ==== Sys2Proof/Laws/Touch.lean ====
section
/-! SUPPORT. What the small marks of an access change, and nothing else: a read's hit in the L2 (R319), the old words kept of
code that is written (R44), and a load's joining of an earlier fault (R203). -/

namespace Sys2Proof.Machine

/-- `t` is `s` but for the times at which L2 lines were last used. -/
def OnlyUse (s t : State) : Prop :=
  ∃ (l2 : List L2Line) (clock : Nat), t = { s with mem := { s.mem with l2 := l2, useClock := clock } } ∧
    l2.map (fun x => { x with used := 0 }) = s.mem.l2.map fun x => { x with used := 0 }

theorem OnlyUse.refl (s : State) : OnlyUse s s := ⟨s.mem.l2, s.mem.useClock, rfl, rfl⟩

theorem OnlyUse.trans {s t u : State} (h : OnlyUse s t) (k : OnlyUse t u) : OnlyUse s u := by
  obtain ⟨l, c, rfl, hl⟩ := h
  obtain ⟨m, d, rfl, hm⟩ := k
  exact ⟨m, d, rfl, hm.trans hl⟩

theorem State.touchL2_onlyUse (s : State) (tag line pline : Nat) : OnlyUse s (s.touchL2 tag line pline) := by
  refine ⟨_, _, rfl, ?_⟩
  have keep : ∀ (b : Bool) (x : L2Line), ({ (if b then { x with used := s.mem.useClock + 1 } else x) with used := 0 } : L2Line) =
      { x with used := 0 } := by
    intro b x; cases b <;> rfl
  simp only [State.modMem, List.map_map]
  exact List.map_congr_left fun x _ => keep _ x

theorem State.touchLine_onlyUse (s : State) (l : Ln) : OnlyUse s (s.touchLine l) := by
  unfold State.touchLine
  split
  · exact s.touchL2_onlyUse _ _ _
  · exact .refl s

theorem State.touchRead_onlyUse (s : State) (vmid asid : Nat) (group : Option Group) (vas : List Nat) :
    OnlyUse s (s.touchRead vmid asid group vas) := by
  unfold State.touchRead
  induction vas generalizing s with
  | nil => exact .refl s
  | cons va vas ih =>
    rw [List.foldl_cons]
    refine OnlyUse.trans ?_ (ih _)
    split
    · exact s.touchLine_onlyUse _
    · exact s.touchLine_onlyUse _
    · exact .refl s

theorem State.schedTouch_onlyUse (s : State) (vmid asid va n : Nat) : OnlyUse s (s.schedTouch vmid asid va n) :=
  s.touchRead_onlyUse _ _ _ _

theorem State.noteStale_changes (s : State) (pline : Nat) (ws : List DWord) :
    ∃ st, s.noteStale pline ws = { s with mem := { s.mem with stale := st } } := by
  unfold State.noteStale
  split
  · exact ⟨s.mem.stale, rfl⟩
  · exact ⟨_, rfl⟩

theorem State.staleCode_changes (s : State) (l : Ln) :
    ∃ st, s.staleCode l = { s with mem := { s.mem with stale := st } } := s.noteStale_changes _ _

theorem Gang.joinFault_changes (g : Gang) (id : Nat) :
    ∃ pending counters, g.joinFault id = { g with pending := pending, counters := counters } := by
  unfold Gang.joinFault
  split
  · exact ⟨g.pending, g.counters, rfl⟩
  · split
    · split
      · exact ⟨g.pending, g.counters, rfl⟩
      · exact ⟨_, _, rfl⟩
    · exact ⟨g.pending, g.counters, rfl⟩

end Sys2Proof.Machine
end

