-- ==== Sys2Proof/Tests/Slice0.lean ====
section
/-! SUPPORT. Tests of the model. The words of `test_decode_…` are written out from the opcode map R65 and the layouts of
R52 to R57, the words of the manual's examples among them; `test_wellformed_…` holds terms that a field rule refuses; each
`test_witness_…` shows a state and operands that meet the hypotheses of the statement it names. -/

open Sys2Proof Sys2Proof.Machine
namespace Sys2Proof.Tests

-- The theorems are checked one after another: many kernel checks at once ask for more threads than a sandbox gives.
set_option Elab.async false

/-! ### Helpers -/

def rf (t : Ty) (d a b c : Opd) : RForm :=
  { t := t, d := d, a := a, b := b, c := c, lrA := false, lrB := false, lrC := false, g := .always, rnd := 0, sat := false,
    fn := 0 }

def ef (sub : BitVec 6) (d a b c : Opd) : EForm :=
  { sub := sub, d := d, a := a, b := b, c := c, lrA := false, lrB := false, lrC := false, g := .always, mod := 0 }

def cf (aux : BitVec 8) (a : Opd) (imm : BitVec 32) : CForm := { g := .always, aux := aux, a := a, imm := imm }

def mf (t : Ty) (d a : Opd) : MForm :=
  { t := t, d := d, a := a, off := 0, scope := 0, ord := 0, hint := 0, lrA := false, lrD := false, g := .always, sub := 0 }

def yf (sel : BitVec 13) (d a : Opd) : YForm :=
  { sel := sel, d := d, a := a, b := .none, c := .none, lrA := false, lrB := false, lrC := false, g := .always }

def nop : Instr := .nop (cf 0 .none 0)

/-- Core 0 with one gang of 32 fibres, whose clause is the one instruction. -/
def one (i : Instr) : State := State.reset.withFetchWord 64 ((encode i).getD 0).toNat

/-- Who issues in `one i`. -/
def who (i : Instr) : Issuer :=
  { core := 0, pipe := 0, clause := oneClause 0 3 ((encode i).getD 0),
    gang := launchGang 2 0 32 512 3 (launchSub 3 32 0 LaunchRec.one.args), sub := launchSub 3 32 0 LaunchRec.one.args,
    team := launchTeam 2 1 0 LaunchRec.one KDesc.one 0 0 [],
    seen := launchTeam 2 1 0 LaunchRec.one KDesc.one 0 0 [],
    grid := { Grid.accepted 0 none none 0 0 LaunchRec.one KDesc.one none true 0 0 with
      st := .eligible, nextTeam := 1, unretired := [(2, false)] } }

theorem issuer_one (i : Instr) : (one i).issuer = some (who i) := by
  simp [one, State.withFetchWord, who]; rfl

theorem parks_one (i : Instr) : ((one i).core 0).regParks = [] := by
  simp [one, State.withFetchWord]; rfl

theorem poolHas {i : Instr} {vs : List Nat} (h : (who i).gang.slotsNeed (vs.map (who i).slotOf) ≤ ((one i).core 0).regFree) :
    (who i).PoolHas (one i) vs := .inr ⟨parks_one i, h⟩

theorem ready_of {c : Issuer} {t : Touch}
    (h : (t.v.all fun v => decide (c.slotOf v ≤ 1023)) = true ∧ c.blockers t = []) : c.Ready t :=
  ⟨fun v hv => of_decide_eq_true (List.all_eq_true.mp h.1 v hv), h.2⟩

theorem executes {i : Instr} {us : List Use} {g : Guard} {preds dst : List Nat}
    (h : ((touchOf us g preds).v.all fun v => decide ((who i).slotOf v ≤ 1023)) = true ∧
      (who i).blockers (touchOf us g preds) = [] ∧ (who i).spUses us ((who i).active g) = [] ∧
      (who i).gang.slotsNeed (dst.map (who i).slotOf) ≤ ((one i).core 0).regFree) :
    (who i).Executes (one i) us g preds dst :=
  ⟨issuer_one i, ready_of ⟨h.1, h.2.1⟩, by intro x hx; rw [h.2.2.1] at hx; simp at hx, .inr ⟨parks_one i, h.2.2.2⟩⟩

/-- An instruction outstanding in the gang of `one nop`. -/
def pend (op : POp) : Pending :=
  { id := 9, ctr := .enc, word := 0, pc := 0, sub := 3, lanes := 1, live := 1, vdst := [], sdst := [], pdst := none,
    addrs := [], data := [], got := [], done := [], fails := [], passed := false, firm := [], sent := true, st := .pending,
    out := Out.none, op := op }

def withPending (p : Pending) : State := (one nop).modGang 0 0 fun g => { g with pending := [p] }

/-- A page of address space 0 that core 0 may read, write and fetch. -/
def page : TlbEntry :=
  { vmid := 0, asid := 0, page := 0, big := false, frame := 0,
    perms := { r := true, w := true, x := true, attr := .rc, owner := 0, many := false }, log := false,
    frames := [(0, { host := false, aclass := 0, acount := 1, bad := false })], logged := [] }

def mapped (s : State) (cells : List Host.Cell) : State := { s with mem := { s.mem with tlb := [page], hbm := cells } }

/-- The gang of `one nop` with its one sub-gang changed. -/
def withSub (f : SubGang → SubGang) : State := (one nop).modGang 0 0 fun g => g.modSub 3 f

/-! ### Decoding -/

/-- One word of every control instruction, written out from its row of R65 and the layout of its format. -/
theorem test_decode_control :
    decode 0x00700FF800000000 = .ok (.nop (cf 0 .none 0x0)) ∧
    decode 0x01300FF800000010 = .ok (.br { cf 0 .none 0x10 with g := .pred false 3 }) ∧
    decode 0x02701038FFFFFFF8 = .ok (.brc (cf 1 (.v 7) 0xFFFFFFF8)) ∧
    decode 0x0370083000000009 = .ok (.brx (cf 0 (.s 6) 0x9)) ∧
    decode 0x04700FF800ABCDEF = .ok (.lpad (cf 0 .none 0xABCDEF)) ∧
    decode 0x05781FF800000020 = .ok (.call (cf 129 .none 0x20)) ∧
    decode 0x067020180000001E = .ok (.callx (cf 2 (.v 3) 0x1E)) ∧
    decode 0x077007C000000000 = .ok (.ret (cf 0 (.v 248) 0x0)) ∧
    decode 0x08706FF800000040 = .ok (.spawn (cf 6 .none 0x40)) ∧
    decode 0x09E00FF800000000 = .ok (.endFibre { cf 0 .none 0x0 with g := .pred true 6 }) ∧
    decode 0x0A700FF800000000 = .ok (.yield (cf 0 .none 0x0)) ∧
    decode 0x0B700FF800001234 = .ok (.trap (cf 0 .none 0x1234)) ∧
    decode 0x0C200FF800000007 = .ok (.bkpt { cf 0 .none 0x7 with g := .pred false 2 }) ∧
    decode 0x0D03FF41A17FC446 = .ok (.pset 4 1 2 6 (.pred true 0)) ∧
    decode 0x0E0013FFFFFFC380 = .ok (.pmovGet (rf .b32 (.v 9) .none .none .none)) ∧
    decode 0x0E03FF01A2FFC381 = .ok (.pmovSet { rf .b32 .none (.s 1) (.imm 5) .none with fn := 1 }) := by
  refine ⟨rfl, rfl, rfl, rfl, rfl, rfl, rfl, rfl, rfl, rfl, rfl, rfl, rfl, rfl, rfl, rfl⟩

/-- One word of every uniform instruction, written out from its row of R65 and the layout of its format. -/
theorem test_decode_uniform :
    decode 0x0F060906FFFFC380 = .ok (.smov (rf .b64 (.s 4) (.s 6) .none .none)) ∧
    decode 0x107213FFDEADBEEF = .ok (.smovi { g := .always, lrA := false, d := .s 9, a := .none, imm := 0xDEADBEEF }) ∧
    decode 0x110A0905A0FFC388 = .ok (.sadd { rf .i32 (.s 4) (.s 5) (.imm 1) .none with sat := true }) ∧
    decode 0x12160504837FC380 = .ok (.ssub (rf .n64 (.s 2) (.s 4) (.s 6) .none)) ∧
    decode 0x130A030281FFC381 = .ok (.smul { rf .i32 (.s 1) (.s 2) (.s 3) .none with fn := 1 }) ∧
    decode 0x1402030281FFC380 = .ok (.sand (rf .b32 (.s 1) (.s 2) (.s 3) .none)) ∧
    decode 0x1502030281FFC380 = .ok (.sor (rf .b32 (.s 1) (.s 2) (.s 3) .none)) ∧
    decode 0x16060504837FC380 = .ok (.sxor (rf .b64 (.s 2) (.s 4) (.s 6) .none)) ∧
    decode 0x17020302A27FC380 = .ok (.sshl (rf .b32 (.s 1) (.s 2) (.imm 4) .none)) ∧
    decode 0x18020302A27FC380 = .ok (.sshr (rf .b32 (.s 1) (.s 2) (.imm 4) .none)) ∧
    decode 0x190605049FFFC380 = .ok (.ssar (rf .b64 (.s 2) (.s 4) (.s 63) .none)) ∧
    decode 0x1A0E030281FFC385 = .ok (.scmp { rf .n32 (.s 1) (.s 2) (.s 3) .none with fn := 5 }) ∧
    decode 0x1B02030281C00380 = .ok (.ssel (rf .b32 (.s 1) (.s 2) (.s 3) (.s 0))) ∧
    decode 0x1C020BFFFFFFC3C0 = .ok (.srd (yf 0x40 (.s 5) .none)) := by
  refine ⟨rfl, rfl, rfl, rfl, rfl, rfl, rfl, rfl, rfl, rfl, rfl, rfl, rfl, rfl⟩

/-- One word of every vector integer instruction, written out from its row of R65 and the layout of its format. -/
theorem test_decode_vector_integer :
    decode 0x201808C8C4FFE388 = .ok (.vadd { rf .i16x2 (.v 4) (.v 200) (.sp 9) .none with lrA := true, sat := true }) ∧
    decode 0x21140806047FD080 = .ok (.vaddc { rf .n64 (.v 4) (.v 6) (.v 8) .none with lrB := true, g := .pred false 1 }) ∧
    decode 0x22080805FF7FC380 = .ok (.vsub (rf .i32 (.v 4) (.v 5) .lane .none)) ∧
    decode 0x230C030201FFC381 = .ok (.vmul { rf .n32 (.v 1) (.s 2) (.v 3) .none with fn := 1 }) ∧
    decode 0x2410040403020B80 = .ok (.vmad { rf .i64 (.v 2) (.v 4) (.v 6) (.v 8) with lrC := true }) ∧
    decode 0x2520020201FFC380 = .ok (.vmin (rf .i8x4 (.v 1) (.v 2) (.v 3) .none)) ∧
    decode 0x2624020201FFC380 = .ok (.vmax (rf .n8x4 (.v 1) (.v 2) (.v 3) .none)) ∧
    decode 0x2700020201FFC380 = .ok (.vand (rf .b32 (.v 1) (.v 2) (.v 3) .none)) ∧
    decode 0x28040404037FC380 = .ok (.vor (rf .b64 (.v 2) (.v 4) (.v 6) .none)) ∧
    decode 0x29037E0201FFC380 = .ok (.vxor (rf .b32 (.sp 63) (.v 2) (.v 3) .none)) ∧
    decode 0x2A000202FFFFC380 = .ok (.vnot (rf .b32 (.v 1) (.v 2) .none .none)) ∧
    decode 0x2B04040403FFC380 = .ok (.vshl (rf .b64 (.v 2) (.v 4) (.v 7) .none)) ∧
    decode 0x2C000202AFFFC380 = .ok (.vshr (rf .b32 (.v 1) (.v 2) (.imm 31) .none)) ∧
    decode 0x2D00020201FFC380 = .ok (.vsar (rf .b32 (.v 1) (.v 2) (.v 3) .none)) ∧
    decode 0x2E040202FFFFC380 = .ok (.vpopc (rf .b64 (.v 1) (.v 2) .none .none)) ∧
    decode 0x2F000202FFFFC380 = .ok (.vclz (rf .b32 (.v 1) (.v 2) .none .none)) ∧
    decode 0x30040202FFFFC380 = .ok (.vctz (rf .b64 (.v 1) (.v 2) .none .none)) ∧
    decode 0x3108020201FFC380 = .ok (.vbfe (rf .i32 (.v 1) (.v 2) (.v 3) .none)) ∧
    decode 0x3200020201810380 = .ok (.vbfi (rf .b32 (.v 1) (.v 2) (.v 3) (.v 4))) ∧
    decode 0x330FFE0201D18383 = .ok (.vcmp { rf .n32 .none (.v 2) (.v 3) (.imm 6) with fn := 3 }) ∧
    decode 0x3400020201D08381 = .ok (.vsel { rf .b32 (.v 1) (.v 2) (.v 3) (.imm 2) with fn := 1 }) ∧
    decode 0x35040404FFFFC380 = .ok (.vmov (rf .b64 (.v 2) (.v 4) .none .none)) ∧
    decode 0x36B1FFFFFFFFFFFF = .ok (.vmovi { g := .pred true 3, lrA := false, d := .v 255, a := .none, imm := 0xFFFFFFFF }) := by
  refine ⟨rfl, rfl, rfl, rfl, rfl, rfl, rfl, rfl, rfl, rfl, rfl, rfl, rfl, rfl, rfl, rfl, rfl, rfl, rfl, rfl, rfl, rfl, rfl⟩

/-- One word of every vector float instruction, written out from its row of R65 and the layout of its format. -/
theorem test_decode_vector_float :
    decode 0x37400202B87FC3C0 = .ok (.vfadd { rf .f32 (.v 1) (.v 2) (.flt 0) .none with rnd := 4 }) ∧
    decode 0x38440404037FC388 = .ok (.vfsub { rf .f64 (.v 2) (.v 4) (.v 6) .none with sat := true }) ∧
    decode 0x3954020201FFC390 = .ok (.vfmul { rf .bf16x2 (.v 1) (.v 2) (.v 3) .none with rnd := 1 }) ∧
    decode 0x3A48020201813B80 = .ok (.vfma { rf .f16 (.v 1) (.v 2) (.v 3) (.v 4) with lrA := true, lrB := true, lrC := true }) ∧
    decode 0x3B40020201FFC380 = .ok (.vfmin (rf .f32 (.v 1) (.v 2) (.v 3) .none)) ∧
    decode 0x3C4C020201FFC380 = .ok (.vfmax (rf .f16x2 (.v 1) (.v 2) (.v 3) .none)) ∧
    decode 0x3D44040403500387 = .ok (.vfcmp { rf .f64 (.v 2) (.v 4) (.v 6) (.imm 0) with fn := 7 }) ∧
    decode 0x3E500202FFFFC380 = .ok (.vfclass (rf .bf16 (.v 1) (.v 2) .none .none)) ∧
    decode 0x3F400202FFFFC390 = .ok (.vrcp { rf .f32 (.v 1) (.v 2) .none .none with rnd := 1 }) ∧
    decode 0x40480202FFFFC380 = .ok (.vrsq (rf .f16 (.v 1) (.v 2) .none .none)) ∧
    decode 0x41500202FFFFC380 = .ok (.vsqrt (rf .bf16 (.v 1) (.v 2) .none .none)) ∧
    decode 0x4240020201FFC380 = .ok (.vdiv (rf .f32 (.v 1) (.v 2) (.v 3) .none)) ∧
    decode 0x43400202FFFFC380 = .ok (.vexp2 (rf .f32 (.v 1) (.v 2) .none .none)) ∧
    decode 0x44400202FFFFC380 = .ok (.vlog2 (rf .f32 (.v 1) (.v 2) .none .none)) ∧
    decode 0x45400202FFFFC380 = .ok (.vsinpi (rf .f32 (.v 1) (.v 2) .none .none)) ∧
    decode 0x46400202FFFFC380 = .ok (.vcospi (rf .f32 (.v 1) (.v 2) .none .none)) ∧
    decode 0x47440404FFFFC380 = .ok (.vfract (rf .f64 (.v 2) (.v 4) .none .none)) ∧
    decode 0x48400202FFFFC384 = .ok (.vfrnd { rf .f32 (.v 1) (.v 2) .none .none with fn := 4 }) ∧
    decode 0x4940020201FFC380 = .ok (.vldexp (rf .f32 (.v 1) (.v 2) (.v 3) .none)) ∧
    decode 0x4A440202FFFFC381 = .ok (.vfrexp { rf .f64 (.v 1) (.v 2) .none .none with fn := 1 }) ∧
    decode 0x4B080202FF8443B8 = .ok (.vcvt .f64 { rf .i32 (.v 1) (.v 2) .none .none with rnd := 3, sat := true }) ∧
    decode 0x4C840202FF810383 = .ok (.vpack { rf .n8 (.v 1) (.v 2) .none (.v 4) with fn := 3 }) ∧
    decode 0x4D800202FFFFC382 = .ok (.vunpack { rf .i8 (.v 1) (.v 2) .none .none with fn := 2 }) ∧
    decode 0x4E400202027FC380 = .ok (.vcamrel (rf .f32 (.v 1) (.v 2) (.v 4) .none)) := by
  refine ⟨rfl, rfl, rfl, rfl, rfl, rfl, rfl, rfl, rfl, rfl, rfl, rfl, rfl, rfl, rfl, rfl, rfl, rfl, rfl, rfl, rfl, rfl, rfl, rfl⟩

/-- One word of every cross lane instruction, written out from its row of R65 and the layout of its format. -/
theorem test_decode_cross_lane :
    decode 0x4F00020201810383 = .ok (.vshuf { rf .b32 (.v 1) (.v 2) (.v 3) (.v 4) with fn := 3 }) ∧
    decode 0x5004040482818380 = .ok (.vswz (rf .b64 (.v 2) (.v 4) (.s 5) (.v 6))) ∧
    decode 0x51000202AFFFC380 = .ok (.vbcast (rf .b32 (.v 1) (.v 2) (.imm 31) .none)) ∧
    decode 0x52000202FFFFC382 = .ok (.vvote { rf .b32 (.v 1) (.v 2) .none .none with fn := 2 }) ∧
    decode 0x53400202FFFFC390 = .ok (.vred { rf .f32 (.v 1) (.v 2) .none .none with rnd := 1 }) ∧
    decode 0x540C0202FF810382 = .ok (.vscan { rf .n32 (.v 1) (.v 2) .none (.v 4) with fn := 2 }) ∧
    decode 0x5503FE10A47FC380 = .ok (.vfree (ef 0 .none (.v 16) (.imm 8) .none)) := by
  refine ⟨rfl, rfl, rfl, rfl, rfl, rfl, rfl⟩

/-- One word of every memory instruction, written out from its row of R65 and the layout of its format. -/
theorem test_decode_memory :
    decode 0x60840808FFFAC9C0 = .ok (.ld { mf .n8 (.v 4) (.v 8) with off := 0xFFF, scope := 5, ord := 1, hint := 4, lrA := true }) ∧
    decode 0x610409087FF70681 = .ok (.st { mf .b64 (.v 4) (.s 8) with off := 0x7FF, scope := 3, ord := 2, lrD := true, sub := 1, g := .pred true 2 }) ∧
    decode 0x62020908000001C2 = .ok (.sld { mf .b32 (.s 4) (.s 8) with sub := 2 }) ∧
    decode 0x63003D06010001CC = .ok (.lds { mf .b32 (.v 30) (.s 6) with off := 0x10, sub := 12 }) ∧
    decode 0x6450080500000DC0 = .ok (.sts { mf .bf16 (.v 4) (.v 5) with lrA := true, lrD := true }) ∧
    decode 0x65141814000601C2 = .ok (.atom { mf .n64 (.v 12) (.v 20) with scope := 3, sub := 2 }) ∧
    decode 0x66000808000181E7 = .ok (.atoms { mf .b32 (.v 4) (.v 8) with ord := 3, sub := 39 }) ∧
    decode 0x6703FFFF000981C0 = .ok (.fence { mf .b32 .none .none with scope := 4, ord := 3 }) ∧
    decode 0x6803FE02000031C1 = .ok (.pref { mf .b32 .none (.v 2) with hint := 3, sub := 1 }) ∧
    decode 0x6903FF02000201C2 = .ok (.fec { mf .b32 .none (.s 2) with scope := 1, sub := 2 }) ∧
    decode 0x6A020302000B01C0 = .ok (.woreset { mf .b32 (.s 1) (.s 2) with scope := 5, ord := 2 }) := by
  refine ⟨rfl, rfl, rfl, rfl, rfl, rfl, rfl, rfl, rfl, rfl, rfl⟩

set_option maxRecDepth 4000 in
/-- One word of every matrix instruction, written out from its row of R65 and the layout of its format. -/
theorem test_decode_matrix :
    decode 0x80828080A078204A = .ok (.mma { ta := .i8, tb := .cbv8, a := 16, b := 40, s := 0x3C, row := 32, bank := 1, acct := 0, lrA := true, lrB := false, ovw := true, neg := false }) ∧
    decode 0x8107FF43FFFFC380 = .ok (.acczero (ef 1 .none (.imm 3) .none .none)) ∧
    decode 0x8203FF0382FFC380 = .ok (.accld (ef 0 .none (.s 3) (.s 5) .none)) ∧
    decode 0x8307FF4282FFC380 = .ok (.accst (ef 1 .none (.imm 2) (.s 5) .none)) ∧
    decode 0x8460210302841388 = .ok (.accout .f32 { rf .e4m3 (.v 16) (.s 3) (.v 5) .none with lrB := true, sat := true }) ∧
    decode 0x8503FF40A8408380 = .ok (.accwin (ef 0 .none (.imm 0) (.imm 16) (.s 2))) ∧
    decode 0x8617FF06A0420380 = .ok (.cbload (ef 5 .none (.s 6) (.imm 0) (.s 8))) ∧
    decode 0x871FFF4080FFC380 = .ok (.cbvalid (ef 7 .none (.imm 0) (.s 1) .none)) ∧
    decode 0x88A40604A17FC383 = .ok (.vexpand { rf .cbv4 (.v 3) (.v 4) (.imm 2) .none with fn := 3 }) ∧
    decode 0x89521504107FC384 = .ok (.spur { ef 20 (.s 10) (.s 4) (.v 32) .none with mod := 4 }) ∧
    decode 0x8A53FF0CFFFFC380 = .ok (.spuracc (ef 20 .none (.s 12) .none .none)) := by
  refine ⟨rfl, rfl, rfl, rfl, rfl, rfl, rfl, rfl, rfl, rfl, rfl⟩

/-- One word of every cluster instruction, written out from its row of R65 and the layout of its format. -/
theorem test_decode_cluster :
    decode 0xA0061102FFFFC380 = .ok (.cpy (ef 1 (.s 8) (.s 2) .none .none)) ∧
    decode 0xA1020909FFFFC380 = .ok (.cpystat (ef 0 (.s 4) (.s 9) .none .none)) ∧
    decode 0xA203FF4583FFC380 = .ok (.barinit (ef 0 .none (.imm 5) (.s 7) .none)) ∧
    decode 0xA306055FA0FFC380 = .ok (.bara (ef 1 (.s 2) (.imm 31) (.imm 1) .none)) ∧
    decode 0xA4020D07A0FFC380 = .ok (.barw (ef 0 (.s 6) (.s 7) (.imm 1) .none)) ∧
    decode 0xA5022945A0FFC380 = .ok (.baraw (ef 0 (.s 20) (.imm 5) (.imm 1) .none)) ∧
    decode 0xA603FF419E7FC380 = .ok (.rangeset (ef 0 .none (.imm 1) (.s 60) .none)) ∧
    decode 0xA7020D01FFFFC380 = .ok (.take (ef 0 (.s 6) (.s 1) .none .none)) ∧
    decode 0xA8028206A1FFC380 = .ok (.qpush (ef 0 (.imm 1) (.v 6) (.imm 3) .none)) ∧
    decode 0xA902850681FFC200 = .ok (.qpop { ef 0 (.imm 2) (.s 6) (.s 3) .none with g := .pred false 4 }) ∧
    decode 0xAA028006A1824380 = .ok (.amplify (ef 0 (.imm 0) (.v 6) (.imm 3) (.v 9))) ∧
    decode 0xAB028208A7FFC380 = .ok (.launch (ef 0 (.imm 1) (.v 8) (.imm 15) .none)) ∧
    decode 0xC0045008837FC380 = .ok (.prim (ef 1 (.v 40) (.v 8) (.s 6) .none)) ∧
    decode 0xC10002028250C380 = .ok (.occq (ef 0 (.v 1) (.v 2) (.s 4) (.imm 3))) ∧
    decode 0xC20DF8F8817FC380 = .ok (.rayq (ef 3 (.v 252) (.v 248) (.s 2) .none)) ∧
    decode 0xC303FFFFFFFFC380 = .ok (.raywait (ef 0 .none .none .none .none)) := by
  refine ⟨rfl, rfl, rfl, rfl, rfl, rfl, rfl, rfl, rfl, rfl, rfl, rfl, rfl, rfl, rfl, rfl⟩

/-- One word of every millpond instruction, written out from its row of R65 and the layout of its format. -/
theorem test_decode_millpond :
    decode 0xC4002808FFFFC380 = .ok (.txreq (ef 0 (.v 20) (.v 8) .none .none)) ∧
    decode 0xC5003015FFFFC380 = .ok (.txwait (ef 0 (.v 24) (.v 21) .none .none)) ∧
    decode 0xC602090AFFFFC380 = .ok (.txfill (ef 0 (.s 4) (.s 10) .none .none)) ∧
    decode 0xC702070CFFFFC380 = .ok (.txinvKey (ef 0 (.s 3) (.s 12) .none .none)) ∧
    decode 0xC706070CFFFFC380 = .ok (.txinvInfl (ef 1 (.s 3) (.s 12) .none .none)) ∧
    decode 0xC8020747FFFFC380 = .ok (.txframe (ef 0 (.s 3) (.imm 7) .none .none)) ∧
    decode 0xC902073CFFFFC380 = .ok (.txpinSet (ef 0 (.s 3) (.s 60) .none .none)) ∧
    decode 0xC907FF3CFFFFC380 = .ok (.txpinClr (ef 1 .none (.s 60) .none .none)) := by
  refine ⟨rfl, rfl, rfl, rfl, rfl, rfl, rfl, rfl⟩

/-- One word of every system instruction, written out from its row of R65 and the layout of its format. -/
theorem test_decode_system :
    decode 0xE0220BFFFFFFC380 = .ok (.sysrd (yf 0x400 (.s 5) .none)) ∧
    decode 0xE133FF07FFFFC3E3 = .ok (.syswr (yf 0x663 .none (.s 7))) ∧
    decode 0xE2700FF800000000 = .ok (.eret (cf 0 .none 0x0)) ∧
    decode 0xE2701FF800000000 = .ok (.eretSkip (cf 1 .none 0x0)) ∧
    decode 0xE303FF08FFFFC380 = .ok (.attrset (ef 0 .none (.s 8) .none .none)) ∧
    decode 0xE407FFFFFFC1C380 = .ok (.tlbshoot (ef 1 .none .none .none (.s 7))) ∧
    decode 0xE503FF048341C380 = .ok (.cacheopWb (ef 0 .none (.s 4) (.s 6) (.s 7))) ∧
    decode 0xE507FF048341C380 = .ok (.cacheopInv (ef 1 .none (.s 4) (.s 6) (.s 7))) ∧
    decode 0xE50BFF048341C380 = .ok (.cacheopDiscard (ef 2 .none (.s 4) (.s 6) (.s 7))) ∧
    decode 0xE50FFF048341C380 = .ok (.cacheopIinv (ef 3 .none (.s 4) (.s 6) (.s 7))) ∧
    decode 0xE513FF048341C380 = .ok (.cacheopClrlost (ef 4 .none (.s 4) (.s 6) (.s 7))) ∧
    decode 0xE670088000800001 = .ok (.firmcall (cf 0 (.s 16) 0x800001)) := by
  refine ⟨rfl, rfl, rfl, rfl, rfl, rfl, rfl, rfl, rfl, rfl, rfl, rfl⟩


/-! ### Ill-formed terms: one or more for each check of a field, which WellFormed refuses -/

theorem test_wellformed_control : [Instr.nop (cf 1 .none 0), .nop (cf 0 (.v 0) 0), .nop (cf 0 .none 1), .br (cf 1 .none 0),
    .br (cf 0 (.s 0) 0), .brc (cf 0 (.v 0) 0), .brc (cf 5 (.v 0) 0), .brc (cf 1 .none 0), .brx (cf 0 (.s 0) 31),
    .brx (cf 0 .none 0), .lpad (cf 0 .none 0x1000000), .call (cf 0 (.v 0) 0), .callx (cf 0 (.flt 0) 0),
    .ret (cf 0 (.v 1) 0), .ret (cf 0 (.imm 2) 0), .spawn (cf 7 .none 0), .endFibre (cf 0 .none 1), .yield (cf 2 .none 0),
    .trap (cf 0 .none 0x1000000), .bkpt (cf 1 .none 0), .pmovGet (rf .b64 (.v 0) .none .none .none),
    .pmovGet (rf .b32 (.s 0) .none .none .none), .pmovSet { rf .b32 .none (.flt 0) (.imm 5) .none with fn := 1 },
    .pmovSet { rf .b32 (.v 0) (.s 0) (.imm 5) .none with fn := 1 }, .eret { cf 0 .none 0 with g := .pred false 0 },
    .eretSkip (cf 0 .none 0), .firmcall (cf 1 (.s 0) 0)].all (fun i => !WellFormed i) = true := by decide

theorem test_wellformed_uniform : [Instr.smov (rf .i32 (.s 0) (.s 1) .none .none), .smov (rf .b64 (.s 1) (.s 2) .none .none),
    .smov (rf .b64 (.s 0) (.s 3) .none .none), .smov (rf .b32 (.v 0) (.s 3) .none .none), .smov (rf .b32 (.s 0) (.v 3) .none .none),
    .smov (rf .b32 (.s 0) (.s 3) (.s 0) .none), .sadd { rf .i32 (.s 0) (.s 1) (.s 2) .none with fn := 1 },
    .sadd { rf .i32 (.s 0) (.s 1) (.s 2) .none with g := .pred false 0 },
    .sadd { rf .i32 (.s 0) (.s 1) (.s 2) .none with rnd := 1 }, .sadd { rf .i32 (.s 0) (.s 1) (.s 2) .none with lrA := true },
    .smul { rf .i32 (.s 0) (.s 1) (.s 2) .none with fn := 1, sat := true }, .sand { rf .b32 (.s 0) (.s 1) (.s 2) .none with sat := true },
    .scmp { rf .i32 (.s 0) (.s 1) (.s 2) .none with fn := 6 }, .ssel (rf .b32 (.s 0) (.s 1) (.s 2) (.v 0)),
    .srd (yf 0x400 (.s 0) .none), .srd (yf 0x12 (.s 0) .none), .srd (yf 0 (.v 0) .none), .srd (yf 0 (.s 0) (.s 1)),
    .smovi { g := .pred false 0, lrA := false, d := .s 0, a := .none, imm := 0 }].all (fun i => !WellFormed i) = true := by
  decide

theorem test_wellformed_vector : [Instr.vadd (rf .f32 (.v 0) (.v 0) (.v 0) .none), .vadd (rf .i32 (.s 0) (.v 0) (.v 0) .none),
    .vadd (rf .i32 (.v 0) (.flt 0) (.v 0) .none), .vadd (rf .i32 (.v 0) (.v 0) (.v 0) (.v 0)),
    .vadd (rf .i64 (.v 1) (.v 0) (.v 0) .none), .vadd (rf .i64 (.v 0) (.v 1) (.v 0) .none),
    .vadd (rf .n64 (.v 0) (.s 1) (.v 0) .none), .vadd { rf .i32 (.v 0) (.s 0) (.v 0) .none with lrA := true },
    .vadd { rf .i32 (.v 0) (.v 0) (.v 0) .none with lrC := true }, .vadd { rf .i32 (.v 0) (.v 0) (.v 0) .none with rnd := 1 },
    .vaddc (rf .i32 (.v 0) (.v 0) (.v 0) .none), .vaddc { rf .n32 (.v 0) (.v 0) (.v 0) .none with sat := true },
    .vmul { rf .i32 (.v 0) (.v 0) (.v 0) .none with fn := 1, sat := true }, .vmad (rf .i16x2 (.v 0) (.v 0) (.v 0) (.v 0)),
    .vshl (rf .i32 (.v 0) (.v 0) (.v 0) .none), .vnot (rf .b32 (.v 0) (.v 0) (.v 0) .none),
    .vcmp (rf .i32 (.v 0) (.v 0) (.v 0) (.imm 7)), .vcmp (rf .i8x4 (.v 0) (.v 0) (.v 0) (.imm 0)),
    .vcmp { rf .i32 (.v 0) (.v 0) (.v 0) .none with fn := 6 }, .vsel { rf .b32 (.v 0) (.v 0) (.v 0) (.v 1) with fn := 1 },
    .vmovi { g := .always, lrA := true, d := .v 0, a := .none, imm := 0 }, .vfadd (rf .i32 (.v 0) (.v 0) (.v 0) .none),
    .vfadd { rf .f32 (.v 0) (.v 0) (.v 0) .none with rnd := 5 }, .vfclass (rf .f16x2 (.v 0) (.v 0) .none .none),
    .vrcp (rf .f64 (.v 0) (.v 0) .none .none), .vrcp { rf .f32 (.v 0) (.v 0) .none .none with rnd := 2 },
    .vfrnd { rf .f32 (.v 0) (.v 0) .none .none with fn := 5 }, .vldexp (rf .f32 (.v 0) (.v 0) (.flt 0) .none),
    .vfrexp { rf .f32 (.v 0) (.v 0) .none .none with fn := 2 }, .vcvt .b32 (rf .i32 (.v 0) (.v 0) .none .none),
    .vcvt .i32 { rf .i32 (.v 0) (.v 0) .none .none with rnd := 1 }, .vcvt .f64 (rf .i32 (.v 0) (.v 1) .none .none),
    .vpack (rf .b32 (.v 0) (.v 0) .none (.v 0)), .vpack { rf .n8 (.v 0) (.v 0) .none (.v 0) with fn := 4 },
    .vcamrel (rf .f64 (.v 0) (.v 0) (.v 2) .none), .vcamrel (rf .f32 (.v 0) (.v 1) (.v 2) .none),
    .vshuf { rf .b32 (.v 0) (.v 0) (.v 0) (.v 0) with fn := 4 }, .vswz (rf .b32 (.v 0) (.v 0) (.v 0) (.v 0)),
    .vvote { rf .b64 (.v 0) (.v 0) .none .none with fn := 0 }, .vvote { rf .b32 (.v 0) (.v 0) .none (.imm 0) with fn := 2 },
    .vred { rf .f32 (.v 0) (.v 0) .none .none with fn := 3 }, .vscan { rf .i32 (.v 0) (.v 0) .none (.v 1) with fn := 6 },
    .vfree (ef 0 .none (.v 250) (.imm 7) .none), .vfree (ef 0 .none (.v 0) (.imm 0) .none),
    .vfree (ef 0 .none (.s 0) (.imm 1) .none)].all (fun i => !WellFormed i) = true := by decide

theorem test_wellformed_memory : [Instr.ld (mf .e4m3 (.v 0) (.v 0)), .ld { mf .b32 (.v 0) (.v 0) with sub := 3 },
    .ld { mf .n8 (.v 0) (.v 0) with sub := 1 }, .ld { mf .b32 (.v 253) (.v 0) with sub := 2 }, .ld (mf .b64 (.v 1) (.v 0)),
    .ld (mf .b32 (.s 0) (.v 0)), .ld (mf .b32 (.v 0) (.v 1)), .ld { mf .b32 (.v 0) (.v 0) with scope := 6 },
    .ld { mf .b32 (.v 0) (.v 0) with hint := 5 }, .ld { mf .b32 (.v 0) (.v 0) with ord := 2 },
    .ld { mf .b32 (.v 0) (.s 0) with lrA := true }, .ld { mf .b32 (.v 0) (.v 0) with lrD := true }, .st (mf .b32 .none (.v 0)),
    .st { mf .b32 (.v 0) (.v 0) with ord := 1 }, .sld (mf .b32 (.v 0) (.s 0)), .sld (mf .b32 (.s 0) (.v 0)),
    .sld { mf .b32 (.s 0) (.s 0) with g := .pred false 0 }, .lds { mf .b32 (.v 0) (.v 0) with scope := 2 },
    .lds { mf .b32 (.v 0) (.v 0) with sub := 0x20 }, .lds { mf .b64 (.v 0) (.v 0) with sub := 0x10 },
    .sts { mf .b32 (.v 0) (.v 0) with sub := 4 }, .atom { mf .f16 (.v 0) (.v 0) with sub := 8 },
    .atom { mf .b32 (.v 0) (.v 0) with sub := 7 }, .atom { mf .b32 (.v 1) (.v 0) with sub := 0x27 },
    .atom { mf .i32 (.v 0) (.v 0) with sub := 0x10 }, .atom { mf .i32 (.v 0) (.v 0) with sub := 0x20, lrD := true },
    .atom { mf .i32 (.s 0) (.v 0) with sub := 0x20 }, .atoms { mf .i32 (.v 0) (.imm 0) with sub := 0 },
    .fence (mf .b32 .none .none), .fence { mf .b32 .none .none with ord := 1, off := 1 }, .pref { mf .b32 .none (.v 0) with sub := 2 },
    .pref { mf .b32 .none (.v 0) with scope := 1 }, .fec { mf .b32 .none (.v 0) with sub := 3 },
    .woreset (mf .b32 (.v 0) (.s 0)), .woreset { mf .b32 (.s 0) (.s 0) with off := 1 }].all (fun i => !WellFormed i) = true := by
  decide

def xf (ta tb : Ty) : XForm :=
  { ta := ta, tb := tb, a := 0, b := 0, s := 0x1FF, row := 0, bank := 0, acct := 0, lrA := false, lrB := false,
    ovw := false, neg := false }

theorem test_wellformed_matrix : [Instr.mma (xf .f32 .f64), .mma (xf .f64 .f64), .mma { xf .f32 .f32 with a := 0xF9 },
    .mma { xf .f32 .f32 with b := 1 }, .mma { xf .f32 .f32 with b := 0xFA }, .mma { xf .f32 .f32 with s := 3 },
    .mma (xf .mxi8 .mxi8), .mma { xf .f32 .f32 with bank := 1 }, .acczero (ef 2 .none (.imm 0) .none .none),
    .acczero (ef 0 .none (.imm 32) .none .none), .accld (ef 0 .none (.imm 0) (.imm 0) .none),
    .accst (ef 0 (.s 0) (.imm 0) (.s 0) .none), .accout .f16 (rf .f32 (.v 0) (.imm 0) (.v 0) .none),
    .accout .f32 (rf .f64 (.v 0) (.imm 0) (.v 0) .none), .accout .f64 (rf .f64 (.v 1) (.imm 0) (.v 0) .none),
    .accout .f32 (rf .f32 (.v 249) (.imm 0) (.v 0) .none), .accout .f32 (rf .f32 (.v 0) (.imm 0) (.imm 0) .none),
    .accwin { ef 0 .none (.imm 0) (.imm 0) (.imm 0) with mod := 1 }, .cbload (ef 8 .none (.s 0) (.imm 0) (.imm 0)),
    .cbvalid (ef 0 .none (.imm 0) (.imm 0) (.imm 0)), .vexpand (rf .f32 (.v 0) (.v 0) (.imm 0) .none),
    .vexpand (rf .cbv8 (.v 1) (.v 0) (.imm 0) .none), .vexpand { rf .cbv8 (.v 0) (.v 0) (.imm 0) .none with fn := 2 },
    .vexpand (rf .cbs8 (.v 0) (.v 0) (.imm 4) .none), .spur { ef 0x14 (.s 0) (.s 0) (.v 0) .none with mod := 3 },
    .spur (ef 0x28 (.s 0) (.s 0) (.v 0) .none), .spuracc (ef 0x14 .none (.s 62) .none .none)].all
      (fun i => !WellFormed i) = true := by decide

theorem test_wellformed_cluster : [Instr.cpy (ef 6 (.s 0) (.s 0) .none .none), .cpy (ef 0 (.s 0) (.s 1) .none .none),
    .cpystat (ef 0 (.s 1) (.s 0) .none .none), .barinit (ef 0 .none (.imm 32) (.imm 0) .none),
    .bara (ef 2 (.s 0) (.imm 0) (.imm 0) .none), .barw (ef 0 .none (.imm 0) (.imm 0) .none),
    .baraw { ef 0 (.s 0) (.imm 0) (.imm 0) .none with g := .pred false 0 }, .rangeset (ef 0 .none (.imm 0) (.s 61) .none),
    .take (ef 0 (.s 1) (.imm 0) .none .none), .prim (ef 4 (.v 0) (.v 0) (.s 0) .none), .prim (ef 0 (.v 0) (.v 246) (.s 0) .none),
    .occq (ef 0 .none (.v 0) (.s 0) .none), .occq (ef 0 (.v 0) (.v 0) (.s 62) .none), .rayq (ef 0 (.v 253) (.v 0) (.s 0) .none),
    .rayq (ef 4 (.v 0) (.v 0) (.s 0) .none), .raywait (ef 0 .none (.v 0) .none .none), .qpush (ef 0 (.imm 7) (.v 0) (.imm 0) .none),
    .qpush (ef 0 (.imm 0) (.v 0) (.imm 0) (.imm 0)), .qpop (ef 1 (.imm 0) (.v 0) (.imm 0) .none),
    .amplify (ef 0 (.imm 0) (.v 0) (.imm 0) .none), .launch (ef 0 (.imm 0) (.v 0) (.imm 16) .none)].all
      (fun i => !WellFormed i) = true := by decide

theorem test_wellformed_pond_system : [Instr.txreq (ef 0 (.v 2) (.v 0) .none .none), .txreq (ef 0 (.v 0) (.v 254) .none .none),
    .txwait (ef 0 (.v 0) (.s 0) .none .none), .txfill (ef 0 (.s 0) (.s 60) .none .none), .txinvKey (ef 1 (.s 0) (.s 0) .none .none),
    .txinvInfl (ef 1 (.s 0) (.s 62) .none .none), .txframe (ef 0 (.s 0) (.v 0) .none .none),
    .txpinSet (ef 0 (.s 0) (.s 62) .none .none), .txpinClr (ef 0 (.s 0) (.s 0) .none .none), .sysrd (yf 0x12 (.s 0) .none),
    .sysrd (yf 0x400 .none .none), .syswr (yf 0x400 (.s 0) (.s 0)), .attrset (ef 0 .none (.s 62) .none .none),
    .tlbshoot (ef 4 .none .none .none .none), .tlbshoot (ef 0 .none .none .none .none),
    .cacheopWb (ef 1 .none (.s 0) (.s 0) (.s 0)), .cacheopInv (ef 1 .none (.s 1) (.s 0) (.s 0)),
    .cacheopDiscard (ef 2 .none (.s 0) .none (.s 0)), .cacheopIinv (ef 3 (.s 0) (.s 0) (.s 0) (.s 0)),
    .cacheopClrlost (ef 4 .none (.s 0) (.s 0) (.imm 0))].all (fun i => !WellFormed i) = true := by decide

/-- A code that names no operand, no guard and no type decodes to no instruction, and neither does an unassigned OP byte. -/
theorem test_decode_refuses : decode 0x200809C000FFC380 = .error .reservedField ∧ decode 0x2008080000FFC780 = .error .reservedField ∧
    decode 0x2028080000FFC380 = .error .reservedField ∧ decode 0x1D00000000000000 = .error .illegalOp ∧
    decode 0xFB00000000000000 = .error .illegalOp ∧ decode 0xFC00000000000000 = .error .clauseForm := by
  refine ⟨rfl, rfl, rfl, rfl, rfl, rfl⟩

/-! ### Witnesses: states and operands that meet the hypotheses of each statement -/

theorem test_witness_StepRunsDecodedInstruction : (one nop).agenda = [] ∧ (one nop).issuer = some (who nop) ∧
    decode (who nop).word = .ok nop ∧ (one nop).issuerAt 0 0 = some (who nop) ∧ isEvent .coldReset = true :=
  ⟨rfl, issuer_one nop, rfl, issuer_one nop, rfl⟩

theorem test_witness_UndecodableWordFaults :
    let s := State.reset.withFetchWord 64 0xFC8C100000000000
    s.agenda = [] ∧ ∃ c, s.issuer = some c ∧ s.issuerAt 0 0 = some c ∧ decode c.word = .error .clauseForm :=
  ⟨rfl, _, rfl, rfl, rfl⟩

theorem test_witness_DecodeEncode : WellFormed nop = true ∧ encode nop = some 0x00700FF800000000 ∧
    decode 0x00700FF800000000 = .ok nop := by
  refine ⟨by decide, by decide, rfl⟩

theorem test_witness_StepKeepsMemoryCanonical : State.reset.MemCanonical ∧ step State.reset = .next State.reset :=
  ⟨rfl, rfl⟩

theorem test_witness_ClauseGoesOn : (who nop).team.killed = false ∧ (who nop).gang.dbg.stepping = none ∧
    (who nop).gang.dbg.request = none ∧ ((one nop).core 0).coreHalt = false ∧
    ¬ (who nop).clause.idx + 1 < (who nop).clause.words.length ∧
    ∃ c, ((one nop).modCore 0 fun k => k.setPipe 0 (some { oneClause 0 3 0 with words := [0, 0] })).issuer = some c ∧
      c.clause.idx + 1 < c.clause.words.length :=
  ⟨rfl, rfl, rfl, rfl, by decide, _, rfl, by decide⟩

theorem test_witness_NopLpadChangeNothing : (who nop).Executes (one nop) [] .always [] [] := executes (by decide)

theorem test_witness_BranchesMoveFibres :
    (who nop).Executes (one nop) (CForm.uses (cf 2 (.v 0) 0xFFFFFFFD)) .always [] [] := executes (by decide)

theorem test_witness_ResultArrives : ∃ g, (withPending (pend .result)).gang? 0 0 = some g ∧
    g.pending? 9 = some (pend .result) := ⟨_, rfl, rfl⟩

theorem test_witness_CallsAndReturns : (who nop).Ready { v := [8, 9], s := [], p := guardP .always } ∧
    (who nop).PoolHas (one nop) [8, 9] ∧ (who nop).sub.wb.toNat + 8 ≤ 1016 ∧
    (who nop).Executes (one nop) [{ o := .v 0, t := .b64, reads := true }] .always [] [] ∧
    ∀ i ∈ ((who nop).active .always).toList,
      8 * bitsOf ((who nop).read .b64 (.v 0) i) 63 56 ≤ (who nop).sub.wb.toNat := by
  exact ⟨ready_of (by decide), poolHas (by decide), by decide, executes (by decide), by decide⟩

/-- A table of one entry whose target is a clause of an LPAD with label 0, and a sub-gang that waits for that entry. -/
def tableState : State :=
  mapped (withSub fun b => { b with
    park := .jumpTable 5 true 1 0 8 0 [(0, 0)] 1
    inClause := some (0, 0) }) [(0, 16), (135, 0xFC), (140, 0xF8), (141, 0x0F), (142, 0x70), (143, 0x04)]

theorem test_witness_JumpTables :
    (∃ c, (withSub fun b => { b with sregs := [0, 0, 1] }).issuer = some c ∧
      c.Ready { v := [8, 9], s := [0, 1, 2], p := [] } ∧ c.sub.wb.toNat + 8 ≤ 1016 ∧ (c.active .always).toList ≠ [] ∧
      ∀ i ∈ (c.active .always).toList, c.read .n32 (.imm 0) i < (c.sreg 2).toNat) ∧
    (∃ r b q u bytes, tableState.runner? 0 0 = some r ∧ r.gang.sub? 3 = some b ∧
      b.park = .jumpTable 5 true 1 0 8 0 [(0, 0)] 1 ∧ r.gang.tableReads.find? (fun q => q.sub == 3) = some q ∧
      q.addrs = [(0, 0)] ∧ tableState.readEntries r q q.addrs = some (u, bytes) ∧
      (u.acquireOf r q).entryOfLane r b.pc 0 0 (.ok [16, 0, 0, 0, 0, 0, 0, 0]) = .ok 128 ∧
      bytes = [(0, .ok [16, 0, 0, 0, 0, 0, 0, 0])] ∧
      ((u.acquireOf r q).core 0).regParks = [] ∧ r.gang.slotsNeed [8, 9] ≤ ((u.acquireOf r q).core 0).regFree ∧
      ∃ fr, tableFault [(0, u.entryOfLane r b.pc 0 0 (.ok [0, 0, 0, 0, 0, 0, 0, 0]))] = some fr) := by
  refine ⟨⟨_, rfl, ready_of (by decide), by decide, by decide, by decide⟩, _, _, _, _, _, rfl, rfl, rfl, rfl, rfl, rfl, rfl,
    rfl, rfl, by decide, _, rfl⟩

theorem test_witness_FibresComeAndGo : (who nop).Ready { v := List.range 8, s := [], p := [0] } ∧
    (who nop).Executes (one nop) [] .always [] [] := ⟨ready_of (by decide), executes (by decide)⟩

theorem test_witness_TrapsAndBreakpoints : (who nop).Executes (one nop) [] .always [] [] ∧
    (who nop).active .always ≠ 0 ∧ (who nop).Executes (one nop) [] (.pred false 0) [] [] ∧
    (who nop).active (.pred false 0) = 0 := ⟨executes (by decide), by decide, executes (by decide), by decide⟩

theorem test_witness_PredicatesMove : (who nop).Ready { v := [], s := [], p := [0, 1, 2] } ∧
    (who nop).Executes (one nop) [{ o := .v 0, t := .n32, reads := false }] .always (List.range 7) [0] ∧
    (who nop).Executes (one nop) [{ o := .v 0, t := .n32, reads := true }, { o := .imm 5, t := .n32, reads := true }]
      .always [] [] ∧
    (List.range 7).filter (fun k => ((who nop).active .always).toList.any fun i =>
      ((who nop).read .n32 (.imm 5) i).testBit k) = [0, 2] :=
  ⟨ready_of (by decide), executes (by decide), executes (by decide), by decide⟩

theorem test_witness_UniformOperations : (who nop).Ready { v := [], s := uDstS true (.s 2) ++ opdS .i32 (.s 4), p := [] } :=
  ready_of (by decide)

theorem test_witness_CommitChangesOnly : (one nop).issuer = some (who nop) := issuer_one nop

theorem test_witness_IssueChangesOnly : (one nop).issuer = some (who nop) := issuer_one nop

/-- A short instruction of two registers to a third, with its operands ready; a type of each width. -/
theorem test_witness_VectorIntegerElements (t : Ty) (h : t ∈ [Ty.i32, .n64, .i16x2, .f32, .f64, .f16x2]) :
    (who nop).Executes (one nop) (rUses (rf t (.v 4) (.v 0) (.v 2) .none) t t t t) .always [] (dstV t (.v 4)) := by
  simp at h
  rcases h with rfl | rfl | rfl | rfl | rfl | rfl <;> exact executes (by decide)

theorem test_witness_AddWithCarry :
    (who nop).Executes (one nop) (rUses (rf .n64 (.v 4) (.v 0) (.v 2) .none) .n64 .n64 .n64 .n64) .always [0]
      (dstV .n64 (.v 4)) ∧
    (who nop).Executes (one nop) (rUses (rf .n32 (.v 4) (.v 0) (.v 2) .none) .n32 .n32 .n32 .n32) .always []
      (dstV .n32 (.v 4)) := ⟨executes (by decide), executes (by decide)⟩

theorem test_witness_AddWithCarry_hazard :
    let q := { pend .result with pdst := some 0 }
    (∃ c, (withPending q).issuer = some c ∧ q ∈ c.gang.pending ∧ (∀ p ∈ c.gang.pending, p.destFaulted = false) ∧
      ∀ u ∈ rUses (rf .n32 (.v 4) (.v 0) (.v 2) .none) .n32 .n32 .n32 .n32, ∀ v ∈ opdV u.t u.o, c.slotOf v ≤ 1023) ∧
    q.pdst = some (rf .n32 (.v 4) (.v 0) (.v 2) .none).fn.toNat :=
  ⟨⟨_, rfl, by decide, by decide, by decide⟩, by decide⟩

theorem test_witness_VectorShiftsFieldsMoves :
    (who nop).Executes (one nop) [{ o := .v 5, t := .b32, reads := false }] .always [] [5] ∧
    (who nop).Ready { v := (List.range 3).map fun k => 4 + k, s := [], p := [] } :=
  ⟨executes (by decide), ready_of (by decide)⟩

theorem test_witness_VectorFloatElements : fmtOf .f32 ≠ none ∧ fmtOf .f64 ≠ none ∧ fmtOf .f16x2 ≠ none ∧
    (who nop).CounterFree .sfc := by
  refine ⟨by decide, by decide, by decide, ?_⟩
  unfold Issuer.CounterFree; decide

theorem test_witness_VectorFloatConversions :
    (who nop).Executes (one nop) (rUses (rf .f32 (.v 4) (.v 0) (.v 2) .none) .f64 .f64 .n32 .f32) .always []
      (dstV .f32 (.v 4)) ∧
    (who nop).Executes (one nop) (rUses (rf .f16 (.v 4) (.v 0) .none .none) .f32 .n32 .n32 .f16) .always []
      (dstV .f16 (.v 4)) := ⟨executes (by decide), executes (by decide)⟩

theorem test_witness_VectorCompares :
    (who nop).Executes (one nop) (rUses (rf .i32 (.v 4) (.v 0) (.v 2) .none) .i32 .i32 .n32 .i32) .always [1]
      (dstV .i32 (.v 4)) := executes (by decide)

theorem test_witness_SpecialFunctionsIssue : fmtOf .f32 ≠ none ∧ (who nop).CounterFree .sfc ∧
    (who nop).Executes (one nop) (rUses (rf .f32 (.v 4) (.v 0) (.v 2) .none) .f32 .f32 .f32 .f32) .always []
      (dstV .f32 (.v 4)) := ⟨by decide, ⟨by decide, by decide⟩, executes (by decide)⟩

theorem test_witness_CrossLaneOperations :
    (who nop).Ready (touchOf (rUses (rf .f32 (.v 4) (.v 0) .none .none) .f32 .n32 .f32 .f32) .always []) ∧
    (who nop).ScratchOk [] ∧ (who nop).CounterFree .xlc ∧ (who nop).PoolHas (one nop) (runOf 2 (.v 4)) := by
  exact ⟨ready_of (by decide), by intro x hx; simp at hx, ⟨by decide, by decide⟩, poolHas (by decide)⟩

theorem test_witness_SpecialRegisterReads : (who nop).Ready { v := [], s := uDstS false (.s 5), p := [] } ∧
    (one nop).gang? 0 0 = some (who nop).gang := ⟨ready_of (by decide), rfl⟩

theorem memExecutes {k : MemKind} {f : MForm}
    (h : ((memTouch k f).v.all fun v => decide ((who nop).slotOf v ≤ 1023)) = true ∧ (who nop).blockers (memTouch k f) = []
      ∧ (∀ x ∈ (who nop).memAddrs k f, x.2 % k.unit f = 0) ∧
      (∀ x ∈ (who nop).memAddrs k f,
        if k.scratch = true then x.2 + k.bytes f ≤ (who nop).team.scratchBytes ∧ x.2 < 2 ^ 18 else x.2 < 2 ^ 56) ∧
      (who nop).gang.slotsNeed ((if k ≠ .sld ∧ isV f.d = true then regRun (k.resultRegs f) f.d else []).map
        (who nop).slotOf) ≤ ((one nop).core 0).regFree) : (who nop).MemExecutes (one nop) k f := by
  refine ⟨issuer_one nop, ready_of ⟨h.1, h.2.1⟩, fun _ => .inr ⟨rfl, rfl⟩, h.2.2.1, h.2.2.2.1, ?_, poolHas h.2.2.2.2⟩
  unfold Issuer.CounterFree
  cases k.counter f <;> decide

theorem test_witness_MemoryInstructionsIssue : (who nop).MemExecutes (one nop) .ld (mf .b64 (.v 4) (.v 0)) ∧
    (who nop).MemExecutes (one nop) .st (mf .b32 (.v 4) (.v 0)) ∧
    (who nop).MemExecutes (one nop) .lds (mf .b32 (.v 4) (.v 0)) ∧
    (who nop).MemExecutes (one nop) .fence (mf .b32 .none .none) :=
  ⟨memExecutes (by decide), memExecutes (by decide), memExecutes (by decide), memExecutes (by decide)⟩

/-- Who runs the outstanding instruction of `withPending p`. -/
def runs (p : Pending) : Runner :=
  { core := 0, slot := 0, gang := { (who nop).gang with pending := [p] }, team := (who nop).team, grid := (who nop).grid }

/-- An access of lane 0, and of lane 1 in another granule of the line. -/
def access (k : MemKind) (f : MForm) : Pending :=
  { pend (.mem k f) with ctr := .ldc, lanes := 3, live := 3, addrs := [(0, 0), (1, 64)], data := [(0, [7]), (1, [8])],
                         sent := false }

theorem performs {s : State} {r : Runner} {p : Pending} {lanes : Table Nat}
    (h : s.runner? r.core r.slot = some r ∧ r.gang.pending? p.id = some p ∧ p.st = .pending ∧ s.laneFaults r p = [] ∧
      s.blocked r p lanes = false) : s.Performs r p lanes := ⟨⟨h.1, h.2.1⟩, h.2.2.1, h.2.2.2.1, h.2.2.2.2⟩

theorem test_witness_ScratchAccessesPerform (k : MemKind) (h : k ∈ [MemKind.sts, .fec, .atoms, .lds]) :
    (let f := mf .b32 (.v 4) (.v 0)
     let p := access k f
     (withPending p).Performs (runs p) p (p.openSpans k f) ∧ (withPending p).Performs (runs p) p p.rest) ∧
    (who nop).team.granule 0 ≠ .empty := by
  simp at h
  rcases h with rfl | rfl | rfl | rfl <;> exact ⟨⟨performs (by decide), performs (by decide)⟩, by decide⟩

/-- What is left of an STS element by element, the lowest lane of an ATOMS and an ATOMS that is over, and an LDS element. -/
theorem test_witness_ScratchAccessesPerform_parts :
    let f := mf .b32 (.v 4) (.v 0)
    elemsAt .sts f (access .sts f).addrs = [(0, 0), (8, 64)] ∧ rangesMeet (64, 4) (0, 4) = false ∧
    ((access .atoms f).open_ .atoms f).head? = some (0, 0) ∧
    (let p := { access .atoms f with done := [0, 1], passed := true }
     p.open_ .atoms f = [] ∧ (withPending p).Performs (runs p) p (p.openSpans .atoms f)) ∧
    (access .lds f).openElems .lds f ≠ [] ∧
    (let p := { access .lds f with addrs := [] }
     (withPending p).Performs (runs p) p (p.openSpans .lds f)) := by
  exact ⟨by decide, by decide, by decide, ⟨by decide, performs (by decide)⟩, by decide, performs (by decide)⟩

/-- A load's element on the mapped page: it takes its bytes, it is taken, and the load whose elements are all taken arrives. -/
theorem test_witness_GlobalAccessesPerform_load :
    let f := mf .b32 (.v 4) (.v 0)
    let p := access .ld f
    let q := { p with got := [(0, 1), (8, 2)] }
    let s := mapped (withPending p) []
    (∃ l t, s.route (runs p).grid 0 = .local_ ∧ s.accessOf (runs p) .ld 0 (MemKind.elems .ld f).1 = .ok l ∧
      s.gate (runs p) p [(0, (MemKind.elems .ld f).1)] l.tag l.line = some ([], 0) ∧
      s.readLine 0 (runs p).grid.vmid l f.hint.toNat 0 = some t ∧ s.held (runs p).agent l.tag l.line false = false) ∧
    s.Outstanding (runs p) p ∧ s.laneFaults (runs p) p = [] ∧
    (p.openElems .ld f).filter (fun x => x.1 == 8) = [(8, 64)] ∧ s.awaits 0 0 p.id (some 8) = false ∧
    (mapped (withPending q) []).Outstanding (runs q) q ∧ q.openElems .ld f = [] := by
  exact ⟨⟨_, _, by decide, rfl, by decide, rfl, by decide⟩, ⟨rfl, rfl⟩, by decide, by decide, by decide, ⟨rfl, rfl⟩, by decide⟩

/-- A load's element taken after an earlier load of the same byte has faulted: the two are held together. -/
theorem test_witness_GlobalAccessesPerform_join :
    let f := mf .b32 (.v 4) (.v 0)
    let p := { access .ld f with id := 8, st := .faulted .pageNotPresent 1 0 0 }
    let q := { access .ld f with got := [(0, 1)] }
    let g := { (who nop).gang with pending := [p, q] }
    g.pending? q.id = some q ∧ (g.pending.find? fun p => p.answered && q.follows p) = some p ∧ g.handling q = false ∧
    p.answered = true := by
  exact ⟨rfl, by decide, by decide, rfl⟩

/-- A store's line on the mapped page: it is written in the core's own copy, or at the home; the last line ends the store; a
claim that another store holds fails. -/
theorem test_witness_GlobalAccessesPerform_store :
    let f := mf .b32 (.v 4) (.v 0)
    let p := access .st f
    let s := mapped (withPending p) []
    let q := { p with done := [0], addrs := [(0, 0)] }
    (∃ l v, s.Outstanding (runs p) p ∧ s.laneFaults (runs p) p = [] ∧
      (p.open_ .st f).filter (fun y => y.2 / 128 == 0) = [(0, 0), (1, 64)] ∧ s.route (runs p).grid 0 = .local_ ∧
      s.accessOf (runs p) .st 0 (MemKind.bytes .st f) = .ok l ∧ l.line = 0 ∧
      s.gate (runs p) p [(0, 4), (64, 4)] l.tag l.line = some ([], 0) ∧ s.held (runs p).agent l.tag l.line true = false ∧
      (s.passAll (runs p) p).logWrite 0 0 0 = (true, v)) ∧
    (∃ l, s.accessOf (runs p) .st 0 (MemKind.bytes .st f) = .ok l ∧ l.perms.attr ≠ .ip ∧ s.ownL1 0 l = none ∧
      s.lineBusy l.tag l.line l.pline = false ∧ s.l1On 0 = false ∧
      ∃ u, (s.keepFill l 0).fillL2 l (s.maskOfVm 0) 0 = some u ∧ (u.dir l.tag l.line l.pline).probes none = []) ∧
    ({ q with addrs := [] } : Pending).linesLeft f = [] ∧ (withPending q).awaits 0 0 q.id none = false ∧
    (withPending q).heldOwn (runs q) q.id = false := by
  exact ⟨⟨_, _, ⟨rfl, rfl⟩, by decide, by decide, by decide, rfl, rfl, by decide, by decide, rfl⟩,
    ⟨_, rfl, by decide, by decide, by decide, by decide, _, rfl, by decide⟩, by decide, by decide, by decide⟩

/-- Lane 0 of an atomic on the mapped page, and a FENCE with nothing before it. -/
theorem test_witness_GlobalAccessesPerform_atomic :
    let f := mf .b32 (.v 4) (.v 0)
    let p := access .atom f
    let s := mapped (withPending p) []
    let q := pend (.mem .fence { mf .b32 .none .none with ord := 3 })
    (∃ l u v, s.Performs (runs p) p [(0, MForm.size f)] ∧ s.nextLaneOf (runs p) p f = some (0, 0) ∧
      (s.passAll (runs p) p).route (runs p).grid 0 = .local_ ∧
      (s.passAll (runs p) p).accessOf (runs p) .atom 0 (MForm.size f) = .ok l ∧
      (s.passAll (runs p) p).logWrite 0 0 0 = (true, v) ∧ v.held (runs p).agent l.tag l.line true = false ∧
      l.perms.attr ≠ .ip ∧ v.lineBusy l.tag l.line l.pline = false ∧
      (v.keepFill l 0).fillL2 l (v.maskOfVm 0) f.hint.toNat = some u ∧ (u.dir l.tag l.line l.pline).probes none = []) ∧
    (withPending q).Outstanding (runs q) q ∧ (withPending q).fenceAcquired (runs q) q = true ∧
    ((withPending q).acquireOf (runs q) q).fenceReleased (runs q) q { mf .b32 .none .none with ord := 3 } = true := by
  exact ⟨⟨_, _, _, performs (by decide), by decide, by decide, rfl, rfl, by decide, by decide, by decide, rfl, by decide⟩,
    ⟨rfl, rfl⟩, by decide, by decide⟩

/-- A store whose page is gone, which has failed with no access of it left; and a granule that another store claims. -/
theorem test_witness_GlobalAccessesPerform_fail :
    let f := mf .b32 (.v 4) (.v 0)
    let p := { access .st f with st := .failing .pageNotPresent 3 0 0 }
    let s := withPending p
    let q := access .st f
    s.Outstanding (runs p) p ∧ (s.withLocalFaults (runs p) p).st = .failing .pageNotPresent 3 0 0 ∧
    s.awaits 0 0 p.id none = false ∧ p.quadOpen = false ∧ s.lanesLeft (runs p) p = false ∧
    ∃ l, (mapped (withPending q) []).accessOf (runs q) .st 0 4 = .ok l ∧
      ({ s with mem := { s.mem with claims := [{ pline := 0, mask := 1, core := 1, gang := 0, id := 5 }] } } : State).claimFails
        (runs q) q (l, q.lineWrites f 0) ≠ [] := by
  exact ⟨⟨rfl, rfl⟩, by decide, by decide, by decide, by decide, _, rfl, by decide⟩

/-- The mapped page with an L1 that holds lines, as its core's first access finds it; a PREF asks for line 0. -/
def homeState (write : Bool) : State :=
  (mapped (one nop) []).modCore 0 fun k =>
    { k with
      split := 0
      prefs := [{ asid := 0, line := 0, hint := 0, w := write }] }

def l1Copy (st : L1St) (dirty : Bool) : L1Line :=
  { tag := 0, line := 0, pline := 0, st := st, data := List.replicate 128 1, dirty := dirty, lost := false,
    perms := page.perms }

def l2Copy (d : DirEntry) : L2Line :=
  { tag := 0, vmid := 0, line := 0, pline := 0, perms := page.perms, mask := 0xFFFF, data := List.replicate 128 2,
    dirty := false, dir := d, slice := 0, set := 0, way := 0, used := 0, evictLast := false, remote := false }

def withL1 (x : L1Line) : State := (homeState false).modCore 0 fun k => { k with l1 := [x] }

def withL2 (x : L2Line) : State := { homeState false with mem := { (homeState false).mem with l2 := [x] } }

/-- Page tables that map page 0 of address space 0 to frame 0: the ASID table at 0x8000, tables at 0x10000, 0x20000, 0x30000 and
0x40000, and the leaf there. -/
def tables : State :=
  let p := (one nop).modPart 0 fun p => { p with asidBase := 0x8000 }
  { p with mem := { p.mem with hbm := [(0x8002, 1), (0x8007, 0x80), (0x10002, 2), (0x10007, 0x80), (0x20002, 3), (0x20007, 0x80),
      (0x30002, 4), (0x30007, 0x80), (0x40007, 0xBC)] } }

/-- A read and a write of line 0 miss in core 0. -/
theorem test_witness_HomeTransactions_misses :
    (∃ l u, (homeState false).vmOfCore 0 = some 0 ∧ (homeState false).access .load (some 0) 0 0 0 1 = .ok l ∧
      (homeState false).getsLine 0 0 0 0 = some (l, false) ∧
      (homeState false).missHint 0 0 0 l.perms.attr false = some 0 ∧
      (homeState false).lineBusy l.tag l.line l.pline = false ∧ ((homeState false).core 0).l1? l.tag 0 = none ∧
      (homeState false).l1Full 0 = false ∧
      ((homeState false).keepFill l 0).fillL2 l ((homeState false).maskOfVm 0) 0 = some u ∧
      l.heap = false ∧ (homeState false).l1On 0 = true) ∧
    ∃ l u, (homeState true).access .store (some 0) 0 0 0 1 = .ok l ∧
      (homeState true).missHint 0 0 0 l.perms.attr true = some 0 ∧
      (homeState true).lineBusy l.tag l.line l.pline = false ∧ l.heap = false ∧ l.perms.attr = .rc ∧
      (homeState true).l1On 0 = true ∧ ((homeState true).lineMeta 0).watch = false ∧
      (homeState true).l1Full 0 = false ∧
      ((homeState true).keepFill l 0).fillL2 l ((homeState true).maskOfVm 0) 0 = some u := by
  exact ⟨⟨_, _, by decide, rfl, rfl, by decide, by decide, by decide, by decide, rfl, by decide, by decide⟩,
    _, _, rfl, by decide, by decide, by decide, by decide, by decide, by decide, by decide, rfl⟩

/-- A clean, a dirty and a lost L1 copy; an L2 line; a transaction that waits for core 1. -/
theorem test_witness_HomeTransactions_copies :
    ((withL1 (l1Copy .e false)).core 0).l1? 0 0 = some (l1Copy .e false) ∧ (l1Copy .e false).leavesDirty = false ∧
    ((withL1 (l1Copy .m true)).core 0).l1? 0 0 = some (l1Copy .m true) ∧ (l1Copy .m true).leavesDirty = true ∧
    (l1Copy .m true).lost = false ∧ (withL1 (l1Copy .m true)).l2? 0 0 0 = none ∧
    ({ l1Copy .m true with lost := true } : L1Line).lost = true ∧
    (withL2 (l2Copy DirEntry.empty)).mem.l2.find? (fun y => y.tag == 0 && y.line == 0) = some (l2Copy DirEntry.empty) ∧
    (withL2 (l2Copy DirEntry.empty)).lineBusy 0 0 0 = false ∧
    ((withL2 (l2Copy DirEntry.empty)).openTxn { tag := 0, line := 0, kind := .getm 0, waiting := [1] }).txn? 0 0 =
      some { tag := 0, line := 0, kind := .getm 0, waiting := [1] } ∧
    (let s := { withL1 (l1Copy .m true) with mem := (withL2 (l2Copy DirEntry.empty)).mem }
     (∀ k ∈ s.cores, s.core k.1 = k.2) ∧ s.boot.memSide = false ∧ (0 : Nat) ≠ physAsid ∧
     (s.cores.filterMap fun k => (k.2.l1? 0 0).filter fun y => y.st.tracked && y.dirty) = [l1Copy .m true] ∧
     (s.lineMeta 0).lost = false ∧ (l1Copy .m true).data.length = (l2Copy DirEntry.empty).data.length) := by
  exact ⟨rfl, rfl, rfl, rfl, rfl, by decide, rfl, rfl, by decide, rfl, by decide, rfl, by decide, rfl, by decide, rfl⟩

/-- A page that a walk finds, and one that it does not. -/
theorem test_witness_HomeTransactions_walks :
    tables.tlb? 0 0 0 = none ∧ (∃ e pa frame big, tables.walk 0 0 0 = .leaf e pa frame big) ∧
    (match tables.translate 0 0 0 with
      | .ok x => allAccs.any fun k => x.perms.permitsOn k x.frame && (x.bits.fault k).isNone
      | .error _ => false) = true ∧
    (one nop).tlb? 0 0 0 = none ∧ ∃ w, (one nop).translate 0 0 0 = .error w := by
  exact ⟨by decide, ⟨_, _, _, _, rfl⟩, by decide, by decide, _, rfl⟩

/-- A copy of two granules from address 0 to address 128 (or to the scratchpad), its descriptor read. -/
def desc (dsp : Bool) : CopyDesc :=
  { src := 0, dst := 128, dlt := 0, cols := 7, rows := 0, bar := true, bnum := 1, etype := Ty.b32.toCode, dsp := dsp,
    sfmt := 0, dcnt := 0, pitch := 32, reservedSet := false }

def copy (st : CopyState) (d : Option CopyDesc) (granules : Nat) : Copy :=
  { seq := 0, core := 0, gang := some (0, 0), team := 2, grid := 1, vmid := 0, asid := 0, group := none, descAddr := 0, binding := false, st := st,
    desc := d, granules := granules, staged := [], recs := 0, last := none, ahead := none, got := [], sent := false, derr := false,
    code := none, waitCode := none }

def copyState (c : Copy) : State := (mapped (one nop) []).modLeat 0 0 fun _ => { nextSeq := 1, copies := [c] }

/-- A copy that has read both granules of its line, before it owns the line and while it does, and of a line that no engine
owns: of a WO page, and in memory-side mode. -/
theorem test_witness_EngineLines :
    let c := { copy .running (some (desc false)) 0 with staged := [List.replicate 16 1, List.replicate 16 2] }
    let s := copyState c
    let x := l2Copy { DirEntry.empty with st := .en }
    let t := { s with mem := { s.mem with l2 := [{ x with line := 1, pline := 1 }] } }
    (s.leat 0 0).head = some c ∧ c.lineRead (desc false) = true ∧ s.linesOwned 0 0 = [] ∧
    (∃ l u v, s.access .engineWrite none 0 0 128 16 = .ok l ∧ s.lineBusy l.tag l.line l.pline = false ∧
      s.held (engineAgent 0 0) l.tag l.line true = false ∧ s.logWrite 0 0 128 = (true, v) ∧
      v.needsOwner l = true ∧ v.fillL2 l (s.maskOfVm 0) 0 = some u) ∧
    (let w := ({ s with mem := { s.mem with tlb := [{ page with perms := { page.perms with attr := .wo } }] } } : State)
     ∃ l v, w.access .engineWrite none 0 0 128 16 = .ok l ∧ w.lineBusy l.tag l.line l.pline = false ∧
       w.held (engineAgent 0 0) l.tag l.line true = false ∧ w.logWrite 0 0 128 = (true, v) ∧ v.needsOwner l = false ∧
       l.perms.attr = .wo ∧ (v.keepFill l 128).claimTaken l.pline (2 ^ 32 - 1) (2 ^ 32) 0 0 = 0) ∧
    (let w := ({ s with boot := { s.boot with memSide := true } } : State)
     ∃ l v, w.access .engineWrite none 0 0 128 16 = .ok l ∧ w.lineBusy l.tag l.line l.pline = false ∧
       w.held (engineAgent 0 0) l.tag l.line true = false ∧ w.logWrite 0 0 128 = (true, v) ∧ v.needsOwner l = false ∧
       l.perms.attr ≠ .wo) ∧
    t.boot.memSide = false ∧ (t.leat 0 0).head = some c ∧
    (t.linesOwned 0 0).find? (fun y => y.tag % 2 ^ 20 == 0 && y.line == 1) = some { x with line := 1, pline := 1 } ∧
    (∀ k ∈ t.cores, k.2.l1? 0 1 = none) := by
  exact ⟨by decide, by decide, by decide, ⟨_, _, _, rfl, by decide, by decide, rfl, by decide, rfl⟩,
    ⟨_, _, rfl, by decide, by decide, rfl, by decide, by decide, by decide⟩,
    ⟨_, _, rfl, by decide, by decide, rfl, by decide, by decide⟩, rfl, by decide, by decide, by decide⟩

theorem test_witness_CopyEngineWorks_requests :
    (let p := { pend (.request (.cpy 0 2 false)) with sdst := [4] }
     (withPending p).Outstanding (runs p) p ∧ p.going = true ∧ (withPending p).blocked (runs p) p [] = false ∧
     ((runs p).gang.earlier p) = [] ∧ ((withPending p).leat 0 ((withPending p).cluster 0 |>.chooseLeat 2)).load < 64) ∧
    (let c := copy .queued none 0
     ((copyState c).leat 0 0).head = some c ∧ (∃ t, (copyState c).copyTeam c = some t) ∧
     (∃ bs, (copyState c).engineRead .engineRead 0 0 0 0 none 0 64 = .bytes bs) ∧
     ∃ code va, (copyState { c with descAddr := 2 ^ 20 }).engineRead .engineRead 0 0 0 0 none (2 ^ 20) 64 = .fault code va) := by
  exact ⟨⟨⟨rfl, rfl⟩, by decide, by decide, by decide, by decide⟩, by decide, ⟨_, rfl⟩, ⟨_, rfl⟩, _, _, rfl⟩

/-- The second granule of a copy to the scratchpad, and to memory. -/
theorem test_witness_CopyEngineWorks_granules :
    (let c := copy .running (some (desc true)) 1
     ((copyState c).leat 0 0).head = some c ∧ c.next < (desc true).total ∧ c.lineRead (desc true) = false ∧
     ∃ bs y, (copyState c).copyGranule 0 0 c (desc true) 1 = .ready bs y) ∧
    (let c := copy .running (some (desc false)) 1
     let s := copyState c
     let u := s.touchRead 0 0 none ((List.range (desc false).units).map fun n => (desc false).srcAt 1 n)
     (∃ bs y, s.copyGranule 0 0 c (desc false) c.next = .ready bs y) ∧ u.routeIn none 144 = .local_ ∧
     ∃ l, u.access .engineWrite none 0 0 144 16 = .ok l) := by
  exact ⟨⟨by decide, by decide, by decide, _, _, rfl⟩, ⟨_, _, rfl⟩, by decide, _, rfl⟩

/-- A copy that has delivered both granules, one that has met a fault, and a failed one to the scratchpad. -/
theorem test_witness_CopyEngineWorks_ends :
    (let c := copy .running (some (desc true)) 2
     ((copyState c).leat 0 0).head = some c ∧ (copyState c).copyAwaits 0 0 0 none = false ∧
     (copyState c).linesOwned 0 0 = [] ∧ (copyState c).mem.txns = [] ∧ (desc true).total ≤ c.granules) ∧
    (let c := { copy .running (some (desc true)) 1 with code := some .fePoison }
     ((copyState c).leat 0 0).head = some c ∧ ∃ t, (copyState c).copyTeam c = some t ∧
       (desc true).failure t.scratchBytes = none) := by
  exact ⟨⟨by decide, by decide, by decide, by decide, by decide⟩, by decide, _, rfl, by decide⟩

theorem rowsFree {i : Instr} {owned : List (Nat × List Nat)}
    (h : (who i).windowPending (one i) = false ∧ (∀ x ∈ owned, ∀ r ∈ x.2, r < (who i).gang.accLim) ∧
      ((one i).core 0).rowsBusy 2 (owned.flatMap fun x => x.2) none = false) : (who i).RowsFree (one i) owned :=
  ⟨h.1, h.2.1, h.2.2, show 0 < 63 by decide, show 0 < 63 by decide⟩

/-- The gang of `one nop` with a valid codebook entry 0. -/
def bankState : State := (one nop).modTeam 0 2 fun t => { t with banks := [{ entries := [], valid := [0] }] }

theorem test_witness_MatrixInstructionsIssue :
    (who nop).Ready { v := vRun 0 8 ++ vRun 8 8, s := [], p := [] } ∧ (who nop).windowPending (one nop) = false ∧
    0 + rowsPer 0 * (who nop).gang.width ≤ (who nop).gang.accLim ∧
    ((one nop).core 0).rowsBusy 2 (vRun 0 32) (some (0, 0)) = false ∧ Ty.e4m3.mma ≠ .ext ∧ Ty.e4m3.codebook = false ∧
    (who nop).Ready (accTouch [.imm 0, .imm 0] .always) ∧
    (who nop).RowsFree (one nop) ((who nop).ownedRows .always 0 2) ∧
    (who nop).checkRanges ((who nop).accRanges (ef 0 .none (.imm 0) (.imm 0) .none) true) = .ok () ∧
    (who nop).gang.scratchBusy = false ∧ (who nop).gang.number = 0 ∧
    (who nop).checkCbload ((who nop).active .always) 0 4 = .ok () ∧
    ∃ c, bankState.issuer = some c ∧ ∀ i ∈ (c.active .always).toList, (nth c.team.banks 0 Bank.empty).valid.contains 0 = true := by
  refine ⟨ready_of (by decide), by decide, by decide, by decide, by decide, by decide, ready_of (by decide),
    rowsFree (by decide), rfl, by decide, by decide, rfl, _, rfl, by decide⟩

/-- An accumulator operation, a window change and a bank writer, each the oldest of its core. -/
def engineState : State :=
  (withPending (pend .unit)).modCore 0 fun k => { k with
    accOps := [{ id := 9, gang := 0, team := 2, kind := .zero false, base := 0, rows := [0, 1], lanes := 3, a := [], b := [],
                 sa := [], sb := [], bank := Bank.empty, rm := 1 }]
    winOps := [{ id := 9, gang := 0, team := 2, target := 0, base := 4, lim := 8 }]
    bankOps := [{ id := 9, gang := 0, team := 2, bank := 1, first := 0, count := 4, words := none, valid := some true }] }

theorem test_witness_MatrixEngineRetires :
    ((engineState.core 0).accOps.find? fun x => x.id == 9).isSome = true ∧ (engineState.team? 0 2).isSome = true ∧
    (∃ g, engineState.gang? 0 0 = some g ∧ (g.pending? 9).isSome = true) ∧
    (∀ e ∈ (engineState.core 0).accOps, ¬ e.id < 9) ∧
    ((engineState.core 0).winOps.find? fun x => x.id == 9).isSome = true ∧
    ((engineState.core 0).bankOps.find? fun x => x.id == 9).isSome = true ∧
    ∀ g ∈ (engineState.core 0).gangs, ∀ p ∈ g.2.pending, ¬ p.id < 9 := by
  refine ⟨by decide, by decide, ⟨_, rfl, by decide⟩, by decide, by decide, by decide, by decide⟩

/-- A Spur operation of core 1 with one step for core 0, whose reservation stands in core 0. -/
def spurState (reports : Table (Option Code)) : State :=
  ((withPending (pend .unit)).modCore 0 fun k => { k with
    reservations := [{ id := 7, tag := 5, gang := 0, team := 2, ta := .e4m3, acct := 0, base := 0, rows := 32, region := 0,
                       barrier := 1, posted := true }] }).modCluster 0 fun cl => { cl with
    spurs := [{ id := 9, core := 0, gang := 0, tb := .e4m3, acct := 0, ovw := false, neg := false, tag := 5, steps := 1,
                partners := [0], b := [], reports := reports, flags := 0 }] }

theorem test_witness_SpurWorks :
    (who nop).OnceExecutes (one nop) (vRun 0 3) .mxc ∧ (who nop).Quiet ∧ spuraccOk 0 0 0 = true ∧
    (let r := (who nop).reservation (ef 16 .none (.s 0) .none .none) 4
     r.region % 32 = 0 ∧ r.base + r.rows ≤ (who nop).gang.accLim ∧ ((one nop).core 0).reserveBusy r = false) ∧
    twice (spurPartners 0) = false ∧ (who nop).Ready { v := vRun 0 8, s := [1, 2, 0], p := [] } ∧
    (((spurState []).cluster 0).spurs.find? fun x => x.id == 9).isSome = true ∧
    (((spurState []).core 0).reservations.find? fun r => r.posted && r.tag == 5).isSome = true ∧
    (((spurState [(0, none)]).cluster 0).spurs.map fun o => decide (o.partners.length ≤ o.reports.length)) = [true] := by
  refine ⟨⟨issuer_one nop, ready_of (by decide), by unfold Issuer.CounterFree; decide⟩, .inr ⟨rfl, rfl⟩, by decide,
    by decide, by decide, ready_of (by decide), by decide, by decide, by decide⟩

theorem test_witness_ClusterInstructions :
    (who nop).OnceExecutes (one nop) (sRegs true (.s 4) ++ vRun 0 2) .enc ∧ (who nop).spair 0 % 64 = 0 ∧
    (who nop).num (.imm 3) < 16 ∧ rangeOf 0 10 0x10002 3 ≠ none :=
  ⟨⟨issuer_one nop, ready_of (by decide), by unfold Issuer.CounterFree; decide⟩, by decide, by decide, by decide⟩

theorem test_witness_BarrierArrivals :
    let b := { Barrier.reset with target := 3, arrived := 1 }
    b.target ≠ 0 ∧ b.arrived + 1 < b.target ∧ b.target ≤ b.arrived + 2 := by decide

theorem test_witness_BarrierWaits :
    let s := (one nop).setBarrier 0 1 { Barrier.reset with target := 3, arrived := 1 }
    ((s.barrier 0 1).arrive 1 false 0).2 = false ∧ ((s.barrier 0 1).arrive 2 false 0).2 = true ∧
    (let p := { pend (.barrier 1 0 0) with sent := false }
     (withPending p).Outstanding (runs p) p ∧ p.going = true) ∧
    (s.barrier 0 1).target ≠ 0 ∧ (s.barrier 0 2).target = 0 ∧
    (let p := { pend (.request (.arrive 1 1 false true)) with sent := false }
     (withPending p).Outstanding (runs p) p ∧ p.going = true ∧ (withPending p).blocked (runs p) p [] = false) :=
  ⟨by decide, by decide, ⟨⟨rfl, rfl⟩, by decide⟩, by decide, by decide, ⟨rfl, rfl⟩, by decide, by decide⟩

theorem test_witness_DamselChunks :
    (who nop).OnceExecutes (one nop) (sRegs true (.s 4) ++ opdS .n32 (.imm 3)) .enc ∧ (who nop).num (.imm 3) < 16 ∧
    (rangeOf 0 10 0x10002 3).isSome = true ∧ DamselSlot.empty.next ≤ DamselSlot.empty.stop :=
  ⟨⟨issuer_one nop, ready_of (by decide), by unfold Issuer.CounterFree; decide⟩, by decide, by decide, by decide⟩

/-- Example 12.1: of 1,000, with `MINC` 16, factor 2 and 4 partners, the first chunk is 125, and at 116 left it is 16. -/
theorem test_example_12_1 :
    (DamselSlot.mk 0 1000 16 2 4).chunk = 125 ∧ (DamselSlot.mk 884 1000 16 2 4).chunk = 16 ∧
    (DamselSlot.mk 996 1000 16 2 4).chunk = 4 ∧ (DamselSlot.mk 1000 1000 16 2 4).chunk = 0 := by decide

theorem test_witness_GraphicsInstructionsIssue :
    (who nop).Ready { v := runOf 1 (.v 12) ++ vRun 0 11, s := vRun 0 2, p := [] } ∧ (who nop).spair 0 % 64 = 0 ∧
    (who nop).CounterFree .enc ∧ ((one nop).cluster 0).vis.gateClosed = false ∧ (who nop).PoolHas (one nop) [12] := by
  refine ⟨ready_of (by decide), by decide, ?_, by decide, ?_⟩
  · unfold Issuer.CounterFree; decide
  · unfold Issuer.PoolHas; decide

/-- A draw context, and a triangle with the vertices (0, 0), (4, 0), (0, 4) at depth 1, or one whose first vertex is infinite.
-/
def drawCtx : DrawCtx :=
  { addr := 0, vmid := 0, asid := 0, group := none, vbase := 0, vpitch := 64, hgt := 4, wid := 4, obase := 0, cw := false,
    cullb := false, ftag := 0 }

def tri (x : Word) : Tri :=
  { ctx := drawCtx, verts := [x, 0, 0x3F800000, 0x40800000, 0, 0x3F800000, 0, 0x40800000, 0x3F800000], inst := 0, prim := 0,
    test := false, refs := 1 }

def rasterState (t : Tri) (cursor : Nat) : State :=
  (mapped (one nop) []).modVis 0 fun v => { v with job := [t], cursor := cursor }

/-- A sample of a draw and of a test draw, a triangle with none left, and a visibility word on no page. -/
theorem test_witness_GraphicsUnitsWork_samples :
    ((screenOf (tri 0).verts).bind fun p => nextSample (tri 0) p (pixelBox drawCtx p)
      ((pixelBox drawCtx p).2.2.1 * (pixelBox drawCtx p).2.2.2) 0).isSome = true ∧
    (screenOf (tri 0).verts).any (fun p => (nextSample (tri 0) p (pixelBox drawCtx p)
      ((pixelBox drawCtx p).2.2.1 * (pixelBox drawCtx p).2.2.2 - 16) 16).isNone) = true ∧
    (∃ l u, (rasterState (tri 0) 0).visAccess drawCtx .atomic 0 8 = .ok l ∧
      (rasterState (tri 0) 0).engineMay 0 3 l true = true ∧ (rasterState (tri 0) 0).logWrite 0 0 0 = (true, u)) ∧
    (∃ l, (rasterState (tri 0) 0).visAccess drawCtx .engineRead 0 8 = .ok l ∧
      (rasterState (tri 0) 0).engineMay 0 3 l false = true ∧
      leNat (slice ((rasterState (tri 0) 0).coherentData l.tag l.line l.pline) 0 8) = 0) ∧
    (∃ code, (one nop).visAccess drawCtx .atomic 0 8 = .error code) ∧
    (one nop).serviced 0 .pageProtection = false := by
  exact ⟨by decide +kernel, by decide +kernel, ⟨_, _, rfl, by decide, rfl⟩, ⟨_, rfl, by decide, by decide⟩, ⟨_, rfl⟩, by decide⟩

theorem test_witness_GraphicsUnitsWork_lanes :
    (let p := pend (.prim true)
     (withPending p).Outstanding (runs p) p ∧ ((withPending p).cluster 0).vis.job = [] ∧
     ((withPending p).cluster 0).vis.dropped = none) ∧
    (let p := { pend (.rayq false false 0) with data := [(0, [])] }
     (withPending p).Outstanding (runs p) p ∧ (withPending p).blocked (runs p) p [] = false ∧ p.laneOpen 0 = true ∧
     rayOf [] = .miss) := by
  exact ⟨⟨⟨rfl, rfl⟩, by decide, by decide⟩, ⟨rfl, rfl⟩, by decide, by decide, by decide⟩

/-- A triangle node at address 64 that a ray along z meets at t = 1. -/
theorem test_witness_GraphicsUnitsWork_hit :
    let s := mapped (one nop) [(66, 0x80), (67, 0xBF), (70, 0x80), (71, 0xBF), (74, 0x80), (75, 0x3F), (78, 0x80), (79, 0x40),
      (82, 0x80), (83, 0xBF), (86, 0x80), (87, 0x3F), (90, 0x80), (91, 0xBF), (94, 0x80), (95, 0x40), (98, 0x80), (99, 0x3F)]
    (match rayOf [0, 0, 0, 0, 0, 0x3F800000, 0, 0x7F800000] with
      | .ray r =>
        let v := s.visit 0 0 0 none r false false 64 66 { best := none, stop := none, seen := [] }
        v.best.isSome && v.stop.isNone
      | _ => false) = true := by decide +kernel

theorem onceExecutes {ss : List Nat} {k : Ctr} (h : (who nop).blockers { v := [], s := ss, p := [] } = []) :
    (who nop).OnceExecutes (one nop) ss k :=
  ⟨issuer_one nop, ready_of ⟨rfl, h⟩, by unfold Issuer.CounterFree; cases k <;> decide⟩

theorem test_witness_MillpondInstructionsIssue :
    (who nop).Ready { v := vRun 8 4 ++ vRun 0 3, s := [], p := [] } ∧ keyOk [0, 0, 0] = true ∧
    (who nop).PoolHas (one nop) (vRun 8 4) ∧ (who nop).OnceExecutes (one nop) (vRun 0 5) .enc ∧
    0 + (one nop).imageBytes 0 ≤ (who nop).team.scratchBytes ∧
    (who nop).team.meetsPoison 0 ((one nop).imageBytes 0) = false ∧ (who nop).num (.imm 3) < 256 := by
  refine ⟨ready_of (by decide), by decide, ?_, onceExecutes (by decide), by decide, by decide, by decide⟩
  unfold Issuer.PoolHas; decide

/-- A lane whose key has a reserved bit, and words of a TXFILL and a TXINV with one. -/
theorem test_witness_MillpondInstructionsIssue_reserved :
    keyOk [0, 0, 0xFFFFFFFF] = false ∧
    (∃ c, ((one nop).modGang 0 0 fun g => { g with slots := [(2, List.replicate 32 0xFFFFFFFF)] }).issuer = some c ∧
      c.Ready { v := vRun 8 4 ++ vRun 0 3, s := [], p := guardP .always } ∧
      ∃ i ∈ (c.active .always).toList, keyOk ((vRun 0 3).map fun v => c.vreg v i) = false) ∧
    ∃ c, (withSub fun b => { b with sregs := [256, 0, 0xFFFFFFFF, 0, 2] }).issuer = some c ∧
      c.Ready { v := [], s := vRun 0 5, p := [] } ∧ 2 ≤ (c.sreg 4).toNat ∧ 256 ≤ (c.sreg 0).toNat ∧
      c.Ready { v := [], s := [0, 2, 3], p := [] } ∧ keyOk ((vRun 0 3).map c.sreg) = false ∧ 256 ≤ c.num (.s 0) := by
  exact ⟨by decide, ⟨_, rfl, ready_of (by decide), 0, by decide, by decide⟩, _, rfl, ready_of (by decide), by decide, by decide,
    ready_of (by decide), by decide, by decide⟩

/-- A pool of 32 tiles whose first tile is free, that the VM may view and fill, with one entry under the key of zeros. -/
def pondState (x : PondEntry) (hands : Table (Nat × Nat × Bool)) : State :=
  { mapped ((one nop).modPart 0 fun p => { p with pondview := 0x8000000000000000 }) [(3, 0xC0)] with
    pond := { entries := [(0, x)], guards := [], lineGuards := [],
              pools := [(0, { enabled := true, hbase := 0, strict := false, big := false, hcount := 8, qlog := 4, qbase := 0,
                              agethr := 0, inflim := 2, wmark := 2, frame := 5, free := [0], quar := [], noallocs := 0,
                              sluiceovf := 0, qtail := 0, hands := hands })] } }

theorem test_witness_MillpondAnswers :
    let s := pondState { PondEntry.reset with st := .valid } []
    let t := pondState { PondEntry.reset with st := .inFlight } []
    ((one nop).view 0 0).v = false ∧ (s.view 0 0).v = true ∧ (s.view 0 0).f = true ∧ (s.pool? 0).isSome = true ∧
    keyPool 0 = 0 ∧ s.findKey 0 = some 0 ∧ (s.pondEntry 0).st = .valid ∧
    (pondState PondEntry.reset []).findKey 0 = none ∧ (pondState PondEntry.reset []).tokenLive 0 = false ∧
    t.tokenLive 0 = true ∧ (∃ q, t.pool? 0 = some q ∧ q.free = [0]) ∧ (t.pondEntry 0).st = .inFlight ∧
    (let p := { pend (.txpin true) with data := [(0, [0, 0, 0])] }
     (s.viewFor p 0 0 0).f = true) ∧
    ∃ q, s.pool? 0 = some q ∧ q.free.length < q.wmark ∧ Table.getD q.hands 0 (0, 0, false) = (0, 0, false) := by
  exact ⟨by decide, by decide, by decide, by decide, by decide, by decide, by decide, by decide, by decide, by decide,
    ⟨_, rfl, rfl⟩, by decide, by decide, _, rfl, by decide, by decide⟩

theorem test_witness_QueueInstructionsIssue :
    (who nop).Ready { v := opdV .n32 (.v 0), s := [], p := [1] } ∧ (who nop).num (.imm 2) ≤ 15 ∧
    (who nop).gang.scratchBusy = false ∧
    (who nop).checkRanges ((((who nop).active .always).toList.map fun i => (i, (who nop).read .n32 (.v 0) i)).map
      fun x => (x.1, x.2, 256, true)) = .ok () := ⟨ready_of (by decide), by decide, by decide, rfl⟩

/-- A node whose ring has 16 places, drained by the Wallower, with three records pushed (`QTAIL` is 3). -/
def nodeState (wl : Bool) : State :=
  mapped ((one nop).modPart 0 fun p => { p with nodes := [(0,
    { nbase := 0, nasid := 0, nqlog := 4, rsz := 1, wl := wl, nen := true, nprio := 0, wmax := 2, wcd := 0, nkd := 0,
      nargs := [], usable := true, kd := some KDesc.one, reserve := 3, head := 0, qovf := 0, take := 0, takes := [] })] })
    [(0, 3)]

theorem test_witness_NodeQueues : ∃ p x, (nodeState true).part? 0 = some p ∧ p.node? 0 = some x ∧ x.kd = some KDesc.one ∧
    (nodeState true).schedRead p.vmid x.nasid x.nbase 8 .windowRead = .bytes [3, 0, 0, 0, 0, 0, 0, 0] ∧
    x.take < leNat ([3, 0, 0, 0, 0, 0, 0, 0] : List Byte) ∧ (x.takes.filter fun t => !t.2.2).length < x.wmax ∧
    (nodeState true).schedRead p.vmid x.nasid (x.nbase + 8) 8 .windowRead = .bytes [0, 0, 0, 0, 0, 0, 0, 0] ∧
    (2 ^ 64 + x.reserve + 1 - leNat ([0, 0, 0, 0, 0, 0, 0, 0] : List Byte)) % 2 ^ 64 ≤ x.ring ∧
    x.ring < (2 ^ 64 + x.reserve + 14 - leNat ([0, 0, 0, 0, 0, 0, 0, 0] : List Byte)) % 2 ^ 64 := by
  refine ⟨_, _, rfl, rfl, rfl, rfl, by decide, by decide, rfl, by decide, by decide⟩

/-- A record that the ring of such a node has room for is written. -/
theorem test_witness_NodeQueues_push : ∃ p y t u, (nodeState false).part? 0 = some p ∧ p.node? 0 = some y ∧
    ((nodeState false).schedTouch p.vmid y.nasid (y.nbase + 8) 8).writeRecords p.vmid y y.reserve [List.replicate 16 1] =
      .done t ∧
    (t.modNode 0 0 fun z => { z with reserve := z.reserve + 1 }).schedPut 0 .queueError p.vmid y.nasid y.nbase
      (leBytes 8 (y.reserve + 1)) = .ok u := ⟨_, _, _, _, rfl, rfl, rfl, rfl⟩

/-- A node that the Wallower does not drain and whose records have all been taken, and one whose `QTAIL` is on no page. -/
theorem test_witness_NodeQueues_empty : (∃ p x, (nodeState false).part? 0 = some p ∧ p.node? 0 = some x ∧ x.wl = false ∧
      (nodeState false).schedRead p.vmid x.nasid x.nbase 8 .windowRead = .bytes [3, 0, 0, 0, 0, 0, 0, 0] ∧
      leNat ([3, 0, 0, 0, 0, 0, 0, 0] : List Byte) ≤ ({ x with take := 3 } : Node).take) ∧
    let s := { nodeState true with mem := MemSide.reset }
    ∃ p x code va, s.part? 0 = some p ∧ p.node? 0 = some x ∧ x.kd = some KDesc.one ∧ x.wl = true ∧
      s.schedRead p.vmid x.nasid x.nbase 8 .windowRead = .fault code va := by
  exact ⟨⟨_, _, rfl, rfl, rfl, rfl, by decide⟩, _, _, _, _, rfl, rfl, rfl, rfl, rfl⟩

/-- A partition with one open queue, whose next record is `head`, and one grid in a state. -/
def gridState (head : Nat) (st : GridSt) (next : Nat) : State :=
  { mapped ((one nop).modPart 0 fun p => { p with wdlim := 1, fcnt := 1, fsize := 2 ^ 24, queues := [(0, { Queue.reset with
      desc := 2 ^ 35, head := head, tail := 1, opened := true, notice := true })] }) [(0, 2)] with
    grids := [(1, { (who nop).grid with st := st, nextTeam := next, unretired := [] })] }

theorem test_witness_GridsComeAndGo :
    (∃ p, (gridState 0 .accepted 0).part? 0 = some p ∧ (p.queue 0).enabled = true ∧ (p.queue 0).opened = true ∧
      (p.queue 0).head < (p.queue 0).tail) ∧
    (∃ p, (gridState 1 .accepted 0).part? 0 = some p ∧ ¬ (p.queue 0).head < (p.queue 0).tail ∧ (p.queue 0).lnch = false ∧
      (gridState 1 .accepted 0).schedRead p.vmid (p.queue 0).asid (p.queue 0).base 8 = .bytes [2, 0, 0, 0, 0, 0, 0, 0]) ∧
    (∃ g, (gridState 0 .accepted 0).grid? 1 = some g ∧ g.st = .accepted ∧ g.lr.faddr = 0 ∧ g.lr.occ = 0) ∧
    (∃ g, (gridState 0 .ending 0).grid? 1 = some g ∧ (gridState 0 .ending 0).gridOver 1 g = true ∧ g.node = none ∧
      (gridState 0 .ending 0).completion g = .ok (gridState 0 .ending 0)) ∧
    ∃ p, (gridState 0 .eligible 0).part? 0 = some p ∧ p.wdlim ≠ 0 ∧ (gridState 0 .eligible 0).works 0 p = true := by
  refine ⟨⟨_, rfl, by decide, by decide, by decide⟩, ⟨_, rfl, by decide, by decide, rfl⟩,
    ⟨_, rfl, by decide, by decide, by decide⟩, ⟨_, rfl, by decide, rfl, rfl⟩, _, rfl, by decide, by decide⟩

/-- The team of `one nop` saved. -/
def savedFrame : Frame := { team := (who nop).team, gangs := [(who nop).gang], cut := none }

/-- The same partition with its core empty, and with frames. -/
def emptyCore (frames : Table Frame) : State :=
  ((gridState 0 .eligible 0).modPart 0 fun p => { p with frames := frames }).modCore 0 fun k =>
    { k with teams := [], gangs := [], pipe0 := none, split := 0 }

theorem test_witness_TeamsComeAndGo_admit :
    (∃ g p a, (emptyCore []).grid? 1 = some g ∧ (emptyCore []).part? 0 = some p ∧ g.pid = 0 ∧ g.nextTeam < g.lr.total ∧
      (emptyCore []).goesNext 1 g = true ∧ g.lr.pin = false ∧ (emptyCore []).takesTeams p 0 none = true ∧
      ((emptyCore []).core 0).placeKernel g.kd = some a) ∧
    (let s := (emptyCore []).modGrid 1 fun g => { g with lr := { g.lr with pin := true } }
     ∃ g p, s.grid? 1 = some g ∧ s.part? 0 = some p ∧ g.lr.pin = true ∧ s.goesNext 1 g = true ∧ s.canPlace p g = true) := by
  exact ⟨⟨_, _, _, rfl, rfl, rfl, by decide, by decide, rfl, by decide, rfl⟩, _, _, rfl, rfl, rfl, by decide, by decide⟩

/-- Frame pages of an address space that the scheduler may use: 1 MiB from address 0, on frames from 0. -/
def framePage (asid : Nat) : TlbEntry :=
  { page with
    asid := asid
    big := true
    perms := { page.perms with x := false }
    frames := (List.range 16).map fun n => (n, { host := false, aclass := 0, acount := 1, bad := false }) }

/-- The state's address space `asid` has those pages, and nothing of it is cached. -/
structure Paged (asid : Nat) (s : State) : Prop where
  tlb : s.mem.tlb = [framePage asid]
  l2 : s.mem.l2 = []
  txns : s.mem.txns = []
  holds : s.mem.holds = []
  lines : s.mem.lines = []
  pkg : s.pkg = Pkg.reset
  boot : s.boot.memSide = false
  l1 : ∀ k ∈ s.cores, k.2.l1 = []

theorem Paged.inHeap {asid : Nat} {s : State} (h : Paged asid s) (va : Nat) : s.inHeap va = false := by
  simp [State.inHeap, h.pkg, Pkg.reset]

theorem framePage_frames (asid n : Nat) (h : n < 16) : Table.get? (framePage asid).frames n =
    some { host := false, aclass := 0, acount := 1, bad := false } := by
  have all : ∀ n ∈ List.range 16, Table.get? (framePage 0).frames n =
      some { host := false, aclass := 0, acount := 1, bad := false } := by decide
  exact all n (List.mem_range.mpr h)

theorem noHostPa : ∀ n ∈ List.range 16, isHostPa (n * 2 ^ 16) = false := by decide

theorem Paged.translate {asid : Nat} {s : State} (h : Paged asid s) {va : Nat} (hv : va < 2 ^ 20) :
    ∃ x, s.translate 0 asid va = .ok x ∧ x.perms = (framePage asid).perms ∧ x.log = false ∧ x.frame < 16 ∧
      x.bits = { host := false, aclass := 0, acount := 1, bad := false } := by
  have hp : va / 65536 < 16 := by omega
  have hc : (framePage asid).covers 0 asid (va / 65536) = true := by
    simp [TlbEntry.covers, framePage, page]; omega
  have ht : s.tlb? 0 asid (va / 65536) = some (framePage asid) := by
    simp [State.tlb?, h.tlb, hc]
  have hz : va / 65536 - (framePage asid).page = va / 65536 := by simp [framePage, page]
  have hf : (framePage asid).frame + va / 65536 = va / 65536 := by simp [framePage, page]
  refine ⟨_, by rw [State.translate, ht], ?_, rfl, by simpa only [State.xlatOf, hz, hf] using hp, ?_⟩
  · simp only [State.xlatOf, hz, hf, framePage_frames asid _ hp, Option.getD_some, Perms.onFrame]
    simp [framePage, page]
  · simp [State.xlatOf, hz, framePage_frames asid _ hp]

/-- The line that a checked access of such an address space reaches. -/
theorem Paged.access {asid : Nat} {s : State} (h : Paged asid s) {va : Nat} (hv : va < 2 ^ 20) (n : Nat) (k : Acc)
    (hk : k = .engineRead ∨ k = .engineWrite) :
    ∃ l, s.access k none 0 asid va n = .ok l ∧ l.perms = (framePage asid).perms := by
  obtain ⟨x, hx, hperm, -, hframe, hbits⟩ := h.translate hv
  have hl : ∃ l, s.lineAt none 0 asid va false = .ok l ∧ l.perms = (framePage asid).perms ∧ l.fill = some x.bits ∧
      l.pline = x.frame * 512 + bitsOf va 15 7 := by
    refine ⟨_, by simp only [State.lineAt, h.boot, h.l2, List.find?, Option.map, hx]; rfl, hperm, rfl, rfl⟩
  obtain ⟨l, hl, hlp, hlf, hpl⟩ := hl
  have hdiv : l.pline / 512 = x.frame := by
    have : bitsOf va 15 7 < 512 := Nat.mod_lt _ (by decide)
    omega
  have hhost : isHostPa (l.pline / 512 * 2 ^ 16) = false := by
    rw [hdiv]; exact noHostPa _ (List.mem_range.mpr hframe)
  have hhost' : isHostPa (l.pline / 512 * 65536) = false := hhost
  have hm : s.lineMeta l.pline = LineMeta.zero := by simp [State.lineMeta, h.lines, Table.getD, Table.get?]
  have hfault : s.lineFault k none l = none := by
    rcases hk with rfl | rfl <;>
      simp [State.lineFault, hlp, hlf, hbits, hm, framePage, page, Perms.permitsOn, hhost, hhost', Perms.permits, Perms.attrFault,
        FrameBits.fault, LineMeta.zero, Acc.writes]
  refine ⟨l, ?_, hlp⟩
  simp [State.access, h.inHeap, hl, hfault]

theorem Paged.engineMay {asid : Nat} {s : State} (h : Paged asid s) (l : Ln) (write : Bool) :
    s.engineMay 64 7 l write = true := by
  simp [State.engineMay, State.txn?, h.txns, State.held, h.holds, State.dir, State.l2?, h.l2, h.boot, DirEntry.empty]

theorem Paged.logWrite {asid : Nat} {s : State} (h : Paged asid s) {va : Nat} (hv : va < 2 ^ 20) :
    s.logWrite 0 asid va = (true, s) := by
  obtain ⟨x, hx, -, hlog, -, -⟩ := h.translate hv
  cases hp : s.partOfVm 0 <;> simp [State.logWrite, h.inHeap, hx, hlog, hp]

theorem Paged.writeAtHome {asid : Nat} {s₀ : State} (h₀ : Paged asid s₀) (l : Ln) (off : Nat) (bs : List Byte) :
    Paged asid (s₀.writeAtHome l [(off, bs)]) := by
  obtain ⟨s, hst, h⟩ : ∃ s, s₀.staleCode l = s ∧ Paged asid s := by
    refine ⟨_, rfl, ?_⟩
    simp only [State.staleCode, State.noteStale]
    split
    · exact h₀
    · exact ⟨h₀.tlb, h₀.l2, h₀.txns, h₀.holds, h₀.lines, h₀.pkg, h₀.boot, h₀.l1⟩
  have hl1 : ∀ k ∈ s.cores, k.2.l1? l.tag l.line = none := fun k hk => by simp [Core.l1?, h.l1 k hk]
  have hd : s.dropTracked l.tag l.line = s := by
    have : ∀ (cs : Table Core) (u : State), (∀ k ∈ cs, k.2.l1? l.tag l.line = none) →
        cs.foldl (fun s (k : Nat × Core) => match k.2.l1? l.tag l.line with
          | some x => if x.st.tracked then s.dropL1 k.1 l.tag l.line else s
          | none => s) u = u := by
      intro cs
      induction cs with
      | nil => simp
      | cons k cs ih => intro u hu; simp only [List.foldl_cons, hu k (by simp)]; exact ih u fun k hk => hu k (by simp [hk])
    exact this s.cores s hl1
  have ht : Paged asid (s.touchL2 l.tag l.line l.pline) :=
    ⟨h.tlb, by simp [State.touchL2, State.modL2, State.modMem, h.l2], h.txns, h.holds, h.lines, h.pkg, h.boot, h.l1⟩
  have hw : Paged asid ((s.touchL2 l.tag l.line l.pline).writeHome l.tag l.line l.pline off bs) := by
    have hn : (s.touchL2 l.tag l.line l.pline).l2? l.tag l.line l.pline = none := by simp [State.l2?, ht.l2]
    have hm : ∀ u : State, u.mem.lines = [] → u.notify l.pline = u := fun u hu => by
      simp [State.notify, State.lineMeta, hu, Table.getD, Table.get?, LineMeta.zero]
    simp only [State.writeHome, hn]
    rw [hm ((s.touchL2 l.tag l.line l.pline).physWrite (128 * l.pline + off) bs) ht.lines]
    exact ⟨ht.tlb, ht.l2, ht.txns, ht.holds, ht.lines, ht.pkg, ht.boot, ht.l1⟩
  simp only [State.writeAtHome, hst, hd, List.foldl_cons, List.foldl_nil, State.setDir]
  exact ⟨hw.tlb, by simp [State.modL2, State.modMem, hw.l2], hw.txns, hw.holds, hw.lines, hw.pkg, hw.boot, hw.l1⟩

/-- The scheduler's writes to such an address space are all made. -/
theorem Paged.write {asid : Nat} {s : State} (h : Paged asid s) (va : Nat) (bs : List Byte) (hv : va + bs.length ≤ 2 ^ 20) :
    ∃ u, s.schedWrite 0 asid va bs = .done u := by
  have line : ∀ (u : State), Paged asid u → ∀ a cs, a < 2 ^ 20 → ∃ v, u.schedWriteLine 0 asid a cs false = .done v ∧ Paged asid v := by
    intro u hu a cs ha
    obtain ⟨l, hl, hp⟩ := hu.access ha cs.length .engineWrite (.inr rfl)
    refine ⟨u.writeAtHome l [(a % 128, cs)], ?_, hu.writeAtHome l _ _⟩
    have small : a < 72057594037927936 := by omega
    simp [State.schedWriteLine, Nat.not_le.mpr small, hu.inHeap, hl, hu.engineMay, hu.logWrite ha, hp, framePage, page]
  have all : ∀ (xs : List (Nat × Nat)), (∀ x ∈ xs, x.1 < 2 ^ 20) → ∀ u, Paged asid u → ∃ v,
      xs.foldl (fun acc x => match acc with
        | EngineWrite.done t => t.schedWriteLine 0 asid x.1 (slice bs (x.1 - va) x.2) false
        | o => o) (.done u) = .done v := by
    intro xs
    induction xs with
    | nil => intro _ u _; exact ⟨u, rfl⟩
    | cons x xs ih =>
      intro hx u hu
      obtain ⟨v, hv, hp⟩ := line u hu x.1 (slice bs (x.1 - va) x.2) (hx x (by simp))
      simp only [List.foldl_cons, hv]
      exact ih (fun y hy => hx y (by simp [hy])) v hp
  refine all _ ?_ s h
  intro x hx
  simp only [linePieces, List.mem_map, List.mem_range] at hx
  obtain ⟨i, hi, rfl⟩ := hx
  simp only [Nat.max_lt]
  omega

/-- Empty memory reads as zero. -/
theorem Paged.homeData {asid : Nat} {s : State} (h : Paged asid s) (hz : s.mem.hbm = []) (tag line pline : Nat) :
    ∀ b ∈ s.coherentData tag line pline, b = 0 := by
  have none_ : s.dirtyOwner tag line = none := by
    simp [State.dirtyOwner, Core.l1?]
    intro n k hk
    have e : k.l1 = [] := h.l1 (n, k) hk
    simp [e]
  intro b hb
  simp only [State.coherentData, none_, State.homeData, State.l2?, h.l2, List.find?, Memory.readN, ite_self, List.mem_map] at hb
  obtain ⟨i, -, rfl⟩ := hb
  simp [Memory.read, hz, Table.getD, Table.get?, Memory.fill]

/-- The scheduler's reads of such an address space are all made, and of empty memory they give zeros. -/
theorem Paged.read {asid : Nat} {s : State} (h : Paged asid s) (hz : s.mem.hbm = []) (va n : Nat) (hv : va + n ≤ 2 ^ 20) :
    ∃ bs, s.schedRead 0 asid va n = .bytes bs ∧ ∀ b ∈ bs, b = 0 := by
  have line : ∀ a m, a < 2 ^ 20 → ∃ cs, s.engineRead .engineRead 64 7 0 asid none a m = .bytes cs ∧ ∀ b ∈ cs, b = 0 := by
    intro a m ha
    obtain ⟨l, hl, hp⟩ := h.access ha m .engineRead (.inl rfl)
    have : ¬ 2 ^ 56 ≤ a := by omega
    refine ⟨slice (s.coherentData l.tag l.line l.pline) (a % 128) m,
      by simp only [State.engineRead, this, if_false, State.routeIn, h.inHeap, hl, h.engineMay]; rfl, ?_⟩
    exact fun b hb => h.homeData hz _ _ _ b (List.mem_of_mem_drop (List.mem_of_mem_take hb))
  have all : ∀ (xs : List (Nat × Nat)), (∀ x ∈ xs, x.1 < 2 ^ 20) → ∀ bs : List Byte, (∀ b ∈ bs, b = 0) → ∃ cs,
      xs.foldl (fun acc x => match acc with
        | EngineRead.bytes bs => (match s.engineRead .engineRead 64 7 0 asid none x.1 x.2 with
          | .bytes cs => .bytes (bs ++ cs)
          | o => o)
        | o => o) (.bytes bs) = .bytes cs ∧ ∀ b ∈ cs, b = 0 := by
    intro xs
    induction xs with
    | nil => intro _ bs hb; exact ⟨bs, rfl, hb⟩
    | cons x xs ih =>
      intro hx bs hb
      obtain ⟨cs, hc, hcz⟩ := line x.1 x.2 (hx x (by simp))
      simp only [List.foldl_cons, hc]
      exact ih (fun y hy => hx y (by simp [hy])) _ fun b hm => (List.mem_append.mp hm).elim (hb b) (hcz b)
  refine all _ ?_ [] (by simp)
  intro x hx
  simp only [linePieces, List.mem_map, List.mem_range] at hx
  obtain ⟨i, hi, rfl⟩ := hx
  simp only [Nat.max_lt]
  omega

/-- A small team all of whose gangs are parked, on a core without a clause in issue, of a cluster that firmware pre-empts. -/
def evictState : State :=
  let s := ((withSub fun b => { b with park := .fault none FaultRec.zero }).modCore 0 fun k => { k with pipe0 := none }).modPart 0 fun p =>
    { p with preempting := 1, fcnt := 1, fsize := 2 ^ 19 }
  let s := s.modTeam 0 2 fun t => { t with scratchBytes := 16, accRows := 0, banks := [] }
  { s with mem := { s.mem with tlb := [framePage (Config.frameAsid 0 % 2 ^ 16)] } }

theorem test_witness_TeamsComeAndGo_evict : ∃ (t : Team) (g : Grid) (p : Partition), evictState.team? 0 2 = some t ∧
    evictState.grid? t.grid = some g ∧ evictState.part? g.pid = some p ∧ t.killed = false ∧ t.started = true ∧
    g.lr.prs = false ∧ evictState.preempted g.pid 0 2 p g = true ∧ (evictState.core 0).evictable 2 = true ∧
    evictState.evictReason g.pid 0 2 p g = true ∧
    let v := (evictState.withdraw 0 0 2).withdraw 0 1 2
    let f := v.frameOf 0 2 t (some 0)
    (v.core 0).teamGangs 2 ≠ [] ∧ v.settled 0 2 = true ∧ p.freeFrame (frameBytes t f.gangs) = some 0 ∧
    ∃ u, v.schedWrite p.vmid (Config.frameAsid g.pid % 2 ^ 16) (p.frameAt 0) (frameImage (v.core 0) t f.gangs g) = .done u := by
  refine ⟨_, _, _, rfl, rfl, rfl, rfl, rfl, rfl, by decide, by decide, by decide, by decide, by decide, rfl, ?_⟩
  exact Paged.write (s := evictState) ⟨rfl, rfl, rfl, rfl, rfl, rfl, rfl, by decide⟩ _ _ (by decide +kernel)

/-- The team saved in frame 0. -/
def restoreState : State :=
  let s := emptyCore [(0, savedFrame)]
  { s with mem := { s.mem with tlb := [framePage (Config.frameAsid 0 % 2 ^ 16)], hbm := [] } }

/-- A field of bytes that are zero is zero. -/
theorem fieldAt_zero {bs : List Byte} (h : ∀ b ∈ bs, b = 0) (off n : Nat) : fieldAt bs off n = 0 := by
  have all : ∀ cs : List Byte, (∀ b ∈ cs, b = 0) → leNat cs = 0 := by
    intro cs
    induction cs with
    | nil => intro _; rfl
    | cons b cs ih => intro hc; simp [leNat, hc b (by simp), ih fun c hm => hc c (by simp [hm])]
  exact all _ fun b hb => h b (List.mem_of_mem_drop (List.mem_of_mem_take hb))

/-- A block of bytes that are zero names no slots. -/
theorem blockSlots_zero {bs : List Byte} (h : ∀ b ∈ bs, b = 0) : blockSlots bs = [] := by
  have none_ : ∀ n, nth (slice bs 336 128) n 0 = 0 := by
    intro n
    simp only [nth]
    cases hn : (slice bs 336 128)[n]? with
    | none => rfl
    | some b => exact h b (List.mem_of_mem_drop (List.mem_of_mem_take (List.mem_of_getElem? hn)))
  simp only [blockSlots, mapSlots, none_]
  simp

theorem test_witness_TeamsComeAndGo_restore : ∃ (p : Partition) (at_ : Nat × Nat) (bs : List Byte),
    restoreState.part? 0 = some p ∧ Table.get? p.frames 0 = some savedFrame ∧ savedFrame.ready = true ∧
    restoreState.higherWaits (restoreState.frameClass savedFrame) = false ∧ restoreState.restoresTo p savedFrame 0 = true ∧
    (restoreState.core 0).placeFrame (savedFrame.fromBytes restoreState.next bs) = some at_ ∧
    restoreState.schedRead p.vmid (Config.frameAsid 0 % 2 ^ 16) (p.frameAt 0) (frameBytes savedFrame.team savedFrame.gangs) =
      .bytes bs := by
  obtain ⟨bs, h, hz⟩ := Paged.read (s := restoreState) ⟨rfl, rfl, rfl, rfl, rfl, rfl, rfl, by decide⟩ rfl 0
    (frameBytes savedFrame.team savedFrame.gangs) (by decide)
  have sub : ∀ at_ n, ∀ b ∈ slice bs at_ n, b = 0 := fun at_ n b hb => hz b (List.mem_of_mem_drop (List.mem_of_mem_take hb))
  have regs : (savedFrame.fromBytes restoreState.next bs).physical + (savedFrame.fromBytes restoreState.next bs).parkNeed = 0 := by
    have gangs : (savedFrame.fromBytes restoreState.next bs).gangs = [(who nop).gang.fromBlock restoreState.next
        (slice bs (fieldAt bs 48 4) (who nop).gang.blockBytes)] := rfl
    have slots := blockSlots_zero (sub (fieldAt bs 48 4) (who nop).gang.blockBytes)
    simp only [Frame.physical, Frame.parkNeed, gangs]
    have h1 : ((who nop).gang.fromBlock restoreState.next
        (slice bs (fieldAt bs 48 4) (who nop).gang.blockBytes)).slots = [] := by
      simp only [Gang.fromBlock, slots]; rfl
    have h2 : ∀ b ∈ ((who nop).gang.fromBlock restoreState.next
        (slice bs (fieldAt bs 48 4) (who nop).gang.blockBytes)).subs, b.regPark? = none := by
      intro b hb
      have e : ∃ cs, (∀ c ∈ cs, c = 0) ∧ b = (who nop).sub.fromEntry (who nop).gang restoreState.next
          (BitVec.ofNat 128 (fieldAt (slice bs (fieldAt bs 48 4) (who nop).gang.blockBytes) 64 16)) cs := by
        simp only [Gang.fromBlock] at hb
        obtain ⟨x, hx, rfl⟩ := List.mem_map.mp hb
        have : x = ((who nop).sub, 0) := by simpa using (show x ∈ [((who nop).sub, 0)] from hx)
        subst this
        exact ⟨_, fun c hc => sub _ _ c (List.mem_of_mem_drop (List.mem_of_mem_take hc)), rfl⟩
      obtain ⟨cs, hc, rfl⟩ := e
      simp only [SubGang.fromEntry, fieldAt_zero hc]
      rfl
    simp only [List.map_cons, List.map_nil, List.flatMap_cons, List.flatMap_nil, Gang.physical, h1, List.append_nil]
    rw [List.filterMap_eq_nil_iff.mpr]
    · simp
    · exact fun b hb => by rw [h2 b hb]; rfl
  refine ⟨_, (0, 0), bs, rfl, rfl, by decide, by decide, by decide, ?_, h⟩
  simp only [Core.placeFrame, regs]
  rfl

/-- A gang with nothing left, the last of its team. -/
theorem test_witness_TeamsComeAndGo_retire :
    let s := (one nop).modGang 0 0 fun g => { g with subs := [] }
    (∃ g, s.gang? 0 0 = some g ∧ g.subs = [] ∧ g.dbg.halted = false ∧ (∀ n ∈ g.counters, n = 0) ∧ g.pending = [] ∧
      ∀ x ∈ (s.core 0).gangs, x.2.team = g.team → x.1 = 0) ∧
    (s.cluster 0).leat0.holds 2 = false ∧ (s.cluster 0).leat1.holds 2 = false := by
  exact ⟨⟨_, rfl, rfl, rfl, by decide, rfl, by decide⟩, by decide, by decide⟩

/-- A sub-gang in handler context, and one with fibres of two handler contexts. -/
theorem test_witness_SystemInstructions :
    let h : Handler := { since := 0, hret := 0, skip := 8, wb := 0, entry := none, inClause := none }
    (who nop).grid.sys = true ∧ (who nop).OnceExecutes (one nop) (vRun 0 4) .enc ∧ (who nop).Quiet ∧
    (identity 0).2.2 = true ∧ (who nop).spair 0 % 65536 = 0 ∧ (one nop).coreOfVm 0 0 = true ∧
    SubGang.owns 0x41 = false ∧ SubGang.owns 0x90 = true ∧
    (∃ c, (withSub fun b => { b with handler := some h }).issuer = some c ∧ c.sub.allHandler = true ∧ c.CounterFree .enc ∧
      ∃ m, c.sub.contexts = [(m, some h)]) ∧
    (let b := { (who nop).sub with handler := some h, others := [(1, some { h with hret := 64 })] }
     1 < b.contexts.length ∧ (∀ x ∈ b.contexts, x.2.isSome = true)) := by
  exact ⟨rfl, onceExecutes (by decide), .inr ⟨rfl, rfl⟩, by decide, by decide, by decide, by decide, by decide,
    ⟨_, rfl, rfl, ⟨by decide, by decide⟩, _, rfl⟩, by decide, by decide⟩

theorem test_witness_SystemRequestsAct :
    (let p := { pend (.sysrd 0x41 4) with sent := false }
     (withPending p).Outstanding (runs p) p ∧ p.going = true ∧
     (∃ b, (runs p).gang.subs.find? (fun x => x.anc.contains p.sub) = some b)) ∧
    (let p := { pend (.syswr 0x41 4) with sent := false }
     (withPending p).Outstanding (runs p) p ∧ p.going = true) ∧
    (let p := pend (.firmcall 0 [3, 0, 0])
     (withPending p).Outstanding (runs p) p ∧ (runs p).gang.pending.find? (fun q => q.sub == p.sub && (match q.op with
       | .firmcall .. => true
       | _ => false)) = some p) ∧
    (one nop).passedOn (fun _ v a x => shootMatches 0 0 1 0 0 v a (x / 65536 * 65536)) = false ∧
    (∃ x, (one nop).partOfVm 0 = some x ∧ x.2.cmask.getLsbD (clusterOf 0) = true) ∧
    (let p := pend (.request (.attrset 0 0 0 65536 0 .wo))
     let s := tables.modGang 0 0 fun g => { g with pending := [p] }
     s.Outstanding (runs p) p ∧ s.blocked (runs p) p [] = false ∧ (∃ e pa frame, s.walk 0 0 0 = .leaf e pa frame false) ∧
     s.pageBusy (tagOf 0 0) 0 65536 0 = false ∧
     (s.passedOn fun _ v a x => v == 0 && a == 0 && decide (0 ≤ x) && decide (x < 65536)) = false) := by
  exact ⟨⟨⟨rfl, rfl⟩, by decide, _, rfl⟩, ⟨⟨rfl, rfl⟩, by decide⟩, ⟨⟨rfl, rfl⟩, rfl⟩, by decide, ⟨_, rfl, by decide⟩,
    ⟨rfl, rfl⟩, by decide, ⟨_, _, _, rfl⟩, by decide, by decide⟩

theorem test_witness_PrivilegedInstructionsFault : (who nop).sub.allHandler = false ∧
    opByte 0xE000000000000000 ∈ [0xE0, 0xE1, 0xE3, 0xE4, 0xE5] ∧
    ∃ c, ((one nop).modGrid 1 fun g => { g with sys := false }).issuer = some c ∧ c.grid.sys = false :=
  ⟨rfl, by decide, _, rfl, rfl⟩

/-- A grid with a handler and one without, and a sub-gang parked on a fault. -/
theorem test_witness_FaultsAreTaken :
    (one nop).gang? 0 0 = some (who nop).gang ∧ (one nop).team? 0 2 = some (who nop).team ∧
    (one nop).grid? 1 = some (who nop).grid ∧ (who nop).gang.sub? 3 = some (who nop).sub ∧
    (who nop).sub.wb.toNat + 8 * KDesc.one.hws ≤ 1016 ∧ KDesc.one.handler = 0 ∧ (who nop).sub.inHandler = false ∧
    (∃ gr, ((one nop).modGrid 1 fun g => { g with kd := { g.kd with handler := 64 } }).grid? 1 = some gr ∧
      gr.kd.handler ≠ 0) ∧
    ∃ g b, (withSub fun b => { b with park := .fault none FaultRec.zero }).gang? 0 0 = some g ∧ g.sub? 3 = some b ∧
      b.park = .fault none FaultRec.zero ∧ (withSub fun b => { b with park := .fault none FaultRec.zero }).savedSub 3 = none :=
  ⟨rfl, rfl, rfl, rfl, by decide, rfl, rfl, ⟨_, rfl, by decide⟩, _, _, rfl, rfl, rfl, rfl⟩

theorem test_witness_HandlersReturn : (who nop).gang.sub? (who nop).sub.id = some (who nop).sub := rfl

/-- A gang at a clause of one NOP at address 128 in memory; a parked one; one that waits for registers. -/
def clauseState : State :=
  (mapped (withSub fun b => { b with pc := 128 }) [(135, 0xFC), (140, 0xF8), (141, 0x0F), (142, 0x70)]).modCore 0 fun k =>
    { k with pipe0 := none }

theorem test_witness_ClausesIssueAndParksEnd :
    (clauseState.core 0).pipe? 0 = none ∧ (clauseState.markStepped 0).chooseGang 0 = some 0 ∧
    (∃ r b, ((clauseState.markStepped 0).countGangs 0 0).runner? 0 0 = some r ∧
      chooseSub (r.gang.subs.filter (((clauseState.markStepped 0).countGangs 0 0).ready r)) = some b) ∧
    (∃ r b, (withSub fun b => { b with park := .parkBit }).runner? 0 0 = some r ∧ r.gang.sub? 3 = some b ∧
      b.park = .parkBit ∧ (∀ n ∈ r.gang.counters, n = 0) ∧ r.gang.oldestFault = none) ∧
    (∃ r b, ((withSub fun b => { b with park := .parkBit }).modGang 0 0 fun g => { g with pending := [{ pend .txwait with
        st := .reported .pageNotPresent 1 0 0 }] }).runner? 0 0 = some r ∧ r.gang.sub? 3 = some b ∧ b.park = .parkBit ∧
      (∀ n ∈ r.gang.counters, n = 0) ∧ r.gang.oldestFault = none ∧ r.gang.faultUnresolved = true ∧ b.inReport = false) ∧
    ∃ need b, ((withSub fun b => { b with park := .register 1 [4] }).core 0).oldestPark = some (1, need, 0, b) ∧
      b.park = .register 1 [4] := by
  exact ⟨rfl, by decide +kernel, ⟨_, _, rfl, rfl⟩, ⟨_, _, rfl, rfl, rfl, by decide, rfl⟩,
    ⟨_, _, rfl, rfl, rfl, by decide, rfl, by decide, by decide⟩, _, _, rfl, rfl⟩

/-- The clause of `clauseState` passes its checks. -/
theorem test_witness_ClausesIssueAndParksEnd_checked : ∃ r b h ws, clauseState.runner? 0 0 = some r ∧
    r.gang.sub? 3 = some b ∧ clauseState.checkClause r b = .good h ws ∧
    r.gang.broken (clauseState.core r.core) (clauseState.gangDisposition r.core r.slot .debug == .resolve) = [] ∧
    boundaryReports r (r.gang.merged b (headerJoin h)) h = false := by
  exact ⟨_, _, _, _, rfl, rfl, rfl, by decide, by decide⟩

/-- The package in a start stage. -/
def booting (stage : Nat) : State := { State.reset with boot := { Boot.reset with stage := stage } }

theorem test_witness_StartsAndResets : (booting 5).boot.stopped = false ∧ (booting 5).boot.stage < 6 ∧
    4 ≤ (booting 6).boot.stage ∧ (one nop).boot.minimal = false ∧
    (∃ p, (one nop).parts = [(0, p)] ∧ p.spect = 0 ∧ p.holdsCore 0 = true ∧ p.holdsCore 16 = false) ∧
    (∀ x ∈ (one nop).parts, x.2.spect ≠ 5) ∧
    (∃ s : State, s.boot.minimal = true) ∧
    (let i : Image := [(0, 0x58), (1, 0x52), (2, 0x54), (3, 0x4E), (4, 0x49), (5, 0x4D), (6, 0x47), (7, 0x31), (8, 1), (16, 2),
       (24, 64), (512, 7), (513, 8)]
     let s := { booting 2 with boot := { (booting 2).boot with imageA := some i } }
     s.boot.image false = some i ∧ (i.map fun x => x.1).Nodup ∧ leNat (i.bytes 16 8) = 2 ∧
       leNat (i.bytes 24 8) + 1 < s.deviceBytes) :=
  ⟨rfl, by decide, by decide, rfl, ⟨_, rfl, rfl, by decide, by decide⟩, by decide, ⟨{ booting 6 with
    boot := { Boot.reset with minimal := true } }, rfl⟩, by decide, by decide, by decide, by decide⟩

theorem test_witness_ErrorsAndHostAccesses :
    (one nop).team? 0 2 = some (who nop).team ∧ 16 * 0 < (who nop).team.scratchBytes ∧
    ((withL1 (l1Copy .m true)).core 0).l1? 0 0 = some (l1Copy .m true) ∧
    (∃ x, (one nop).partOfCluster (clusterOf 0) = some x) ∧ 128 * 5 < (one nop).deviceBytes ∧
    (withL2 (l2Copy DirEntry.empty)).mem.l2.find? (fun y => y.tag == 0 && y.line == 0) = some (l2Copy DirEntry.empty) ∧
    (l2Copy DirEntry.empty).remote = false ∧ (0, 1) ∉ (one nop).mem.failedLinks ∧
    (∀ p ∈ (one nop).parts, (one nop).hasAsid p.2 0 = false ∧ (one nop).hasMessage p.2 0 0 = false) := by
  exact ⟨rfl, by decide, rfl, ⟨_, rfl⟩, by decide, by decide, rfl, by decide, by decide⟩

/-- The host's accesses to a frame that it owns, to one that it does not, and to an address that no decoder maps. -/
theorem test_witness_ErrorsAndHostAccesses_host :
    let s := { mapped (one nop) [(3, 0x80)] with pkg := { (one nop).pkg with hdm := 2 ^ 30 } }
    let t := { s with mem := { s.mem with tlb := [{ page with perms := { page.perms with attr := .ip } }] } }
    t.hdmMaps 0 4 = true ∧ t.ipLine (0 / 128) = true ∧ s.ipLine (0 / 128) = false ∧
    s.hdmMaps 0 4 = true ∧ (s.frameBits (0 / 65536)).host = true ∧ (s.lineMeta (0 / 128)).lost = false ∧
    (∀ x ∈ s.mem.l2, x.pline ≠ 0) ∧ s.hdmMaps 65536 4 = true ∧ (s.frameBits (65536 / 65536)).host = false ∧
    (one nop).hdmMaps (2 ^ 48) 4 = false := by
  exact ⟨by decide, by decide, by decide, by decide, by decide, by decide, by decide, by decide, by decide, by decide⟩

/-- The package running, with a command of the PF waiting in its mailbox. -/
def commandState (opc : BitVec 16) (s : State) : State :=
  { s with
    boot := { Boot.reset with stage := 6 }
    mailboxes := [(0, { Mailbox.reset with db := true, opc := opc })] }

theorem takesCommand (opc : BitVec 16) (s : State) : (commandState opc s).TakesCommand 0 opc.toNat :=
  ⟨by simp [State.commandNext, commandState, State.mailbox, Table.getD, Table.get?], .inl rfl,
    show (0 : Nat) ≤ 4096 by decide, .inl ⟨rfl, rfl⟩⟩

theorem test_witness_MailboxCommands :
    (∀ opc, (commandState opc (one nop)).TakesCommand 0 opc.toNat) ∧
    State.reset.functionOf (.mbctl 0) = true ∧ (State.reset.mailbox 0).db = false ∧
    (commandState 0x7777 (one nop)).firstCommand = some 0 ∧
    ((commandState 0x7777 (one nop)).mailbox 0).refusal 0 = some 1 ∧
    ((commandState 0x01 (one nop)).mailbox 0).refusal 0 = none ∧
    (commandState 0x10 (one nop)).part? 3 = none ∧ (commandState 0x10 (one nop)).clustersOk 3 2 = true ∧
    (commandState 0x10 (one nop)).identityOk 3 1 1 = true ∧
    (∃ p, (commandState 0x12 (one nop)).partFor 0 0 = some (0, p) ∧ (1 : BitVec 64) &&& ~~~p.cmask = 0) ∧
    (∃ p, (commandState 0x20 (emptyCore [])).partFor 0 0 = some (0, p) ∧
      (commandState 0x20 (emptyCore [])).residentIn p = false) ∧ queueDescOk (2 ^ 35) = true ∧
    (let s := { commandState 0 (emptyCore []) with mailboxes := [(1, { Mailbox.reset with db := true, opc := 0x20 })] }
     s.TakesCommand 1 0x20 ∧ (∃ p, s.partFor 1 0 = some (0, p)) ∧ (2 ^ 36 + 2 ^ 35 : BitVec 128).getLsbD 36 = true ∧
     (2 ^ 36 + 2 ^ 35 : BitVec 128).getLsbD 35 = true) ∧
    (∃ x, (commandState 0x32 (one nop)).partOfVm 0 = some x) ∧
    (commandState 0x41 (one nop)).framesOk [5] false = true ∧ (commandState 0x41 (one nop)).frameBusy 5 = false ∧
    (commandState 0x40 { mapped (one nop) [(3, 0x80)] with grids := [] }).framesOk [0] true = true := by
  exact ⟨fun opc => takesCommand opc _, by decide, by decide, by decide, by decide, by decide, by decide, by decide, by decide,
    ⟨_, rfl, by decide⟩, ⟨_, rfl, by decide⟩, by decide,
    ⟨⟨by decide, .inr (by decide), by decide, .inl ⟨rfl, rfl⟩⟩, ⟨_, rfl⟩, by decide, by decide⟩, ⟨_, rfl⟩, by decide, by decide,
    by decide⟩

/-- Expert registers (R401): a package register is read and written; one of a partition with a resident team is not. -/
theorem test_witness_MailboxCommands_registers :
    let s := commandState 0x8001 (one nop)
    s.boot.minimal = false ∧ (s.register (regAddr 0x8)).isSome = true ∧
    (∃ p, s.part? 0 = some p ∧ s.residentIn p = true) ∧ s.register (regAddr 0xFF00000000000000) = none := by
  exact ⟨rfl, by decide, ⟨_, rfl, by decide⟩, rfl⟩

/-- A debug command of VF 0 for a halted gang of its partition. -/
theorem test_witness_MailboxCommands_debug :
    let s := { (one nop).modGang 0 0 fun g => { g with dbg := { g.dbg with halted := true } } with
      boot := { Boot.reset with stage := 6 }, mailboxes := [(1, { Mailbox.reset with db := true, opc := 0x72 })] }
    s.TakesCommand 1 0x72 ∧ (∃ p, s.debugPart 1 0 = some p ∧ p.holdsCore 0 = true) ∧
    ∃ r b, s.heldGang 1 0 0 0 = some r ∧ r.gang.mayWrite (.roundMode 2) = true ∧
      r.gang.subs.find? (fun x => x.fibres.getLsbD 0) = some b := by
  exact ⟨⟨by decide, .inr (by decide), by decide, .inl ⟨rfl, rfl⟩⟩, ⟨_, rfl, by decide⟩, _, _, rfl, rfl, rfl⟩

/-- A request of another device for the mapped page. -/
def request (op : RemoteOp) : RemoteRequest := { src := 7, inst := 0, gtag := 0, vmid := 0, asid := 0, va := 0, op := op }

/-- Port 0 in a state and a request of gang 0 outstanding over it, or, with no port, to its own device. -/
def fabricState (st : Nat) (port : Option Nat) : State :=
  { mapped ((one nop).modPart 0 fun p => { p with fxctl := 0x80000000 }) [] with fabric := { Fabric.reset with
      ports := [(0, { Port.reset with st := st, tries := 16 })]
      out := [(5, { waiter := .gang 0 0 9 0, port := port, tdev := 7, asid := 0, va := 0, req := request (.load 4), keep := true })] } }

theorem test_witness_FabricEvents_served :
    let s := fabricState 2 (some 0)
    let closed := s.modPart 0 fun p => { p with fxctl := 0 }
    s.fabricUp = true ∧ (request (.load 4)).va % 128 + opInLine (request (.load 4)).op ≤ 128 ∧
    (∃ t reply, s.serve (request (.load 4)) = .done t reply) ∧ closed.accepts (request (.load 4)) = false ∧
    s.accepts (request (.load 4)) = true ∧
    (∃ l, s.targetLine (request (.load 4)) .load 0 4 = .ok l ∧ s.outsideMay l false = true) ∧
    ∃ l u, s.targetLine (request (.store [1, 2, 3, 4])) .store 0 4 = .ok l ∧ s.outsideMay l true = true ∧
      l.perms.attr ≠ .wo ∧ s.logWrite 0 0 0 = (true, u) := by
  exact ⟨by decide, by decide, ⟨_, _, rfl⟩, by decide, by decide, ⟨_, rfl, by decide⟩, _, _, rfl, by decide, by decide, rfl⟩

theorem test_witness_FabricEvents_replies :
    (∃ o, Table.get? (fabricState 2 (some 0)).fabric.out 5 = some o ∧ o.port = some 0 ∧
      answersOp o.req.op (.data [1, 2, 3, 4]) = true ∧ o.waiter = .gang 0 0 9 0) ∧
    (∃ o t r, Table.get? (fabricState 2 none).fabric.out 5 = some o ∧ o.port = none ∧
      (fabricState 2 none).serve o.req = .done t r) ∧
    (Table.getD (fabricState 1 none).fabric.ports 0 Port.reset).st = 1 ∧
    (Table.getD (fabricState 2 none).fabric.ports 0 Port.reset).tries = 16 ∧
    (Table.getD (fabricState 2 none).fabric.ports 1 { Port.reset with st := 2 }).tries < 16 ∧
    (fabricState 2 none).vmOfCore 0 = some 0 := by
  exact ⟨⟨_, rfl, rfl, by decide, rfl⟩, ⟨_, _, _, rfl, rfl, rfl⟩, by decide, by decide, by decide, by decide⟩

end Sys2Proof.Tests
end

/-! PROOFS. Lanes and groups of fibres (R17, R18), and what SPAWN, END and YIELD come to (R25, R26, R120 to R122). -/

namespace Sys2Proof.Machine

/-! ### Masks of lanes -/

theorem Lanes.mem_toList {m : Lanes} {i : Nat} : i ∈ Lanes.toList m ↔ m.getLsbD i = true := by
  simp only [Lanes.toList, List.mem_filter, List.mem_range, and_iff_right_iff_imp]
  exact BitVec.lt_of_getLsbD

theorem Lanes.getLsbD_one {i : Nat} (hi : i < 128) (j : Nat) : (Lanes.one i).getLsbD j = decide (i = j) := by
  rw [Lanes.one, BitVec.getLsbD_ofNat, Nat.testBit_two_pow]
  by_cases h : i = j
  · subst h; simp [hi]
  · simp [h]

/-! ### Groups of fibres -/

/-- The keys of the groups, after a fibre is put under its key. -/
theorem addToKey_keys (k : Key) (lane : Nat) (gs : List (Key × Lanes)) :
    (addToKey k lane gs).map Prod.fst = if k ∈ gs.map Prod.fst then gs.map Prod.fst else gs.map Prod.fst ++ [k] := by
  induction gs with
  | nil => simp [addToKey]
  | cons g gs ih =>
    by_cases h : k = g.1
    · simp [addToKey, h]
    · simp only [addToKey, beq_iff_eq, h, if_false, List.map_cons, ih, List.mem_cons, false_or]
      split <;> simp

/-- A group after a fibre is put under its key: it had another key, or it is the new fibre's, whose key was new or was that of
a group that gains it. -/
theorem mem_addToKey {k : Key} {lane : Nat} {gs : List (Key × Lanes)} {g : Key × Lanes}
    (hn : (gs.map Prod.fst).Nodup) (hg : g ∈ addToKey k lane gs) :
    (g ∈ gs ∧ g.1 ≠ k) ∨ (g = (k, Lanes.one lane) ∧ k ∉ gs.map Prod.fst) ∨
      ∃ m, (k, m) ∈ gs ∧ g = (k, m ||| Lanes.one lane) := by
  induction gs with
  | nil => exact .inr (.inl ⟨by simpa [addToKey] using hg, by simp⟩)
  | cons x gs ih =>
    obtain ⟨hx, hn⟩ := List.nodup_cons.1 hn
    by_cases h : k = x.1
    · subst h
      simp only [addToKey, beq_self_eq_true, if_true, List.mem_cons] at hg
      rcases hg with rfl | hg
      · exact .inr (.inr ⟨x.2, by simp, rfl⟩)
      · exact .inl ⟨by simp [hg], fun e => hx (e ▸ List.mem_map_of_mem hg)⟩
    · simp only [addToKey, beq_iff_eq, h, if_false, List.mem_cons] at hg
      rcases hg with rfl | hg
      · exact .inl ⟨by simp, fun e => h e.symm⟩
      · rcases ih hn hg with ⟨hm, hk⟩ | ⟨he, hk⟩ | ⟨m, hm, he⟩
        · exact .inl ⟨by simp [hm], hk⟩
        · exact .inr (.inl ⟨he, by simpa [h] using hk⟩)
        · exact .inr (.inr ⟨m, by simp [hm], he⟩)

/-- Groups that hold exactly the fibres seen, each under the key it arrives at. -/
structure GroupsOf (keyOf : Nat → Key) (seen : List Nat) (gs : List (Key × Lanes)) : Prop where
  holds : ∀ g ∈ gs, ∀ i, g.2.getLsbD i = true ↔ i ∈ seen ∧ keyOf i = g.1
  covers : ∀ i ∈ seen, keyOf i ∈ gs.map Prod.fst
  keys : (gs.map Prod.fst).Nodup

theorem GroupsOf.nil (keyOf : Nat → Key) : GroupsOf keyOf [] [] := ⟨by simp, by simp, by simp⟩

/-- One more fibre put under its key is seen with those before it. -/
theorem GroupsOf.add {keyOf : Nat → Key} {seen : List Nat} {gs : List (Key × Lanes)} (h : GroupsOf keyOf seen gs)
    {lane : Nat} (hl : lane < 128) : GroupsOf keyOf (seen ++ [lane]) (addToKey (keyOf lane) lane gs) := by
  have hkeys := addToKey_keys (keyOf lane) lane gs
  refine ⟨fun g hg i => ?_, fun i hi => ?_, ?_⟩
  · rcases mem_addToKey h.keys hg with ⟨hm, hk⟩ | ⟨rfl, hk⟩ | ⟨m, hm, rfl⟩
    · rw [h.holds g hm i]
      simp only [List.mem_append, List.mem_singleton]
      constructor
      · rintro ⟨hi, e⟩; exact ⟨.inl hi, e⟩
      · rintro ⟨hi | rfl, e⟩
        · exact ⟨hi, e⟩
        · exact absurd e.symm hk
    · have : i ∈ seen → keyOf i ≠ keyOf lane := fun hi e => hk (e ▸ h.covers i hi)
      simp only [Lanes.getLsbD_one hl, decide_eq_true_eq, List.mem_append, List.mem_singleton]
      constructor
      · rintro rfl; exact ⟨.inr rfl, rfl⟩
      · rintro ⟨hi | hi, e⟩
        · exact absurd e (this hi)
        · exact hi.symm
    · have := h.holds _ hm i
      simp only [BitVec.getLsbD_or, Bool.or_eq_true, this, Lanes.getLsbD_one hl, decide_eq_true_eq, List.mem_append,
        List.mem_singleton]
      constructor
      · rintro (⟨hi, e⟩ | rfl)
        · exact ⟨.inl hi, e⟩
        · exact ⟨.inr rfl, rfl⟩
      · rintro ⟨hi | hi, e⟩
        · exact .inl ⟨hi, e⟩
        · exact .inr hi.symm
  · rw [hkeys]
    simp only [List.mem_append, List.mem_singleton] at hi
    rcases hi with hi | rfl
    · have := h.covers i hi
      split <;> simp [this]
    · split <;> simp [*]
  · rw [hkeys]
    split
    · exact h.keys
    · rename_i hk
      refine List.nodup_append.2 ⟨h.keys, List.pairwise_singleton _ _, fun a ha b hb e => hk ?_⟩
      rwa [← List.mem_singleton.1 hb, ← e]

theorem GroupsOf.foldl {keyOf : Nat → Key} (l : List Nat) (hl : ∀ i ∈ l, i < 128) {seen : List Nat} {gs : List (Key × Lanes)}
    (h : GroupsOf keyOf seen gs) :
    GroupsOf keyOf (seen ++ l) (l.foldl (fun acc i => addToKey (keyOf i) i acc) gs) := by
  induction l generalizing seen gs with
  | nil => simpa using h
  | cons i l ih =>
    have := ih (fun j hj => hl j (by simp [hj])) (h.add (hl i (by simp)))
    simpa using this

/-- The groups of a mask hold exactly its fibres (R18). -/
theorem groupsOf_groupByKey (m : Lanes) (keyOf : Nat → Key) : GroupsOf keyOf m.toList (groupByKey m keyOf) := by
  have hl : ∀ i ∈ Lanes.toList m, i < 128 := fun i hi => BitVec.lt_of_getLsbD (Lanes.mem_toList.1 hi)
  simpa [groupByKey] using GroupsOf.foldl _ hl (GroupsOf.nil keyOf)

/-- Settles O10: the groups are those of a fold that puts each fibre of the mask under its key. -/
theorem fibresSplitByKey : Obligations.FibresSplitByKey := by
  intro m keyOf
  have h := groupsOf_groupByKey m keyOf
  refine ⟨fun g hg i => ?_, fun i hi => ?_, h.keys⟩
  · rw [Bool.eq_iff_iff, h.holds g hg i, Lanes.mem_toList]
    simp
  · simpa using h.covers i (Lanes.mem_toList.2 hi)

end Sys2Proof.Machine

namespace Sys2Proof

/-- The last value put under a key is the one that stays. -/
theorem Table.put_put {α : Type} (t : Table α) (k : Nat) (v w : α) :
    Table.put (Table.put t k v) k w = Table.put t k w := by
  induction t with
  | nil => simp [Table.put]
  | cons p t ih =>
    obtain ⟨a, x⟩ := p
    by_cases h1 : k < a
    · simp [Table.put, h1]
    · by_cases h2 : k = a
      · simp [Table.put, h2]
      · simp [Table.put, h1, h2, ih]

namespace Machine

/-! ### SPAWN, END and YIELD -/

/-- Two updates of one core are one. -/
theorem State.modCore_modCore (s : State) (c : Nat) (f g : Core → Core) :
    (s.modCore c f).modCore c g = s.modCore c (g ∘ f) := by
  simp only [State.modCore, State.core_setCore_self]
  simp only [State.setCore, Table.put_put, Function.comp]

/-- A pipe and a gang of a core are apart. -/
theorem State.setPipe_modGang (s : State) (c p g : Nat) (cl : Option Clause) (f : Gang → Gang) :
    (s.modGang c g f).modCore c (fun k => k.setPipe p cl) = (s.modCore c fun k => k.setPipe p cl).modGang c g f := by
  simp only [State.modGang, State.modCore_modCore]
  congr 1
  funext k
  simp only [Function.comp, Core.setPipe]
  split <;> rfl

@[simp] theorem State.gang?_setPipe (s : State) (c p : Nat) (cl : Option Clause) (d g : Nat) :
    (s.modCore c fun k => k.setPipe p cl).gang? d g = s.gang? d g := by
  by_cases h : d = c
  · subst h; simp [State.gang?]
  · simp [State.gang?, State.core_modCore_ne s h]

@[simp] theorem State.gang?_next (s : State) (n c g : Nat) : ({ s with next := n } : State).gang? c g = s.gang? c g := rfl

/-- The number that the next new thing takes is no part of a gang, nor of anything else. -/
theorem onlyGang_next (core slot team n : Nat) (s : State) : OnlyGang core slot team s { s with next := n } :=
  ⟨rfl, rfl, rfl, rfl, rfl, fun _ => rfl, rfl, rfl, rfl, rfl, rfl, rfl, rfl, fun _ _ => rfl, rfl, fun _ _ => rfl,
    fun _ _ => rfl⟩

/-- What the gang of the issuer becomes when fibres are spawned into free lanes (R25, R120): its sub-gang goes on as `b`, and
the new fibres are `child`. -/
def Issuer.spawned (c : Issuer) (pairs : List (Nat × Nat)) (p : Nat) (act won : Lanes) (b child : SubGang) (g : Gang) : Gang :=
  let g := pairs.foldl (fun g x => g.spawnLane c.sub.wb.toNat x.1 x.2) g
  let g := (g.writePred p act won).replaceSub c.sub.id [b]
  { g with
    subs := g.subs ++ [child]
    dbg := { g.dbg with stepping := if g.dbg.stepping == some c.sub.id then some b.id else g.dbg.stepping } }

theorem Gang.spawnLanes_subs (wb : Nat) (pairs : List (Nat × Nat)) (g : Gang) :
    (pairs.foldl (fun (g : Gang) x => g.spawnLane wb x.1 x.2) g).subs = g.subs :=
  foldl_keeps Gang.subs (fun (g : Gang) (x : Nat × Nat) => g.spawnLane wb x.1 x.2) (fun _ _ => rfl) pairs g

theorem Issuer.spawned_subs (c : Issuer) (pairs : List (Nat × Nat)) (p : Nat) (act won : Lanes) (b child : SubGang)
    (g : Gang) : (c.spawned pairs p act won b child g).subs =
      (g.subs.flatMap fun y => if y.id == c.sub.id then [b] else [y]) ++ [child] := by
  simp only [Issuer.spawned, Gang.replaceSub, Gang.writePred, Gang.spawnLanes_subs]

theorem Issuer.spawned_pred (c : Issuer) (pairs : List (Nat × Nat)) {p : Nat} (hp : p < 7) (act won : Lanes)
    (b child : SubGang) (g : Gang) : nth (c.spawned pairs p act won b child g).preds p 0 =
      ((pairs.foldl (fun (g : Gang) x => g.spawnLane c.sub.wb.toNat x.1 x.2) g).preds.getD p 0 &&& ~~~act) |||
        (won &&& act) := by
  simp only [Issuer.spawned, Gang.replaceSub, Gang.writePred, nth_setAt _ _ _ _ _ hp, if_true]
  simp only [nth, List.getD_eq_getElem?_getD]

/-- The state in which the clause of a SPAWN goes on under a new number of its sub-gang: its gang has the fibres that `child`
holds, and its pipe the renamed clause. -/
def State.spawns (s : State) (c : Issuer) (pairs : List (Nat × Nat)) (p : Nat) (act won : Lanes) (child : SubGang) : State :=
  let c' := c.renamed (s.next + 1)
  ((({ s with next := s.next + 2 } : State).modGang c.core c.slot (c.spawned pairs p act won c'.sub child)).modCore
    c.core fun k => k.setPipe c.pipe (some c'.clause))

section
variable (s : State) (c : Issuer) (pairs : List (Nat × Nat)) (p : Nat) (act won : Lanes) (child : SubGang)

theorem State.spawns_eq : s.spawns c pairs p act won child =
    State.modGang { s.modCore c.core fun k => k.setPipe c.pipe (some (c.renamed (s.next + 1)).clause) with next := s.next + 2 }
      c.core c.slot (c.spawned pairs p act won (c.renamed (s.next + 1)).sub child) :=
  State.setPipe_modGang _ _ _ _ _ _

theorem State.spawns_onlyGang : OnlyGang c.core c.slot c.gang.team
    (s.modCore c.core fun k => k.setPipe c.pipe (some (c.renamed (s.next + 1)).clause)) (s.spawns c pairs p act won child) := by
  rw [State.spawns_eq]
  exact (onlyGang_next _ _ _ _ _).trans (onlyGang_modGang _ _ _ _ _)

theorem State.spawns_gang {s : State} {c : Issuer} (hc : s.issuer = some c) :
    (s.spawns c pairs p act won child).gang? c.core c.slot =
      some (c.spawned pairs p act won (c.renamed (s.next + 1)).sub child c.gang) := by
  obtain ⟨-, -, hg, -⟩ := State.issuer_spec hc
  rw [State.spawns_eq, State.gang?_modGang_self, State.gang?_next, State.gang?_setPipe, hg, Option.map_some]

end

/-- The sub-gang that the fibres of a SPAWN form (R25, R120; log entry 23). -/
def Issuer.spawnChild (c : Issuer) (id : Nat) (born : Lanes) (pc : DWord) : SubGang :=
  { c.sub with
    id := id, anc := id :: c.sub.anc, fibres := born, pc := pc, turn := 0, passOver := 0, yielded := false, park := .run,
    waits := [], inClause := none, handler := none, others := [] }

section
variable {s : State} {c : Issuer} {f : CForm} (hc : s.issuer = some c)
  (hr : c.Ready { v := List.range 8, s := [], p := f.aux.toNat % 8 :: guardP f.g })
include hc hr

theorem spawn_next_of_no_pairs (hp : (c.active f.g).toList.zip c.gang.freeLanes = []) :
    exec (.spawn f) s = .next (s.commit c { Effect.none with p := [(f.aux.toNat % 8, c.active f.g, 0)] }) := by
  refine runInstr_ok hc ?_
  simp only [c.checkTouch_ok hr]
  rw [hp]
  rfl

theorem spawn_next_of_pairs (hp : (c.active f.g).toList.zip c.gang.freeLanes ≠ []) :
    let pairs := (c.active f.g).toList.zip c.gang.freeLanes
    let won := pairs.foldl (fun (m : Lanes) x => m ||| Lanes.one x.1) 0
    let born := pairs.foldl (fun (m : Lanes) x => m ||| Lanes.one x.2) 0
    exec (.spawn f) s = .next ((s.spawns c pairs (f.aux.toNat % 8) (c.active f.g) won
      (c.spawnChild s.next born (c.target f.imm))).advance (c.renamed (s.next + 1))) := by
  refine runInstr_ok hc ?_
  have he : ((c.active f.g).toList.zip c.gang.freeLanes).isEmpty = false := by simpa [List.isEmpty_eq_false_iff] using hp
  simp only [c.checkTouch_ok hr]
  refine (if_neg (by rw [he]; decide)).trans ?_
  rfl

end

theorem endFibre_next {s : State} {c : Issuer} {f : CForm} (h : c.Executes s [] f.g [] []) :
    exec (.endFibre f) s = .next ((s.modGang c.core c.slot fun g => g.forgetLanes (c.active f.g)).endClause c
      (groupByKey (c.sub.fibres &&& ~~~c.active f.g) fun _ => c.through)) :=
  runInstr_ok h.issues (by rw [h.checkUses]; rfl)

theorem yield_next {s : State} {c : Issuer} {f : CForm} (h : c.Executes s [] f.g [] []) :
    exec (.yield f) s = .next ((s.modGang c.core c.slot fun g =>
        { g with yielded := g.yielded || c.active f.g != 0 }).fallThrough
      { c with sub := { c.sub with yielded := c.sub.yielded || c.active f.g != 0 } }) :=
  runInstr_ok h.issues (by rw [h.checkUses]; rfl)

/-- Settles O17: SPAWN with and without a lane to give, END and YIELD, each from the lemma of its step. -/
theorem fibresComeAndGo : Obligations.FibresComeAndGo := by
  refine ⟨fun s c f hc hr => ⟨spawn_next_of_no_pairs hc hr, fun hp => ?_⟩, fun s c f h => endFibre_next h,
    fun s c f h => yield_next h⟩
  exact ⟨_, _, spawn_next_of_pairs hc hr hp, s.spawns_gang _ _ _ _ _ hc, rfl, s.spawns_onlyGang _ _ _ _ _ _,
    fun h7 => c.spawned_pred _ h7 _ _ _ _ _, c.spawned_subs _ _ _ _ _ _ _⟩

end Machine
end Sys2Proof

/-! PROOFS. What a choice takes (R23), what a merge leaves (R20, R24), and which parks end (R49, R165). -/

namespace Sys2Proof.Machine

/-! ### The least of a list -/

theorem lexLt_cons (x y : Nat) (xs ys : List Nat) :
    lexLt (x :: xs) (y :: ys) = true ↔ x < y ∨ (x = y ∧ lexLt xs ys = true) := by
  simp only [lexLt, Bool.or_eq_true, Bool.and_eq_true, decide_eq_true_eq, beq_iff_eq]

theorem lexLt_irrefl (xs : List Nat) : ¬ lexLt xs xs = true := by
  induction xs with
  | nil => exact Bool.false_ne_true
  | cons x xs ih =>
    rw [lexLt_cons]
    rintro (h | ⟨-, h⟩)
    · exact Nat.lt_irrefl x h
    · exact ih h

theorem lexLt_trans {xs ys zs : List Nat} (h : lexLt xs ys = true) (k : lexLt ys zs = true) : lexLt xs zs = true := by
  induction xs generalizing ys zs with
  | nil => cases ys <;> exact absurd h Bool.false_ne_true
  | cons x xs ih =>
    cases ys with
    | nil => exact absurd h Bool.false_ne_true
    | cons y ys =>
      cases zs with
      | nil => exact absurd k Bool.false_ne_true
      | cons z zs =>
        rw [lexLt_cons] at h k ⊢
        rcases h with h | ⟨rfl, h⟩
        · exact .inl (by omega)
        · exact k.imp_right fun k => ⟨k.1, ih h k.2⟩

/-- Of two lists of one length neither of which is below the other, each is the other. -/
theorem lexLt_total {xs ys : List Nat} (hl : xs.length = ys.length) (h : ¬ lexLt xs ys = true) (k : ¬ lexLt ys xs = true) :
    xs = ys := by
  induction xs generalizing ys with
  | nil => exact (List.length_eq_zero_iff.1 hl.symm).symm
  | cons x xs ih =>
    cases ys with
    | nil => cases hl
    | cons y ys =>
      rw [lexLt_cons] at h k
      obtain rfl : x = y := by omega
      rw [ih (Nat.succ.inj hl) (fun e => h (.inr ⟨rfl, e⟩)) fun e => k (.inr ⟨rfl, e⟩)]

theorem leastBy_isSome {α : Type} {key : α → List Nat} {l : List α} (h : l ≠ []) : (leastBy key l).isSome = true := by
  cases l with
  | nil => exact absurd rfl h
  | cons x xs =>
    unfold leastBy
    split
    · rfl
    · split <;> rfl

theorem leastBy_mem {α : Type} {key : α → List Nat} {l : List α} {b : α} (h : leastBy key l = some b) : b ∈ l := by
  induction l generalizing b with
  | nil => cases h
  | cons x xs ih =>
    unfold leastBy at h
    split at h
    · cases h; simp
    · rename_i y hy
      split at h
      · cases h; simp [ih hy]
      · cases h; simp

theorem leastBy_none {α : Type} {key : α → List Nat} {l : List α} (h : leastBy key l = none) : l = [] := by
  cases l with
  | nil => rfl
  | cons x xs => cases h ▸ leastBy_isSome (key := key) (List.cons_ne_nil x xs)

/-- The least of a list has a key that no other's is below, where the keys are of one length. -/
theorem leastBy_least {α : Type} {key : α → List Nat} {n : Nat} (hk : ∀ x, (key x).length = n) {l : List α} {b : α}
    (h : leastBy key l = some b) : ∀ x ∈ l, ¬ lexLt (key x) (key b) = true := by
  induction l generalizing b with
  | nil => exact fun x hx => absurd hx List.not_mem_nil
  | cons x xs ih =>
    unfold leastBy at h
    split at h
    · rename_i hn
      cases h
      rw [leastBy_none hn]
      exact fun z hz => List.mem_singleton.1 hz ▸ lexLt_irrefl _
    · rename_i y hy
      split at h <;> rename_i hlt <;> cases h
      · refine fun z hz => (List.mem_cons.1 hz).elim (fun e => ?_) (ih hy z)
        exact e ▸ fun hxy => lexLt_irrefl _ (lexLt_trans hlt hxy)
      · refine fun z hz => (List.mem_cons.1 hz).elim (fun e => e ▸ lexLt_irrefl _) fun hz hzx => ?_
        by_cases hxy : lexLt (key x) (key y) = true
        · exact ih hy z hz (lexLt_trans hzx hxy)
        · have := lexLt_total (by rw [hk, hk]) hxy hlt
          exact ih hy z hz (this ▸ hzx)

/-! ### The choice of a sub-gang (R23, R122) -/

/-- The key by which a sub-gang is chosen where none has been passed over 64 times. -/
def SubGang.issueKey (b : SubGang) : List Nat :=
  [if b.yielded then 1 else 0, b.pc.toNat, b.turn.toNat, b.wb.toNat, b.first]

theorem chooseSub_of_starved {ready : List SubGang} {b : SubGang} (h : chooseSub ready = some b)
    (hs : ∃ x ∈ ready, 64 ≤ x.passOver) : b ∈ ready ∧ 64 ≤ b.passOver := by
  obtain ⟨x, hx, h64⟩ := hs
  have hne : ready.filter (fun b => decide (64 ≤ b.passOver)) ≠ [] :=
    List.ne_nil_of_mem (List.mem_filter.2 ⟨hx, by simpa using h64⟩)
  unfold chooseSub at h
  split at h
  · rename_i hb
    cases h
    simpa using leastBy_mem hb
  · rename_i hn
    have := leastBy_isSome (key := fun b : SubGang => [1024 - min 1024 b.passOver, b.first]) hne
    simp [hn] at this

theorem chooseSub_of_none_starved {ready : List SubGang} (hs : ∀ x ∈ ready, x.passOver < 64) :
    chooseSub ready = leastBy SubGang.issueKey ready := by
  have : ready.filter (fun b => decide (64 ≤ b.passOver)) = [] := by
    simpa [List.filter_eq_nil_iff] using hs
  simp only [chooseSub, this, leastBy]
  rfl

theorem chooseSub_mem {ready : List SubGang} {b : SubGang} (h : chooseSub ready = some b) : b ∈ ready := by
  by_cases hs : ∃ x ∈ ready, 64 ≤ x.passOver
  · exact (chooseSub_of_starved h hs).1
  · have hlt : ∀ x ∈ ready, x.passOver < 64 := fun x hx => Nat.lt_of_not_le fun h64 => hs ⟨x, hx, h64⟩
    exact leastBy_mem (chooseSub_of_none_starved hlt ▸ h)

/-- Of keys in order, the one of a sub-gang that has not yielded is the lower; of two alike in that, the PC decides. -/
theorem SubGang.le_of_issueKey {b x : SubGang} (h : ¬ lexLt x.issueKey b.issueKey = true) :
    (x.yielded = false → b.yielded = false) ∧ (x.yielded = b.yielded → b.pc ≤ x.pc) := by
  rw [SubGang.issueKey, SubGang.issueKey, lexLt_cons, lexLt_cons] at h
  refine ⟨fun hx => ?_, fun hx => ?_⟩
  · cases hb : b.yielded
    · rfl
    · simp [hx, hb] at h
  · have : ¬ x.pc.toNat < b.pc.toNat := fun hlt => h (.inr ⟨by rw [hx], .inl hlt⟩)
    rw [BitVec.le_def]
    omega

/-! ### The merge of what rejoins (R20, R24) -/

theorem Gang.mem_joins {g : Gang} {b x : SubGang} {join : Bool} : x ∈ g.joins b join ↔
    x ∈ g.subs ∧ (x.id = b.id ∨ (x.free = true ∧ x.inClause = none ∧ sameKey join b x = true)) := by
  simp [Gang.joins, and_assoc]

/-- A lane is in the union of masks exactly when one of them has it. -/
theorem getLsbD_foldl_or {α : Type} (mask : α → Lanes) (l : List α) (m : Lanes) (i : Nat) :
    (l.foldl (fun m x => m ||| mask x) m).getLsbD i = true ↔ m.getLsbD i = true ∨ ∃ x ∈ l, (mask x).getLsbD i = true := by
  induction l generalizing m with
  | nil => simp
  | cons x l ih => simp [ih, or_assoc]

theorem Gang.merged_fibres (g : Gang) (b : SubGang) (join : Bool) (i : Nat) :
    (g.merged b join).fibres.getLsbD i = true ↔ ∃ x ∈ g.joins b join, x.fibres.getLsbD i = true := by
  simp [Gang.merged, getLsbD_foldl_or SubGang.fibres]

/-- The sub-gangs that a merge leaves beside the merged one. -/
def Gang.unmerged (g : Gang) (b : SubGang) (join : Bool) : List SubGang :=
  g.subs.filter fun x => !((g.joins b join).any fun y => y.id == x.id)

theorem Gang.merge_subs (g : Gang) (b : SubGang) (join : Bool) :
    (g.merge b join).subs = g.unmerged b join ++ [g.merged b join] := rfl

theorem Gang.mem_unmerged {g : Gang} {b x : SubGang} {join : Bool} (h : x ∈ g.unmerged b join) : x ∈ g.subs ∧ x.id ≠ b.id := by
  obtain ⟨hx, hj⟩ := List.mem_filter.1 h
  refine ⟨hx, fun hid => ?_⟩
  have : x ∈ g.joins b join := Gang.mem_joins.2 ⟨hx, .inl hid⟩
  simp only [Bool.not_eq_true', List.any_eq_false, beq_iff_eq] at hj
  exact hj x this rfl

/-! ### The clause on its pipe (R43) -/

theorem State.startClause_pipe (s : State) (r : Runner) (pipe : Nat) (b : SubGang) (h : DWord) (ws : List DWord) :
    ((s.startClause r pipe b h ws).core r.core).pipe? pipe = some
      { gang := r.slot, sub := b.id, header := h, haddr := b.pc.setWidth 56, words := ws, idx := 0 } := by
  simp [State.startClause]

theorem State.issueClause_good {s : State} {r : Runner} {b : SubGang} {h : DWord} {ws : List DWord} (pipe : Nat)
    (hk : s.checkClause r b = .good h ws)
    (hb : r.gang.broken (s.core r.core) (s.gangDisposition r.core r.slot .debug == .resolve) = [])
    (hm : boundaryReports r (r.gang.merged b (headerJoin h)) h = false) :
    s.issueClause r pipe b =
      ({ s.setGang r.core r.slot (r.gang.merge b (headerJoin h)) with free := s.free + 1 }).startClause r pipe
        (r.gang.merged b (headerJoin h)) h ws := by
  unfold State.issueClause
  simp only [hk, hb, Checked.join, hm, List.isEmpty_nil, Bool.not_true, Bool.false_eq_true, if_false]

theorem clauseIssue_next {s : State} {core pipe slot : Nat} {r : Runner} {b : SubGang} (hp : pipe < 2)
    (hfree : (s.core core).pipe? pipe = none) (hg : (s.markStepped core).chooseGang core = some slot)
    (hr : ((s.markStepped core).countGangs core slot).runner? core slot = some r)
    (hb : chooseSub (r.gang.subs.filter (((s.markStepped core).countGangs core slot).ready r)) = some b) :
    exec (.clauseIssue core pipe) s =
      let v := (s.markStepped core).countGangs core slot
      let g := r.gang.countSubs (r.gang.subs.filter (v.ready r)) b.id
      .next ((v.setGang core slot g).goOn { r with gang := g } pipe b) := by
  change execClauseIssue core pipe s = _
  unfold execClauseIssue
  have hp' : ¬ 2 ≤ pipe := by omega
  simp [hp', hfree, hg, hr, hb]

/-! ### Parks that end (R49, R165) -/

theorem State.runner?_gang {s : State} {core slot : Nat} {r : Runner} (h : s.runner? core slot = some r) :
    s.gang? core slot = some r.gang := by
  unfold State.runner? at h
  split at h
  · cases h
  · rename_i g hg
    split at h
    · cases h
    · obtain ⟨_, _, rfl⟩ := Option.map_eq_some_iff.1 h
      exact hg

/-- With no unreported fault, a report point parks its sub-gang behind the one that stands (R211). -/
theorem State.report_of_no_fault {s : State} {core slot : Nat} {g : Gang} (hg : s.gang? core slot = some g)
    (hf : g.oldestFault = none) (sub : Nat) (place : StopAt) :
    s.report core slot sub place = s.parkBehind core slot sub place := by
  simp only [State.report, hg, hf]

/-- The state with one sub-gang's park ended. -/
def State.unpark (s : State) (core slot sub : Nat) : State :=
  s.modGang core slot fun g => g.modSub sub fun x => { x with park := .run }

/-- Ending a park is no access, so the report point finds the gang's faults as they were. -/
theorem State.report_unpark {s : State} {r : Runner} (hr : s.runner? r.core r.slot = some r)
    (hf : r.gang.oldestFault = none) (sub : Nat) (place : StopAt) :
    (s.unpark r.core r.slot sub).report r.core r.slot sub place =
      (s.unpark r.core r.slot sub).parkBehind r.core r.slot sub place := by
  have hg : (s.unpark r.core r.slot sub).gang? r.core r.slot =
      some (r.gang.modSub sub fun x => { x with park := .run }) := by
    rw [State.unpark, State.gang?_modGang_self, State.runner?_gang hr, Option.map_some]
  exact State.report_of_no_fault hg hf sub place

/-- The park of a `PARK` bit ends with the gang's counters at zero, and a report follows where a fault is unresolved. -/
theorem parkRelease_next {s : State} {r : Runner} {b : SubGang} (hr : s.runner? r.core r.slot = some r)
    (hb : r.gang.sub? b.id = some b) (hp : b.park = .parkBit) (hc : ∀ n ∈ r.gang.counters, n = 0)
    (hf : r.gang.oldestFault = none) : exec (.parkRelease r.core r.slot b.id) s =
      if (r.gang.faultUnresolved && !b.inReport) = true then
        .next ((s.unpark r.core r.slot b.id).parkBehind r.core r.slot b.id
          { pc := b.pc, inClause := b.inClause, entry := none })
      else .next (s.unpark r.core r.slot b.id) := by
  have hover : s.parkOver r = true := by
    have : r.gang.counters.all (fun n => n == 0) = true := by simpa using hc
    simp [State.parkOver, this]
  have hgo : ¬(Park.parkBit != .parkBit || !true) = true := by decide
  change execParkRelease r.core r.slot b.id s = _
  rw [← State.report_unpark hr hf]
  simp only [execParkRelease, hr, hb, hp, hover, hf, if_neg hgo, Option.isSome_none, Bool.false_or]
  rfl

theorem registerParkRelease_next {s : State} {core slot order need : Nat} {slots : List Nat} {b : SubGang}
    (ho : (s.core core).oldestPark = some (order, need, slot, b)) (hp : b.park = .register order slots) :
    exec (.registerParkRelease core) s = .next (if (s.core core).regFree < need then s.registerDeadlock core
      else s.modGang core slot fun g => ((slots.filter fun d => (Table.get? g.slots d).isNone).foldl
        (fun g d => g.writeSlot d []) g).modSub b.id fun b => { b with park := .run }) := by
  change execRegisterParkRelease core s = _
  simp only [execRegisterParkRelease, ho, SubGang.regPark?, hp]
  split <;> rfl

/-- A register park as a core lists it: its order, the registers it needs, its gang's slot and its sub-gang. -/
abbrev ParkEntry := Nat × Nat × Nat × SubGang

/-- The older of what a search has found so far and one more register park. -/
def olderPark (m : Option ParkEntry) (x : ParkEntry) : Option ParkEntry :=
  match m with
  | none => some x
  | some y => if x.1 < y.1 then some x else some y

theorem Core.oldestPark_eq (k : Core) : k.oldestPark = k.regParks.foldl olderPark none := rfl

/-- A search has found the oldest of the register parks that it has seen. -/
def OldestOf (seen : List ParkEntry) : Option ParkEntry → Prop
  | none => seen = []
  | some x => x ∈ seen ∧ ∀ y ∈ seen, x.1 ≤ y.1

theorem OldestOf.older {seen : List ParkEntry} {m : Option ParkEntry}
    (h : OldestOf seen m) (x : ParkEntry) : OldestOf (seen ++ [x]) (olderPark m x) := by
  cases m with
  | none =>
    obtain rfl : seen = [] := h
    simp [OldestOf, olderPark]
  | some y =>
    obtain ⟨hm, hy⟩ := h
    by_cases hlt : x.1 < y.1
    · have : ∀ z ∈ seen, x.1 ≤ z.1 := fun z hz => Nat.le_trans (Nat.le_of_lt hlt) (hy z hz)
      simpa [OldestOf, olderPark, hlt, or_imp, forall_and] using this
    · have : y.1 ≤ x.1 := by omega
      simpa [OldestOf, olderPark, hlt, hm, or_imp, forall_and, this] using hy

theorem OldestOf.foldl {seen : List ParkEntry} {m : Option ParkEntry}
    (h : OldestOf seen m) (l : List ParkEntry) : OldestOf (seen ++ l) (l.foldl olderPark m) := by
  induction l generalizing seen m with
  | nil => simpa using h
  | cons x l ih => simpa using ih (h.older x)

theorem Core.oldestOf_oldestPark (k : Core) : OldestOf k.regParks k.oldestPark :=
  k.oldestPark_eq ▸ OldestOf.foldl (seen := []) (m := none) rfl k.regParks

/-- Settles O56: the choice, the merge, the clause on its pipe and the two parks, each by the lemma that says what its function
does. -/
theorem clausesIssueAndParksEnd : Obligations.ClausesIssueAndParksEnd := by
  refine ⟨fun s core pipe slot r b hp hfree hg hr hb => clauseIssue_next hp hfree hg hr hb,
    fun ready b h => ⟨chooseSub_mem h, fun hs => (chooseSub_of_starved h hs).2, fun hs => ?_⟩,
    fun g b join => ⟨_, _, g.merge_subs b join, rfl, rfl, rfl, rfl, fun x hx => Gang.mem_unmerged hx, fun i => ?_⟩,
    fun s r pipe b h ws _ => s.startClause_pipe r pipe b h ws,
    fun s r b hr hb hp hc hf => ⟨fun hq => ?_, fun hu hi => ?_⟩,
    fun s r pipe b h ws hk hb hm => State.issueClause_good pipe hk hb hm,
    fun k => ?_, fun s core slot order need slots b ho hp => registerParkRelease_next ho hp⟩
  · have hle := leastBy_least (n := 5) (fun _ => rfl) (chooseSub_of_none_starved hs ▸ h)
    exact ⟨fun ⟨x, hx, hy⟩ => (SubGang.le_of_issueKey (hle x hx)).1 hy, fun x hx => (SubGang.le_of_issueKey (hle x hx)).2⟩
  · simp only [Gang.merged_fibres, Gang.mem_joins, and_assoc]
  · refine (parkRelease_next hr hb hp hc hf).trans (if_neg ?_)
    rcases hq with hq | hq <;> simp [hq]
  · refine (parkRelease_next hr hb hp hc hf).trans (if_pos ?_)
    simp [hu, hi]
  · have h := k.oldestOf_oldestPark
    cases ho : k.oldestPark with
    | none => rw [ho] at h; exact h
    | some x => rw [ho] at h; exact h

end Sys2Proof.Machine

/-! PROOFS. What leaves gangs and teams where they stand: lines that move (R311), gates (R384) and transform bindings (R276). -/

namespace Sys2Proof.Machine

/-! ### What moves lines alone -/

/-- Copies of lines and gates apart, `t` is `s`: the same gangs and teams stand on every core, and grids and partitions are the
same. -/
structure SameTeams (s t : State) : Prop where
  gangs : ∀ c, (t.core c).gangs = (s.core c).gangs
  teams : ∀ c, (t.core c).teams = (s.core c).teams
  grids : t.grids = s.grids
  parts : t.parts = s.parts

namespace SameTeams

theorem refl (s : State) : SameTeams s s := ⟨fun _ => rfl, fun _ => rfl, rfl, rfl⟩

theorem trans {s t u : State} (h : SameTeams s t) (k : SameTeams t u) : SameTeams s u :=
  ⟨fun c => (k.gangs c).trans (h.gangs c), fun c => (k.teams c).trans (h.teams c), k.grids.trans h.grids,
    k.parts.trans h.parts⟩

theorem foldl {α : Type} {f : State → α → State} (h : ∀ s x, SameTeams s (f s x)) (l : List α) (s : State) :
    SameTeams s (l.foldl f s) := by
  induction l generalizing s with
  | nil => exact refl s
  | cons x l ih => exact (h s x).trans (ih _)

theorem gang? {s t : State} (h : SameTeams s t) (c g : Nat) : t.gang? c g = s.gang? c g := by
  simp only [State.gang?, h.gangs]

theorem team? {s t : State} (h : SameTeams s t) (c u : Nat) : t.team? c u = s.team? c u := by
  simp only [State.team?, h.teams]

/-- A core of which only other fields change. -/
theorem modCore (s : State) (c : Nat) {f : Core → Core} (hg : ∀ k, (f k).gangs = k.gangs)
    (ht : ∀ k, (f k).teams = k.teams) : SameTeams s (s.modCore c f) := by
  refine ⟨fun d => ?_, fun d => ?_, rfl, rfl⟩
  · by_cases h : d = c
    · subst h; simp [hg]
    · rw [State.core_modCore_ne s h]
  · by_cases h : d = c
    · subst h; simp [ht]
    · rw [State.core_modCore_ne s h]

theorem modMem (s : State) (f : MemSide → MemSide) : SameTeams s (s.modMem f) := ⟨fun _ => rfl, fun _ => rfl, rfl, rfl⟩

theorem modCluster (s : State) (c : Nat) (f : Cluster → Cluster) : SameTeams s (s.modCluster c f) :=
  ⟨fun _ => rfl, fun _ => rfl, rfl, rfl⟩

theorem delL1 (s : State) (core tag line : Nat) : SameTeams s (s.delL1 core tag line) :=
  modCore s core (fun _ => rfl) fun _ => rfl

theorem putL1 (s : State) (core : Nat) (x : L1Line) : SameTeams s (s.putL1 core x) :=
  modCore s core (fun _ => rfl) fun _ => rfl

theorem modL2 (s : State) (tag line pline : Nat) (f : L2Line → L2Line) : SameTeams s (s.modL2 tag line pline f) :=
  ⟨fun _ => rfl, fun _ => rfl, rfl, rfl⟩

theorem setDir (s : State) (tag line pline : Nat) (d : DirEntry) : SameTeams s (s.setDir tag line pline d) :=
  modL2 s tag line pline _

/-- Of two ways that each keep the teams, either may be taken. -/
theorem either {s t u : State} {b : Prop} [Decidable b] (h : SameTeams s t) (k : SameTeams s u) :
    SameTeams s (if b then t else u) := by
  split
  · exact h
  · exact k

theorem notify (s : State) (pline : Nat) : SameTeams s (s.notify pline) := either (modMem s _) (refl s)

theorem writeHome (s : State) (tag line pline off : Nat) (bs : List Byte) :
    SameTeams s (s.writeHome tag line pline off bs) := by
  unfold State.writeHome
  refine trans ?_ (notify _ pline)
  split
  · exact modL2 s tag line pline _
  · exact modMem s fun m => { m with hbm := Memory.writeN m.hbm (128 * pline + off) bs }

theorem putClean (s : State) (core tag line : Nat) (x : L1Line) : SameTeams s (s.putClean core tag line x) :=
  have gone := delL1 s core tag line
  either gone (gone.trans (setDir _ _ _ _ _))

theorem putDirty (s : State) (core tag line : Nat) (x : L1Line) : SameTeams s (s.putDirty core tag line x) :=
  have gone := delL1 s core tag line
  have home := either (b := x.lost = true) gone (gone.trans (writeHome _ tag line x.pline 0 x.data))
  either home (home.trans (setDir _ _ _ _ _))

theorem putLine (s : State) (core : Nat) (x : L1Line) : SameTeams s (s.putLine core x) :=
  have left := either (b := x.leavesDirty = true) (putDirty s core x.tag x.line x) (putClean s core x.tag x.line x)
  either (left.trans (putL1 _ core _)) left

theorem settleL1 (s : State) (core : Nat) : SameTeams s (s.settleL1 core) := foldl (fun s x => putLine s core x) _ s

theorem reopenGates (s : State) : SameTeams s s.reopenGates := foldl (fun s cl => modCluster s cl _) _ s

end SameTeams

/-! ### A team placed on a cluster (R171, R276, R384) -/

section
variable (s : State) (pid cl : Nat)

theorem State.placed_sameTeams : SameTeams
    (s.modPart pid fun p => { p with preempting := p.preempting &&& ~~~(BitVec.ofNat 64 (2 ^ cl)) }) (s.placed pid cl) :=
  SameTeams.reopenGates _

@[simp] theorem State.gang?_placed (c g : Nat) : (s.placed pid cl).gang? c g = s.gang? c g :=
  (s.placed_sameTeams pid cl).gang? c g
@[simp] theorem State.team?_placed (c t : Nat) : (s.placed pid cl).team? c t = s.team? c t :=
  (s.placed_sameTeams pid cl).team? c t
@[simp] theorem State.placed_grids : (s.placed pid cl).grids = s.grids := (s.placed_sameTeams pid cl).grids

theorem State.part?_placed : (s.placed pid cl).part? pid =
    (s.part? pid).map fun p => { p with preempting := p.preempting &&& ~~~(BitVec.ofNat 64 (2 ^ cl)) } := by
  rw [State.part?, (s.placed_sameTeams pid cl).parts]
  exact s.part?_modPart_self pid _

end

@[simp] theorem State.gang?_settleL1 (s : State) (core c g : Nat) : (s.settleL1 core).gang? c g = s.gang? c g :=
  (SameTeams.settleL1 s core).gang? c g
@[simp] theorem State.team?_settleL1 (s : State) (core c t : Nat) : (s.settleL1 core).team? c t = s.team? c t :=
  (SameTeams.settleL1 s core).team? c t
@[simp] theorem State.settleL1_grids (s : State) (core : Nat) : (s.settleL1 core).grids = s.grids :=
  (SameTeams.settleL1 s core).grids
@[simp] theorem State.settleL1_parts (s : State) (core : Nat) : (s.settleL1 core).parts = s.parts :=
  (SameTeams.settleL1 s core).parts

/-- What the binding of a team changes (R276): of cores, the team's own entry alone. -/
inductive Binds (s : State) (core team : Nat) : State → Prop
  | same : Binds s core team s
  | team (f : Team → Team) : Binds s core team (s.modTeam core team f)
  | copy (f : Team → Team) (cl : Nat) (h : Cluster → Cluster) : Binds s core team ((s.modTeam core team f).modCluster cl h)

theorem State.queueBinding_binds (s : State) (cl core team : Nat) : Binds s core team (s.queueBinding cl core team) := by
  unfold State.queueBinding
  split
  · exact .same
  · dsimp only
    split
    · exact .same
    · split
      · exact .team _
      · split
        · exact .same
        · exact .copy _ _ _
      · exact .same

theorem Binds.gang? {s t : State} {core team : Nat} (h : Binds s core team t) (c g : Nat) : t.gang? c g = s.gang? c g := by
  cases h with
  | same => rfl
  | team f => exact s.gang?_modTeam core team f c g
  | copy f cl h => exact s.gang?_modTeam core team f c g

theorem Binds.grids {s t : State} {core team : Nat} (h : Binds s core team t) : t.grids = s.grids := by
  cases h <;> rfl

theorem Binds.team?_isSome {s t : State} {core team : Nat} (h : Binds s core team t) :
    (t.team? core team).isSome = (s.team? core team).isSome := by
  cases h with
  | same => rfl
  | team f => simp
  | copy f cl h => exact (congrArg Option.isSome (s.team?_modTeam_self core team f)).trans (by simp)

end Sys2Proof.Machine

/-! PROOFS. Gangs put into free slots, admission (R160, R161, R372, R373) and eviction (R183, R380, R383). -/

namespace Sys2Proof

/-- A value that a filter keeps is still found under its key. -/
theorem Table.get?_filter {α : Type} {t : Table α} {k : Nat} {v : α} (q : α → Bool) (h : Table.get? t k = some v)
    (hv : q v = true) : Table.get? (t.filter fun x => q x.2) k = some v := by
  induction t with
  | nil => cases h
  | cons p t ih =>
    obtain ⟨a, w⟩ := p
    simp only [Table.get?] at h
    by_cases e : k = a
    · obtain rfl : w = v := by simpa [e] using h
      simp [Table.get?, hv, e]
    · have := ih (by simpa [e] using h)
      cases hw : q w <;> simp [Table.get?, hw, e, this]

namespace Machine

/-! ### A core beside the rest of the state -/

@[simp] theorem State.core_modGrid (s : State) (g c : Nat) (f : Grid → Grid) : (s.modGrid g f).core c = s.core c := rfl
@[simp] theorem State.core_modPart (s : State) (p c : Nat) (f : Partition → Partition) :
    (s.modPart p f).core c = s.core c := rfl
@[simp] theorem State.core_modMem (s : State) (f : MemSide → MemSide) (c : Nat) : (s.modMem f).core c = s.core c := rfl
@[simp] theorem State.core_setMem (s : State) (m : MemSide) (c : Nat) : (s.setMem m).core c = s.core c := rfl

/-! ### Gangs put into free slots (R161, R185) -/

theorem Core.freeSlots_nodup (k : Core) : k.freeSlots.Nodup := List.nodup_range.filter _

theorem State.gang?_of_freeSlot {s : State} {core slot : Nat} (h : slot ∈ (s.core core).freeSlots) :
    s.gang? core slot = none := by
  exact Option.isNone_iff_eq_none.1 (List.mem_filter.1 h).2

theorem State.gang?_setGang (s : State) (c g : Nat) (x : Gang) (j : Nat) :
    (s.setGang c g x).gang? c j = if j = g then some x else s.gang? c j := by
  simp [State.setGang, State.gang?, Table.get?_put]

/-- A fold that puts a gang into one slot a time, each with a property `good`, puts such a gang into every slot named, and
leaves the other slots alone. -/
theorem gang?_foldl_put {α : Type} (core : Nat) {f : State → Nat × α → State} {good : Nat × α → Gang → Prop}
    (hf : ∀ s x, ∃ y, good x y ∧ ∀ j, (f s x).gang? core j = if j = x.1 then some y else s.gang? core j)
    {l : List (Nat × α)} (hn : (l.map Prod.fst).Nodup) (s : State) :
    (∀ x ∈ l, ∃ y, good x y ∧ (l.foldl f s).gang? core x.1 = some y) ∧
      ∀ j, j ∉ l.map Prod.fst → (l.foldl f s).gang? core j = s.gang? core j := by
  induction l generalizing s with
  | nil => simp
  | cons x l ih =>
    obtain ⟨hx, hn⟩ := List.nodup_cons.1 hn
    obtain ⟨y, hy, hj⟩ := hf s x
    obtain ⟨hput, hrest⟩ := ih hn (f s x)
    refine ⟨fun z hz => ?_, fun j hjl => ?_⟩
    · rcases List.mem_cons.1 hz with rfl | hz
      · exact ⟨y, hy, by rw [List.foldl_cons, hrest _ hx, hj, if_pos rfl]⟩
      · exact hput z hz
    · simp only [List.map_cons, List.mem_cons, not_or] at hjl
      rw [List.foldl_cons, hrest j hjl.2, hj, if_neg hjl.1]

theorem zip_fst_sublist {α β : Type} (l : List α) (r : List β) : ((l.zip r).map Prod.fst).Sublist l := by
  induction l generalizing r with
  | nil => simp
  | cons a l ih =>
    cases r with
    | nil => simp
    | cons b r => simpa using ih r

/-- The slots that a zip takes are each named once. -/
theorem nodup_zip_fst {α : Type} {l : List Nat} (h : l.Nodup) (r : List α) : ((l.zip r).map Prod.fst).Nodup :=
  h.sublist (zip_fst_sublist l r)

/-! ### Admission (R160, R161, R372, R373) -/

/-- A gang at launch, with a core that is in core-halt mode halted. -/
def Gang.haltedAs (g : Gang) (on : Bool) : Gang := { g with dbg := { g.dbg with halted := on } }

/-- One gang of a team put at the kernel's entry into its slot, as TEAM_ADMIT does. -/
def State.launchInto (core uid : Nat) (halted : Bool) (g : Grid) (s : State) (x : Nat × Nat) : State :=
  s.fresh.2.setGang core x.1
    ((launchGang uid x.2 g.kd.width g.kd.acc uid (launchSub s.fresh.1 g.kd.width g.kd.entry g.args)).haltedAs halted)

/-- The state with the gangs of a grid's next team in their slots. -/
def State.launchGangs (s : State) (core : Nat) (g : Grid) : State :=
  (((s.core core).freeSlots.take g.kd.ngang).zip (List.range g.kd.ngang)).foldl
    (State.launchInto core s.next (s.core core).coreHalt g) s.fresh.2

/-- The state with the team itself on its core, and its grid's account of it. -/
def State.launchTeamOn (s : State) (grid core : Nat) (at_ : Nat × Nat) (g : Grid) : State :=
  ((s.launchGangs core g).modCore core fun k =>
    let teams := Table.put k.teams s.next (launchTeam s.next grid g.nextTeam g.lr g.kd at_.1 at_.2 g.bindings)
    { k with
      teams := teams
      split := splitFor teams }).modGrid grid fun g =>
    { g with nextTeam := g.nextTeam + 1, unretired := g.unretired ++ [(s.next, false)], eff := g.prio, passes := 0 }

theorem State.admitTeam_eq {s : State} {grid : Nat} {g : Grid} (hg : s.grid? grid = some g) (core : Nat) (at_ : Nat × Nat) :
    s.admitTeam grid core at_ =
      (((s.launchTeamOn grid core at_ g).settleL1 core).placed g.pid (clusterOf core)).queueBinding (clusterOf core) core
        s.next := by
  unfold State.admitTeam
  rw [hg]
  rfl

theorem State.launchGangs_grids (s : State) (core : Nat) (g : Grid) : (s.launchGangs core g).grids = s.grids :=
  foldl_keeps State.grids (State.launchInto core s.next (s.core core).coreHalt g) (fun _ _ => rfl) _ _

theorem State.launchGangs_gang? (s : State) (core : Nat) (g : Grid) :
    (∀ n slot, ((s.core core).freeSlots.take g.kd.ngang)[n]? = some slot → ∃ id, (s.launchGangs core g).gang? core slot =
      some ((launchGang s.next n g.kd.width g.kd.acc s.next (launchSub id g.kd.width g.kd.entry g.args)).haltedAs
        (s.core core).coreHalt)) ∧
    ∀ slot, slot ∉ (s.core core).freeSlots.take g.kd.ngang → (s.launchGangs core g).gang? core slot = s.gang? core slot := by
  have hslots : (((s.core core).freeSlots.take g.kd.ngang).zip (List.range g.kd.ngang)).map Prod.fst =
      (s.core core).freeSlots.take g.kd.ngang :=
        List.map_fst_zip (by rw [List.length_range]; exact List.length_take_le _ _)
  obtain ⟨hput, hrest⟩ := gang?_foldl_put core
    (f := State.launchInto core s.next (s.core core).coreHalt g)
    (good := fun x y => ∃ id, y = (launchGang s.next x.2 g.kd.width g.kd.acc s.next
      (launchSub id g.kd.width g.kd.entry g.args)).haltedAs (s.core core).coreHalt)
    (fun t x => ⟨_, ⟨_, rfl⟩, fun j => State.gang?_setGang _ core x.1 _ j⟩)
    (by rw [hslots]; exact (s.core core).freeSlots_nodup.sublist (List.take_sublist _ _)) s.fresh.2
  refine ⟨fun n slot hs => ?_, fun slot hs => hrest slot (by rwa [hslots])⟩
  have hlt : n < g.kd.ngang := by
    refine Nat.lt_of_not_le fun hle => ?_
    rw [List.getElem?_take, if_neg (Nat.not_lt.2 hle)] at hs
    cases hs
  have hz : (slot, n) ∈ ((s.core core).freeSlots.take g.kd.ngang).zip (List.range g.kd.ngang) :=
    List.mem_of_getElem? (i := n) (List.getElem?_zip_eq_some.2 ⟨hs, by simp [hlt]⟩)
  obtain ⟨y, ⟨id, rfl⟩, hy⟩ := hput _ hz
  exact ⟨id, hy⟩

theorem State.launchTeamOn_gang? (s : State) (grid core : Nat) (at_ : Nat × Nat) (g : Grid) (j : Nat) :
    (s.launchTeamOn grid core at_ g).gang? core j = (s.launchGangs core g).gang? core j := by
  simp [State.launchTeamOn, State.gang?]

section
variable {s : State} {grid : Nat} {g : Grid} (hg : s.grid? grid = some g) (core : Nat) (at_ : Nat × Nat)
include hg

theorem State.admitTeam_team? : ((s.admitTeam grid core at_).team? core s.next).isSome = true := by
  rw [State.admitTeam_eq hg, (State.queueBinding_binds _ _ _ _).team?_isSome, State.team?_placed, State.team?_settleL1]
  simp [State.launchTeamOn, State.team?]

theorem State.admitTeam_gang? (j : Nat) : (s.admitTeam grid core at_).gang? core j = (s.launchGangs core g).gang? core j := by
  rw [State.admitTeam_eq hg, (State.queueBinding_binds _ _ _ _).gang?, State.gang?_placed, State.gang?_settleL1,
    State.launchTeamOn_gang?]

theorem State.admitTeam_grid? : (s.admitTeam grid core at_).grid? grid = some { g with
    nextTeam := g.nextTeam + 1, unretired := g.unretired ++ [(s.next, false)], eff := g.prio, passes := 0 } := by
  rw [State.admitTeam_eq hg, State.grid?, (State.queueBinding_binds _ _ _ _).grids, State.placed_grids, State.settleL1_grids]
  have hg' : Table.get? (s.launchGangs core g).grids grid = some g := by rw [State.launchGangs_grids]; exact hg
  simp [State.launchTeamOn, State.modGrid, hg']

end

/-- One team of a pinned grid admitted to its core (R373). -/
def State.admitWhereItFits (grid : Nat) (g : Grid) (s : State) (core : Nat) : State :=
  match (s.core core).placeKernel g.kd with
  | some at_ => s.admitTeam grid core at_
  | none => s

section
variable {s : State} {grid core : Nat} {g : Grid} {p : Partition} (hg : s.grid? grid = some g) (hp : s.part? g.pid = some p)
  (he : g.st = .eligible) (hn : g.nextTeam < g.lr.total) (hnext : s.goesNext grid g = true)
include hg hp he hn hnext

theorem teamAdmit_next {at_ : Nat × Nat} (hpin : g.lr.pin = false) (ht : s.takesTeams p core none = true)
    (hk : (s.core core).placeKernel g.kd = some at_) :
    exec (.teamAdmit grid core) s = .next ((s.admitTeam grid core at_).age grid) := by
  change execTeamAdmit grid core s = _
  simp only [execTeamAdmit, hg, hp, he, hnext, hpin, ht, hk, Nat.not_le.2 hn, decide_false, bne_self_eq_false, Bool.not_true,
    Bool.or_false, Bool.false_eq_true, if_false]

theorem teamAdmit_pinned (hpin : g.lr.pin = true) (ht : s.canPlace p g = true) :
    exec (.teamAdmit grid core) s = .next ((g.lr.pinCores.foldl (State.admitWhereItFits grid g) s).age grid) := by
  change execTeamAdmit grid core s = _
  simp only [execTeamAdmit, hg, hp, he, hnext, hpin, ht]
  simp only [Nat.not_le.2 hn, decide_false, bne_self_eq_false, Bool.not_true, Bool.or_false, Bool.false_eq_true,
    if_false, if_true]
  rfl

end

/-! ### A gang at launch (R15, R176, R180) -/

theorem Lanes.getLsbD_below (n : Nat) {i : Nat} (hi : i < 128) : (Lanes.below n).getLsbD i = decide (i < n) := by
  rw [Lanes.below, BitVec.getLsbD_ofNat, Nat.testBit_two_pow_sub_one]
  simp [hi]

theorem nth_launchSregs (args : List Word) {n : Nat} (hn : n < 64) :
    nth (launchSregs args) n 0 = if n < 12 then nth args n 0 else 0 := nth_range_map _ _ hn

theorem launchGang_counter (team number width rows order : Nat) (b : SubGang) (k : Ctr) :
    (launchGang team number width rows order b).counter k = 0 := by
  cases k <;> rfl

/-! ### Eviction (R183, R380, R383) -/

theorem State.evictTeam_saves {s u : State} {pid core team n : Nat} {p : Partition} {g : Grid} {t : Team} {cut : Option Nat}
    (hfree : p.freeFrame (frameBytes t (s.frameOf core team t cut).gangs) = some n)
    (hw : s.schedWrite p.vmid (Config.frameAsid pid % 2 ^ 16) (p.frameAt n)
      (frameImage (s.core core) t (s.frameOf core team t cut).gangs g) = .done u) :
    s.evictTeam pid core team p g t cut = u.saveTeam pid core team n (s.frameOf core team t cut) := by
  simp only [State.evictTeam, hfree, hw]

theorem teamEvict_saves {s u : State} {core team n : Nat} {t : Team} {g : Grid} {p : Partition}
    (ht : s.team? core team = some t) (hg : s.grid? t.grid = some g) (hp : s.part? g.pid = some p) (hk : t.killed = false)
    (hs : t.started = true) (hprs : g.lr.prs = false)
    (hwhy : s.preempted g.pid core team p g = true ∨
      ((s.core core).evictable team = true ∧ s.evictReason g.pid core team p g = true)) :
    let v := (s.withdraw core 0 team).withdraw core 1 team
    let f := v.frameOf core team t (if p.preempting.getLsbD (clusterOf core) then some (clusterOf core) else none)
    (v.core core).teamGangs team ≠ [] → v.settled core team = true → p.freeFrame (frameBytes t f.gangs) = some n →
    v.schedWrite p.vmid (Config.frameAsid g.pid % 2 ^ 16) (p.frameAt n) (frameImage (v.core core) t f.gangs g) = .done u →
    exec (.teamEvict core team) s = .next (u.saveTeam g.pid core team n f) := by
  intro v f hne hset hfree hw
  have hyes : (s.preempted g.pid core team p g ||
      ((s.core core).evictable team && s.evictReason g.pid core team p g)) = true := by
    simpa [Bool.or_eq_true, Bool.and_eq_true] using hwhy
  have hne' : ((v.core core).teamGangs team).isEmpty = false := by simpa [List.isEmpty_eq_false_iff] using hne
  change execTeamEvict core team s = _
  simp only [execTeamEvict, ht, hg, hp, hprs, hk, hs, hyes, Bool.not_true, Bool.or_false, Bool.false_eq_true, if_false]
  change (if ((v.core core).teamGangs team).isEmpty = true then _ else
    if (!v.settled core team) = true then _ else Host.Outcome.next (v.evictTeam g.pid core team p g t _)) = _
  rw [hne', hset, if_neg (by decide), if_neg (by decide), State.evictTeam_saves hfree hw]

theorem teamEvict_closes_gate {s : State} {core team : Nat} {t : Team} {g : Grid} {p : Partition}
    (ht : s.team? core team = some t) (hg : s.grid? t.grid = some g) (hp : s.part? g.pid = some p) (hprs : g.lr.prs = true)
    (hy : s.yields g.pid core team p g = true) :
    exec (.teamEvict core team) s = .next (s.modVis (clusterOf core) fun v => { v with gateClosed := true }) := by
  change execTeamEvict core team s = _
  simp only [execTeamEvict, ht, hg, hp, hprs, hy, if_true]

section
variable {s : State} {pid : Nat} (core team n : Nat) (f : Frame)

theorem State.saveTeam_frame {p : Partition} (hp : s.part? pid = some p) :
    ∃ q, (s.saveTeam pid core team n f).part? pid = some q ∧ Table.get? q.frames n = some f := by
  refine ⟨{ p with frames := Table.put p.frames n f }, ?_, Table.get?_put_self _ _ _⟩
  change (s.modPart pid fun p => { p with frames := Table.put p.frames n f }).part? pid = _
  rw [State.part?_modPart_self, hp, Option.map_some]

theorem State.saveTeam_gangs : ((s.saveTeam pid core team n f).core core).gangs =
    (s.core core).gangs.filter fun x => x.2.team != team := by
  simp [State.saveTeam]

theorem State.saveTeam_team? : (s.saveTeam pid core team n f).team? core team = none := by
  simp [State.saveTeam, State.team?, Table.get?_del]

end

end Machine
end Sys2Proof

/-! PROOFS. A saved team's return, its gangs restored (R180, R185, R214), and the retirement of a gang (R26). -/

namespace Sys2Proof.Machine

/-! ### A restored gang (R180, R185, R214) -/

/-- Writing no lane of a list of slots changes the slots alone; of no slot, nothing. -/
theorem Gang.writeSlots_changes (l : List Nat) (g : Gang) :
    ∃ sl, l.foldl (fun (g : Gang) d => g.writeSlot d []) g = { g with slots := sl } ∧ (l = [] → sl = g.slots) := by
  induction l generalizing g with
  | nil => exact ⟨g.slots, rfl, fun _ => rfl⟩
  | cons d l ih =>
    obtain ⟨sl, h, -⟩ := ih (g.writeSlot d [])
    exact ⟨sl, h, fun e => by cases e⟩

/-- Counting a list of entries changes the counters alone; of no entry, nothing. -/
theorem Gang.addCounters_changes (l : List Pending) (g : Gang) :
    ∃ ks, l.foldl (fun (g : Gang) p => g.addCounter p.ctr true) g = { g with counters := ks } ∧ (l = [] → ks = g.counters) := by
  induction l generalizing g with
  | nil => exact ⟨g.counters, rfl, fun _ => rfl⟩
  | cons p l ih =>
    obtain ⟨ks, h, -⟩ := ih (g.addCounter p.ctr true)
    exact ⟨ks, h, fun e => by cases e⟩

/-- The list of a gang after the reissue (R214). -/
def Gang.reissuedList (g : Gang) : List Pending := g.pending.map fun p => if g.reissues p then p.reissued else p

/-- A reissue changes the list, the counters and the sub-gangs; with every entry counted, not the counters. -/
theorem Gang.reissueAll_changes (g : Gang) : ∃ ks bs,
    g.reissueAll = { g with pending := g.reissuedList, counters := ks, subs := bs } ∧
    ((∀ p ∈ g.pending, p.counted = true) → ks = g.counters) := by
  obtain ⟨ks, h, hks⟩ := Gang.addCounters_changes (g.pending.filter fun p => !p.counted && g.reissues p) g
  refine ⟨ks, g.reissueAll.subs, ?_, fun hc => hks ?_⟩
  · unfold Gang.reissueAll
    simp only [h]
    rfl
  · simpa [List.filter_eq_nil_iff] using fun p hp hn => absurd (hc p hp) (by simp [hn])

/-- A restore changes the mark, the slots, the list, the counters and the sub-gangs: the slots where a register park takes its
registers, the counters where an entry is counted anew. -/
theorem Gang.restore_changes (g : Gang) : ∃ sl ks,
    g.restore = { g with
      restored := true, slots := sl, pending := g.reissuedList, counters := ks, subs := g.restore.subs } ∧
    ((∀ b ∈ g.subs, b.regPark? = none) → sl = g.slots) ∧ ((∀ p ∈ g.pending, p.counted = true) → ks = g.counters) := by
  obtain ⟨sl, h, hsl⟩ := Gang.writeSlots_changes
    (((g.subs.filterMap fun b => b.regPark?.map fun o => o.2).flatten).filter fun d => (Table.get? g.slots d).isNone) g
  obtain ⟨ks, bs, hr, hks⟩ := Gang.reissueAll_changes { g with slots := sl }
  refine ⟨sl, ks, ?_, fun hb => hsl ?_, hks⟩
  · unfold Gang.restore
    simp only [h, hr]
    rfl
  · have : g.subs.filterMap (fun b => b.regPark?.map fun o => o.2) = [] := by
      simpa [List.filterMap_eq_nil_iff] using hb
    simp [this]

/-! ### A saved team placed on a core (R185) -/

/-- One restored gang put into its slot, halted where the core is in core-halt mode and no sub-gang goes on (log entry 53). -/
def State.restoreInto (core : Nat) (halted : Bool) (s : State) (x : Nat × Gang) : State :=
  s.setGang core x.1 (x.2.restore.haltedAs (x.2.restore.dbg.halted || (halted && !x.2.restore.subs.any SubGang.goesOn)))

/-- The state with the gangs of a saved team in free slots. -/
def State.restoreGangs (s : State) (core : Nat) (f : Frame) : State :=
  ((s.core core).freeSlots.zip f.gangs).foldl (State.restoreInto core (s.core core).coreHalt) s

/-- The team of a frame at its new place on a core. -/
def Frame.teamAt (f : Frame) (at_ : Nat × Nat) : Team := { f.team with scratchAt := at_.1, accAt := at_.2 }

/-- The state with the team itself on its core and its frame free. -/
def State.restoreTeamOn (s : State) (pid n core : Nat) (f : Frame) (at_ : Nat × Nat) : State :=
  ((s.restoreGangs core f).modCore core fun k =>
    let teams := Table.put k.teams f.team.uid (f.teamAt at_)
    { k with
      teams := teams
      split := splitFor teams
      l1 := k.l1.filter fun x => x.st != .wo && x.st != .remote }).modPart pid fun p =>
    { p with frames := Table.del p.frames n }

section
variable (s : State) (pid n core : Nat) (f : Frame) (at_ : Nat × Nat)

theorem State.restoreTeam_eq : s.restoreTeam pid n core f at_ =
    ((s.restoreTeamOn pid n core f at_).settleL1 core).placed pid (clusterOf core) := rfl

theorem State.restoreGangs_parts : (s.restoreGangs core f).parts = s.parts :=
  foldl_keeps State.parts (State.restoreInto core (s.core core).coreHalt) (fun _ _ => rfl) _ _

theorem State.restoreGangs_gang? {i slot : Nat} {g : Gang} (hs : (s.core core).freeSlots[i]? = some slot)
    (hg : f.gangs[i]? = some g) : (s.restoreGangs core f).gang? core slot =
      some (g.restore.haltedAs (g.restore.dbg.halted || ((s.core core).coreHalt && !g.restore.subs.any SubGang.goesOn))) := by
  obtain ⟨hput, -⟩ := gang?_foldl_put core (f := State.restoreInto core (s.core core).coreHalt)
    (good := fun x y => y = x.2.restore.haltedAs
      (x.2.restore.dbg.halted || ((s.core core).coreHalt && !x.2.restore.subs.any SubGang.goesOn)))
    (fun t x => ⟨_, rfl, fun j => State.gang?_setGang t core x.1 _ j⟩)
    (nodup_zip_fst (s.core core).freeSlots_nodup f.gangs) s
  obtain ⟨y, rfl, hy⟩ := hput (slot, g) (List.mem_of_getElem? (i := i) (List.getElem?_zip_eq_some.2 ⟨hs, hg⟩))
  exact hy

theorem State.restoreTeam_team? :
    (s.restoreTeam pid n core f at_).team? core f.team.uid = some (f.teamAt at_) := by
  rw [State.restoreTeam_eq, State.team?_placed, State.team?_settleL1]
  simp [State.restoreTeamOn, State.team?]

theorem State.restoreTeam_gang? (j : Nat) :
    (s.restoreTeam pid n core f at_).gang? core j = (s.restoreGangs core f).gang? core j := by
  rw [State.restoreTeam_eq, State.gang?_placed, State.gang?_settleL1]
  simp [State.restoreTeamOn, State.gang?]

theorem State.restoreTeam_frame {p : Partition} (hp : s.part? pid = some p) :
    ∃ q, (s.restoreTeam pid n core f at_).part? pid = some q ∧ Table.get? q.frames n = none := by
  have hon : (s.restoreTeamOn pid n core f at_).part? pid = some { p with frames := Table.del p.frames n } := by
    rw [State.restoreTeamOn, State.part?_modPart_self]
    change (Table.get? (s.restoreGangs core f).parts pid).map _ = _
    rw [State.restoreGangs_parts, show Table.get? s.parts pid = some p from hp, Option.map_some]
  have hset : ((s.restoreTeamOn pid n core f at_).settleL1 core).part? pid =
      some { p with frames := Table.del p.frames n } := by rw [State.part?, State.settleL1_parts]; exact hon
  rw [State.restoreTeam_eq, State.part?_placed, hset, Option.map_some]
  exact ⟨_, rfl, by simp [Table.get?_del]⟩

end

theorem teamRestore_next {s : State} {pid n core : Nat} {p : Partition} {f : Frame} {at_ : Nat × Nat} {bs : List Byte}
    (hp : s.part? pid = some p) (hf : Table.get? p.frames n = some f) (hr : f.ready = true)
    (hw : s.higherWaits (s.frameClass f) = false) (ht : s.restoresTo p f core = true)
    (ha : (s.core core).placeFrame (f.fromBytes s.next bs) = some at_)
    (hb : s.schedRead p.vmid (Config.frameAsid pid % 2 ^ 16) (p.frameAt n) (frameBytes f.team f.gangs) = .bytes bs) :
    let t := s.schedTouch p.vmid (Config.frameAsid pid % 2 ^ 16) (p.frameAt n) (frameBytes f.team f.gangs)
    exec (.teamRestore pid n core) s = .next (if f.bytesOk bs = true then t.restoreTeam pid n core (f.fromBytes s.next bs) at_
      else t.killGrid f.team.grid { FaultRec.zero with code := some .reservedField } f.team.linear 0) := by
  intro t
  change execTeamRestore pid n core s = _
  simp only [execTeamRestore, hp, hf, hr, hw, ht, hb, ha, Bool.not_true, Bool.or_false, Bool.false_eq_true, if_false]
  cases f.bytesOk bs <;> rfl

/-! ### Retirement (R26, R33) -/

theorem gangRetire_next {s : State} {core slot : Nat} {g : Gang} (hg : s.gang? core slot = some g) (hs : g.subs = [])
    (hh : g.dbg.halted = false) (hc : ∀ n ∈ g.counters, n = 0) (hp : g.pending = []) :
    exec (.gangRetire core slot) s = .next ((s.dropGang core slot).registerDeadlock core) := by
  have hd : s.drained core slot g = true := by
    have : g.counters.all (fun n => n == 0) = true := by simpa using hc
    simp [State.drained, this]
  change execGangRetire core slot s = _
  simp [execGangRetire, hg, hs, hh, hd, hp, Gang.oldestFault]

section
variable (s : State) (c t : Nat)

theorem State.gang?_releaseTeam (j : Nat) : (s.releaseTeam c t).gang? c j = s.gang? c j := by
  unfold State.releaseTeam
  split
  · rfl
  · dsimp only
    split
    · rfl
    · simp [State.gang?]

/-- A team with a gang left stays. -/
theorem State.releaseTeam_of_gang (h : (s.core c).gangs.any (fun g => g.2.team == t) = true) : s.releaseTeam c t = s := by
  unfold State.releaseTeam
  split
  · rfl
  · simp [h]

/-- A team with no gang left, and no copy to its scratchpad, leaves its core. -/
theorem State.team?_releaseTeam_of_last (h : (s.core c).gangs.any (fun g => g.2.team == t) = false)
    (h0 : (s.cluster (clusterOf c)).leat0.holds t = false) (h1 : (s.cluster (clusterOf c)).leat1.holds t = false) :
    (s.releaseTeam c t).team? c t = none := by
  unfold State.releaseTeam
  split
  · assumption
  · simp only [h, h0, h1, Bool.or_false, Bool.false_eq_true, if_false]
    simp [State.team?, Table.get?_del]

end

/-- The state with one gang's slot free and its claims on lines gone. -/
def State.withoutGang (s : State) (core slot : Nat) : State :=
  let t := s.modCore core fun k => { k with gangs := Table.del k.gangs slot }
  t.setMem { t.mem with claims := t.mem.claims.filter fun y => !(y.core == core && y.gang == slot) }

section
variable (s : State) (core slot : Nat)

theorem State.dropGang_eq {s : State} {core slot : Nat} {g : Gang} (hg : s.gang? core slot = some g) :
    s.dropGang core slot = (s.withoutGang core slot).releaseTeam core g.team := by
  unfold State.dropGang
  rw [hg]
  rfl

theorem State.withoutGang_gangs : ((s.withoutGang core slot).core core).gangs = Table.del (s.core core).gangs slot := by
  simp [State.withoutGang]

theorem State.gang?_withoutGang (j : Nat) : (s.withoutGang core slot).gang? core j =
    if j = slot then none else s.gang? core j := by
  rw [State.gang?, State.withoutGang_gangs, Table.get?_del]
  rfl

theorem State.team?_withoutGang (t : Nat) : (s.withoutGang core slot).team? core t = s.team? core t := by
  simp [State.withoutGang, State.team?]

/-- The gang that leaves is the last of its team exactly when no gang left is of that team. -/
theorem State.withoutGang_any (t : Nat) : ((s.withoutGang core slot).core core).gangs.any (fun g => g.2.team == t) = false ↔
    ∀ x ∈ (s.core core).gangs, x.2.team = t → x.1 = slot := by
  rw [State.withoutGang_gangs, List.any_eq_false]
  simp only [Table.del, List.mem_filter, bne_iff_ne, beq_iff_eq, and_imp]
  constructor
  · exact fun h x hx ht => Classical.byContradiction fun hne => h x hx hne ht
  · exact fun h x hx hne ht => hne (h x hx ht)

end

theorem State.dropGang_gang? {s : State} {core slot : Nat} {g : Gang} (hg : s.gang? core slot = some g) (j : Nat) :
    (s.dropGang core slot).gang? core j = if j = slot then none else s.gang? core j := by
  rw [State.dropGang_eq hg, State.gang?_releaseTeam, State.gang?_withoutGang]

section
variable {s : State} {core slot : Nat} {g : Gang} (hg : s.gang? core slot = some g)
include hg

theorem State.dropGang_team?_of_others (h : ¬ ∀ x ∈ (s.core core).gangs, x.2.team = g.team → x.1 = slot) :
    (s.dropGang core slot).team? core g.team = s.team? core g.team := by
  have hany := mt (s.withoutGang_any core slot g.team).1 h
  rw [State.dropGang_eq hg, State.releaseTeam_of_gang _ _ _ (by simpa using hany), State.team?_withoutGang]

theorem State.dropGang_team?_of_last (h : ∀ x ∈ (s.core core).gangs, x.2.team = g.team → x.1 = slot)
    (h0 : (s.cluster (clusterOf core)).leat0.holds g.team = false)
    (h1 : (s.cluster (clusterOf core)).leat1.holds g.team = false) : (s.dropGang core slot).team? core g.team = none := by
  rw [State.dropGang_eq hg]
  exact State.team?_releaseTeam_of_last _ _ _ ((s.withoutGang_any core slot g.team).2 h) h0 h1

end

/-! ### The statement, part by part -/

theorem admitTeam_places {s : State} {grid : Nat} {g : Grid} (hg : s.grid? grid = some g) (core : Nat) (at_ : Nat × Nat) :
    let t := s.admitTeam grid core at_
    let slots := (s.core core).freeSlots.take g.kd.ngang
    (t.team? core s.next).isSome = true ∧
    (∀ n slot, slots[n]? = some slot → s.gang? core slot = none ∧ ∃ id y,
      y = launchGang s.next n g.kd.width g.kd.acc s.next (launchSub id g.kd.width g.kd.entry g.args) ∧
      t.gang? core slot = some (y.haltedAs (s.core core).coreHalt)) ∧
    (∀ slot, slot ∉ slots → t.gang? core slot = s.gang? core slot) ∧
    t.grid? grid = some { g with
      nextTeam := g.nextTeam + 1, unretired := g.unretired ++ [(s.next, false)], eff := g.prio, passes := 0 } := by
  intro t slots
  obtain ⟨hput, hrest⟩ := s.launchGangs_gang? core g
  refine ⟨State.admitTeam_team? hg core at_, fun n slot hn => ⟨?_, ?_⟩, fun slot hn => ?_, State.admitTeam_grid? hg core at_⟩
  · exact State.gang?_of_freeSlot (List.mem_of_mem_take (List.mem_of_getElem? hn))
  · obtain ⟨id, hid⟩ := hput n slot hn
    exact ⟨id, _, rfl, (State.admitTeam_gang? hg core at_ slot).trans hid⟩
  · exact (State.admitTeam_gang? hg core at_ slot).trans (hrest slot hn)

theorem launchSub_starts (id width entry : Nat) (args : List Word) :
    let b := launchSub id width entry args
    b.pc = BitVec.ofNat 64 entry ∧ b.turn = 0 ∧ b.wb = 0 ∧ b.handler = none ∧
      (∀ i, i < 128 → (b.fibres.getLsbD i = true ↔ i < width)) ∧
      ∀ n, n < 64 → nth b.sregs n 0 = if n < 12 then nth args n 0 else 0 :=
  ⟨rfl, rfl, rfl, rfl, fun i hi => by rw [launchSub, Lanes.getLsbD_below width hi, decide_eq_true_eq],
    fun _ hn => nth_launchSregs args hn⟩

theorem launchGang_accLim (team number width rows order : Nat) (b : SubGang) :
    (launchGang team number width rows order b).accLim = if number = 0 then rows else 0 := by
  simp [launchGang]

theorem saveTeam_leaves {s : State} {pid : Nat} {p : Partition} (hp : s.part? pid = some p) (core team n : Nat) (f : Frame) :
    let t := s.saveTeam pid core team n f
    (∃ q, t.part? pid = some q ∧ Table.get? q.frames n = some f) ∧ t.team? core team = none ∧
    (∀ x ∈ (t.core core).gangs, x.2.team ≠ team) ∧
    ∀ slot g, s.gang? core slot = some g → g.team ≠ team → t.gang? core slot = some g := by
  refine ⟨s.saveTeam_frame core team n f hp, s.saveTeam_team? core team n f, fun x hx => ?_, fun slot g hg ht => ?_⟩
  · rw [State.saveTeam_gangs] at hx
    simpa using (List.mem_filter.1 hx).2
  · rw [State.gang?, State.saveTeam_gangs]
    exact Table.get?_filter (fun y : Gang => y.team != team) hg (by simpa using ht)

theorem Gang.restore_keeps (g : Gang) : g.restore.restored = true ∧ g.restore.pending = g.reissuedList ∧
    { g.restore with restored := g.restored, slots := g.slots, counters := g.counters, pending := g.pending,
                     subs := g.subs } = g ∧
    ((∀ b ∈ g.subs, b.regPark? = none) → g.restore.slots = g.slots) ∧
    ((∀ p ∈ g.pending, p.counted = true) → g.restore.counters = g.counters) := by
  obtain ⟨sl, ks, h, hsl, hks⟩ := g.restore_changes
  generalize g.restore.subs = bs at h
  rw [h]
  exact ⟨rfl, rfl, rfl, hsl, hks⟩

/-- Settles O50: admission, saving, restoring and retirement, each from the lemmas of its operations. -/
theorem teamsComeAndGo : Obligations.TeamsComeAndGo :=
  ⟨fun _ _ _ _ _ hg hp he hn hnext => ⟨fun _ hpin ht hk => teamAdmit_next hg hp he hn hnext hpin ht hk,
      fun hpin ht => teamAdmit_pinned hg hp he hn hnext hpin ht⟩,
    fun _ _ core at_ _ hg => admitTeam_places hg core at_,
    fun _ width _ _ _ id entry args => ⟨rfl, rfl, launchGang_counter _ _ _ _ _ _, rfl, rfl, rfl,
      launchGang_accLim _ _ _ _ _ _, _, rfl, launchSub_starts id width entry args⟩,
    fun _ _ _ _ _ _ _ _ ht hg hp hk hs hprs hwhy => teamEvict_saves ht hg hp hk hs hprs hwhy,
    fun _ _ core team n f _ hp => saveTeam_leaves hp core team n f,
    fun _ _ _ _ _ => ⟨rfl, rfl⟩,
    fun _ _ _ _ _ _ ht hg hp hprs hy => teamEvict_closes_gate ht hg hp hprs hy,
    fun _ _ _ _ _ _ _ _ hp hf hr hw ht ha hb => teamRestore_next hp hf hr hw ht ha hb,
    fun s pid n core _ f at_ hp => ⟨s.restoreTeam_team? pid n core f at_, s.restoreTeam_frame pid n core f at_ hp,
      fun _ slot _ hs hg => (s.restoreTeam_gang? pid n core f at_ slot).trans (s.restoreGangs_gang? core f hs hg)⟩,
    Gang.restore_keeps,
    fun _ _ _ _ hg hs hh hc hp => gangRetire_next hg hs hh hc hp,
    fun _ _ _ _ hg => ⟨(State.dropGang_gang? hg _).trans (if_pos rfl),
      fun _ hn => (State.dropGang_gang? hg _).trans (if_neg hn), fun h => State.dropGang_team?_of_others hg h,
      fun h h0 h1 => State.dropGang_team?_of_last hg h h0 h1⟩⟩

end Sys2Proof.Machine

/-! PROOFS. Words and instructions (R52 to R66): what a layout reads from a word packs to that word, and every row of the opcode
map decodes the words that it encodes, and no other. -/

namespace Sys2Proof

/-! ### From a word to its instruction and back -/

/-- The layouts of R52 to R57 and R66: how the fields of a word are read, and how they are packed under an OP byte. -/
inductive Layout : {F : Type} → (DWord → Option F) → (BitVec 8 → F → DWord) → Prop
  | r : Layout rForm packR
  | typed : Layout typedForm fun op x => packTyped op x.1 x.2
  | e : Layout eForm packE
  | y : Layout yForm packY
  | i : Layout iForm packI
  | m : Layout mForm packM
  | x : Layout xForm packX
  | c : Layout cForm packC

theorem Layout.pack_read {F : Type} {read : DWord → Option F} {pack : BitVec 8 → F → DWord} (h : Layout read pack)
    {w : DWord} {f : F} (hf : read w = some f) : pack (w.extractLsb' 56 8) f = w := by
  cases h with
  | r => exact packR_rForm hf
  | typed => exact packTyped_typedForm hf
  | e => exact packE_eForm hf
  | y => exact packY_yForm hf
  | i => exact packI_iForm hf
  | m => exact packM_mForm hf
  | x => exact packX_xForm hf
  | c => exact packC_cForm hf

/-- An instruction that a row of the opcode map reads from a word is encoded as that word, where the row's instructions are
packed in its layout under its OP byte. -/
theorem Layout.encode_of_read {F : Type} {read : DWord → Option F} {pack : BitVec 8 → F → DWord} (h : Layout read pack)
    {w : DWord} {i : Instr} {op : Nat} {mk : F → Instr} (hop : (w.extractLsb' 56 8).toNat = op)
    (hmk : ∀ f, encode (mk f) = some (pack (BitVec.ofNat 8 op) f)) (hi : some ((read w).map mk) = some (some i)) :
    encode i = some w := by
  obtain ⟨f, hf, rfl⟩ := Option.map_eq_some_iff.1 (Option.some.inj hi)
  rw [hmk, ← hop, BitVec.ofNat_toNat, BitVec.setWidth_eq, h.pack_read hf]

/-! One branch for each row of the opcode map. A row that stands for several instructions packs them all alike. -/

theorem encode_of_controlOf {op : Nat} {w : DWord} {i : Instr} (hop : (w.extractLsb' 56 8).toNat = op)
    (hi : instrOf.controlOf op w = some (some i)) : encode i = some w := by
  unfold instrOf.controlOf at hi
  split at hi
  -- Row 0x0D: PSET alone reads its fields by a form of its own (R125).
  case h_14 => exact encode_psetForm (BitVec.eq_of_toNat_eq hop) (Option.some.inj hi)
  case h_30 => cases hi -- an OP byte that is not assigned
  all_goals refine Layout.encode_of_read (by constructor) hop (fun f => ?_) hi; (repeat' split) <;> rfl

theorem encode_of_vectorOf {op : Nat} {w : DWord} {i : Instr} (hop : (w.extractLsb' 56 8).toNat = op)
    (hi : instrOf.vectorOf op w = some (some i)) : encode i = some w := by
  unfold instrOf.vectorOf at hi
  split at hi
  case h_55 => cases hi -- an OP byte that is not assigned
  all_goals exact Layout.encode_of_read (by constructor) hop (fun _ => rfl) hi

theorem encode_of_otherOf {op : Nat} {w : DWord} {i : Instr} (hop : (w.extractLsb' 56 8).toNat = op)
    (hi : instrOf.otherOf op w = some (some i)) : encode i = some w := by
  unfold instrOf.otherOf at hi
  split at hi
  case h_52 => cases hi -- an OP byte that is not assigned
  all_goals refine Layout.encode_of_read (by constructor) hop (fun f => ?_) hi; (repeat' split) <;> rfl

/-- What the opcode map reads from a word, before the field rules, is encoded as that word. -/
theorem encode_of_instrOf {w : DWord} {i : Instr} (hi : instrOf (w.extractLsb' 56 8).toNat w = some (some i)) :
    encode i = some w := by
  unfold instrOf at hi
  split at hi
  · exact encode_of_controlOf rfl hi
  · split at hi
    · exact encode_of_vectorOf rfl hi
    · exact encode_of_otherOf rfl hi

theorem decode_ok {w : DWord} {i : Instr} (h : decode w = .ok i) :
    instrOf (w.extractLsb' 56 8).toNat w = some (some i) ∧ WellFormed i = true := by
  simp only [decode] at h
  split at h
  · cases h
  · split at h
    · cases h
    · cases h
    · split at h
      · rename_i hi hw
        cases h
        exact ⟨hi, hw⟩
      · cases h

/-! ### From an instruction to its word and back -/

theorem encode_eq_none_iff_isEvent (i : Instr) : encode i = none ↔ isEvent i = true := by
  cases i <;> simp [encode, isEvent]

/-- A word that a layout packs decodes to the instruction that the row of its OP byte makes of the fields. -/
theorem decode_pack {F : Type} {read : DWord → Option F} {pack : BitVec 8 → F → DWord} {op : BitVec 8} {f : F} {i : Instr}
    {mk : F → Instr} (hop : (pack op f).extractLsb' 56 8 = op) (hf : read (pack op f) = some f) (hlt : op.toNat < 0xFC)
    (hrow : instrOf op.toNat (pack op f) = some ((read (pack op f)).map mk)) (hi : mk f = i) (hw : WellFormed i = true) :
    decode (pack op f) = .ok i :=
  decode_of hop hlt (by rw [hrow, hf, Option.map_some, hi]) hw

theorem Role.allows_unused (t : Ty) (o : Opd) : Role.unused.allows t o = true ↔ o = .none := by
  cases o <;> simp [Role.allows]

/-- VCVT and ACCOUT, whose C field holds a type, so that they have no operand there (R66, R249). -/
theorem decode_packTyped {op : BitVec 8} {src : Ty} {f : RForm} {mk : Ty → RForm → Instr} (hlt : op.toNat < 0xFC)
    (hrow : instrOf op.toNat (packTyped op src f) = some ((typedForm (packTyped op src f)).map fun x => mk x.1 x.2))
    (hc : f.c = .none) (hw : WellFormed (mk src f) = true) : decode (packTyped op src f) = .ok (mk src f) := by
  refine decode_of (op_packTyped op src f) hlt ?_ hw
  rw [hrow, typedForm_packTyped, ← hc]
  rfl

theorem decode_of_encode {i : Instr} {w : DWord} (hw : WellFormed i = true) (h : encode i = some w) : decode w = .ok i := by
  cases i with
  | nop f | br f | brc f | brx f | lpad f | call f | callx f | ret f | spawn f | endFibre f | yield f | trap f | bkpt f
  | firmcall f =>
    cases h; exact decode_pack (op_packC _ f) (cForm_packC _ f) (by decide) rfl rfl hw
  | smov f | sadd f | ssub f | smul f | sand f | sor f | sxor f | sshl f | sshr f | ssar f | scmp f | ssel f | vadd f
  | vaddc f | vsub f | vmul f | vmad f | vmin f | vmax f | vand f | vor f | vxor f | vnot f | vshl f | vshr f | vsar f
  | vpopc f | vclz f | vctz f | vbfe f | vbfi f | vcmp f | vsel f | vmov f | vfadd f | vfsub f | vfmul f | vfma f
  | vfmin f | vfmax f | vfcmp f | vfclass f | vrcp f | vrsq f | vsqrt f | vdiv f | vexp2 f | vlog2 f | vsinpi f
  | vcospi f | vfract f | vfrnd f | vldexp f | vfrexp f | vpack f | vunpack f | vcamrel f | vshuf f | vswz f | vbcast f
  | vvote f | vred f | vscan f | vexpand f =>
    cases h; exact decode_pack (op_packR _ f) (rForm_packR _ f) (by decide) rfl rfl hw
  | vfree f | acczero f | accld f | accst f | accwin f | cbload f | cbvalid f | spur f | spuracc f | cpy f | cpystat f
  | barinit f | bara f | barw f | baraw f | rangeset f | take f | qpush f | qpop f | amplify f | launch f | prim f
  | occq f | rayq f | raywait f | txreq f | txwait f | txfill f | txframe f | attrset f | tlbshoot f =>
    cases h; exact decode_pack (op_packE _ f) (eForm_packE _ f) (by decide) rfl rfl hw
  | ld f | st f | sld f | lds f | sts f | atom f | atoms f | fence f | pref f | fec f | woreset f =>
    cases h; exact decode_pack (op_packM _ f) (mForm_packM _ f) (by decide) rfl rfl hw
  | srd f | sysrd f | syswr f =>
    cases h; exact decode_pack (op_packY _ f) (yForm_packY _ f) (by decide) rfl rfl hw
  | smovi f | vmovi f =>
    cases h; exact decode_pack (op_packI _ f) (iForm_packI _ f) (by decide) rfl rfl hw
  | mma f =>
    cases h; exact decode_pack (op_packX _ f) (xForm_packX _ f) (by decide) rfl rfl hw
  | vcvt src f =>
    cases h
    exact decode_packTyped (by decide) (mk := .vcvt) rfl
      (by simp_all [WellFormed, fieldsOk, RForm.shape, Role.allows_unused]) hw
  | accout src f =>
    cases h
    exact decode_packTyped (by decide) (mk := .accout) rfl (by simp_all [WellFormed, fieldsOk, accoutOk, isNone]) hw
  | pset d a b tt g =>
    cases h; exact decode_of (op_packPset d a b tt g) (by decide) (congrArg some (psetForm_packPset d a b tt g)) hw
  -- Rows that stand for several instructions: the field rules leave the one whose variant the word names.
  | pmovGet f | pmovSet f =>
    cases h
    exact decode_pack (op_packR _ f) (rForm_packR _ f) (by decide) rfl (by simp_all [WellFormed, fieldsOk]) hw
  | eret f | eretSkip f =>
    cases h
    exact decode_pack (op_packC _ f) (cForm_packC _ f) (by decide) rfl (by simp_all [WellFormed, fieldsOk]) hw
  | txinvKey f | txinvInfl f | txpinSet f | txpinClr f | cacheopWb f | cacheopInv f | cacheopDiscard f
  | cacheopIinv f | cacheopClrlost f =>
    cases h
    exact decode_pack (op_packE _ f) (eForm_packE _ f) (by decide) rfl (by simp_all [WellFormed, fieldsOk, cacheopOk]) hw
  -- An event has no word.
  | _ => cases h

/-- Settles O4: from an instruction by its constructor, from a word by its row of the opcode map. -/
theorem decodeEncode : Obligations.DecodeEncode :=
  ⟨fun _ _ hw h => decode_of_encode hw h,
    fun _ _ h => ⟨encode_of_instrOf (decode_ok h).1, (decode_ok h).2⟩, encode_eq_none_iff_isEvent⟩

/-- Settles O3: each word decoded. -/
theorem manualWordsDecode : Obligations.ManualWordsDecode :=
  ⟨rfl, rfl, rfl, rfl, rfl, rfl, rfl, rfl, rfl⟩

end Sys2Proof

/-! PROOFS. Turns of the agenda and the words of a pipe (R17, R43, R46), and privilege (R43, R388, R389). -/

namespace Sys2Proof.Machine

/-! ### Steps -/

theorem runPipe_decoded {s : State} {c : Issuer} {i : Instr} (hc : s.issuer = some c) (hi : decode c.word = .ok i) :
    runPipe s = exec i s := by
  simp only [runPipe, hc, Issuer.fetched, hi]

theorem runPipe_undecodable {s : State} {c : Issuer} {code : Code} (hc : s.issuer = some c)
    (hi : decode c.word = .error code) : runPipe s = .next (s.decodeFault c code) := by
  simp only [runPipe, hc, Issuer.fetched, hi]

theorem step_of_no_agenda {s : State} (h : s.agenda = []) : step s = runPipe s := by
  simp only [step, h]

theorem step_of_pipe_turn {s : State} {k p : Nat} {rest : List Turn} (h : s.agenda = .pipe k p :: rest) :
    step s = runPipe { s with agenda := rest, cur := (k, p) } := by
  simp only [step, h]

theorem step_of_event_turn {s : State} {e : Instr} {rest : List Turn} (h : s.agenda = .event e :: rest)
    (he : isEvent e = true) : step s = exec e { s with agenda := rest } := by
  simp only [step, h, he, if_true]

/-- A word placed at reset is the one that the gang launched for it issues (log entry 2). -/
theorem issuer_withFetchWord_reset (n w : Nat) :
    ∃ c, (State.reset.withFetchWord n w).issuer = some c ∧ c.word = BitVec.ofNat 64 w := ⟨_, rfl, rfl⟩

/-- Settles O1: each kind of turn runs the pipe or the event, and the pipe runs what its word decodes to. -/
theorem stepRunsDecodedInstruction : Obligations.StepRunsDecodedInstruction := by
  refine ⟨fun s c i ha hc hi => ?_, fun s k p rest c i ha hc hi => ?_, fun s e rest ha he => step_of_event_turn ha he,
    fun n w i hi => ?_⟩
  · rw [step_of_no_agenda ha, runPipe_decoded hc hi]
  · exact (step_of_pipe_turn ha).trans (runPipe_decoded hc hi)
  · obtain ⟨c, hc, hw⟩ := issuer_withFetchWord_reset n w
    rw [step_of_no_agenda rfl, runPipe_decoded hc (hw ▸ hi)]

/-- Settles O2: on both paths the pipe stops at the word with `State.decodeFault`. -/
theorem undecodableWordFaults : Obligations.UndecodableWordFaults := by
  intro s c code hw
  refine ⟨fun ha hc => ?_, fun k p rest ha hc => ?_⟩
  · exact (step_of_no_agenda ha).trans (runPipe_undecodable hc hw)
  · exact (step_of_pipe_turn ha).trans (runPipe_undecodable hc hw)

/-! ### Privilege (R43, R388, R389) -/

theorem Issuer.checkPriv_error {c : Issuer} (h : c.grid.sys = false) :
    c.checkPriv = .error (.fault (c.record .priv c.sub.fibres 0 0)) := by
  simp [Issuer.checkPriv, h]

/-- Outside system context an instruction that checks for it first stops with PRIV, whatever it does next (R389). -/
theorem runInstr_checkPriv {s : State} {c : Issuer} (hc : s.issuer = some c) (hs : c.grid.sys = false)
    (k : Issuer → Except Stop State) :
    runInstr s (fun c => do c.checkPriv; k c) = .next (s.faultHere c (c.record .priv c.sub.fibres 0 0)) :=
  runInstr_error hc (e := .fault (c.record .priv c.sub.fibres 0 0)) (by rw [Issuer.checkPriv_error hs]; rfl)

theorem eret_priv {s : State} {c : Issuer} (hc : s.issuer = some c) (hh : c.sub.allHandler = false)
    (dest : Handler → DWord × Option (DWord × BitVec 56) × Bool) (k : Handler → Nat → Gang → Gang) :
    eret s dest k = .next (s.faultHere c (c.record .priv c.sub.fibres 0 0)) :=
  runInstr_error hc (e := .fault (c.record .priv c.sub.fibres 0 0)) (by rw [hh]; rfl)

/-- The static checks refuse a privileged OP byte outside system context (R43 step 5, R65). -/
theorem wordFault_priv (g : Gang) (b : SubGang) (t : Team) {gr : Grid} (cls count i : Nat) {w : DWord} (hs : gr.sys = false)
    (hlt : opByte w < 0xFC) (ha : opAssigned (opByte w) = true) (hp : opPriv (opByte w) = true) :
    wordFault g b t gr cls count i w = some .priv := by
  simp [wordFault, Nat.not_le.2 hlt, ha, hp, hs]

/-- Settles O53: PRIV is the first check of every such instruction, and of the five OP bytes before decoding. -/
theorem privilegedInstructionsFault : Obligations.PrivilegedInstructionsFault := by
  refine ⟨fun s c hc hs i hi => ?_, fun s c f hc hh => ⟨eret_priv hc hh _ _, eret_priv hc hh _ _⟩,
    fun g b t gr cls count i w hs hw => ?_⟩
  · rcases hi with ⟨f, rfl⟩ | ⟨f, rfl⟩ | ⟨f, rfl⟩ | ⟨f, rfl⟩ | ⟨f, rfl⟩ | ⟨f, rfl⟩ | ⟨f, rfl⟩ | ⟨f, rfl⟩ | ⟨f, rfl⟩ <;>
      exact runInstr_checkPriv hc hs _
  · have key : ∀ n ∈ [0xE0, 0xE1, 0xE3, 0xE4, 0xE5], n < 0xFC ∧ opAssigned n = true ∧ opPriv n = true := by decide
    obtain ⟨hlt, ha, hp⟩ := key _ hw
    exact wordFault_priv g b t cls count i hs hlt ha hp

end Sys2Proof.Machine

/-! PROOFS. Where a clause goes after an instruction has committed (R41, R49), and a boundary at which nothing waits. -/

namespace Sys2Proof.Machine

/-! ### What a clause boundary changes where nothing waits for it (R36, R37, R386) -/

theorem State.debugRequest_of_none (s : State) (c g : Nat) {x : Gang} (t : Team) (h : x.dbg.request = none) :
    s.debugRequest c g x t = s := by
  simp only [State.debugRequest, h]

theorem Gang.broken_eq_nil (g : Gang) {k : Core} (halts : Bool) (h : ∀ x ∈ k.bkaddr, x.enable = false) :
    g.broken k halts = [] := by
  have : ∀ pc, k.breakAt pc = false := fun pc => by
    simp only [Core.breakAt, List.any_eq_false]
    exact fun x hx => by simp [h x hx]
  simp [Gang.broken, this]

theorem State.breakpoint_of_none_enabled (s : State) (c g : Nat) (h : ∀ x ∈ (s.core c).bkaddr, x.enable = false) :
    s.breakpoint c g = s := by
  unfold State.breakpoint
  split
  · rfl
  · simp only [Gang.broken_eq_nil _ _ h]
    rfl

theorem State.boundary_quiet {s : State} {c g : Nat} {x : Gang} {t : Team} (hx : s.gang? c g = some x)
    (ht : s.team? c x.team = some t) (hk : t.killed = false) (hs : x.dbg.stepping = none) (hr : x.dbg.request = none)
    (hh : (s.core c).coreHalt = false) (hb : ∀ y ∈ (s.core c).bkaddr, y.enable = false) (sub : Nat) :
    s.boundary c g sub = s := by
  simp [State.boundary, hx, ht, hk, hs, hh, State.debugRequest_of_none s c g t hr, s.breakpoint_of_none_enabled c g hb]

/-! ### Where a clause goes on (R41, R49) -/

@[simp] theorem State.core_next (s : State) (n c : Nat) : ({ s with next := n } : State).core c = s.core c := rfl
@[simp] theorem State.team?_next (s : State) (n c t : Nat) : ({ s with next := n } : State).team? c t = s.team? c t := rfl

@[simp] theorem State.team?_setPipe (s : State) (c p : Nat) (cl : Option Clause) (d t : Nat) :
    (s.modCore c fun k => k.setPipe p cl).team? d t = s.team? d t := by
  by_cases h : d = c
  · subst h; simp [State.team?]
  · simp [State.team?, State.core_modCore_ne s h]

@[simp] theorem Core.setPipe_coreHalt (k : Core) (p : Nat) (cl : Option Clause) : (k.setPipe p cl).coreHalt = k.coreHalt := by
  unfold Core.setPipe; split <;> rfl

@[simp] theorem Core.setPipe_bkaddr (k : Core) (p : Nat) (cl : Option Clause) : (k.setPipe p cl).bkaddr = k.bkaddr := by
  unfold Core.setPipe; split <;> rfl

/-- Some of a sub-gang's fibres, each in its own context, stand where the sub-gang stands. -/
theorem SubGang.restrict_changes (b : SubGang) (m : Lanes) :
    ∃ h o, b.restrict m = { b with fibres := m, handler := h, others := o } := by
  unfold SubGang.restrict
  dsimp only
  split
  · exact ⟨_, _, rfl⟩
  · exact ⟨_, _, rfl⟩

theorem State.issuerAt_of_issuer {s : State} {c : Issuer} (h : s.issuer = some c) : s.issuerAt c.core c.pipe = some c := by
  obtain ⟨hcur, -⟩ := State.issuer_spec h
  simpa [State.issuer, hcur] using h

/-- The sub-gang at the end of its clause (R41, R49). -/
def Issuer.fallen (c : Issuer) : SubGang :=
  { c.sub.restrict c.sub.fibres with
    pc := c.clauseEnd
    inClause := none
    park := if headerPark c.clause.header then .parkBit else c.sub.park }

/-- What the fall-through of a clause leaves before its boundary. -/
def State.fallen (s : State) (c : Issuer) : State :=
  (({ s with next := s.next + 1 } : State).modCore c.core fun k => k.setPipe c.pipe none).modGang c.core c.slot
    fun g => g.replaceSub c.sub.id [c.fallen]

theorem State.fallThrough_eq (s : State) (c : Issuer) :
    s.fallThrough c = (s.fallen c).boundary c.core c.slot c.sub.id := by
  obtain ⟨h, o, hr⟩ := c.sub.restrict_changes c.sub.fibres
  simp only [State.fallThrough, State.endClause, State.fallen, splitSub, SubGang.moved, Issuer.fallen, hr]
  split <;> rfl

theorem State.fallen_boundary {s : State} {c : Issuer} (hc : s.issuer = some c) (hk : c.team.killed = false)
    (hs : c.gang.dbg.stepping = none) (hr : c.gang.dbg.request = none) (hh : (s.core c.core).coreHalt = false)
    (hb : ∀ x ∈ (s.core c.core).bkaddr, x.enable = false) :
    (s.fallen c).boundary c.core c.slot c.sub.id = s.fallen c := by
  obtain ⟨-, -, hg, -, ht, -⟩ := State.issuer_spec hc
  refine State.boundary_quiet (x := c.gang.replaceSub c.sub.id [c.fallen]) (t := c.team) ?_ ?_ hk hs hr ?_ ?_ _
  · simpa [State.fallen] using ⟨c.gang, hg, rfl⟩
  · simpa [State.fallen, Gang.replaceSub] using ht
  · simpa [State.fallen] using hh
  · simpa [State.fallen] using hb

/-- Settles O9: a clause's last word falls through, and the boundary after it changes nothing. -/
theorem clauseGoesOn : Obligations.ClauseGoesOn := by
  intro s c hc
  refine ⟨fun h => if_pos h, fun h hk hs hr hh hb => ?_⟩
  calc s.advance c = s.fallThrough c := by
        simp only [State.advance, if_neg h, State.issuerAt_of_issuer hc]
    _ = s.fallen c := by rw [s.fallThrough_eq c, State.fallen_boundary hc hk hs hr hh hb]

end Sys2Proof.Machine

/-! PROOFS. The issue of a long-class instruction and the arrival of its result (R46, R97, R121, R164, R193), and the special
functions (R90, R150). -/

namespace Sys2Proof.Machine

/-! ### Slots and counters -/

/-- Updates that touch only slots leave the rest of a gang. -/
theorem Gang.foldl_slots {β : Type} (f : Gang → β → Gang) (hf : ∀ g b sl, { f g b with slots := sl } = { g with slots := sl })
    (l : List β) (g : Gang) : l.foldl f g = { g with slots := (l.foldl f g).slots } :=
  congrArg (fun x : Gang => { x with slots := (l.foldl f g).slots })
    (foldl_keeps (fun x : Gang => { x with slots := g.slots }) f (fun x b => hf x b g.slots) l g)

theorem Gang.slotWord_writeSlots (l : List Nat) (g : Gang) (j : Nat) {lane : Nat} (h : lane < g.width) :
    (l.foldl (fun (g : Gang) d => g.writeSlot d []) g).slotWord j lane = g.slotWord j lane := by
  induction l generalizing g with
  | nil => rfl
  | cons d l ih =>
    rw [List.foldl_cons, ih _ (by exact h), Gang.slotWord_writeSlot _ _ _ _ h]
    simp [laneWord]

/-- A slot that was written, or that is written even in no lane, is written (R163). -/
theorem Gang.writeSlots_written (l : List Nat) (g : Gang) {j : Nat} (h : (Table.get? g.slots j).isSome = true ∨ j ∈ l) :
    (Table.get? (l.foldl (fun (g : Gang) d => g.writeSlot d []) g).slots j).isSome = true := by
  induction l generalizing g with
  | nil => simpa using h
  | cons d l ih =>
    refine ih _ ?_
    simp only [Gang.writeSlot, Table.get?_put]
    by_cases e : j = d
    · simp [e]
    · simpa [e] using h

theorem ctrIndex_lt (k : Ctr) : ctrIndex k < 6 := by cases k <;> decide

theorem ctrIndex_inj {j k : Ctr} : ctrIndex j = ctrIndex k ↔ j = k := by
  cases j <;> cases k <;> decide

theorem Gang.counter_addCounter (g : Gang) (k j : Ctr) (up : Bool) : (g.addCounter k up).counter j =
    if j = k then (if up then g.counter j + 1 else g.counter j - 1) else g.counter j := by
  simp only [Gang.addCounter, Gang.counter, nth_setAt _ _ _ _ _ (ctrIndex_lt j), ctrIndex_inj]
  by_cases h : j = k <;> simp [h]

/-! ### The issue of a long-class instruction (R46, R164) -/

/-- The entry of an instruction that issues, before it is completed. -/
def Issuer.entry (c : Issuer) (k : Ctr) (vdst sdst : List Nat) (pdst : Option Nat) (lanes : Lanes) (id : Nat) : Pending :=
  { id := id, ctr := k, word := c.word, pc := c.pc, sub := c.sub.id, lanes := lanes, live := lanes,
    vdst := vdst.map c.slotOf, sdst := sdst, pdst := pdst, addrs := [], data := [], got := [], firm := [], done := [],
    fails := [], passed := false, sent := true, st := .pending, out := Out.none, op := .result }

/-- The gang with the slots of an issue released and allocated. -/
def Issuer.allocated (c : Issuer) (rel vdst : List Nat) (g : Gang) : Gang :=
  (vdst.map c.slotOf).foldl (fun (g : Gang) d => g.writeSlot d []) (rel.foldl (fun (g : Gang) v => g.release (c.slotOf v)) g)

/-- The gang after an issue whose entry is `e`. -/
def Issuer.issued (c : Issuer) (k : Ctr) (rel vdst : List Nat) (e : Pending) (g : Gang) : Gang :=
  { (c.allocated rel vdst g).addCounter k true with pending := (c.allocated rel vdst g).pending ++ [e] }

section
variable (c : Issuer) (k : Ctr) (rel vdst : List Nat) (e : Pending) (g : Gang)

theorem State.issue_eq (s : State) (sdst : List Nat) (pdst : Option Nat) (lanes : Lanes) (mk : Pending → Pending) :
    s.issue c k rel vdst sdst pdst lanes mk = ({ s with next := s.next + 1 } : State).modGang c.core c.slot
      (c.issued k rel vdst (mk (c.entry k vdst sdst pdst lanes s.next))) := rfl

theorem Issuer.allocated_eq : c.allocated rel vdst g = { g with slots := (c.allocated rel vdst g).slots } :=
  (Gang.foldl_slots (fun (g : Gang) d => g.writeSlot d []) (fun _ _ _ => rfl) (vdst.map c.slotOf) _).trans
    (congrArg (fun x : Gang => { x with slots := (c.allocated rel vdst g).slots })
      (Gang.foldl_slots (fun (g : Gang) v => g.release (c.slotOf v)) (fun _ _ _ => rfl) rel g))

theorem Issuer.issued_eq : c.issued k rel vdst e g =
    { g with
      slots := (c.allocated rel vdst g).slots
      counters := (g.addCounter k true).counters
      pending := g.pending ++ [e] } := by
  have h := c.allocated_eq rel vdst g
  generalize (c.allocated rel vdst g).slots = sl at h
  simp only [Issuer.issued, h]
  rfl

theorem Issuer.slotWord_issued (slot : Nat) {lane : Nat} (h : lane < g.width) :
    (c.issued k rel vdst e g).slotWord slot lane = if ∃ v ∈ rel, c.slotOf v = slot then 0 else g.slotWord slot lane := by
  have hr := Gang.foldl_slots (fun (g : Gang) v => g.release (c.slotOf v)) (fun _ _ _ => rfl) rel g
  have hw : (rel.foldl (fun (g : Gang) v => g.release (c.slotOf v)) g).width = g.width := by rw [hr]
  calc (c.issued k rel vdst e g).slotWord slot lane = (c.allocated rel vdst g).slotWord slot lane := rfl
    _ = (rel.foldl (fun (g : Gang) v => g.release (c.slotOf v)) g).slotWord slot lane :=
        Gang.slotWord_writeSlots _ _ _ (hw ▸ h)
    _ = _ := Gang.slotWord_releases c rel g slot lane

theorem Issuer.issued_written {v : Nat} (hv : v ∈ vdst) :
    (Table.get? (c.issued k rel vdst e g).slots (c.slotOf v)).isSome = true :=
  Gang.writeSlots_written _ _ (.inr (List.mem_map_of_mem hv))

end

/-- Settles O11: an issue is one update of the gang, `Issuer.issued`. -/
theorem issueChangesOnly : Obligations.IssueChangesOnly := by
  intro s c k rel vdst sdst pdst lanes mk hc
  obtain ⟨-, -, hg, -⟩ := State.issuer_spec hc
  let p := c.entry k vdst sdst pdst lanes s.next
  refine ⟨c.issued k rel vdst (mk p) c.gang, p, ?_, rfl, ?_, ?_, ?_, ?_, rfl, rfl, rfl, rfl, rfl, rfl, rfl, rfl, rfl, rfl,
    fun j => ?_, fun slot lane h => c.slotWord_issued k rel vdst _ c.gang slot h,
    fun v hv => c.issued_written k rel vdst _ c.gang hv⟩
  · rw [State.issue_eq, State.gang?_modGang_self, State.gang?_next, hg, Option.map_some]
  · exact (onlyGang_next _ _ _ _ _).trans (onlyGang_modGang _ _ _ _ _)
  · rw [State.issue_eq, State.team?_modGang]
    rfl
  · rw [Issuer.issued_eq]
  · rw [Issuer.issued_eq]
  · rw [Issuer.issued_eq]
    exact c.gang.counter_addCounter k j true

/-! ### The arrival of a result (R46, R97, R121, R193) -/

/-- The sub-gang of an entry's gang after its result has arrived. -/
def SubGang.arrived (b : SubGang) (p : Pending) (o : Out) : SubGang :=
  { (if p.sub ∈ b.anc then b.setSregs o.sregs else b) with waits := b.waits.filter fun w => w != p.id }

/-- The gang with the words of an entry's result written in the lanes whose fibres live. -/
def Gang.withWords (g : Gang) (p : Pending) (o : Out) : Gang :=
  o.vregs.foldl (fun (g : Gang) w => g.writeSlot w.1 (w.2.filter fun y => p.live.getLsbD y.1)) g

/-- The gang with the predicate of an entry's result written in the lanes whose fibres live. -/
def Gang.withPred (g : Gang) (p : Pending) (o : Out) : Gang :=
  (o.pred.map fun x => g.writePred x.1 p.live x.2).getD g

section
variable (g : Gang) (p : Pending) (o : Out)

theorem Gang.withWords_eq : g.withWords p o = { g with slots := (g.withWords p o).slots } :=
  Gang.foldl_slots (fun (g : Gang) (w : Nat × List (Nat × Word)) => g.writeSlot w.1 (w.2.filter fun y => p.live.getLsbD y.1))
    (fun _ _ _ => rfl) o.vregs g

theorem Gang.deliver_eq : g.deliver p o =
    { g with
      slots := (g.withWords p o).slots
      subs := g.subs.map fun b => b.arrived p o
      preds := (g.withPred p o).preds
      flags := g.flags ||| o.flags
      counters := if p.counted then (g.addCounter p.ctr false).counters else g.counters
      pending := g.pending.filter fun q => q.id != p.id } := by
  have h := g.withWords_eq p o
  generalize (g.withWords p o).slots = sl at h ⊢
  unfold Gang.withWords at h
  simp only [Gang.deliver, h, Gang.withPred]
  -- The result may hold a predicate or none, and the entry may be counted or not.
  cases o.pred <;> cases p.counted <;>
    simp [Gang.dropPending, Gang.addCounter, Gang.writePred, Gang.counter, SubGang.arrived, SubGang.setSregs,
      apply_ite SubGang.waits]

theorem Gang.counter_deliver (j : Ctr) :
    (g.deliver p o).counter j = if j = p.ctr ∧ p.counted = true then g.counter j - 1 else g.counter j := by
  have hc := g.counter_addCounter p.ctr j false
  rw [Gang.deliver_eq]
  unfold Gang.counter at *
  by_cases h : p.counted <;> simp_all

theorem Gang.pred_deliver {n : Nat} (hn : n < 7) : nth (g.deliver p o).preds n 0 = match o.pred with
    | some (m, vals) => if m = n then (nth g.preds n 0 &&& ~~~p.live) ||| (vals &&& p.live) else nth g.preds n 0
    | none => nth g.preds n 0 := by
  rw [Gang.deliver_eq]
  unfold Gang.withPred
  cases o.pred with
  | none => rfl
  | some x =>
    simp only [Option.map_some, Option.getD_some, Gang.writePred, nth_setAt _ _ _ _ _ hn]
    by_cases h : x.1 = n
    · simp [h]
    · simp [h, Ne.symm h]

theorem Gang.slotWord_deliver (slot : Nat) {lane : Nat} (h : lane < g.width) : (g.deliver p o).slotWord slot lane =
    o.vregs.foldl (fun w d => if d.1 = slot then laneWord (d.2.filter fun y => p.live.getLsbD y.1) lane w else w)
      (g.slotWord slot lane) := by
  rw [Gang.deliver_eq]
  change (g.withWords p o).slotWord slot lane = _
  unfold Gang.withWords
  induction o.vregs generalizing g with
  | nil => rfl
  | cons d l ih => rw [List.foldl_cons, List.foldl_cons, ih _ (by exact h), Gang.slotWord_writeSlot _ _ _ _ h]

end

/-- The team with the scratchpad bytes of an entry's result written in the lanes whose fibres live. -/
def Team.arrived (t : Team) (p : Pending) (o : Out) : Team :=
  o.mem.foldl (fun (t : Team) w => if p.live.getLsbD w.1 then t.store w.2.1 w.2.2 else t) t

theorem Team.arrived_keeps (t : Team) (p : Pending) (o : Out) : { t.arrived p o with scratch := t.scratch } = t :=
  foldl_keeps (fun x : Team => { x with scratch := t.scratch })
    (fun (t : Team) (w : Nat × Nat × List Byte) => if p.live.getLsbD w.1 then t.store w.2.1 w.2.2 else t) (fun x w => by
      split
      · exact Team.store_keeps _ _ _ _
      · rfl) o.mem t

theorem Team.byte_arrived (t : Team) (p : Pending) (o : Out) (a : Nat) : (t.arrived p o).byte a = o.mem.foldl (fun w d =>
    if p.live.getLsbD d.1 = true ∧ d.2.1 ≤ a ∧ a < d.2.1 + d.2.2.length then nth d.2.2 (a - d.2.1) 0 else w) (t.byte a) :=
  foldl_hom_of (fun x : Team => x.byte a)
    (fun (t : Team) (w : Nat × Nat × List Byte) => if p.live.getLsbD w.1 then t.store w.2.1 w.2.2 else t) _ (fun x w => by
      by_cases h : p.live.getLsbD w.1 = true
      · simp [h, Team.byte_store]
      · simp [h]) o.mem t

section
variable {s : State} {core slot id : Nat} {o : Out} {g : Gang} {p : Pending} (hg : s.gang? core slot = some g)
  (hp : g.pending? id = some p)
include hg hp

theorem State.deliver_eq : s.deliver core slot id o =
    if o.mem.isEmpty then s.modGang core slot fun y => y.deliver p o
    else (s.modGang core slot fun y => y.deliver p o).modTeam core g.team fun t => t.arrived p o := by
  simp only [State.deliver, hg, hp]
  rfl

theorem State.gang?_deliver : (s.deliver core slot id o).gang? core slot = some (g.deliver p o) := by
  rw [State.deliver_eq hg hp]
  split <;> simp [hg]

theorem State.deliver_onlyGang : OnlyGang core slot g.team s (s.deliver core slot id o) := by
  rw [State.deliver_eq hg hp]
  split
  · exact onlyGang_modGang _ _ _ _ _
  · exact (onlyGang_modGang _ _ _ _ _).trans (onlyGang_modTeam _ _ _ _ _)

theorem State.deliver_next : (s.deliver core slot id o).next = s.next := by
  rw [State.deliver_eq hg hp]
  split <;> rfl

theorem State.team?_deliver {t : Team} (ht : s.team? core g.team = some t) :
    (s.deliver core slot id o).team? core g.team = some (t.arrived p o) := by
  rw [State.deliver_eq hg hp]
  split
  · rename_i h
    simp [ht, Team.arrived, List.isEmpty_iff.1 h]
  · simp [ht]

end

/-- Settles O12: an arrival is one update of the gang, `Gang.deliver`, and one of the team, `Team.arrived`. -/
theorem resultArrives : Obligations.ResultArrives := by
  intro s core slot id o g p hg hp
  refine ⟨⟨g.deliver p o, State.gang?_deliver hg hp, State.deliver_onlyGang hg hp, State.deliver_next hg hp, ?_, ?_, ?_,
    fun j => g.counter_deliver p o j, ?_, fun n hn => g.pred_deliver p o hn, fun sl lane h => g.slotWord_deliver p o sl h⟩,
    fun t ht => ⟨t.arrived p o, State.team?_deliver hg hp ht, t.arrived_keeps p o, fun a => t.byte_arrived p o a⟩⟩
  all_goals rw [Gang.deliver_eq]
  rfl

/-! ### Special functions (R90, R150) -/

/-- A long vector instruction whose operands let it execute issues with its result found then (R46). -/
theorem vecLong_issues {s : State} {c : Issuer} {f : RForm} {k : Ctr} {us : List Use} {td : Ty}
    (h : c.Executes s us f.g [] (dstV td f.d)) (hk : c.CounterFree k) (rel : List Nat) (out : Issuer → Out) :
    vecLong f k us rel td out s = .next ((s.issue c k rel (dstV td f.d) [] none (c.active f.g)
      fun p => { p with out := out c }).advance c) :=
  runInstr_ok h.issues (by rw [h.checkUses, c.checkCounter_ok hk, h.checkPool]; rfl)

/-- Settles O27: every special function is `vecSpecial` of its operation. -/
theorem specialFunctionsIssue : Obligations.SpecialFunctionsIssue := by
  intro s c f fm hfm h hk out done
  have key (op : SfuOp) : vecSpecial f op s = .next (done op) := by
    rw [vecSpecial, vecLong_issues h hk]
    simp only [hfm]
    rfl
  exact ⟨key .rcp, key .rsq, key .sqrt, key .div, key .exp2, key .log2, key .sinpi, key .cospi⟩

end Sys2Proof.Machine

/-! PROOFS. What a commit changes in its gang and its team, and that it changes nothing else (R97, R108, R127, R164). -/

namespace Sys2Proof.Machine

/-! ### The writes of a commit to its gang, in their order -/

/-- The gang with the slots of a commit released, then written (R164). -/
def Issuer.slotsWritten (c : Issuer) (e : Effect) (g : Gang) : Gang :=
  e.v.foldl (fun (g : Gang) w => g.writeSlot (c.slotOf w.1) w.2)
    (e.rel.foldl (fun (g : Gang) v => g.release (c.slotOf v)) g)

/-- The gang with the s registers of a commit written (R127). -/
def Issuer.sregsWritten (c : Issuer) (e : Effect) (g : Gang) : Gang :=
  e.s.foldl (fun (g : Gang) w => g.writeSreg c.sub.id w.1 w.2) g

/-- The gang with the predicates of a commit written (R108). -/
def Effect.predsWritten (e : Effect) (g : Gang) : Gang :=
  e.p.foldl (fun (g : Gang) w => g.writePred w.1 w.2.1 w.2.2) g

section
variable (c : Issuer) (e : Effect) (g : Gang)

theorem Issuer.applyGang_eq : c.applyGang e g =
    { e.predsWritten (c.sregsWritten e (c.slotsWritten e g)) with
      flags := (e.predsWritten (c.sregsWritten e (c.slotsWritten e g))).flags ||| e.flags } := rfl

section
variable {γ : Type} (π : Gang → γ)

/-- What does not look at the slots, their writes keep. -/
theorem Issuer.slotsWritten_keeps (h : ∀ g sl, π { g with slots := sl } = π g) : π (c.slotsWritten e g) = π g :=
  (foldl_keeps π _ (fun g _ => h g _) e.v _).trans (foldl_keeps π _ (fun g _ => h g _) e.rel g)

/-- What does not look at the sub-gangs, writes of uniform registers keep. -/
theorem Issuer.sregsWritten_keeps (h : ∀ g bs, π { g with subs := bs } = π g) : π (c.sregsWritten e g) = π g :=
  foldl_keeps π _ (fun g _ => h g _) e.s g

/-- What does not look at the predicates, their writes keep. -/
theorem Effect.predsWritten_keeps (h : ∀ g ps, π { g with preds := ps } = π g) : π (e.predsWritten g) = π g :=
  foldl_keeps π _ (fun g _ => h g _) e.p g

end

/-! ### The parts of the gang after a commit -/

theorem Issuer.applyGang_keeps (sl : Table (List Word)) (ps : List Lanes) (bs : List SubGang) (fl : Flags) :
    { c.applyGang e g with slots := sl, preds := ps, subs := bs, flags := fl } =
      { g with slots := sl, preds := ps, subs := bs, flags := fl } := by
  let rest : Gang → Gang := fun x => { x with slots := sl, preds := ps, subs := bs, flags := fl }
  calc rest (c.applyGang e g)
      = rest (c.sregsWritten e (c.slotsWritten e g)) := e.predsWritten_keeps _ rest fun _ _ => rfl
    _ = rest (c.slotsWritten e g) := c.sregsWritten_keeps e _ rest fun _ _ => rfl
    _ = rest g := c.slotsWritten_keeps e g rest fun _ _ => rfl

theorem Issuer.applyGang_flags : (c.applyGang e g).flags = g.flags ||| e.flags := by
  rw [Issuer.applyGang_eq, e.predsWritten_keeps _ Gang.flags fun _ _ => rfl,
    c.sregsWritten_keeps e _ Gang.flags fun _ _ => rfl, c.slotsWritten_keeps e g Gang.flags fun _ _ => rfl]

theorem Issuer.slotWord_applyGang (slot : Nat) {lane : Nat} (h : lane < g.width) :
    (c.applyGang e g).slotWord slot lane =
      e.v.foldl (fun w d => if c.slotOf d.1 = slot then laneWord d.2 lane w else w)
        (if ∃ v ∈ e.rel, c.slotOf v = slot then 0 else g.slotWord slot lane) := by
  let word : Gang → Word := fun x => x.slotWord slot lane
  let released := e.rel.foldl (fun (g : Gang) v => g.release (c.slotOf v)) g
  have hw : released.width = g.width :=
    foldl_keeps Gang.width (fun (g : Gang) v => g.release (c.slotOf v)) (fun _ _ => rfl) e.rel g
  calc word (c.applyGang e g)
      = word (c.sregsWritten e (c.slotsWritten e g)) := e.predsWritten_keeps _ word fun _ _ => rfl
    _ = word (c.slotsWritten e g) := c.sregsWritten_keeps e _ word fun _ _ => rfl
    _ = e.v.foldl (fun w d => if c.slotOf d.1 = slot then laneWord d.2 lane w else w) (word released) :=
        Gang.slotWord_writes c e.v released slot (hw ▸ h)
    _ = _ := by rw [← Gang.slotWord_releases c e.rel g slot lane]

theorem Issuer.pred_applyGang {p : Nat} (hp : p < 7) : nth (c.applyGang e g).preds p 0 =
    e.p.foldl (fun m d => if d.1 = p then (m &&& ~~~d.2.1) ||| (d.2.2 &&& d.2.1) else m) (nth g.preds p 0) := by
  have key := Gang.preds_writes e.p (c.sregsWritten e (c.slotsWritten e g)) hp
  rwa [c.sregsWritten_keeps e _ Gang.preds fun _ _ => rfl, c.slotsWritten_keeps e g Gang.preds fun _ _ => rfl] at key

/-- Of the sub-gangs, only the one that issued has its uniform registers written (R24, R127). -/
theorem Issuer.sub?_applyGang (id : Nat) : (c.applyGang e g).sub? id =
    if id = c.sub.id then (g.sub? id).map (fun b => b.setSregs e.s) else g.sub? id := by
  let sub : Gang → Option SubGang := fun x => x.sub? id
  have hs : sub (c.slotsWritten e g) = sub g := c.slotsWritten_keeps e g sub fun _ _ => rfl
  calc sub (c.applyGang e g)
      = sub (c.sregsWritten e (c.slotsWritten e g)) := e.predsWritten_keeps _ sub fun _ _ => rfl
    _ = if id = c.sub.id then (sub (c.slotsWritten e g)).map (fun b => b.setSregs e.s) else sub (c.slotsWritten e g) :=
        Gang.sub?_writeSregs e.s _ _ _
    _ = _ := by rw [hs]

end

/-- Who issues is found among the gang's sub-gangs under its own number. -/
theorem State.issuer_sub? {s : State} {c : Issuer} (h : s.issuer = some c) : c.gang.sub? c.sub.id = some c.sub := by
  obtain ⟨-, -, -, hs, -⟩ := State.issuer_spec h
  have : c.sub.id = c.clause.sub := by simpa using List.find?_some hs
  rwa [this]

/-! ### The state after a commit -/

/-- The team with the scratchpad bytes of a commit written. -/
def Effect.stored (e : Effect) (t : Team) : Team := e.mem.foldl (fun (t : Team) w => t.store w.1 w.2) t

theorem Effect.stored_keeps (e : Effect) (t : Team) : { e.stored t with scratch := t.scratch } = t :=
  foldl_keeps (fun x : Team => { x with scratch := t.scratch }) _ (fun x _ => Team.store_keeps _ x _ _) e.mem t

section
variable (s : State) (c : Issuer) (e : Effect)

theorem State.applyEffect_eq : s.applyEffect c e =
    if e.mem.isEmpty then s.modGang c.core c.slot (c.applyGang e)
    else (s.modGang c.core c.slot (c.applyGang e)).modTeam c.core c.gang.team e.stored := rfl

theorem State.applyEffect_onlyGang : OnlyGang c.core c.slot c.gang.team s (s.applyEffect c e) := by
  rw [State.applyEffect_eq]
  split
  · exact onlyGang_modGang _ _ _ _ _
  · exact (onlyGang_modGang _ _ _ _ _).trans (onlyGang_modTeam _ _ _ _ _)

theorem State.gang?_applyEffect {g : Gang} (hg : s.gang? c.core c.slot = some g) :
    (s.applyEffect c e).gang? c.core c.slot = some (c.applyGang e g) := by
  rw [State.applyEffect_eq]
  split <;> simp [hg]

theorem State.team?_applyEffect {t : Team} (ht : s.team? c.core c.gang.team = some t) :
    (s.applyEffect c e).team? c.core c.gang.team = some (e.stored t) := by
  rw [State.applyEffect_eq]
  split
  · rename_i h
    simp [ht, Effect.stored, List.isEmpty_iff.1 h]
  · simp [ht]

end

/-- Settles O8: a commit is one update of the gang, `Issuer.applyGang`, and one of the team, `Effect.stored`. -/
theorem commitChangesOnly : Obligations.CommitChangesOnly := by
  intro s c e hc
  obtain ⟨-, -, hg, -, ht, -⟩ := State.issuer_spec hc
  refine ⟨c.applyGang e c.gang, e.stored c.team, c.sub.setSregs e.s, s.gang?_applyEffect c e hg, s.team?_applyEffect c e ht,
    s.applyEffect_onlyGang c e, c.applyGang_keeps e c.gang _ _ _ _, c.applyGang_flags e c.gang,
    fun slot lane h => c.slotWord_applyGang e c.gang slot h, fun p hp => c.pred_applyGang e c.gang hp, fun id h => ?_, ?_,
    rfl, fun n hn => nth_sregs_writes e.s c.sub.sregs hn, e.stored_keeps c.team, Team.byte_stores e.mem c.team⟩
  · rw [Issuer.sub?_applyGang, if_neg h]
  · rw [Issuer.sub?_applyGang, if_pos rfl, State.issuer_sub? hc, Option.map_some]

end Sys2Proof.Machine

/-! PROOFS. The cross-lane instructions (R105, R154 to R157). -/

namespace Sys2Proof.Machine

/-! ### Float flags ORed (R97, R144) -/

theorem foldl_or_getLsbD {α : Type} (raised : α → Flags) (xs : List α) (fl : Flags) (b : Nat) :
    (xs.foldl (fun x y => x ||| raised y) fl).getLsbD b = true ↔
      fl.getLsbD b = true ∨ ∃ x ∈ xs, (raised x).getLsbD b = true := by
  induction xs generalizing fl with
  | nil => simp only [List.foldl_nil, List.not_mem_nil, false_and, exists_false, or_false]
  | cons x xs ih => simp only [List.foldl_cons, ih, BitVec.getLsbD_or, Bool.or_eq_true, or_assoc, List.mem_cons,
      or_and_right, exists_or, exists_eq_left]

/-- The union of the flags raised by a list sets each flag that one of them raises. -/
theorem ored_orFlags {α : Type} (xs : List α) (raised : α → Flags) : Ored (orFlags (xs.map raised)) xs raised := fun b => by
  simp only [orFlags, List.foldl_map, foldl_or_getLsbD, BitVec.ofNat_eq_ofNat, BitVec.getLsbD_zero,
    Bool.false_eq_true, false_or]

theorem ored_orFlags_self (fs : List Flags) : Ored (orFlags fs) fs fun x => x := by
  have h := ored_orFlags fs fun x => x
  rwa [List.map_id'] at h

/-! ### Issue on XLC (R46, R154) -/

/-- Four checks that pass leave what follows them. -/
theorem bind_checks_ok {a b c d : Except Stop Unit} (ha : a = .ok ()) (hb : b = .ok ()) (hc : c = .ok ()) (hd : d = .ok ())
    (x : Except Stop State) : (do a; b; c; d; x) = x := by
  rw [ha, hb, hc, hd]
  rfl

/-- An instruction that runs as `crossLong` does issues with the results it finds, where its operands let it execute. -/
theorem crossOp_of_crossLong {mk : RForm → Instr} {tb td : RForm → Ty} {preds : RForm → List Nat}
    {words : Issuer → RForm → Nat} {elems : Issuer → RForm → List (Nat × Nat × Nat × Bool)}
    {vals : Issuer → RForm → List (Nat × Nat)} {pred : Issuer → RForm → Option (Nat × List (Nat × Bool))}
    {raised : Issuer → RForm → List Flags} (flags : Issuer → RForm → Flags)
    (hexec : ∀ f s, exec (mk f) s = crossLong f (tb f) (td f) (preds f) (fun c => words c f) (fun c => elems c f)
      (fun c => { vals := vals c f, pred := pred c f, flags := flags c f }) s)
    (hflags : ∀ c f, Ored (flags c f) (raised c f) fun x => x) : CrossOp mk tb td preds words elems vals pred raised := by
  intro s c f hc vdst t hready hscratch hcounter hpool
  refine ⟨flags c f, hflags c f, ?_⟩
  rw [hexec]
  refine runInstr_ok hc ((bind_checks_ok (c.checkTouch_ok hready _ _) (c.checkSp_ok hscratch) (c.checkCounter_ok hcounter)
    (c.checkPool_ok hpool) _).trans ?_)
  dsimp only
  cases pred c f <;> rfl

/-- VSHUF, VSWZ and VBCAST take A at a source lane that is active, and C elsewhere (R154, R155). -/
theorem crossOp_of_fetchLanes {mk : RForm → Instr} {src : RForm → Issuer → Nat → Option Nat}
    (hexec : ∀ f s, exec (mk f) s = fetchLanes f (src f) s) :
    CrossOp mk (fun _ => .n32) RForm.t (fun _ => []) (fun _ f => if f.t.wide then 2 else 1) (fun c f => c.fetchElems f (src f))
      (fun c f => c.perLane f.g fun i => match c.fetchFrom f (src f) i with
        | some j => c.read f.t f.a j
        | none => c.read f.t f.c i) (fun _ _ => none) (fun _ _ => []) :=
  crossOp_of_crossLong (fun _ _ => 0) hexec fun _ _ => ored_orFlags_self []

/-! ### Votes, reductions and scans (R105, R156, R157) -/

theorem toNat_beq_two (fn : BitVec 3) : (fn.toNat == 2) = decide (fn = 2) := by
  simp [← BitVec.toNat_inj, Bool.beq_eq_decide_eq]

/-- What depends only on the places of a list is mapped over the places. -/
theorem map_zip_range {α β : Type} (l : List α) (g : Nat → β) :
    (l.zip (List.range l.length)).map (fun x => g x.2) = (List.range l.length).map g := by
  calc (l.zip (List.range l.length)).map (fun x => g x.2)
      = ((l.zip (List.range l.length)).map Prod.snd).map g := List.map_map.symm
    _ = (List.range l.length).map g := by rw [List.map_snd_zip (by simp)]

/-- The flags of each lane's tree of a scan, those up to the lane or those below it (R157). -/
def Issuer.scanFlags (c : Issuer) (f : RForm) : List Flags :=
  (List.range (c.active f.g).toList.length).map fun n =>
    (treeReduce (redOp f.t f.fn.toNat (c.mode f)) 8 ((c.compacted f).take (if f.c = .none then n + 1 else n))).2

theorem orFlags_scanFlags (c : Issuer) (f : RForm) :
    orFlags (((c.active f.g).toList.zip (List.range (c.active f.g).toList.length)).map fun x =>
      (treeReduce (redOp f.t f.fn.toNat (c.mode f)) 8 ((c.compacted f).take (if f.c = .none then x.2 + 1 else x.2))).2) =
    orFlags (c.scanFlags f) :=
  congrArg orFlags (map_zip_range _ fun n =>
    (treeReduce (redOp f.t f.fn.toNat (c.mode f)) 8 ((c.compacted f).take (if f.c = .none then n + 1 else n))).2)

/-- Settles O28: each of the six is `crossLong` of its results. -/
theorem crossLaneOperations : Obligations.CrossLaneOperations := by
  refine ⟨fun src => ⟨?shuffle, ?swizzle, ?broadcast⟩, ?vote, ?reduce, ?scan⟩
  case shuffle | swizzle | broadcast =>
    rintro rfl
    exact crossOp_of_fetchLanes fun _ _ => rfl
  case vote =>
    refine crossOp_of_crossLong (fun _ _ => 0) (fun f s => ?_) fun _ _ => ored_orFlags_self []
    change execVvote f s = _
    simp only [execVvote, toNat_beq_two, decide_eq_true_eq]
    congr 1
    funext c
    cases Machine.predOf f.c <;> rfl
  case reduce =>
    exact crossOp_of_crossLong (fun c f => (treeReduce (redOp f.t f.fn.toNat (c.mode f)) 8 (c.compacted f)).2)
      (fun _ _ => rfl) fun _ _ _ => by simp
  case scan =>
    refine crossOp_of_crossLong (fun c f => orFlags (c.scanFlags f)) (fun f s => ?_) fun c f => ored_orFlags_self (c.scanFlags f)
    change execVscan f s = _
    simp only [execVscan, beq_iff_eq, orFlags_scanFlags]
    rfl

end Sys2Proof.Machine

/-! PROOFS. NOP and LPAD, branches, direct calls, traps and breakpoints (R108 to R110, R115, R117, R119, R123, R124). -/

namespace Sys2Proof.Machine

/-! ### NOP, LPAD, branches and direct calls (R108 to R110, R115, R117, R119) -/

/-- Settles O13: either checks its guard, and commits the effect that writes nothing. -/
theorem nopLpadChangeNothing : Obligations.NopLpadChangeNothing := by
  intro s c f h
  have hk : (do c.checkUses [] f.g []; Except.ok (s.commit c Effect.none)) = .ok (s.commit c Effect.none) := by
    rw [h.checkUses]
    rfl
  exact ⟨runInstr_ok h.issues hk, runInstr_ok h.issues hk⟩

theorem Issuer.branch_ok {s : State} {c : Issuer} {f : CForm} (h : c.Executes s (CForm.uses f) f.g [] []) :
    c.branch s f = .ok (s.endClause c (groupByKey c.sub.fibres fun i =>
      if (c.active f.g).getLsbD i = true ∧ brCond f.aux.toNat (BitVec.ofNat 32 (c.read .n32 f.a i)) = true then
        c.taken (c.target f.imm)
      else c.through)) := by
  simp only [Issuer.branch, h.checkUses, Bool.and_eq_true]
  rfl

/-- Settles O14: BR and BRC are both `Issuer.branch`. -/
theorem branchesMoveFibres : Obligations.BranchesMoveFibres := fun _ _ _ h =>
  ⟨runInstr_ok h.issues (Issuer.branch_ok h), runInstr_ok h.issues (Issuer.branch_ok h)⟩

/-- Settles O15: with the windows in range, no check stops a CALL or a RET. -/
theorem callsAndReturns : Obligations.CallsAndReturns := by
  refine ⟨fun s c f hc hready hpool hwindow => ?call, fun s c f h hwindow => ?ret⟩
  case call =>
    refine runInstr_ok hc ?_
    rw [if_neg (by omega), c.checkTouch_ok hready, c.checkPool_ok hpool]
    rfl
  case ret =>
    have hnone : ((c.active f.g).toList.filter fun i => decide (c.sub.wb.toNat < 8 * bitsOf (c.link f.a i) 63 56)) = [] :=
      List.filter_eq_nil_iff.2 fun i hi hlt => absurd (hwindow i hi) (Nat.not_le.2 (of_decide_eq_true hlt))
    refine runInstr_ok h.issues ?_
    simp only [h.checkUses]
    dsimp only [bind, Except.bind]
    rw [hnone]
    rfl

/-! ### TRAP and BKPT (R123, R124) -/

/-- Settles O18: the guard is the one check of either, and whether a fibre is active picks the branch. -/
theorem trapsAndBreakpoints : Obligations.TrapsAndBreakpoints := by
  refine ⟨fun s c f h hact => ?trap, fun s c f h hact => ?fall, fun s c f h hact => ?bkpt⟩
  case trap =>
    refine runInstr_ok h.issues ?_
    simp only [h.checkUses, beq_iff_eq, hact, if_false]
    rfl
  case fall =>
    refine runInstr_ok h.issues ?_
    simp only [h.checkUses, hact]
    rfl
  case bkpt =>
    refine runInstr_ok h.issues ?_
    simp only [h.checkUses, beq_iff_eq, hact, if_false]
    rfl

end Sys2Proof.Machine

/-! PROOFS. Jump tables (R112 to R115, R117, R118). -/

namespace Sys2Proof.Machine

/-! ### BRX and CALLX up to their entry reads (R112 to R114, R117, R118) -/

/-- The registers that a look-up touches: its index, its table's three s registers, and for CALLX the link. -/
def lookupTouch (f : CForm) (call : Bool) : Touch :=
  let k := 2 * (f.imm.toNat % 32)
  let t := touchOf (CForm.uses f) f.g []
  { t with
    s := t.s ++ [k, k + 1, k + 2]
    v := t.v ++ (if call then [8 * f.aux.toNat, 8 * f.aux.toNat + 1] else []) }

/-- The state in which the sub-gang of a look-up waits for its entries, parked at the instruction. -/
def State.waitsForEntries (s : State) (c : Issuer) (f : CForm) (call : Bool) : State :=
  (({ s with next := s.next + 1 } : State).modGang c.core c.slot fun g => g.modSub c.sub.id fun b =>
    { b with
      park := .jumpTable s.next call f.aux.toNat (c.clause.haddr.setWidth 64) c.clauseEnd (c.tableBase f.imm)
        ((c.active f.g).toList.map fun i => (i, c.read .n32 f.a i)) (c.active f.g)
      pc := c.pc.setWidth 64
      inClause := some (c.clause.header, c.clause.haddr) }).modCore c.core fun k => k.setPipe c.pipe none

/-- A look-up that no check stops: with no fibre active it falls through, else it waits for its entries. -/
theorem Issuer.lookup_ok {s : State} {c : Issuer} {f : CForm} {call : Bool}
    (hwindow : call = true → c.sub.wb.toNat + 8 * f.aux.toNat ≤ 1016) (hready : c.Ready (lookupTouch f call))
    (hscratch : c.ScratchOk (c.spUses (CForm.uses f) (c.active f.g)))
    (hpool : c.PoolHas s (if call then [8 * f.aux.toNat, 8 * f.aux.toNat + 1] else []))
    (hbound : ∀ i ∈ (c.active f.g).toList, c.read .n32 f.a i < c.tableBound f.imm) :
    c.lookup s f call =
      .ok (if (c.active f.g).toList = [] then s.fallThrough c else s.waitsForEntries c f call) := by
  have hw : (call && decide (1016 < c.sub.wb.toNat + 8 * f.aux.toNat)) = false := by
    cases call
    · rfl
    · simpa using hwindow rfl
  have hnone : ((c.active f.g).toList.map fun i => (i, c.read .n32 f.a i)).filter
      (fun x => decide (c.tableBound f.imm ≤ x.2)) = [] := by
    simpa [List.filter_eq_nil_iff] using hbound
  have ht := c.checkTouch_ok hready (c.active f.g) 0
  unfold lookupTouch at ht
  simp only [Issuer.lookup, hw, hnone, c.checkSp_ok hscratch, c.checkPool_ok hpool, List.isEmpty_iff, List.map_eq_nil_iff]
  rw [if_neg Bool.false_ne_true, ht]
  split <;> rfl

/-! ### The entries return (R113, R118) -/

theorem State.runner?_place {s : State} {core slot : Nat} {r : Runner} (h : s.runner? core slot = some r) :
    r.core = core ∧ r.slot = slot := by
  unfold State.runner? at h
  split at h
  · cases h
  · split at h
    · cases h
    · obtain ⟨_, _, rfl⟩ := Option.map_eq_some_iff.1 h
      exact ⟨rfl, rfl⟩

theorem tableFault_none {es : List (Nat × Entry)} (h : ∀ x ∈ es, ∃ a, x.2 = .ok a) : tableFault es = none := by
  unfold tableFault
  dsimp only
  split
  · rfl
  · rename_i hleast
    obtain ⟨x, hx, hbad⟩ := List.mem_filterMap.1 (leastBy_mem hleast)
    obtain ⟨a, ha⟩ := h x hx
    rw [ha] at hbad
    cases hbad

/-- A look-up whose entries all pass, and whose link the pool holds, moves its sub-gang. -/
theorem State.lookedUp_ok {s : State} {r : Runner} {b : SubGang} {call : Bool} {shift : Nat} {header clauseEnd : DWord}
    {act : Lanes} {es : List (Nat × Entry)}
    (hok : ∀ x ∈ es, ∃ a, x.2 = .ok a)
    (hpool : let need := r.gang.slotsNeed (if call then [b.wb.toNat + 8 * shift, b.wb.toNat + 8 * shift + 1] else [])
      need = 0 ∨ ((s.core r.core).regParks = [] ∧ need ≤ (s.core r.core).regFree)) :
    s.lookedUp r b call shift header clauseEnd act es = ({ s with free := s.free + 1 } : State).tableJump r b call shift header
      clauseEnd act es (b.inClause.any fun x => headerPark x.1) := by
  simp only [State.lookedUp, tableFault_none hok]
  refine if_pos ?_
  rcases hpool with h | ⟨hparks, hfree⟩
  · simp [h]
  · simp only [Bool.or_eq_true, Bool.and_eq_true, List.isEmpty_iff, decide_eq_true_eq]
    exact .inr ⟨hparks, hfree⟩

/-- An entry passes the checks of R113 only at a header followed by the LPAD of its label. -/
theorem State.entryOfLane_ok {s : State} {r : Runner} {brx : DWord} {base va : Nat} {bytes : Except Code (List Byte)} {a : DWord}
    (hok : s.entryOfLane r brx base va bytes = .ok a) : ∃ bs h w, bytes = .ok bs ∧
      let target := wrapTo ((base : Int) + 8 * sext (bitsOf (leNat bs) 39 0) 40) 64
      a = BitVec.ofNat 64 target ∧ s.fetchWord r.core r.grid s.free target = .ok h ∧ isHeader h = true ∧
      s.fetchWord r.core r.grid s.free (target + 8) = .ok w ∧ lpadLabel w = some (bitsOf (leNat bs) 63 40) := by
  unfold State.entryOfLane at hok
  cases bytes with
  | error e => cases hok
  | ok bs =>
    refine ⟨bs, ?_⟩
    dsimp only at hok
    split at hok
    · cases hok
    · rename_i h hh
      split at hok
      · cases hok
      · rename_i hhead
        split at hok
        · cases hok
        · rename_i w hw
          split at hok
          · rename_i hl
            exact ⟨h, w, rfl, (Entry.ok.inj hok).symm, hh, by simpa using hhead, hw, by simpa using hl⟩
          · cases hok

/-- Settles O16: the look-up up to its entries is `Issuer.lookup_ok`; their return is `State.lookedUp` of what they gave. -/
theorem jumpTables : Obligations.JumpTables := by
  refine ⟨fun s c f call hc => ?issue,
    fun s u core slot sub id r b p call shift header clauseEnd base entries act h ha bytes hr hb hpark hin hread _ hbytes =>
      ?jump,
    fun _ _ _ _ _ _ _ => State.entryOfLane_ok⟩
  case issue =>
    intro k sh act link t exec_ hwindow hready hscratch hpool hbound
    have hexec : exec_ = .next (if act.toList = [] then s.fallThrough c else s.waitsForEntries c f call) := by
      have hl := Issuer.lookup_ok hwindow hready hscratch hpool hbound
      cases call <;> exact runInstr_ok hc hl
    exact ⟨fun h => by rw [hexec, if_pos h]; rfl, fun h => by rw [hexec, if_neg h]; rfl⟩
  case jump =>
    obtain ⟨rfl, rfl⟩ := State.runner?_place hr
    intro t es v lo need
    have hexec : exec (.jumpTableEntryReturn r.core r.slot sub) s =
        .next (t.lookedUp r b call shift header clauseEnd act es) := by
      change execJumpTableEntryReturn r.core r.slot sub s = _
      simp only [execJumpTableEntryReturn, hr, hb, hread, hpark, hbytes]
      rfl
    refine ⟨fun fr hfr => ?_, fun hok hpool => ?_⟩
    · rw [hexec, State.lookedUp, hfr]
    · rw [hexec, State.lookedUp_ok hok hpool, hin]
      cases call <;> rfl

end Sys2Proof.Machine

/-! PROOFS. Predicates (R125, R126), the uniform instructions (R127 to R131) and SRD (R132, R178, R180, R181). -/

namespace Sys2Proof.Machine

/-! ### PSET and PMOV (R125, R126) -/

theorem Lanes.getLsbD_one_of_lt (i : Nat) {j : Nat} (hj : j < 128) : (Lanes.one i).getLsbD j = decide (i = j) := by
  rw [Lanes.one, BitVec.getLsbD_ofNat, Nat.testBit_two_pow, decide_eq_true hj, Bool.true_and]

theorem Lanes.getLsbD_ofPred (w : Nat) (p : Nat → Bool) {j : Nat} (hj : j < 128) :
    (Lanes.ofPred w p).getLsbD j = (decide (j < w) && p j) := by
  induction w with
  | zero => simp [Lanes.ofPred]
  | succ w ih =>
    have hstep : Lanes.ofPred (w + 1) p = if p w then Lanes.ofPred w p ||| Lanes.one w else Lanes.ofPred w p := by
      simp [Lanes.ofPred, List.range_succ]
    have hlast : decide (j < w + 1) = (decide (j < w) || decide (w = j)) := by
      rw [← Bool.decide_or, decide_eq_decide]
      omega
    rw [hstep, hlast, Bool.and_or_distrib_right, ← ih]
    by_cases hw : w = j
    · subst hw
      cases p w <;> simp [Lanes.getLsbD_one_of_lt _ hj]
    · cases p w <;> simp [Lanes.getLsbD_one_of_lt _ hj, hw]

/-- The truth-table function of two predicates, in the lanes of the gang (R125). -/
def Issuer.truths (c : Issuer) (a b : Fin 7) (tt : BitVec 4) : Lanes :=
  Lanes.ofPred c.gang.width fun i => tt.getLsbD
    (2 * (if (nth c.gang.preds a.val 0).getLsbD i then 1 else 0) + (if (nth c.gang.preds b.val 0).getLsbD i then 1 else 0))

theorem pset_next {s : State} {c : Issuer} {d a b : Fin 7} {g : Guard} (hc : s.issuer = some c)
    (hready : c.Ready { v := [], s := [], p := guardP g ++ [d.val, a.val, b.val] }) (tt : BitVec 4) :
    exec (.pset d a b tt g) s = .next (s.commit c { Effect.none with p := [(d.val, c.active g, c.truths a b tt)] }) :=
  runInstr_ok hc (by simp only [c.checkTouch_ok hready]; rfl)

/-- The number whose bits below `n` are given. -/
def bitSum (b : Nat → Bool) (n : Nat) : Nat := ((List.range n).map fun k => if b k then 2 ^ k else 0).sum

theorem bitSum_succ (b : Nat → Bool) (n : Nat) : bitSum b (n + 1) = 2 ^ n * (b n).toNat + bitSum b n := by
  simp only [bitSum, List.range_succ, List.map_append, List.map_cons, List.map_nil, List.sum_append, List.sum_cons,
    List.sum_nil, Nat.add_zero]
  rw [Nat.add_comm]
  cases b n
  · rfl
  · exact congrArg (· + _) (Nat.mul_one _).symm

theorem bitSum_lt (b : Nat → Bool) (n : Nat) : bitSum b n < 2 ^ n := by
  induction n with
  | zero => exact Nat.zero_lt_one
  | succ n ih =>
    have hbit : 2 ^ n * (b n).toNat ≤ 2 ^ n * 1 := Nat.mul_le_mul_left _ (Bool.toNat_le _)
    rw [bitSum_succ, Nat.pow_succ]
    omega

theorem testBit_bitSum (b : Nat → Bool) {n k : Nat} (hk : k < n) : (bitSum b n).testBit k = b k := by
  induction n with
  | zero => exact absurd hk (Nat.not_lt_zero k)
  | succ n ih =>
    rw [bitSum_succ, Nat.testBit_two_pow_mul_add _ (bitSum_lt b n)]
    split
    · exact ih ‹k < n›
    · obtain rfl : k = n := by omega
      rw [Nat.sub_self]
      cases b k <;> rfl

/-- The predicate word has the predicates for its bits (R126). -/
theorem Issuer.testBit_predWord (c : Issuer) (lane : Nat) {k : Nat} (hk : k < 7) :
    (c.predWord lane).testBit k = (nth c.gang.preds k 0).getLsbD lane :=
  testBit_bitSum (fun k => (nth c.gang.preds k 0).getLsbD lane) hk

/-- Settles O19: each of the three commits its value, and a bit of the mask or of the word is the test that set it. -/
theorem predicatesMove : Obligations.PredicatesMove := by
  refine ⟨fun s c d a b tt g hc hready => ⟨c.truths a b tt, pset_next hc hready tt, fun i hw hi => ?bit⟩,
    fun s c f h => ?get, fun c lane k hk => c.testBit_predWord lane hk, ?set⟩
  case bit => rw [Issuer.truths, Lanes.getLsbD_ofPred _ _ hi, decide_eq_true hw, Bool.true_and]
  case get => exact runInstr_ok h.issues (by rw [h.checkUses, h.checkPool]; rfl)
  case set =>
    intro s c f
    dsimp only
    intro h hmask
    refine runInstr_ok h.issues ?_
    simp only [c.checkTouch_ok h.ready, c.checkTouch_ok hmask, c.checkSp_ok h.scratch]
    rfl

/-! ### The uniform instructions (R127 to R131) -/

/-- An instruction that runs as `uniform` does commits the value it finds. -/
theorem uniformOp_of_uniform {mk : RForm → Instr} {bT cT : RForm → Ty} {dWide : RForm → Bool}
    {val : Issuer → RForm → Nat}
    (hexec : ∀ f s, exec (mk f) s = uniform f (bT f) (cT f) (dWide f) (fun c => val c f) s) :
    UniformOp mk RForm.t bT cT dWide val := fun s c f hc hready => by
  rw [hexec]
  exact runInstr_ok hc (by rw [c.checkTouch_ok hready]; rfl)

/-- SSEL tests for zero with `!=`, the statement with `≠`. -/
theorem execSsel_eq (f : RForm) (s : State) : execSsel f s = uniform f f.t .n32 f.t.wide
    (fun c => if c.uread .n32 f.c ≠ 0 then c.uread f.t f.a else c.uread f.t f.b) s := by
  simp only [execSsel, bne_iff_ne]

/-- Settles O20: all but SMOVI are `uniform` of their values. -/
theorem uniformOperations : Obligations.UniformOperations := by
  refine ⟨?_, fun s c f hc hready => runInstr_ok hc (by rw [c.checkTouch_ok hready]; rfl),
    ?_, ?_, ?_, ?_, ?_, ?_, ?_, ?_, ?_, ?_, uniformOp_of_uniform execSsel_eq⟩
  all_goals exact uniformOp_of_uniform fun _ _ => rfl

/-! ### SRD (R132, R178, R180, R181) -/

theorem Gang.clearGmode_gmode (g : Gang) : g.clearGmode.gmode.toNat = g.rm.toNat := by
  have := g.rm.isLt
  have hflags : (0 : Flags).toNat = 0 := rfl
  simp only [Gang.clearGmode, Gang.gmode, BitVec.toNat_ofNat, hflags]
  omega

/-- With its RC bits clear, `GSTAT` has nothing below its counts (R180). -/
theorem Gang.clearGstat_gstat (g : Gang) : g.clearGstat.gstat.toNat % 8 = 0 := by
  simp only [Gang.clearGstat, Gang.gstat, BitVec.toNat_ofNat, Bool.false_eq_true, if_false]
  omega

theorem State.tick_of_not_counter (s : State) (core : Nat) {sel : Nat} (h : sel < 0x60 ∨ 0x64 < sel) :
    s.tick core sel = s := by
  simp only [State.tick, Bool.or_eq_true, beq_iff_eq]
  rw [if_neg (by omega), if_neg (by omega), if_neg (by omega)]

/-- Settles O29: SRD checks its destination, and only selectors 0x40 and 0x41 clear what they read. -/
theorem specialRegisterReads : Obligations.SpecialRegisterReads := by
  refine ⟨fun s c f hc hready => runInstr_ok hc (by rw [c.checkTouch_ok hready]; rfl), fun s core slot g hg => ?_,
    fun s core slot sel h40 h41 => ?_, fun s core sel h => s.tick_of_not_counter core h⟩
  · refine ⟨?_, ?_, g.clearGmode_gmode, g.clearGstat_gstat⟩
    · exact (s.gang?_modGang_self core slot _).trans (by rw [hg]; rfl)
    · exact (s.gang?_modGang_self core slot _).trans (by rw [hg]; rfl)
  · simp [State.afterRead, h40, h41]

end Sys2Proof.Machine

/-! PROOFS. The short vector instructions (R133 to R136): integer elements, shifts, fields and moves (R138, R140, R141, R143,
R152), and VADDC (R139). -/

namespace Sys2Proof.Machine

/-! ### A short instruction commits (R136, R164) -/

/-- A short vector instruction whose operands let it execute commits its effect with the releases of its `LR` bits. -/
theorem vecShort_next {s : State} {c : Issuer} {f : RForm} {ta tb tc td : Ty} {preds : List Nat}
    (h : c.Executes s (rUses f ta tb tc td) f.g preds (dstV td f.d)) (eff : Issuer → Effect) :
    vecShort f ta tb tc td preds eff s = .next (s.commit c { eff c with rel := rRel f ta tb tc }) :=
  runInstr_ok h.issues (by rw [h.checkUses, h.checkPool]; rfl)

/-- One that writes a value in each active lane commits those values. -/
theorem vecMap_next {s : State} {c : Issuer} {f : RForm} {ta tb tc td : Ty}
    (h : c.Executes s (rUses f ta tb tc td) f.g [] (dstV td f.d)) (val : Issuer → Nat → Nat) :
    vecMap f ta tb tc td val s = .next (s.commit c { c.writes td f.d f.g (val c) with rel := rRel f ta tb tc }) :=
  vecShort_next h _

theorem vectorOp_of_vecShort {mk : RForm → Instr} {ta tb tc td : RForm → Ty} {preds : RForm → List Nat}
    {eff : Issuer → RForm → Effect}
    (hexec : ∀ f s, exec (mk f) s = vecShort f (ta f) (tb f) (tc f) (td f) (preds f) (fun c => eff c f) s) :
    VectorOp mk ta tb tc td preds eff := fun s c f h => by
  rw [hexec, vecShort_next h]

theorem laneOp_of_vecMap {mk : RForm → Instr} {ta tb tc td : RForm → Ty} {val : Issuer → RForm → Nat → Nat}
    (hexec : ∀ f s, exec (mk f) s = vecMap f (ta f) (tb f) (tc f) (td f) (fun c => val c f) s) :
    LaneOp mk ta tb tc td val := fun s c f h => by
  rw [hexec, vecMap_next h]

theorem elementOp_of_vecElem {mk : RForm → Instr} {op : RForm → Nat → Nat → Nat → Nat}
    (hexec : ∀ f s, exec (mk f) s = vecElem f (op f) s) : ElementOp mk op :=
  laneOp_of_vecMap hexec

/-- Settles O21: each of the ten is `vecElem` of its operation. -/
theorem vectorIntegerElements : Obligations.VectorIntegerElements := by
  refine ⟨?_, ?_, ?_, ?_, ?_, ?_, ?_, ?_, ?_, ?_⟩
  all_goals exact elementOp_of_vecElem fun _ _ => rfl

/-! ### Shifts, fields, moves and select (R140, R141, R143, R152, R158) -/

/-- VSEL finds its test with `==` and `any`, the statement with `=` and `∃`. -/
theorem execVsel_eq (f : RForm) (s : State) : execVsel f s = vecShort f f.t f.t .n32 f.t
    (if f.fn = 1 then (Machine.predOf f.c).toList else []) (fun c => c.writes f.t f.d f.g fun i =>
      if (if f.fn = 1 then ∃ p ∈ Machine.predOf f.c, (nth c.gang.preds p 0).getLsbD i = true else c.read .n32 f.c i ≠ 0)
      then c.read f.t f.a i else c.read f.t f.b i) s := by
  by_cases hfn : f.fn = 1
  · simp only [execVsel, hfn, beq_self_eq_true, if_true, List.any_eq_true, Option.mem_toList]
    rfl
  · simp only [execVsel, beq_iff_eq, hfn, if_false, bne_iff_ne]
    rfl

/-- Settles O23: the lane operations are `vecMap` of their values, VSEL is `vecShort` of its choice, and VMOVI and VFREE pass
their checks. -/
theorem vectorShiftsFieldsMoves : Obligations.VectorShiftsFieldsMoves := by
  refine ⟨?_, ?_, ?_, ?_, ?_, ?_, ?_, ?_, ?_, ?_, ?_, vectorOp_of_vecShort execVsel_eq, fun s c f h => ?moveImmediate,
    fun s c f r n ha hb hc hready => ?free⟩
  case moveImmediate => exact runInstr_ok h.issues (by rw [h.checkUses, h.checkPool]; rfl)
  case free => exact runInstr_ok hc (by simp only [ha, hb, c.checkTouch_ok hready]; rfl)
  all_goals exact laneOp_of_vecMap fun _ _ => rfl

/-! ### What an operand reads is a number of its type's bits (R58 to R61, R84) -/

theorem leNat_lt (bs : List Byte) : leNat bs < 2 ^ (8 * bs.length) := by
  induction bs with
  | nil => exact Nat.one_pos
  | cons b bs ih =>
    have hb := b.isLt
    rw [leNat, List.length_cons, Nat.mul_succ, Nat.pow_add]
    omega

/-- Digits of w bits make a number of w bits for each. -/
theorem sum_digits_lt (w : Nat) (digit : Nat → Nat) (n : Nat) :
    ((List.range n).map fun k => (digit k % 2 ^ w) * 2 ^ (w * k)).sum < 2 ^ (w * n) := by
  induction n with
  | zero => exact Nat.one_pos
  | succ n ih =>
    have hdigit : digit n % 2 ^ w + 1 ≤ 2 ^ w := Nat.mod_lt _ (Nat.two_pow_pos w)
    have hstep : (digit n % 2 ^ w + 1) * 2 ^ (w * n) ≤ 2 ^ w * 2 ^ (w * n) := Nat.mul_le_mul_right _ hdigit
    rw [List.range_succ, List.map_append, List.sum_append, List.map_singleton, List.sum_singleton, Nat.mul_succ, Nat.pow_add,
      Nat.mul_comm (2 ^ (w * n))]
    rw [Nat.succ_mul] at hstep
    omega

/-- The elements of a type fill no more than its register or its pair (R84). -/
theorem elemShape_le (t : Ty) : (elemShape t).1 * (elemShape t).2 ≤ 8 * elemBytes t := by
  cases t <;> simp [elemShape, elemBytes, Ty.wide]

theorem packElems_lt (t : Ty) (elem : Nat → Nat) : packElems t elem < 2 ^ (8 * elemBytes t) :=
  Nat.lt_of_lt_of_le (sum_digits_lt _ elem _) (Nat.pow_le_pow_right Nat.two_pos (elemShape_le t))

theorem immBits_lt (t : Ty) (n : Fin 48) : immBits t n < 2 ^ (8 * elemBytes t) := by
  unfold immBits
  split <;> exact packElems_lt t _

theorem fltBits_lt (t : Ty) (n : BitVec 4) : fltBits t n < 2 ^ (8 * elemBytes t) := by
  unfold fltBits
  split
  · exact packElems_lt t _
  · exact Nat.two_pow_pos _

/-- A register, or a pair for a wide type, holds a number of the type's bits (R61). -/
theorem registers_lt (t : Ty) (lo hi : Word) :
    (if t.wide then lo.toNat + 2 ^ 32 * hi.toNat else lo.toNat) < 2 ^ (8 * elemBytes t) := by
  have := lo.isLt
  have := hi.isLt
  unfold elemBytes
  cases t.wide
  · exact lo.isLt
  · simp only [if_true]
    omega

theorem Issuer.read_lt (c : Issuer) (t : Ty) (o : Opd) {lane : Nat} (hl : lane < 128) :
    c.read t o lane < 2 ^ (8 * elemBytes t) := by
  have hbytes : 4 ≤ elemBytes t := by unfold elemBytes; split <;> omega
  cases o with
  | v n => exact registers_lt t _ _
  | s n => exact registers_lt t _ _
  | imm n => exact immBits_lt t n
  | flt n => exact fltBits_lt t n
  | sp n =>
    have h := leNat_lt (c.seen.bytes (c.spAddr t n lane) (elemBytes t))
    rwa [Team.bytes, List.length_map, List.length_range] at h
  | lane => exact Nat.lt_of_lt_of_le (m := 2 ^ 7) hl (Nat.pow_le_pow_right Nat.two_pos (by omega))
  | none => exact Nat.two_pow_pos _

/-! ### Predicates and masks of lanes (R139, R142) -/

theorem getLsbD_maskOf (xs : List (Nat × Bool)) {i : Nat} (hi : i < 128) :
    (maskOf xs).getLsbD i = true ↔ (i, true) ∈ xs := by
  have hfold (m : Lanes) : (xs.foldl (fun m x => if x.2 then m ||| Lanes.one x.1 else m) m).getLsbD i = true ↔
      m.getLsbD i = true ∨ (i, true) ∈ xs := by
    induction xs generalizing m with
    | nil => simp
    | cons x xs ih =>
      obtain ⟨j, b⟩ := x
      cases b
      · simp [ih]
      · simp [ih, Lanes.getLsbD_one_of_lt j hi, or_assoc, eq_comm (a := j)]
  simpa [maskOf] using hfold 0

/-- The truths of the active lanes make a mask of the active lanes for which the truth holds. -/
theorem Issuer.getLsbD_maskOf_perLane (c : Issuer) (g : Guard) (truth : Nat → Bool) {i : Nat} (hi : i < 128) :
    (maskOf (c.perLane g truth)).getLsbD i = ((c.active g).getLsbD i && truth i) := by
  rw [Bool.eq_iff_iff, getLsbD_maskOf _ hi, Bool.and_eq_true]
  simp only [Issuer.perLane, List.mem_map, Lanes.mem_toList, Prod.mk.injEq]
  exact ⟨fun ⟨j, hj, hij, ht⟩ => hij ▸ ⟨hj, ht⟩, fun ⟨ha, ht⟩ => ⟨i, ha, rfl, ht⟩⟩

@[simp] theorem Issuer.writeDst_p (c : Issuer) (t : Ty) (o : Opd) (vals : List (Nat × Nat)) (e : Effect) :
    (c.writeDst t o vals e).p = e.p := by
  unfold Issuer.writeDst
  cases o with
  | v n => dsimp only; split <;> rfl
  | _ => rfl

/-! ### VADDC (R139) -/

/-- The sum of A, B and the carry in of a lane. -/
def Issuer.carrySum (c : Issuer) (f : RForm) (i : Nat) : Nat :=
  c.read f.t f.a i + c.read f.t f.b i + (if f.fn.toNat ≠ 7 ∧ (nth c.gang.preds f.fn.toNat 0).getLsbD i = true then 1 else 0)

theorem Issuer.carrySum_lt (c : Issuer) (f : RForm) {i : Nat} (hi : i < 128) :
    c.carrySum f i < 2 * 2 ^ (8 * elemBytes f.t) := by
  have ha := c.read_lt f.t f.a hi
  have hb := c.read_lt f.t f.b hi
  unfold Issuer.carrySum
  split <;> omega

/-- A number below 2m is its remainder, and m where it carries. -/
theorem eq_mod_add_carry {n m : Nat} (h : n < 2 * m) : n = n % m + if m ≤ n then m else 0 := by
  split
  · rw [Nat.mod_eq_sub_mod ‹m ≤ n›, Nat.mod_eq_of_lt (by omega)]
    omega
  · exact (Nat.mod_eq_of_lt (by omega)).symm

/-- VADDC is a short instruction that writes the sum's remainder, and its carry where `FN` names a predicate. -/
theorem execVaddc_eq (f : RForm) (s : State) : execVaddc f s = vecShort f f.t f.t f.t f.t
    (if f.fn.toNat = 7 then [] else [f.fn.toNat]) (fun c =>
      { c.writes f.t f.d f.g (fun i => c.carrySum f i % 2 ^ (elemShape f.t).1) with
        p := if f.fn.toNat = 7 then []
          else [(f.fn.toNat, c.active f.g, maskOf (c.perLane f.g fun i => decide (2 ^ (elemShape f.t).1 ≤ c.carrySum f i)))] })
      s := by
  simp only [execVaddc, beq_iff_eq, Bool.and_eq_true, bne_iff_ne]
  congr 1
  funext c
  by_cases hp : f.fn.toNat = 7
  · have hnone : (c.writes f.t f.d f.g fun i => c.carrySum f i % 2 ^ (elemShape f.t).1).p = [] := c.writeDst_p _ _ _ _
    rw [if_pos hp, if_pos hp, ← hnone]
    rfl
  · rw [if_neg hp, if_neg hp]
    rfl

/-- An outstanding instruction whose predicate destination is touched blocks (R47). -/
theorem Issuer.mem_blockers_of_pdst {c : Issuer} {t : Touch} {q : Pending} {d : Nat} (hq : q ∈ c.gang.pending)
    (hd : q.pdst = some d) (ht : d ∈ t.p) : q ∈ c.blockers t := by
  simp [Issuer.blockers, hq, hd, ht]

/-- A touched destination that is outstanding, with none of the gang's marked faulted, is a hazard (R47, R211). -/
theorem Issuer.checkTouch_hazard {c : Issuer} {t : Touch} {q : Pending} (hv : ∀ v ∈ t.v, c.slotOf v ≤ 1023)
    (hq : q ∈ c.blockers t) (hclean : ∀ p ∈ c.gang.pending, p.destFaulted = false) (lanes : Lanes) (aux : Nat) :
    c.checkTouch lanes t aux = .error (.fault (c.record .clauseHazard lanes 0 aux)) := by
  have hwindow : (t.v.any fun v => decide (1023 < c.slotOf v)) = false := by
    simpa only [List.any_eq_false, decide_eq_true_eq, Nat.not_lt] using hv
  have hfaulted : (c.blockers t).any Pending.destFaulted = false := by
    simp only [List.any_eq_false, Bool.not_eq_true]
    exact fun p hp => hclean p (List.mem_filter.mp hp).1
  unfold Issuer.checkTouch
  rw [hwindow]
  cases hb : c.blockers t with
  | nil => rw [hb] at hq; cases hq
  | cons b bs => rw [hb] at hfaulted; simp [hfaulted]

/-- A carry predicate that is not ready stops VADDC at its first check. -/
theorem vaddc_hazard {s : State} {c : Issuer} {f : RForm} {q : Pending} (hc : s.issuer = some c) (hp : f.fn.toNat ≠ 7)
    (hv : ∀ u ∈ rUses f f.t f.t f.t f.t, ∀ v ∈ opdV u.t u.o, c.slotOf v ≤ 1023) (hq : q ∈ c.gang.pending)
    (hd : q.pdst = some f.fn.toNat) (hclean : ∀ p ∈ c.gang.pending, p.destFaulted = false) :
    exec (.vaddc f) s = .next (s.faultHere c (c.record .clauseHazard (c.active f.g) 0 0)) := by
  have hblock : q ∈ c.blockers (touchOf (rUses f f.t f.t f.t f.t) f.g [f.fn.toNat]) :=
    Issuer.mem_blockers_of_pdst hq hd (List.mem_append_right _ (List.mem_singleton_self _))
  have hslots : ∀ v ∈ (touchOf (rUses f f.t f.t f.t f.t) f.g [f.fn.toNat]).v, c.slotOf v ≤ 1023 := fun v hm => by
    obtain ⟨u, hu, hvu⟩ := List.mem_flatMap.mp hm
    exact hv u hu v hvu
  refine (execVaddc_eq f s).trans (runInstr_error (e := .fault _) hc ?_)
  rw [if_neg hp, Issuer.checkUses, Issuer.checkTouch_hazard hslots hblock hclean]
  rfl

/-- Settles O22: the sum is below twice the modulus, so remainder and carry are all of it. -/
theorem addWithCarry : Obligations.AddWithCarry := by
  refine ⟨?sum, fun _ _ _ _ hc hp hv hq hd hclean => vaddc_hazard hc hp hv hq hd hclean⟩
  intro s c f w hw p h
  have hwidth : (elemShape f.t).1 = w ∧ 8 * elemBytes f.t = w := by
    rcases hw with ⟨ht, rfl⟩ | ⟨ht, rfl⟩ <;> exact ht ▸ ⟨rfl, rfl⟩
  obtain ⟨hshape, hbytes⟩ := hwidth
  refine ⟨fun i => c.carrySum f i % 2 ^ w, fun i => decide (2 ^ w ≤ c.carrySum f i),
    maskOf (c.perLane f.g fun i => decide (2 ^ w ≤ c.carrySum f i)), ?_,
    fun i hi => c.getLsbD_maskOf_perLane f.g _ hi, fun i hi => ⟨Nat.mod_lt _ (Nat.two_pow_pos w), ?_⟩⟩
  · refine (execVaddc_eq f s).trans ((vecShort_next h _).trans ?_)
    rw [hshape]
  · have hlt := c.carrySum_lt f hi
    rw [hbytes] at hlt
    simp only [decide_eq_true_eq]
    exact eq_mod_add_carry hlt

end Sys2Proof.Machine

/-! PROOFS. The short vector instructions of the float types, their flags ORed (R144 to R149, R151, R153), and the compares
(R142, R146). -/

namespace Sys2Proof.Machine

/-! ### Values with flags (R144) -/

theorem Issuer.writeDst_flags (c : Issuer) (t : Ty) (o : Opd) (vals : List (Nat × Nat)) (e : Effect) (fl : Flags) :
    c.writeDst t o vals { e with flags := fl } = { c.writeDst t o vals e with flags := fl } := by
  unfold Issuer.writeDst
  cases o with
  | v n => dsimp only; split <;> rfl
  | _ => rfl

/-- The flags that a packed value's elements raise are ORed. -/
theorem packFlags_flags (t : Ty) (op : Nat → Nat × Flags) :
    Ored (packFlags t op).2 (List.range (elemShape t).2) fun k => (op k).2 :=
  ored_orFlags _ _

/-- A short instruction whose lane values come with flags commits the values, and the OR of the active lanes' flags. -/
theorem vecFlags_next {s : State} {c : Issuer} {f : RForm} {ta tb tc td : Ty} {i : Instr} {val : Issuer → Nat → Nat × Flags}
    (h : c.Executes s (rUses f ta tb tc td) f.g [] (dstV td f.d)) (hexec : exec i s = vecFlags f ta tb tc td val s) :
    ∃ fl, Ored fl (c.active f.g).toList (fun i => (val c i).2) ∧
      exec i s = .next (s.commit c { c.writes td f.d f.g (fun i => (val c i).1) with
        rel := rRel f ta tb tc
        flags := fl }) := by
  refine ⟨orFlags ((c.active f.g).toList.map fun i => (val c i).2), ored_orFlags _ _, ?_⟩
  rw [hexec, vecFlags, vecShort_next h]
  simp only [Issuer.perLane, List.map_map, Function.comp_def, Issuer.writeDst_flags]
  rfl

/-! ### Element by element in a format (R144, R145, R148) -/

theorem floatOp_of_vecFloat {mk : RForm → Instr} {op : RForm → Fmt → Mode → Nat → Nat → Nat → Nat × Flags}
    (hexec : ∀ f s, exec (mk f) s = vecFloat f (op f) s) : FloatOp mk op := by
  intro s c f fm hfm h at_
  have hpack : exec (mk f) s = vecFlags f f.t f.t f.t f.t (fun c i => packFlags f.t fun k =>
      op f fm (c.mode f) (elemOf f.t (c.read f.t f.a i) k) (elemOf f.t (c.read f.t f.b i) k)
        (elemOf f.t (c.read f.t f.c i) k)) s := by
    rw [hexec, vecFloat, hfm]
  obtain ⟨fl, hfl, hnext⟩ := vecFlags_next h hpack
  exact ⟨fl, hnext, fun b => (hfl b).trans <|
    exists_congr fun i => and_congr_right fun _ => packFlags_flags f.t (at_ i) b⟩

/-- Settles O24: each of the eight is `vecFloat` of its operation. -/
theorem vectorFloatElements : Obligations.VectorFloatElements := by
  refine ⟨?_, ?_, ?_, ?_, ?_, ?_, ?_, ?_⟩
  all_goals exact floatOp_of_vecFloat fun _ _ => rfl

/-! ### Operands or results of another type (R147, R149, R151, R153) -/

theorem exec_vfclass {f : RForm} {fm : Fmt} (hfm : fmtOf f.t = some fm) (s : State) :
    exec (.vfclass f) s = vecMap f f.t .n32 .n32 .n32 (fun c i => 2 ^ classBit fm (elemOf f.t (c.read f.t f.a i) 0)) s := by
  change execVfclass f s = _
  rw [execVfclass, hfm]

theorem exec_vldexp {f : RForm} {fm : Fmt} (hfm : fmtOf f.t = some fm) (s : State) :
    exec (.vldexp f) s = vecFlags f f.t .i32 .n32 f.t
      (fun c i => ldexp fm (c.mode f) f.sat (elemOf f.t (c.read f.t f.a i) 0) (sext (c.read .i32 f.b i) 32)) s := by
  change execVldexp f s = _
  rw [execVldexp, hfm]

theorem exec_vfrexp {f : RForm} {fm : Fmt} (hfm : fmtOf f.t = some fm) (s : State) :
    exec (.vfrexp f) s = vecFlags f f.t .n32 .n32 (if f.fn = 1 then Ty.i32 else f.t)
      (fun c i => frexp fm (f.fn == 1) (elemOf f.t (c.read f.t f.a i) 0)) s := by
  change execVfrexp f s = _
  simp only [execVfrexp, hfm, beq_iff_eq]

theorem exec_vcvt (src : Ty) (f : RForm) (s : State) : exec (.vcvt src f) s = vecFlags f src .n32 .n32 f.t
    (fun c i => convert f.t src (c.mode f) f.sat (c.read src f.a i)) s := rfl

theorem exec_vcamrel (f : RForm) (s : State) : exec (.vcamrel f) s = vecFlags f .f64 .f64 .n32 .f32
    (fun c i => addRound Fmt.f32 (c.mode f) f.sat (Fmt.f64.decode (c.read .f64 f.a i))
      (Fmt.f64.decode (c.read .f64 f.b i)).neg) s := rfl

/-- Settles O25: VFCLASS is `vecMap` of its bit, the other four are `vecFlags` of their values (`( :)` elaborates the
lemma before it is matched with the claim). -/
theorem vectorFloatConversions : Obligations.VectorFloatConversions :=
  ⟨fun s _ _ _ hfm h => (exec_vfclass hfm s).trans (vecMap_next h _),
    fun s _ _ _ hfm h => (vecFlags_next h (exec_vldexp hfm s) :),
    fun s _ _ _ hfm h => (vecFlags_next h (exec_vfrexp hfm s) :),
    fun s _ src f h => (vecFlags_next h (exec_vcvt src f s) :),
    fun s _ f h => (vecFlags_next h (exec_vcamrel f s) :)⟩

/-! ### Compares (R142, R146) -/

/-- The predicate that a compare with C naming one writes: the truths of the active lanes. -/
def Issuer.truthWrites (c : Issuer) (f : RForm) (truth : Nat → Bool) : List (Nat × Lanes × Lanes) :=
  (Machine.predOf f.c).toList.map fun p => (p, c.active f.g, maskOf (c.perLane f.g truth))

theorem Issuer.truthWrites_spec (c : Issuer) (f : RForm) (truth : Nat → Bool) :
    match Machine.predOf f.c with
    | none => c.truthWrites f truth = []
    | some p => ∃ m : Lanes, c.truthWrites f truth = [(p, c.active f.g, m)] ∧
        ∀ i, i < 128 → m.getLsbD i = ((c.active f.g).getLsbD i && truth i) := by
  unfold Issuer.truthWrites
  cases Machine.predOf f.c with
  | none => rfl
  | some p => exact ⟨_, rfl, fun i hi => c.getLsbD_maskOf_perLane f.g truth hi⟩

/-- What a compare commits: masks of ones in D, and the truths of the first elements in a predicate. -/
theorem compareEffect_eq (f : RForm) (c : Issuer) (truth : Nat → Nat → Bool) (e : Effect) :
    compareEffect f c truth e =
      { c.writeDst f.t f.d
          (c.perLane f.g fun i => packElems f.t fun k => if truth i k then 2 ^ (elemShape f.t).1 - 1 else 0) e with
        p := e.p ++ c.truthWrites f fun i => truth i 0 } := by
  simp only [compareEffect, Issuer.truthWrites]
  cases Machine.predOf f.c with
  | none => rw [Option.toList_none, List.map_nil, List.append_nil, ← c.writeDst_p f.t f.d _ e]
  | some p => rw [← c.writeDst_p f.t f.d _ e]; rfl

/-- Settles O26: both commit `compareEffect` of their truths, VFCMP with its elements' flags. -/
theorem vectorCompares : Obligations.VectorCompares := by
  constructor
  · intro s c f truth h
    refine ⟨c.truthWrites f fun i => truth i 0, (vecShort_next h _).trans ?_, c.truthWrites_spec f fun i => truth i 0⟩
    rw [compareEffect_eq]
    rfl
  · intro s c f cmp h
    refine ⟨c.truthWrites f fun i => (cmp i 0).1, _, ored_orFlags _ _, (vecShort_next h _).trans ?_,
      c.truthWrites_spec f fun i => (cmp i 0).1⟩
    rw [compareEffect_eq, Issuer.writeDst_flags, List.map_flatMap]
    simp only [List.map_map]
    rfl

end Sys2Proof.Machine

/-! PROOFS. Registers after a cold reset (R178, R264, R286, R319, R364, R411), uncorrectable errors (R175, R308), a failed die
link (R327), and the host's accesses (R229, R236, R397). -/

namespace Sys2Proof.Machine

/-! ### Reset -/

@[simp] theorem State.core_reset (c : Nat) : State.reset.core c = Core.reset := rfl
@[simp] theorem State.cluster_reset (k : Nat) : State.reset.cluster k = Cluster.reset := rfl

theorem Core.reset_bkaddr_disabled {n : Nat} (h : n < 4) (d : Breakpoint) :
    (nth Core.reset.bkaddr n d).enable = false := by
  rw [nth, Core.reset, List.getElem?_replicate_of_lt h, Option.getD_some]

/-- Settles O7: a core and a cluster that nothing has changed are at their reset values, and each register is read there. -/
theorem resetRegisters : Obligations.ResetRegisters :=
  ⟨fun c => ⟨rfl, rfl, rfl, fun _ hn => by rw [State.core_reset]; exact Core.reset_bkaddr_disabled hn _⟩,
    fun _ => ⟨rfl, rfl, rfl⟩, rfl, rfl, rfl, rfl, rfl, rfl, rfl, rfl, rfl⟩

/-! ### Errors in a core's SRAM (R175) -/

/-- The first element that passes a test, after an update of those that pass which lets them pass still. -/
theorem find?_map_ite {α : Type} (p : α → Bool) {f : α → α} (hf : ∀ x, p x = true → p (f x) = true) (l : List α) :
    (l.map fun x => if p x then f x else x).find? p = (l.find? p).map f := by
  induction l with
  | nil => rfl
  | cons x l ih =>
    cases h : p x with
    | true => simp [h, hf x h]
    | false => simpa [h] using ih

theorem Core.countErrors_one (k : Core) : (k.countErrors 1).sramerr = satAdd k.sramerr := by
  simp only [Core.countErrors, satAdd, beq_iff_eq]
  split
  · simp [*]
  · rename_i h
    have : k.sramerr.toNat ≠ 0xFFFFFFFF := fun e => h (BitVec.eq_of_toNat_eq (e.trans (by decide)))
    apply BitVec.eq_of_toNat_eq
    simp only [BitVec.toNat_ofNat, BitVec.toNat_add, BitVec.ofNat_eq_ofNat]
    omega

@[simp] theorem Core.l1?_countErrors (k : Core) (n tag line : Nat) : (k.countErrors n).l1? tag line = k.l1? tag line := rfl

theorem State.l1?_modL1_self (s : State) (core tag line : Nat) {f : L1Line → L1Line}
    (hf : ∀ x, (f x).tag = x.tag ∧ (f x).line = x.line) :
    ((s.modL1 core tag line f).core core).l1? tag line = ((s.core core).l1? tag line).map f := by
  rw [State.modL1, State.core_modCore_self]
  exact find?_map_ite (fun x : L1Line => x.tag == tag && x.line == line)
    (fun x h => by rw [(hf x).1, (hf x).2]; exact h) _

theorem State.l1?_delL1_self (s : State) (core tag line : Nat) : ((s.delL1 core tag line).core core).l1? tag line = none := by
  rw [State.delL1, State.core_modCore_self]
  exact List.find?_eq_none.2 fun y hy =>
    Bool.eq_false_iff.1 (by simpa only [Bool.not_eq_true'] using (List.mem_filter.1 hy).2)

/-- A clean copy that leaves changes its core as its removal does, and no memory. -/
theorem State.putClean_core_hbm (s : State) (core tag line : Nat) (x : L1Line) (c : Nat) :
    (s.putClean core tag line x).core c = (s.delL1 core tag line).core c ∧
      (s.putClean core tag line x).mem.hbm = s.mem.hbm := by
  unfold State.putClean
  split <;> exact ⟨rfl, rfl⟩

theorem sramUncorrectable_scratch {s : State} {core team n : Nat} {t : Team} (ht : s.team? core team = some t)
    (hn : 16 * n < t.scratchBytes) :
    ∃ u, exec (.sramUncorrectable core (.scratch team n)) s = .next u ∧
      u.team? core team = some (t.setGranule n .poison) ∧ (u.core core).sramerr = satAdd (s.core core).sramerr := by
  have counted : (s.modCore core fun k => k.countErrors 1).team? core team = some t := by
    rw [← ht, State.team?, State.core_modCore_self]; rfl
  refine ⟨_, rfl, ?_, ?_⟩
  · rw [State.team?_modTeam_self, counted, Option.map_some, if_pos hn]
  · rw [State.core_modTeam_self, State.core_modCore_self]
    exact Core.countErrors_one _

theorem State.l1Error_l1? {s : State} {core tag line : Nat} {x : L1Line} (hx : (s.core core).l1? tag line = some x) :
    (s.l1Error core tag line).mem.hbm = s.mem.hbm ∧
      ((s.l1Error core tag line).core core).l1? tag line =
        if x.leavesDirty = true then some { x with lost := true } else none := by
  rw [State.l1Error, hx]
  dsimp only
  split
  · refine ⟨rfl, ?_⟩
    rw [s.l1?_modL1_self core tag line (f := fun y => { y with lost := true }) fun _ => ⟨rfl, rfl⟩, hx, Option.map_some]
  · obtain ⟨hcore, hmem⟩ := s.putClean_core_hbm core tag line x core
    exact ⟨hmem, hcore ▸ s.l1?_delL1_self core tag line⟩

theorem sramUncorrectable_l1 {s : State} {core tag line : Nat} {x : L1Line} (hx : (s.core core).l1? tag line = some x) :
    ∃ u, exec (.sramUncorrectable core (.l1 tag line)) s = .next u ∧ u.mem.hbm = s.mem.hbm ∧
      (u.core core).l1? tag line = if x.leavesDirty = true then some { x with lost := true } else none :=
  ⟨_, rfl, State.l1Error_l1? (s := s.modCore core fun k => k.countErrors 1) (by simpa using hx)⟩

theorem sramUncorrectable_elsewhere {s : State} {core pid : Nat} {p : Partition} {site : SramSite}
    (hp : s.partOfCluster (clusterOf core) = some (pid, p)) (hsite : site = .register ∨ site = .accRow ∨ site = .codebook) :
    exec (.sramUncorrectable core site) s = .next ((s.modCore core fun k => k.countErrors 1).resetPartition pid none) := by
  have counted : (s.modCore core fun k => k.countErrors 1).partOfCluster (clusterOf core) = some (pid, p) := hp
  rcases hsite with rfl | rfl | rfl <;> simp only [exec, execSramUncorrectable, counted]

/-! ### Errors in the L2 and in memory (R308) -/

@[simp] theorem length_leBytes (n x : Nat) : (leBytes n x).length = n := by
  induction n generalizing x with
  | zero => rfl
  | succ n ih => rw [leBytes, List.length_cons, ih]

@[simp] theorem State.length_freeLine (s : State) : s.freeLine.1.length = 128 := by
  rw [State.freeLine, List.length_flatMap]
  simp only [length_leBytes]
  rfl

theorem State.lineMeta_loseLine (s : State) (p q : Nat) :
    (s.loseLine p).lineMeta q = if q = p then { s.lineMeta p with lost := true } else s.lineMeta q := by
  have marked : ¬ ({ s.lineMeta p with lost := true } == LineMeta.zero) = true := fun e =>
    Bool.noConfusion (congrArg LineMeta.lost (beq_iff_eq.1 e))
  rw [State.loseLine, State.setLineMeta, if_neg marked, State.lineMeta, Table.getD, Table.get?_put]
  split <;> rfl

theorem State.loseLine_lost (s : State) (p : Nat) : ((s.loseLine p).lineMeta p).lost = true := by
  rw [s.lineMeta_loseLine, if_pos rfl]

theorem State.countError_errors (s : State) (die : Nat) :
    Table.getD (s.countError die).mem.errors die 0 = Table.getD s.mem.errors die 0 + 1 :=
  Table.getD_put_self _ _ _ _

/-- A line of memory written whole leaves every other line's bytes. -/
theorem Memory.read_writeLine (m : List Host.Cell) {pline a : Nat} {bs : List Byte} (hbs : bs.length = 128)
    (ha : a / 128 ≠ pline) : Memory.read (Memory.writeN m (128 * pline) bs) a = Memory.read m a := by
  rw [Memory.read_writeN, if_neg (by omega)]

theorem l2Uncorrectable_hbm {s : State} {pline : Nat} (h : 128 * pline < s.deviceBytes) :
    ∃ u, exec (.l2Uncorrectable (.hbm pline)) s = .next u ∧
      (u.lineMeta pline).lost = true ∧ (∀ a, a / 128 ≠ pline → Memory.read u.mem.hbm a = Memory.read s.mem.hbm a) ∧
      Table.getD u.mem.errors (physSlice pline / 128) 0 = Table.getD s.mem.errors (physSlice pline / 128) 0 + 1 :=
  ⟨_, if_neg (Nat.not_le.2 h), State.loseLine_lost _ _, fun _ => Memory.read_writeLine _ s.length_freeLine,
    State.countError_errors _ _⟩

theorem l2Uncorrectable_l2 {s : State} {x : L2Line}
    (hx : s.mem.l2.find? (fun y => y.tag == x.tag && y.line == x.line) = some x) (hr : x.remote = false) :
    ∃ u, exec (.l2Uncorrectable (.l2 x.tag x.line)) s = .next u ∧ u.mem.hbm = s.mem.hbm ∧
      Table.getD u.mem.errors (x.slice / 128) 0 = Table.getD s.mem.errors (x.slice / 128) 0 + 1 ∧
      (x.dirty = true → (u.lineMeta x.pline).lost = true) ∧
      (x.dirty = false → u.mem.lines = s.mem.lines ∧ u.mem.l2.find? (fun y => y.tag == x.tag && y.line == x.line) =
        some { x with data := Memory.readN s.mem.hbm (128 * x.pline) 128 }) := by
  simp only [exec, execL2Uncorrectable, hx]
  rw [if_neg (by simp [hr])]
  split
  · rename_i dirty
    exact ⟨_, rfl, rfl, s.countError_errors _, fun _ => State.loseLine_lost _ _, fun clean => by simp [dirty] at clean⟩
  · rename_i clean
    refine ⟨_, rfl, rfl, s.countError_errors _, fun dirty => absurd dirty clean, fun _ => ⟨rfl, ?_⟩⟩
    refine (find?_map_ite (fun y : L2Line => y.tag == x.tag && y.line == x.line)
      (f := fun y => { y with data := Memory.readN s.mem.hbm (128 * x.pline) 128 }) (fun _ h => h) _).trans ?_
    exact congrArg (Option.map _) hx

/-! ### A failed die link (R327) -/

theorem mem_insertNat {x y : Nat} {l : List Nat} : y ∈ insertNat x l ↔ y = x ∨ y ∈ l := by
  induction l with
  | nil => simp [insertNat]
  | cons z l ih =>
    simp only [insertNat, beq_iff_eq]
    split
    · simp
    · split
      · simp [*]
      · simp only [List.mem_cons, ih]; exact or_left_comm

theorem mem_unionNat {y : Nat} {a b : List Nat} : y ∈ unionNat a b ↔ y ∈ a ∨ y ∈ b := by
  unfold unionNat
  induction a generalizing b with
  | nil => simp
  | cons x a ih => rw [List.foldl_cons, ih, mem_insertNat, List.mem_cons, or_assoc, or_left_comm]

/-- A line that the L2 holds under an ASID is one that a cut of it takes. -/
theorem State.mem_plinesOf_of_cached {s : State} {x : L2Line} (hx : x ∈ s.mem.l2) (hp : x.tag ≠ physAsid)
    (hr : x.remote = false) : x.pline ∈ s.plinesOf (x.tag % 2 ^ 20) x.line :=
  mem_unionNat.2 <| .inl <| mem_unionNat.2 <| .inl <|
    List.mem_map.2 ⟨x, List.mem_filter.2 ⟨hx, by simp [hp, hr]⟩, rfl⟩

/-- `t` is `s` but for the marks of physical lines, of which none that is lost is so no more. -/
def LosesLines (s t : State) : Prop :=
  (∃ lines, t = { s with mem := { s.mem with lines := lines } }) ∧
    ∀ p, (s.lineMeta p).lost = true → (t.lineMeta p).lost = true

theorem LosesLines.foldl (l : List Nat) (s : State) : LosesLines s (l.foldl State.loseLine s) := by
  induction l generalizing s with
  | nil => exact ⟨⟨s.mem.lines, rfl⟩, fun _ h => h⟩
  | cons p l ih =>
    obtain ⟨⟨lines, h⟩, keep⟩ := ih (s.loseLine p)
    refine ⟨⟨lines, by rw [List.foldl_cons, h]; rfl⟩, fun q hq => keep q ?_⟩
    rw [s.lineMeta_loseLine]
    split
    · rfl
    · exact hq

theorem State.foldl_loseLine_lost (s : State) {p : Nat} {l : List Nat} (hp : p ∈ l) :
    ((l.foldl State.loseLine s).lineMeta p).lost = true := by
  induction l generalizing s with
  | nil => cases hp
  | cons q l ih =>
    rcases List.mem_cons.1 hp with rfl | hp
    · exact (LosesLines.foldl l _).2 p (s.loseLine_lost p)
    · exact ih _ hp

/-- The state once the lines of a failed link are cut, one by one. -/
def State.cutLines (s : State) (lines : List (Nat × Nat)) : State := lines.foldl (fun (u : State) l => u.cutLine l.1 l.2) s

/-- A cut changes the marks of lines, of which none that is lost is so no more, and ends the transactions of its line. -/
theorem State.cutLine_changes (s : State) (asid line : Nat) :
    (∃ marks, s.cutLine asid line = { s with mem := { s.mem with
      lines := marks, txns := s.mem.txns.filter fun t => !(t.tag % 2 ^ 20 == asid && t.line == line) } }) ∧
    ∀ p, (s.lineMeta p).lost = true → ((s.cutLine asid line).lineMeta p).lost = true := by
  obtain ⟨⟨marks, h⟩, keep⟩ := LosesLines.foldl (s.plinesOf asid line)
    (s.modMem fun m => { m with txns := m.txns.filter fun t => !(t.tag % 2 ^ 20 == asid && t.line == line) })
  exact ⟨⟨marks, h⟩, keep⟩

theorem State.cutLines_changes (s : State) (lines : List (Nat × Nat)) :
    (∃ marks, s.cutLines lines = { s with mem := { s.mem with
      lines := marks
      txns := s.mem.txns.filter fun t => lines.all fun l => !(t.tag % 2 ^ 20 == l.1 && t.line == l.2) } }) ∧
    ∀ p, (s.lineMeta p).lost = true → ((s.cutLines lines).lineMeta p).lost = true := by
  induction lines generalizing s with
  | nil =>
    have all_go_on : s.mem.txns = s.mem.txns.filter fun _ => true := (List.filter_eq_self.2 fun _ _ => rfl).symm
    exact ⟨⟨s.mem.lines, congrArg (fun txns => { s with mem := { s.mem with txns := txns } }) all_go_on⟩, fun _ h => h⟩
  | cons l lines ih =>
    obtain ⟨⟨marks, h⟩, keep⟩ := s.cutLine_changes l.1 l.2
    obtain ⟨⟨marks', h'⟩, keep'⟩ := ih (s.cutLine l.1 l.2)
    refine ⟨⟨marks', h'.trans ?_⟩, fun p hp => keep' p (keep p hp)⟩
    rw [h]
    simp only [List.filter_filter, List.all_cons, Bool.and_comm]

@[simp] theorem State.cutLine_l2 (s : State) (asid line : Nat) : (s.cutLine asid line).mem.l2 = s.mem.l2 := by
  obtain ⟨⟨marks, h⟩, -⟩ := s.cutLine_changes asid line
  rw [h]

@[simp] theorem State.cutLines_hbm (s : State) (lines : List (Nat × Nat)) : (s.cutLines lines).mem.hbm = s.mem.hbm := by
  obtain ⟨⟨marks, h⟩, -⟩ := s.cutLines_changes lines
  rw [h]

@[simp] theorem State.cutLines_failedLinks (s : State) (lines : List (Nat × Nat)) :
    (s.cutLines lines).mem.failedLinks = s.mem.failedLinks := by
  obtain ⟨⟨marks, h⟩, -⟩ := s.cutLines_changes lines
  rw [h]

/-- No transaction on a line that has been cut goes on. -/
theorem State.cutLines_ends {s : State} {lines : List (Nat × Nat)} {l : Nat × Nat} (hl : l ∈ lines) {t : Txn}
    (ht : t ∈ (s.cutLines lines).mem.txns) (hasid : t.tag % 2 ^ 20 = l.1) : t.line ≠ l.2 := by
  obtain ⟨⟨marks, h⟩, -⟩ := s.cutLines_changes lines
  rw [h] at ht
  have kept := List.all_eq_true.1 (List.mem_filter.1 ht).2 l hl
  intro hline
  simp [-Nat.reducePow, hasid, hline] at kept

/-- Every line of the L2 that a failed link takes is lost. -/
theorem State.cutLines_lost {s : State} {lines : List (Nat × Nat)} {l : Nat × Nat} (hl : l ∈ lines) {x : L2Line}
    (hx : x ∈ s.mem.l2) (hasid : x.tag % 2 ^ 20 = l.1) (hp : x.tag ≠ physAsid) (hline : x.line = l.2)
    (hr : x.remote = false) : ((s.cutLines lines).lineMeta x.pline).lost = true := by
  induction lines generalizing s with
  | nil => cases hl
  | cons l' lines ih =>
    rcases List.mem_cons.1 hl with rfl | hl
    · refine (State.cutLines_changes _ lines).2 _ (State.foldl_loseLine_lost _ ?_)
      rw [← hasid, ← hline]
      exact State.mem_plinesOf_of_cached hx hp hr
    · exact ih hl (s.cutLine_l2 l'.1 l'.2 ▸ hx)

/-- The partitions that a failed link resets. -/
def State.linkHits (s : State) (lines : List (Nat × Nat)) : List Nat :=
  (s.parts.filter fun p => lines.any fun l => s.hasAsid p.2 l.1 || s.hasMessage p.2 l.1 l.2).map fun p => p.1

theorem State.mem_linkHits {s : State} {lines : List (Nat × Nat)} {pid : Nat} : pid ∈ s.linkHits lines ↔
    ∃ p, (pid, p) ∈ s.parts ∧ ∃ l ∈ lines, s.hasAsid p l.1 = true ∨ s.hasMessage p l.1 l.2 = true := by
  simp [State.linkHits]

theorem dieLinkFail_next {s : State} {a b : Nat} (lines : List (Nat × Nat)) (hab : a < b) (hb : b < 4)
    (hn : (a, b) ∉ s.mem.failedLinks) :
    exec (.dieLinkFail a b lines) s = .next ((s.linkHits lines).foldl
      (fun (u : State) pid => u.resetPartition pid (some .lineLost))
      ((s.modMem fun m => { m with failedLinks := m.failedLinks ++ [(a, b)] }).cutLines lines)) :=
  if_neg (by simp [hab, hb, hn])

theorem dieLinkFail_lines {s : State} {a b : Nat} {lines : List (Nat × Nat)} (hab : a < b) (hb : b < 4)
    (hn : (a, b) ∉ s.mem.failedLinks)
    (hno : ∀ p ∈ s.parts, ∀ l ∈ lines, s.hasAsid p.2 l.1 = false ∧ s.hasMessage p.2 l.1 l.2 = false) :
    ∃ u, exec (.dieLinkFail a b lines) s = .next u ∧
      u.mem.failedLinks = s.mem.failedLinks ++ [(a, b)] ∧ u.mem.hbm = s.mem.hbm ∧
      (∀ l ∈ lines, ∀ t ∈ u.mem.txns, t.tag % 2 ^ 20 = l.1 → t.line ≠ l.2) ∧
      ∀ l ∈ lines, ∀ x ∈ s.mem.l2, x.tag % 2 ^ 20 = l.1 → x.tag ≠ physAsid → x.line = l.2 → x.remote = false →
        (u.lineMeta x.pline).lost = true := by
  have none_hit : s.linkHits lines = [] := by
    refine List.eq_nil_iff_forall_not_mem.2 fun pid h => ?_
    obtain ⟨p, hp, l, hl, hit⟩ := State.mem_linkHits.1 h
    obtain ⟨hasid, hmsg⟩ := hno _ hp l hl
    simp [hasid, hmsg] at hit
  have next := dieLinkFail_next lines hab hb hn
  rw [none_hit] at next
  exact ⟨_, next, State.cutLines_failedLinks _ _, State.cutLines_hbm _ _, fun _ hl _ ht => State.cutLines_ends hl ht,
    fun _ hl _ hx hasid hp hline hr => State.cutLines_lost hl hx hasid hp hline hr⟩

/-! ### The host's accesses (R229, R236, R397) -/

/-- What a host access that is not served leaves: an answer, unless it is a write that no code stops. -/
def State.hostUnserved (s : State) (pa : Nat) (write : Option (List Byte)) (code : Option Code) : State :=
  if write.isNone || code.isSome then s.hostAnswer (poisoned pa code) else s

/-- A host access within one line, with its checks in their order. -/
theorem exec_hostMemAccess {pa len : Nat} (h0 : len ≠ 0) (h128 : pa % 128 + len ≤ 128) (write : Option (List Byte))
    (s : State) : exec (.hostMemAccess pa len write) s =
      if !s.hdmMaps pa len then .next (s.hostUnserved pa write none)
      else if !(s.frameBits (pa / 65536)).host then
        .next ((s.hostRefused pa write.isSome).hostUnserved pa write
          (if s.ipLine (pa / 128) then some .ipOwner else none))
      else if s.ipLine (pa / 128) then .next (s.hostUnserved pa write (some .ipOwner))
      else if (s.lineMeta (pa / 128)).lost then .next (s.hostUnserved pa write (some .lineLost))
      else if s.mem.l2.any (fun x => x.pline == pa / 128 && ((s.txn? x.tag x.line).isSome || x.dir.st == .en)) then .next s
      else match write with
        | none => .next ((s.touchPline (pa / 128)).hostAnswer
            { pa := pa, data := slice (s.performedLine (pa / 128)) (pa % 128) len, poison := false, code := none })
        | some bs => .next (if bs.length == len then (s.hostWrite pa bs).touchPline (pa / 128) else s) :=
  if_neg (by simp; omega)

theorem State.hostUnserved_code (s : State) (pa : Nat) (write : Option (List Byte)) (code : Code) :
    s.hostUnserved pa write (some code) = s.hostAnswer (poisoned pa (some code)) :=
  if_pos (by simp)

/-- An access that is not served changes the host's answer alone. -/
theorem State.hostUnserved_eq (s : State) (pa : Nat) (write : Option (List Byte)) (code : Option Code) :
    s.hostUnserved pa write code = { s with pkg := { s.pkg with
      hostReply := if write.isNone || code.isSome then some (poisoned pa code) else s.pkg.hostReply } } := by
  unfold State.hostUnserved
  split <;> rfl

theorem Mailbox.eventAt_host {m : Mailbox} {pa : Nat} (h : m.eventAt = some pa) : 2 ^ 51 ≤ pa := by
  unfold Mailbox.eventAt at h
  split at h
  · split at h
    · cases h
    · cases h; exact Nat.le_add_right _ _
  · cases h

/-- An event goes to host memory (R394, R396). -/
theorem State.post_read (s : State) (fn : Nat) (e : Event) {a : Nat} (ha : a < 2 ^ 51) :
    Memory.read (s.post fn e).mem.hbm a = Memory.read s.mem.hbm a := by
  simp only [State.post, State.setMem_mem]
  cases h : (s.mailbox fn).eventAt with
  | none => rfl
  | some pa =>
    have := Mailbox.eventAt_host h
    exact (Memory.read_writeN _ _ _ _).trans (if_neg (by omega))

theorem State.touchPline_hbm (s : State) (pline : Nat) : (s.touchPline pline).mem.hbm = s.mem.hbm := by
  unfold State.touchPline
  split <;> rfl

theorem State.notify_hbm (s : State) (pline : Nat) : (s.notify pline).mem.hbm = s.mem.hbm := by
  unfold State.notify
  split <;> rfl

/-- A host write of a line that the L2 does not hold goes to memory. -/
theorem State.hostWrite_hbm {s : State} {pa : Nat} (bs : List Byte) (h : ∀ x ∈ s.mem.l2, x.pline ≠ pa / 128) :
    (s.hostWrite pa bs).mem.hbm = Memory.writeN s.mem.hbm pa bs := by
  obtain ⟨stale, hs⟩ := s.noteStale_changes (pa / 128) (lineWords (s.performedLine (pa / 128)))
  have none_held : (s.mem.l2.filter fun x => x.pline == pa / 128 && !x.remote) = [] :=
    List.filter_eq_nil_iff.2 fun x hx => by simp [h x hx]
  rw [State.hostWrite, State.notify_hbm, hs]
  simp only [none_held]
  rfl

section
variable {s : State} {pa : Nat} {bs : List Byte} (h0 : bs ≠ []) (h128 : pa % 128 + bs.length ≤ 128)
include h0 h128

theorem hostMemAccess_unmapped (home : ¬ s.hdmMaps pa bs.length = true) :
    exec (.hostMemAccess pa bs.length none) s = .next (s.hostAnswer (poisoned pa none)) ∧
      exec (.hostMemAccess pa bs.length (some bs)) s = .next s := by
  simp only [exec_hostMemAccess (mt List.length_eq_zero_iff.1 h0) h128, home]
  exact ⟨rfl, rfl⟩

/-- The host's access to its own frame, once no check refuses it and the home is not busy with the line. -/
theorem hostMemAccess_serves (home : s.hdmMaps pa bs.length = true) (host : (s.frameBits (pa / 65536)).host = true)
    (ip : ¬ s.ipLine (pa / 128) = true) (lost : (s.lineMeta (pa / 128)).lost = false)
    (idle : ∀ x ∈ s.mem.l2, x.pline = pa / 128 → s.txn? x.tag x.line = none ∧ x.dir.st ≠ .en) :
    exec (.hostMemAccess pa bs.length none) s = .next ((s.touchPline (pa / 128)).hostAnswer
      { pa := pa, data := slice (s.performedLine (pa / 128)) (pa % 128) bs.length, poison := false, code := none }) ∧
    exec (.hostMemAccess pa bs.length (some bs)) s = .next ((s.hostWrite pa bs).touchPline (pa / 128)) := by
  have free : s.mem.l2.any (fun x => x.pline == pa / 128 && ((s.txn? x.tag x.line).isSome || x.dir.st == .en)) = false := by
    refine List.any_eq_false.2 fun x hx => ?_
    by_cases hp : x.pline = pa / 128
    · obtain ⟨htxn, hen⟩ := idle x hx hp
      simp [htxn, hen]
    · simp [hp]
  simp [exec_hostMemAccess (mt List.length_eq_zero_iff.1 h0) h128, home, host, ip, lost, free]

theorem hostMemAccess_writes (home : s.hdmMaps pa bs.length = true) (host : (s.frameBits (pa / 65536)).host = true)
    (ip : ¬ s.ipLine (pa / 128) = true) (lost : (s.lineMeta (pa / 128)).lost = false)
    (out : ∀ x ∈ s.mem.l2, x.pline ≠ pa / 128) :
    ∃ u, exec (.hostMemAccess pa bs.length (some bs)) s = .next u ∧
      ∀ a, Memory.read u.mem.hbm a =
        if pa ≤ a ∧ a < pa + bs.length then nth bs (a - pa) 0 else Memory.read s.mem.hbm a := by
  refine ⟨_, (hostMemAccess_serves h0 h128 home host ip lost fun x hx e => absurd e (out x hx)).2, fun a => ?_⟩
  rw [State.touchPline_hbm, State.hostWrite_hbm bs out, Memory.read_writeN]

theorem hostMemAccess_refused (home : s.hdmMaps pa bs.length = true) (host : (s.frameBits (pa / 65536)).host = true)
    (w : Option (List Byte)) :
    (¬ s.ipLine (pa / 128) = true → (s.lineMeta (pa / 128)).lost = true →
      exec (.hostMemAccess pa bs.length w) s = .next (s.hostAnswer (poisoned pa (some .lineLost)))) ∧
    (s.ipLine (pa / 128) = true →
      exec (.hostMemAccess pa bs.length w) s = .next (s.hostAnswer (poisoned pa (some .ipOwner)))) := by
  rw [exec_hostMemAccess (mt List.length_eq_zero_iff.1 h0) h128]
  exact ⟨fun ip lost => by simp [home, host, ip, lost, State.hostUnserved_code],
    fun ip => by simp [home, host, ip, State.hostUnserved_code]⟩

/-- The host's access to a device-owned frame, which R397 logs. -/
theorem hostMemAccess_deviceOwned (home : s.hdmMaps pa bs.length = true)
    (host : (s.frameBits (pa / 65536)).host = false) (w : Option (List Byte)) :
    ∃ u, exec (.hostMemAccess pa bs.length w) s = .next u ∧ u.cores = s.cores ∧ u.mem.l2 = s.mem.l2 ∧
      (∀ a, a < 2 ^ 51 → Memory.read u.mem.hbm a = Memory.read s.mem.hbm a) ∧
      u.pkg.hvValid = true ∧ u.pkg.hvCount = satAdd s.pkg.hvCount ∧
      (s.pkg.hvValid = false → u.pkg.hvAddr = pa ∧ u.pkg.hvWr = w.isSome) ∧
      (w = none → ∃ code, u.pkg.hostReply = some (poisoned pa code)) ∧
      (s.ipLine (pa / 128) = true → u.pkg.hostReply = some (poisoned pa (some .ipOwner))) := by
  have next : exec (.hostMemAccess pa bs.length w) s = .next ((s.hostRefused pa w.isSome).hostUnserved pa w
      (if s.ipLine (pa / 128) then some .ipOwner else none)) := by
    simp [exec_hostMemAccess (mt List.length_eq_zero_iff.1 h0) h128, home, host]
  rw [State.hostUnserved_eq] at next
  refine ⟨_, next, rfl, rfl, fun a ha => State.post_read _ _ _ ha, rfl, rfl, fun hv => ?_, fun hw => ?_, fun ip => ?_⟩
  · exact ⟨if_neg (by simp [hv]), if_neg (by simp [hv])⟩
  · exact ⟨_, if_pos (by simp [hw])⟩
  · simp [ip]

end

/-- Settles O58: each kind of error, the failed link and each kind of host access by its own lemma. -/
theorem errorsAndHostAccesses : Obligations.ErrorsAndHostAccesses :=
  ⟨fun _ _ _ _ _ ht hn => sramUncorrectable_scratch ht hn,
    fun _ _ _ _ _ hx => sramUncorrectable_l1 hx,
    fun _ _ _ _ _ hp hsite => sramUncorrectable_elsewhere hp hsite,
    fun _ _ h => l2Uncorrectable_hbm h,
    fun _ _ hx hr => l2Uncorrectable_l2 hx hr,
    fun _ _ _ _ hab hb hn hno => dieLinkFail_lines hab hb hn hno,
    fun s _ _ lines hab hb hn => ⟨s.linkHits lines, dieLinkFail_next lines hab hb hn, fun _ => State.mem_linkHits⟩,
    fun _ _ _ h0 h128 =>
      ⟨hostMemAccess_unmapped h0 h128,
        fun home host ip lost out => hostMemAccess_writes h0 h128 home host ip lost out,
        fun home host ip lost idle => (hostMemAccess_serves h0 h128 home host ip lost idle).1,
        fun home host w _ => hostMemAccess_refused h0 h128 home host w,
        fun home host w _ => hostMemAccess_deviceOwned h0 h128 home host w⟩⟩

end Sys2Proof.Machine

/-! PROOFS. A copy engine's lines (R207, R230, R316). -/

namespace Sys2Proof.Machine

/-! ### The line that an engine asks for -/

/-- A line that the L2 holds taken by an engine, at once where no L1 copy of it must go first (R313, R316). -/
def State.takeLine (s : State) (cl unit : Nat) (l : Ln) : State :=
  let t : Txn := { tag := l.tag, line := l.line, kind := .engine cl unit,
                   waiting := (s.dir l.tag l.line l.pline).probes none }
  if t.waiting = [] then s.finishTxn t else s.openTxn t

section
variable {s v : State} {cl unit : Nat} {c : Copy} {d : CopyDesc} {l : Ln} (hunit : unit < 2)
  (hc : (s.leat cl unit).head = some c) (hd : c.desc = some d) (hread : c.lineRead d = true) (hwait : c.waitCode = none)
  (hown : s.linesOwned cl unit = []) (hl : s.access .engineWrite none c.vmid c.asid (d.dstAt c.granules) 16 = .ok l)
  (hbusy : s.lineBusy l.tag l.line l.pline = false) (hheld : s.held (engineAgent cl unit) l.tag l.line true = false)
  (hlog : s.logWrite c.vmid c.asid (d.dstAt c.granules) = (true, v))
include hunit hc hd hread hwait hown hl hbusy hheld hlog

/-- A request that nothing holds up: a line that is not tracked is written, another taken once the L2 has it. -/
theorem engineLineRequest_goes : exec (.engineLineRequest cl unit c.asid (d.dstAt c.granules / 128)) s =
    .next (if v.needsOwner l then (v.fillL2 l (s.maskOfVm c.vmid) 0).elim s fun u => u.takeLine cl unit l
      else (v.keepFill l (d.dstAt c.granules)).writeUnowned cl unit c d l) := by
  have hunit' : ¬ 2 ≤ unit := by omega
  simp only [exec, execEngineLineRequest, hunit', hc, hd, hread, hwait, hown, hl, hbusy, hheld, hlog]
  cases v.needsOwner l with
  | false => simp
  | true => cases v.fillL2 l (s.maskOfVm c.vmid) 0 <;> simp [State.takeLine]

end

/-! ### A line written whole (R230, R316) -/

/-- What a list of writes at the home leaves of the L2's copy. -/
def L2Line.writes (x : L2Line) (ws : List (Nat × List Byte)) : L2Line :=
  { x with
    data := ws.foldl (fun bs w => patch bs w.1 w.2) x.data
    dirty := x.dirty || !ws.isEmpty }

/-- `t` is `s` but for L2 copies, the notices and the old words of code; and its L2 holds the line of `y` as `y`. -/
structure HoldsLine (s t : State) (y : L2Line) : Prop where
  frame : ∃ l2 clock notices stale, t = { s with mem := { s.mem with
    l2 := l2, useClock := clock, notices := notices, stale := stale } }
  held : t.mem.l2.find? (fun z => z.tag == y.tag && z.line == y.line) = some y

namespace HoldsLine

variable {s t : State} {y : L2Line}

theorem boot (h : HoldsLine s t y) : t.boot = s.boot := by
  obtain ⟨_, _, _, _, rfl⟩ := h.frame
  rfl

theorem cores (h : HoldsLine s t y) : t.cores = s.cores := by
  obtain ⟨_, _, _, _, rfl⟩ := h.frame
  rfl

theorem noteStale (h : HoldsLine s t y) (pline : Nat) (ws : List DWord) : HoldsLine s (t.noteStale pline ws) y := by
  obtain ⟨⟨_, _, _, _, rfl⟩, held⟩ := h
  obtain ⟨stale, ht⟩ := State.noteStale_changes _ pline ws
  exact ht ▸ ⟨⟨_, _, _, stale, rfl⟩, held⟩

theorem notify (h : HoldsLine s t y) (pline : Nat) : HoldsLine s (t.notify pline) y := by
  unfold State.notify
  split
  · obtain ⟨⟨_, _, _, _, rfl⟩, held⟩ := h
    exact ⟨⟨_, _, _, _, rfl⟩, held⟩
  · exact h

variable (hm : s.boot.memSide = false)
include hm

theorem modL2 (h : HoldsLine s t y) (pline : Nat) {f : L2Line → L2Line}
    (hf : ∀ z, (f z).tag = z.tag ∧ (f z).line = z.line) :
    HoldsLine s (t.modL2 y.tag y.line pline f) (f y) := by
  have hm' : t.boot.memSide = false := h.boot ▸ hm
  have l2 : (t.modL2 y.tag y.line pline f).mem.l2 =
      t.mem.l2.map fun z => if z.tag == y.tag && z.line == y.line then f z else z := by simp [State.modL2, hm']
  obtain ⟨htag, hline⟩ := hf y
  refine ⟨?_, ?_⟩
  · obtain ⟨⟨_, _, _, _, rfl⟩, -⟩ := h
    exact ⟨_, _, _, _, rfl⟩
  · rw [l2, htag, hline, find?_map_ite (fun z : L2Line => z.tag == y.tag && z.line == y.line)
      (fun z hz => by rw [(hf z).1, (hf z).2]; exact hz), h.held, Option.map_some]

theorem touchL2 (h : HoldsLine s t y) (pline : Nat) :
    HoldsLine s (t.touchL2 y.tag y.line pline) { y with used := t.mem.useClock + 1 } := by
  have ticked : HoldsLine s (t.modMem fun m => { m with useClock := m.useClock + 1 }) y := by
    obtain ⟨⟨_, _, _, _, rfl⟩, held⟩ := h
    exact ⟨⟨_, _, _, _, rfl⟩, held⟩
  exact ticked.modL2 hm pline fun _ => ⟨rfl, rfl⟩

theorem writeHome (h : HoldsLine s t y) (pline off : Nat) (bs : List Byte) :
    HoldsLine s (t.writeHome y.tag y.line pline off bs) (y.writes [(off, bs)]) := by
  have hm' : t.boot.memSide = false := h.boot ▸ hm
  have held : t.l2? y.tag y.line pline = some y := by rw [State.l2?, hm']; exact h.held
  have written : y.writes [(off, bs)] = { y with data := patch y.data off bs, dirty := true } := by simp [L2Line.writes]
  rw [State.writeHome, held, written]
  exact (h.modL2 hm pline (f := fun z => { z with data := patch z.data off bs, dirty := true })
    fun _ => ⟨rfl, rfl⟩).notify pline

theorem writeHomes (h : HoldsLine s t y) (pline : Nat) (ws : List (Nat × List Byte)) :
    HoldsLine s (ws.foldl (fun t w => t.writeHome y.tag y.line pline w.1 w.2) t) (y.writes ws) := by
  induction ws generalizing t y with
  | nil => simpa [L2Line.writes] using h
  | cons w ws ih => simpa [L2Line.writes] using ih (h.writeHome hm pline w.1 w.2)

end HoldsLine

/-- No core having a copy of a line, none is dropped. -/
theorem State.dropTracked_eq_self {s : State} {tag line : Nat} (h : ∀ k ∈ s.cores, k.2.l1? tag line = none) :
    s.dropTracked tag line = s := by
  unfold State.dropTracked
  generalize s.cores = cores at h
  induction cores with
  | nil => rfl
  | cons k cores ih =>
    rw [List.foldl_cons, h k List.mem_cons_self]
    exact ih fun k hk => h k (List.mem_cons_of_mem _ hk)

/-- A line that only the L2 holds, written at its home: the L2's copy takes the bytes, and the entry goes to I. -/
theorem State.writeAtHome_holdsLine {s : State} {x : L2Line} {l : Ln} (hm : s.boot.memSide = false)
    (hx : s.mem.l2.find? (fun y => y.tag == x.tag && y.line == x.line) = some x)
    (htag : l.tag = x.tag) (hline : l.line = x.line)
    (hno : ∀ k ∈ s.cores, k.2.l1? x.tag x.line = none) (ws : List (Nat × List Byte)) :
    ∃ used, HoldsLine s (s.writeAtHome l ws) { ({ x with used := used } : L2Line).writes ws with dir := DirEntry.empty } := by
  have stale : HoldsLine s (s.staleCode l) x := HoldsLine.noteStale ⟨⟨_, _, _, _, rfl⟩, hx⟩ _ _
  have none_dropped : (s.staleCode l).dropTracked x.tag x.line = s.staleCode l :=
    State.dropTracked_eq_self (stale.cores ▸ hno)
  have written := (stale.touchL2 hm l.pline).writeHomes hm l.pline ws
  have given_up := written.modL2 hm l.pline (f := fun y => { y with dir := DirEntry.empty }) fun _ => ⟨rfl, rfl⟩
  refine ⟨(s.staleCode l).mem.useClock + 1, ?_⟩
  rw [State.writeAtHome, htag, hline, none_dropped]
  exact given_up

theorem engineLineRelease_writes {s : State} {cl unit : Nat} {c : Copy} {d : CopyDesc} {x : L2Line} (hunit : unit < 2)
    (hm : s.boot.memSide = false) (hc : (s.leat cl unit).head = some c) (hd : c.desc = some d)
    (hx : s.mem.l2.find? (fun y => y.tag == x.tag && y.line == x.line) = some x)
    (hown : (s.linesOwned cl unit).find? (fun y => y.tag % 2 ^ 20 == x.tag % 2 ^ 20 && y.line == x.line) = some x)
    (hno : ∀ k ∈ s.cores, k.2.l1? x.tag x.line = none) : ∃ (u : State) (y : L2Line),
    exec (.engineLineRelease cl unit (x.tag % 2 ^ 20) x.line) s = .next (u.modCopy cl unit c.seq Copy.lineWritten) ∧
    u.mem.l2.find? (fun y => y.tag == x.tag && y.line == x.line) = some y ∧ y.dir = DirEntry.empty ∧
    y.dirty = (x.dirty || !c.staged.isEmpty) ∧
    y.data = (c.stagedWrites d).foldl (fun bs w => patch bs w.1 w.2) x.data ∧
    u.cores = s.cores ∧ u.mem.hbm = s.mem.hbm ∧ u.clusters = s.clusters := by
  have hunit' : ¬ 2 ≤ unit := by omega
  have next : exec (.engineLineRelease cl unit (x.tag % 2 ^ 20) x.line) s = .next (s.writeLine cl unit c d x) := by
    simp only [exec, execEngineLineRelease, hunit', hc, hown, hd, if_false]
  obtain ⟨used, ⟨⟨_, _, _, _, hu⟩, held⟩⟩ := s.writeAtHome_holdsLine (l :=
    { vmid := x.vmid, tag := x.tag, line := x.line, pline := x.pline, perms := x.perms, log := false, heap := false,
      fill := none }) hm hx rfl rfl hno (c.stagedWrites d)
  refine ⟨_, _, next, held, rfl, ?_, rfl, by rw [hu], by rw [hu], by rw [hu]⟩
  cases h : c.staged <;> simp [L2Line.writes, Copy.stagedWrites, h]

/-- A line that no engine owns and that is not of a WO page is written at its home. -/
theorem State.writeUnowned_atHome (s : State) (cl unit : Nat) (c : Copy) (d : CopyDesc) {l : Ln} (h : l.perms.attr ≠ .wo) :
    s.writeUnowned cl unit c d l = (s.writeAtHome l (c.stagedWrites d)).modCopy cl unit c.seq Copy.lineWritten :=
  if_neg (by simpa using h)

/-- A line of a WO page is written where no other claim stands on its granules (R207). -/
theorem State.writeUnowned_wo {s : State} (cl unit : Nat) {c : Copy} {d : CopyDesc} {l : Ln} (h : l.perms.attr = .wo)
    (hfree : s.claimTaken l.pline (writesMask ((c.stagedWrites d).map fun w => (0, w))) (2 ^ 32) 0 0 = 0) :
    s.writeUnowned cl unit c d l =
      (s.woWrite none l ((c.stagedWrites d).map fun w => (0, w))).modCopy cl unit c.seq Copy.lineWritten :=
  (if_pos (by simpa using h)).trans (if_neg (by simpa using hfree))

/-- Settles O34: a request that goes either takes the line or writes it, and a release is one write at the line's home. -/
theorem engineLines : Obligations.EngineLines := by
  refine ⟨fun s u v cl unit c d l hunit hc hd hread hwait hown hl hbusy hheld hlog howner hfill => ?_,
    fun s v cl unit c d l hunit hc hd hread hwait hown hl hbusy hheld hlog howner => ?_,
    fun s cl unit c d x hunit hm hc hd hx hown hno => ?_⟩
  · rw [engineLineRequest_goes hunit hc hd hread hwait hown hl hbusy hheld hlog, if_pos howner, hfill]
    rfl
  · have goes := engineLineRequest_goes hunit hc hd hread hwait hown hl hbusy hheld hlog
    rw [howner] at goes
    exact ⟨fun hwo => goes.trans (congrArg _ (State.writeUnowned_atHome _ cl unit c d hwo)),
      fun hwo hfree => goes.trans (congrArg _ (State.writeUnowned_wo cl unit hwo hfree))⟩
  · have release := engineLineRelease_writes hunit hm hc hd hx hown hno
    rw [Copy.stagedWrites, List.foldl_map] at release
    exact release

end Sys2Proof.Machine

/-! PROOFS. What the system requests do (R232, R325, R330, R331, R390, R391). -/

namespace Sys2Proof.Machine

/-! ### Results of requests -/

section
variable {s : State} {r : Runner} {p : Pending} (h : s.Outstanding r p)
include h

theorem longResultArrive_going (hgo : p.going = true) (part : Option Nat) :
    exec (.longResultArrive r.core r.slot p.id part) s = .next (s.arriveFor r p part) := by
  simp only [exec, execLongResultArrive, h.runs, h.entry, hgo, if_true]

/-- The answer of a SYSRD: the register as its reader's sub-gang finds it, and nothing once that has gone. -/
theorem sysrd_answers {sel d : Nat} (hop : p.op = .sysrd sel d) (hgo : p.going = true) (part : Option Nat)
    {found : Option SubGang} (hb : r.gang.subs.find? (fun x => x.anc.contains p.sub) = found) :
    exec (.longResultArrive r.core r.slot p.id part) s =
      .next (((s.tick r.core sel).afterRead r.core r.slot sel).deliver r.core r.slot p.id (found.elim Out.none fun b =>
        { Out.none with sregs := [(d, (s.tick r.core sel).special r.core r.gang b r.team r.grid sel)] })) := by
  rw [longResultArrive_going h hgo, State.arriveFor, hop]
  simp only [State.sysrdArrive, hb]
  cases found <;> rfl

theorem syswr_acts {sel : Nat} {w : Word} (hop : p.op = .syswr sel w) (hgo : p.going = true) (part : Option Nat) :
    exec (.longResultArrive r.core r.slot p.id part) s =
      .next ((s.writeSpecial r.core r.slot r.grid.pid sel w).deliver r.core r.slot p.id Out.none) := by
  rw [longResultArrive_going h hgo, State.arriveFor, hop]
  rfl

end

/-! ### SYSWR (R178, R390) -/

theorem Gang.setRm_ofNat (g : Gang) (n : Nat) :
    g.setRm (BitVec.ofNat 3 n) = if 1 ≤ n % 8 ∧ n % 8 ≤ 4 then { g with rm := BitVec.ofNat 3 n } else g := by
  have bad : (BitVec.ofNat 3 n == 0 || decide (5 ≤ (BitVec.ofNat 3 n).toNat)) = !decide (1 ≤ n % 8 ∧ n % 8 ≤ 4) := by
    rw [Bool.eq_iff_iff]
    simp [BitVec.toNat_eq]
    omega
  rw [Gang.setRm, bad]
  by_cases h : 1 ≤ n % 8 ∧ n % 8 ≤ 4 <;> simp [h]

theorem State.gang?_writeSpecial_gmode {s : State} {core slot : Nat} {g : Gang} (hg : s.gang? core slot = some g) (pid : Nat)
    (w : Word) : (s.writeSpecial core slot pid 0x41 w).gang? core slot = some
      (if 1 ≤ w.toNat % 8 ∧ w.toNat % 8 ≤ 4 then { g with rm := BitVec.ofNat 3 w.toNat } else g) := by
  have set : s.writeSpecial core slot pid 0x41 w = s.modGang core slot fun g => g.setRm (BitVec.ofNat 3 w.toNat) := if_pos rfl
  rw [set, State.gang?_modGang_self, hg, Option.map_some, Gang.setRm_ofNat]

/-- Of a gang's own special registers SYSWR changes `GMODE` alone. -/
theorem State.writeSpecial_own {sel : Nat} (hsel : sel < 0x400) (hne : sel ≠ 0x41) (s : State) (core slot pid : Nat)
    (w : Word) : s.writeSpecial core slot pid sel w = s :=
  (if_neg (by simpa using hne)).trans (if_pos hsel)

/-! ### FIRMCALL (R391) -/

/-- Whether an entry is a FIRMCALL of a sub-gang. -/
def Pending.callsFirmware (p : Pending) (sub : Nat) : Bool :=
  p.sub == sub && (match p.op with
    | .firmcall .. => true
    | _ => false)

/-- The service of the oldest FIRMCALL of a sub-gang returns. -/
theorem firmcallReturn_serves {s : State} {r : Runner} {p : Pending} (h : s.Outstanding r p) {n : Nat} {args : List Word}
    (hfirst : r.gang.pending.find? (fun q => q.callsFirmware p.sub) = some p) (hop : p.op = .firmcall n args) (r0 r1 r2 r3 : Word) :
    exec (.firmcallReturn r.core r.slot p.sub r0 r1 r2 r3) s =
      .next ((s.service r.core r.slot r n args [r0, r1, r2, r3]).1.deliver r.core r.slot p.id
        { Out.none with sregs := p.sdst.zip (s.service r.core r.slot r n args [r0, r1, r2, r3]).2 }) := by
  simp only [exec, execFirmcallReturn, h.runs]
  split
  · rename_i hnone
    cases hfirst.symm.trans hnone
  · rename_i q hq
    cases hfirst.symm.trans hq
    rw [hop]

theorem State.service_zero (s : State) (core slot : Nat) (r : Runner) (args rs : List Word) :
    (s.service core slot r 0 args rs).2 = [if 1 ≤ (nth args 0 0).toNat ∧ (nth args 0 0).toNat ≤ 4 then 0 else 1] := by
  simp only [State.service, beq_self_eq_true, if_true, Bool.and_eq_true, decide_eq_true_eq]
  split <;> rfl

theorem State.service_undefined {n : Nat} (h2 : 2 ≤ n) (hn : n < 0x800000) (s : State) (core slot : Nat) (r : Runner)
    (args rs : List Word) : s.service core slot r n args rs = (s, [0xFFFFFFFF]) := by
  have h0 : n ≠ 0 := by omega
  have h1 : n ≠ 1 := by omega
  simp [State.service, h0, h1, hn]

/-! ### Shoot-downs and instruction-fetch copies (R330, R331) -/

theorem State.tlbshootArrive_drops {s : State} {sub va units vmid asid : Nat}
    (hfree : (s.passedOn fun _ v a x => shootMatches sub va units vmid asid v a (x / 65536 * 65536)) = false) (r : Runner)
    (p : Pending) : ∃ u : State, s.tlbshootArrive r p sub va units vmid asid = u.deliver r.core r.slot p.id Out.none ∧
      u.cores = s.cores ∧ u.mem.hbm = s.mem.hbm ∧
      ∀ e, e ∈ u.mem.tlb ↔ e ∈ s.mem.tlb ∧ e.shot sub va units vmid asid = false :=
  ⟨_, if_neg (by simp [hfree]), rfl, rfl, fun e => by simp [List.mem_filter]⟩

theorem Table.get?_map_entry {α β : Type} (t : Table α) (f : Nat → α → β) (j : Nat) :
    Table.get? (t.map fun x => (x.1, f x.1 x.2)) j = (Table.get? t j).map (f j) := by
  induction t with
  | nil => rfl
  | cons x t ih =>
    simp only [List.map_cons, Table.get?, beq_iff_eq]
    split
    · rename_i e; rw [e, Option.map_some]
    · exact ih

/-- The instruction-fetch copies of some lines of an address space dropped by a core. -/
def Core.dropFetched (k : Core) (vmid asid first n : Nat) : Core :=
  { k with fetched := k.fetched.filter fun x =>
      !(x.tag == tagOf vmid asid && decide (first ≤ x.line) && decide (x.line < first + n)) }

theorem State.core_dropFetched {s : State} {vmid asid core pid : Nat} {p : Partition} (hp : s.partOfVm vmid = some (pid, p))
    (hcore : p.cmask.getLsbD (clusterOf core) = true) (first n : Nat) :
    (s.dropFetched vmid asid first n).core core = (s.core core).dropFetched vmid asid first n := by
  have cores : (s.dropFetched vmid asid first n).cores = s.cores.map fun x =>
      (x.1, if p.cmask.getLsbD (clusterOf x.1) then x.2.dropFetched vmid asid first n else x.2) := by
    simp only [State.dropFetched]
    rw [show (s.modMem _).partOfVm vmid = some (pid, p) from hp]
    refine List.map_congr_left fun x _ => ?_
    split <;> rfl
  rw [State.core, cores, Table.getD, Table.get?_map_entry s.cores fun k x =>
    if p.cmask.getLsbD (clusterOf k) then x.dropFetched vmid asid first n else x]
  simp only [hcore, if_true, State.core, Table.getD]
  cases Table.get? s.cores core <;> rfl

/-- No core of the partition keeps an instruction-fetch copy of a line that was dropped. -/
theorem State.mem_fetched_dropFetched {s : State} {vmid asid first n core pid : Nat} {p : Partition}
    (hp : s.partOfVm vmid = some (pid, p)) (hcore : p.cmask.getLsbD (clusterOf core) = true) {x : FetchCopy}
    (hx : x ∈ ((s.dropFetched vmid asid first n).core core).fetched) :
    ¬(x.tag = tagOf vmid asid ∧ first ≤ x.line ∧ x.line < first + n) := by
  rintro ⟨htag, hfirst, hlast⟩
  rw [State.core_dropFetched hp hcore] at hx
  have kept := (List.mem_filter.1 hx).2
  simp [htag, hfirst, hlast] at kept

/-! ### ATTRSET (R232, R322, R329) -/

theorem attrsetPageComplete_changes {s : State} {r : Runner} {p : Pending} (h : s.Outstanding r p)
    {vmid asid va stop owner e pa frame : Nat} {attr : Attr} {big : Bool}
    (hop : p.op = .request (.attrset vmid asid va stop owner attr)) (hst : p.st = .pending) (hva : va < stop)
    (hfree : s.blocked r p [] = false) (hwalk : s.walk vmid asid va = .leaf e pa frame big) {bytes start base : Nat}
    (hbytes : bytes = if big then 2 ^ 26 else 65536) (hstart : start = va / bytes * bytes)
    (hbase : base = frame - (va - start) / 65536) (hidle : s.pageBusy (tagOf vmid asid) start bytes base = false)
    (hpassed : (s.passedOn fun _ v a x =>
      v == vmid && a == asid && decide (start ≤ x) && decide (x < start + bytes)) = false) :
    exec (.attrsetPageComplete r.core r.slot p.id) s = .next
      (if stop ≤ start + bytes then
        (s.pageChange vmid asid start bytes e pa base attr owner).deliver r.core r.slot p.id Out.none
       else (s.pageChange vmid asid start bytes e pa base attr owner).modGang r.core r.slot fun g =>
         g.modPending p.id fun q => { q with op := .request (.attrset vmid asid (start + bytes) stop owner attr) }) := by
  subst hbytes hstart hbase
  have hva' : ¬ stop ≤ va := by omega
  simp only [exec, execAttrsetPageComplete, h.runs, h.entry, hop, hst, hwalk]
  simp only [hva', hfree, hidle, hpassed, decide_false, Bool.or_self, Bool.false_eq_true, if_false]
  exact (apply_ite Host.Outcome.next _ _ _).symm

theorem bitsOf_eq (x hi lo : Nat) : bitsOf x hi lo = x / 2 ^ lo % 2 ^ (hi + 1 - lo) := by
  rw [bitsOf, Nat.shiftRight_eq_div_pow]

/-- The new leaf, field by field: two bits of it are the code that ATTRSET gives (R322). -/
theorem leafWith_eq (e owner : Nat) (attr : Attr) : ∃ a < 4, attrOf a = attr ∧ leafWith e attr owner =
    e / 2 ^ 63 * 2 ^ 63 + a * 2 ^ 61 + bitsOf e 60 16 * 2 ^ 16 + owner * 2 ^ 6 + e % 2 ^ 6 := by
  have cleared : e - bitsOf e 62 61 * 2 ^ 61 - bitsOf e 15 6 * 2 ^ 6 =
      e / 2 ^ 63 * 2 ^ 63 + bitsOf e 60 16 * 2 ^ 16 + e % 2 ^ 6 := by
    simp only [bitsOf_eq]
    omega
  have put (a : Nat) : e - bitsOf e 62 61 * 2 ^ 61 - bitsOf e 15 6 * 2 ^ 6 + a * 2 ^ 61 + owner * 2 ^ 6 =
      e / 2 ^ 63 * 2 ^ 63 + a * 2 ^ 61 + bitsOf e 60 16 * 2 ^ 16 + owner * 2 ^ 6 + e % 2 ^ 6 := by
    rw [cleared]
    omega
  cases attr with
  | sc => exact ⟨0, by decide, rfl, put 0⟩
  | rc => exact ⟨1, by decide, rfl, put 1⟩
  | wo => exact ⟨2, by decide, rfl, put 2⟩
  | ip => exact ⟨3, by decide, rfl, put 3⟩

/-- The fields of a leaf that ATTRSET writes hold what it wrote, and the others what they held. -/
theorem leafWith_fields {e owner : Nat} (attr : Attr) (ho : owner < 2 ^ 10) :
    attrOf (bitsOf (leafWith e attr owner) 62 61) = attr ∧ bitsOf (leafWith e attr owner) 15 6 = owner ∧
    bitsOf (leafWith e attr owner) 60 16 = bitsOf e 60 16 ∧ (leafWith e attr owner).testBit 63 = e.testBit 63 := by
  obtain ⟨a, ha, hattr, hleaf⟩ := leafWith_eq e owner attr
  have hframe : bitsOf e 60 16 < 2 ^ 45 := Nat.mod_lt _ (by decide)
  have hlow : e % 2 ^ 6 < 2 ^ 6 := Nat.mod_lt _ (by decide)
  rw [Nat.testBit_eq_decide_div_mod_eq, Nat.testBit_eq_decide_div_mod_eq, hleaf]
  generalize bitsOf e 60 16 = frame at *
  generalize e % 2 ^ 6 = low at *
  generalize e / 2 ^ 63 = top at *
  simp only [bitsOf_eq]
  have hcode : (top * 2 ^ 63 + a * 2 ^ 61 + frame * 2 ^ 16 + owner * 2 ^ 6 + low) / 2 ^ 61 % 2 ^ 2 = a := by omega
  have htop : (top * 2 ^ 63 + a * 2 ^ 61 + frame * 2 ^ 16 + owner * 2 ^ 6 + low) / 2 ^ 63 = top := by omega
  exact ⟨(congrArg attrOf hcode).trans hattr, by omega, by omega, by rw [htop]⟩

/-- Settles O52: each request by the lemma of its arrival. -/
theorem systemRequestsAct : Obligations.SystemRequestsAct :=
  ⟨fun _ _ _ _ _ part _ h hop hgo => ⟨fun hb => sysrd_answers h hop hgo part hb, fun hb => sysrd_answers h hop hgo part hb⟩,
    fun _ _ _ _ _ part h hop hgo => syswr_acts h hop hgo part,
    fun s core slot pid w _ hg => ⟨State.gang?_writeSpecial_gmode hg pid w,
      fun _ hsel hne => State.writeSpecial_own hsel hne s core slot pid w⟩,
    fun s r _ _ args r0 r1 r2 r3 h hfirst hop => ⟨firmcallReturn_serves h hfirst hop r0 r1 r2 r3,
      fun hn => hn ▸ s.service_zero r.core r.slot r args [r0, r1, r2, r3],
      fun h2 hn => s.service_undefined h2 hn r.core r.slot r args [r0, r1, r2, r3]⟩,
    fun _ r p _ _ _ _ _ hfree => State.tlbshootArrive_drops hfree r p,
    fun _ _ _ _ _ _ _ _ hp hcore _ hx => State.mem_fetched_dropFetched hp hcore hx,
    fun _ _ _ _ _ _ _ _ _ _ _ _ _ h hop hst hva hfree hwalk hidle hpassed =>
      attrsetPageComplete_changes h hop hst hva hfree hwalk rfl rfl rfl hidle hpassed,
    fun _ _ attr _ ho => leafWith_fields attr ho⟩

end Sys2Proof.Machine

/-! PROOFS. Starts, restarts and resets (R236, R392, R395, R397, R403 to R407). -/

namespace Sys2Proof.Machine

/-! ### Cold reset (R404) -/

theorem coldReset_starts (s : State) : ∃ t, exec .coldReset s = .next t ∧ t.cores = [] ∧ t.clusters = [] ∧ t.parts = [] ∧
    t.grids = [] ∧ t.fabric = State.reset.fabric ∧ t.pkg = { State.reset.pkg with hot := s.pkg.hot } ∧ t.mem.l2 = [] ∧
    t.mem.tlb = [] ∧ t.boot.stage = 0 ∧ t.boot.cause = 0 ∧ t.boot.detail = 0 ∧ t.boot.stopped = false ∧
    t.boot.slot = s.boot.preferred ∧ t.boot.fails = s.boot.fails ∧ t.boot.fusedSvn = s.boot.fusedSvn ∧
    (t.boot.minimal = true ↔ s.boot.minimal = true ∨ s.boot.fails = 3) ∧
    ∀ x, x ∈ t.mem.hbm ↔ x ∈ s.mem.hbm ∧ isHostPa x.1 = true := by
  refine ⟨_, rfl, rfl, rfl, rfl, rfl, rfl, rfl, rfl, rfl, rfl, rfl, rfl, rfl, rfl, rfl, rfl, ?_, fun x => List.mem_filter⟩
  have minimal : (s.boot.fails == 3 || s.boot.minimal) = true ↔ s.boot.minimal = true ∨ s.boot.fails = 3 := by
    simp [or_comm]
  exact minimal

/-! ### The stages of a start (R404) -/

@[simp] theorem State.trainPorts_boot (s : State) : s.trainPorts.boot = s.boot := by
  unfold State.trainPorts
  split <;> rfl

@[simp] theorem State.trainPorts_mem (s : State) : s.trainPorts.mem = s.mem := by
  unfold State.trainPorts
  split <;> rfl

theorem State.trainPorts_training {s : State} (hm : s.boot.minimal = false) {n : Nat} (hn : n < 36) :
    (Table.getD s.trainPorts.fabric.ports n Port.reset).st = 1 := by
  have trained : s.trainPorts.fabric.ports = (List.range 36).map fun n => (n, { Port.reset with st := 1 }) := by
    simp [State.trainPorts, hm]
  have every_port : ∀ n < 36,
      (Table.getD ((List.range 36).map fun n => (n, { Port.reset with st := 1 })) n Port.reset).st = 1 := by
    decide
  rw [trained]
  exact every_port n hn

section
variable {s : State} (hgo : s.boot.stopped = false)
include hgo

theorem startStageComplete_early (h : s.boot.stage < 2) :
    exec (.startStageComplete none) s = .next { s with boot := { s.boot with stage := s.boot.stage + 1 } } := by
  obtain h0 | h1 : s.boot.stage = 0 ∨ s.boot.stage = 1 := by omega
  · simp [exec, execStartStageComplete, hgo, h0, State.nextStage]
  · simp [exec, execStartStageComplete, hgo, h1, State.nextStage]

theorem startStageComplete_load (h : s.boot.stage = 2) :
    exec (.startStageComplete none) s = .next (s.boot.choose.elim (s.failStart 2 0) s.loadImage) := by
  simp only [exec, execStartStageComplete, hgo, h]
  cases s.boot.choose <;> rfl

theorem startStageComplete_unverified {cause : Nat} (h : s.boot.stage = 3) (hc : s.boot.check = .error cause) :
    exec (.startStageComplete none) s = .next (s.failStart cause 0) := by
  simp [exec, execStartStageComplete, hgo, h, hc]

theorem startStageComplete_verified {svn : Nat} (h : s.boot.stage = 3) (hc : s.boot.check = .ok svn) :
    exec (.startStageComplete none) s = .next { s with boot := { s.boot with stage := 4, runningSvn := svn } } := by
  simp [exec, execStartStageComplete, hgo, h, hc, State.nextStage]

/-- The ports begin to train as stage 4 ends, but in minimal mode (R404, R406). -/
theorem startStageComplete_four (h : s.boot.stage = 4) : ∃ t, exec (.startStageComplete none) s = .next t ∧
    t.boot = { s.boot with stage := 5 } ∧ t.mem = s.mem ∧
    (s.boot.minimal = false → ∀ n, n < 36 → (Table.getD t.fabric.ports n Port.reset).st = 1) := by
  have next : exec (.startStageComplete none) s = .next (s.nextStage id).trainPorts := by
    simp [exec, execStartStageComplete, hgo, h]
  refine ⟨_, next, ?_, ?_, fun hm n hn => ?_⟩
  · simp [State.nextStage, h]
  · exact State.trainPorts_mem _
  · exact State.trainPorts_training (s := s.nextStage id) hm hn

theorem startStageComplete_five (h : s.boot.stage = 5) : ∃ t, exec (.startStageComplete none) s = .next t ∧
    t.boot.stage = 6 ∧ t.boot.fails = (if s.boot.minimal = true then 3 else 0) ∧ t.mem = s.mem := by
  refine ⟨{ s.nextStage (fun b => { b with fails := if b.minimal then 3 else 0 }) with
    fabric := { s.fabric with devid := Config.deviceId }
    pkg := { s.pkg with hdm := Config.hdmWindow } }, ?_, ?_, rfl, rfl⟩
  · simp [exec, execStartStageComplete, hgo, h]
  · exact congrArg (· + 1) h

end

/-! ### The image loaded (R403, R404) -/

/-- Bytes put one by one in device memory, each where its place in the body says. -/
def Memory.load (m : List Host.Cell) (size load : Nat) (body : List (Nat × Byte)) : List Host.Cell :=
  body.foldl (fun m x => if load + (x.1 - 512) < size then Memory.write m (load + (x.1 - 512)) x.2 else m) m

theorem Memory.read_load_of_ne (m : List Host.Cell) (size load : Nat) {body : List (Nat × Byte)} {a : Nat}
    (h : ∀ x ∈ body, load + (x.1 - 512) ≠ a) : Memory.read (Memory.load m size load body) a = Memory.read m a := by
  induction body generalizing m with
  | nil => rfl
  | cons x body ih =>
    rw [Memory.load, List.foldl_cons]
    refine (ih _ fun y hy => h y (List.mem_cons_of_mem _ hy)).trans ?_
    split
    · rw [Memory.read_write, if_neg (h x List.mem_cons_self).symm]
    · rfl

theorem Memory.read_load {m : List Host.Cell} {size load k : Nat} {b : Byte} {body : List (Nat × Byte)}
    (hbody : ∀ x ∈ body, 512 ≤ x.1) (hn : (body.map fun x => x.1).Nodup) (hb : (512 + k, b) ∈ body) (hk : load + k < size) :
    Memory.read (Memory.load m size load body) (load + k) = b := by
  induction body generalizing m with
  | nil => cases hb
  | cons x body ih =>
    obtain ⟨hx, hn⟩ := List.nodup_cons.1 hn
    rw [Memory.load, List.foldl_cons]
    rcases List.mem_cons.1 hb with rfl | hb
    · have others : ∀ y ∈ body, load + (y.1 - 512) ≠ load + k := fun y hy e => by
        have := hbody y (List.mem_cons_of_mem _ hy)
        exact hx (List.mem_map.2 ⟨y, hy, by simp; omega⟩)
      refine (Memory.read_load_of_ne _ size load others).trans ?_
      simp [hk, Memory.read_write]
    · exact ih (fun y hy => hbody y (List.mem_cons_of_mem _ hy)) hn hb

/-- The body of an image: as many of its bytes from place 512 on as its header says. -/
def Image.body (i : Image) : List (Nat × Byte) :=
  i.filter fun x => decide (512 ≤ x.1) && decide (x.1 < 512 + leNat (i.bytes 16 8))

theorem Image.mem_body {i : Image} {x : Nat × Byte} :
    x ∈ i.body ↔ x ∈ i ∧ 512 ≤ x.1 ∧ x.1 < 512 + leNat (i.bytes 16 8) := by
  simp [Image.body, List.mem_filter]

/-- One byte of a body put in device memory, where that has a place for it. -/
def State.loadByte (s : State) (load : Nat) (x : Nat × Byte) : State :=
  if load + (x.1 - 512) < s.deviceBytes then s.physWrite (load + (x.1 - 512)) [x.2] else s

theorem State.loadByte_eq (s : State) (load : Nat) (x : Nat × Byte) : s.loadByte load x = { s with mem := { s.mem with
    hbm := if load + (x.1 - 512) < s.deviceBytes then Memory.write s.mem.hbm (load + (x.1 - 512)) x.2 else s.mem.hbm } } := by
  unfold State.loadByte
  split <;> rfl

theorem State.foldl_loadByte (s : State) (load : Nat) (body : List (Nat × Byte)) :
    body.foldl (fun s x => s.loadByte load x) s =
      { s with mem := { s.mem with hbm := Memory.load s.mem.hbm s.deviceBytes load body } } := by
  induction body generalizing s with
  | nil => rfl
  | cons x body ih =>
    rw [List.foldl_cons, ih, State.loadByte_eq]
    rfl

/-- What the load of an image changes: its slot and entry, the stage, and the bytes of its body. -/
theorem State.loadImage_eq {s : State} {slot : Bool} {i : Image} (hi : s.boot.image slot = some i) : s.loadImage slot =
    { s with
      boot := { s.boot with stage := s.boot.stage + 1, slot := slot, entry := leNat (i.bytes 32 8) }
      mem := { s.mem with hbm := Memory.load s.mem.hbm s.deviceBytes (leNat (i.bytes 24 8)) i.body } } := by
  have loaded : s.loadImage slot = (i.body.foldl (fun s x => s.loadByte (leNat (i.bytes 24 8)) x) s).nextStage fun b =>
      { b with slot := slot, entry := leNat (i.bytes 32 8) } := by
    rw [State.loadImage, hi]
    rfl
  rw [loaded, State.foldl_loadByte]
  rfl

theorem State.loadImage_places {s : State} {slot : Bool} {i : Image} (hi : s.boot.image slot = some i)
    (hn : (i.map fun x => x.1).Nodup) :
    (s.loadImage slot).boot = { s.boot with stage := s.boot.stage + 1, slot := slot, entry := leNat (i.bytes 32 8) } ∧
    (∀ k b, (512 + k, b) ∈ i → k < leNat (i.bytes 16 8) → leNat (i.bytes 24 8) + k < s.deviceBytes →
      Memory.read (s.loadImage slot).mem.hbm (leNat (i.bytes 24 8) + k) = b) ∧
    (∀ a, a < leNat (i.bytes 24 8) ∨ leNat (i.bytes 24 8) + leNat (i.bytes 16 8) ≤ a →
      Memory.read (s.loadImage slot).mem.hbm a = Memory.read s.mem.hbm a) ∧
    (s.loadImage slot).mem = { s.mem with hbm := (s.loadImage slot).mem.hbm } := by
  rw [State.loadImage_eq hi]
  refine ⟨rfl, fun k b hb hk hdev => ?_, fun a ha => ?_, rfl⟩
  · exact Memory.read_load (fun x hx => (Image.mem_body.1 hx).2.1) (hn.sublist (List.filter_sublist.map _))
      (Image.mem_body.2 ⟨hb, by simp, by simpa using hk⟩) hdev
  · refine Memory.read_load_of_ne _ _ _ fun x hx => ?_
    obtain ⟨-, hlow, hhigh⟩ := Image.mem_body.1 hx
    omega

/-! ### Failed starts and host resets (R395, R404, R406) -/

theorem startWatchdogExpire_fails {s : State} (hstage : s.boot.stage < 6) (hgo : s.boot.stopped = false) :
    ∃ t, exec .startWatchdogExpire s = .next t ∧ t.boot.cause = 7 ∧ t.boot.detail.toNat = s.boot.stage ∧
      t.boot.fails = min 3 (s.boot.fails + 1) ∧ t.boot.preferred = !s.boot.slot ∧
      (s.boot.minimal = true → t.boot.stopped = true ∧ t.boot.stage = s.boot.stage) ∧
      (s.boot.minimal = false → t.boot.stage = 0 ∧ t.boot.slot = !s.boot.slot) := by
  have next : exec .startWatchdogExpire s = .next (s.failStart 7 s.boot.stage) :=
    if_neg (by simp [hgo]; omega)
  have detail : (BitVec.ofNat 8 s.boot.stage).toNat = s.boot.stage := by
    rw [BitVec.toNat_ofNat]
    exact Nat.mod_eq_of_lt (by omega)
  refine ⟨_, next, ?_⟩
  cases hm : s.boot.minimal with
  | true => simp [State.failStart, hm, detail]
  | false => simp [State.failStart, hm, State.start, State.restarted, detail]

theorem hostReset_restarts {s : State} (hstage : 4 ≤ s.boot.stage) (hgo : s.boot.stopped = false) :
    ∃ t, exec .hostReset s = .next t ∧ t.boot = { s.boot with stage := 4, cause := 0, detail := 0 } ∧ t.cores = [] ∧
      t.clusters = [] ∧ t.parts = [] ∧ t.grids = [] ∧ t.mem.hbm = s.mem.hbm ∧ t.mem.lines = s.mem.lines :=
  ⟨_, if_neg (by simp [hgo]; omega), rfl, rfl, rfl, rfl, rfl, rfl, rfl⟩

/-! ### Partition resets (R392, R395) -/

/-- A VF's reset: each partition of the VF is reset, and its queues are disabled. -/
def State.resetVf (s : State) (x : Nat × Partition) : State :=
  x.2.queues.foldl (fun (u : State) (q : Nat × Queue) => u.disableQueue x.1 q.1) (s.resetPartition x.1 none)

theorem vfFlr_next {s : State} (hm : s.boot.minimal = false) (vf : Nat) :
    exec (.vfFlr vf) s = .next ((s.parts.filter fun x => x.2.spect == vf).foldl State.resetVf s) := by
  simp only [exec, execVfFlr, hm]
  rfl

theorem vfFlr_minimal {s : State} (hm : s.boot.minimal = true) (vf : Nat) : exec (.vfFlr vf) s = .next s := by
  simp [exec, execVfFlr, hm]

theorem vfFlr_no_partition {s : State} {vf : Nat} (h : ∀ x ∈ s.parts, x.2.spect ≠ vf) : exec (.vfFlr vf) s = .next s := by
  cases hm : s.boot.minimal with
  | true => exact vfFlr_minimal hm vf
  | false =>
    have none_named : (s.parts.filter fun x => x.2.spect == vf) = [] :=
      List.filter_eq_nil_iff.2 fun x hx => by simp [h x hx]
    rw [vfFlr_next hm, none_named]
    rfl

theorem vfFlr_one_partition {s : State} {pid vf : Nat} {p : Partition} (hm : s.boot.minimal = false)
    (hparts : s.parts = [(pid, p)]) (hvf : p.spect = vf) : exec (.vfFlr vf) s = .next (s.resetVf (pid, p)) := by
  rw [vfFlr_next hm, hparts]
  simp [hvf]

theorem State.core_stopUnits (s : State) (p : Partition) (k : Nat) :
    (s.stopUnits p).core k = if p.holdsCore k then (s.core k).emptied else s.core k := by
  have cores : (s.stopUnits p).cores = s.cores.map fun x => (x.1, if p.holdsCore x.1 then x.2.emptied else x.2) := rfl
  rw [State.core, cores, Table.getD, Table.get?_map_entry s.cores fun n x => if p.holdsCore n then x.emptied else x,
    State.core, Table.getD]
  cases Table.get? s.cores k with
  | none => exact (ite_self _).symm
  | some x => rfl

theorem State.cluster_stopUnits (s : State) (p : Partition) (k : Nat) :
    (s.stopUnits p).cluster k = if p.cmask.getLsbD k then Cluster.reset else s.cluster k := by
  have clusters : (s.stopUnits p).clusters =
      s.clusters.map fun x => (x.1, if p.cmask.getLsbD x.1 then Cluster.reset else x.2) := rfl
  rw [State.cluster, clusters, Table.getD, Table.get?_map_entry s.clusters fun n x =>
    if p.cmask.getLsbD n then Cluster.reset else x, State.cluster, Table.getD]
  cases Table.get? s.clusters k with
  | none => exact (ite_self _).symm
  | some x => rfl

theorem thermalTrip_hot (s : State) : ∃ t, exec .thermalTrip s = .next t ∧ t.pkg.hot = true := ⟨_, rfl, rfl⟩

/-- Settles O57: each start, restart and reset by its own lemma. -/
theorem startsAndResets : Obligations.StartsAndResets := by
  refine ⟨coldReset_starts, fun s hgo => ⟨startStageComplete_early hgo, fun h => ?_, fun h => ?_, startStageComplete_four hgo,
      startStageComplete_five hgo⟩,
    fun s slot i hi hn => State.loadImage_places hi hn,
    fun s hstage hgo => startWatchdogExpire_fails hstage hgo,
    fun s hstage hgo => hostReset_restarts hstage hgo,
    fun s vf h => vfFlr_no_partition h,
    fun s vf hm => vfFlr_minimal hm vf,
    fun s pid vf p hm hparts hvf => vfFlr_one_partition hm hparts hvf,
    fun s p => ⟨fun k hk => ?_, fun k hk => ?_, s.cluster_stopUnits p⟩,
    thermalTrip_hot, fun s => rfl⟩
  · rw [startStageComplete_load hgo h]
    cases s.boot.choose <;> rfl
  · cases hc : s.boot.check with
    | error cause => exact startStageComplete_unverified hgo h hc
    | ok svn => exact startStageComplete_verified hgo h hc
  · rw [s.core_stopUnits, if_pos hk]
    exact ⟨rfl, rfl, rfl, rfl, rfl⟩
  · rw [s.core_stopUnits, if_neg (by simp [hk])]

end Sys2Proof.Machine

/-! PROOFS. The matrix, accumulator and codebook instructions at issue (R243 to R253). -/

namespace Sys2Proof.Machine

/-! ### A chain of checks that pass -/

section
variable {α : Type} {r : Except Stop α} {k : Unit → Except Stop α}

theorem check_then {x : Except Stop Unit} (hx : x = .ok ()) (hk : k () = r) : (x >>= k) = r := by
  rw [hx]
  exact hk

theorem unless_then {p : Prop} [Decidable p] {e : Stop} (hp : ¬ p) (hk : k () = r) :
    (if p then Except.error e >>= k else k ()) = r := (if_neg hp).trans hk

end

/-! ### The rows of a transfer (R243, R245, R247, R250) -/

theorem Issuer.checkRows_ok {c : Issuer} {owned : List (Nat × List Nat)}
    (h : ∀ x ∈ owned, ∀ r ∈ x.2, r < c.gang.accLim) : c.checkRows owned = .ok () := by
  have hbad : owned.filter (fun x => x.2.any fun r => decide (c.gang.accLim ≤ r)) = [] := by
    simpa [List.filter_eq_nil_iff] using h
  simp only [Issuer.checkRows, hbad]

theorem Issuer.RowsFree.transferGo {c : Issuer} {s : State} {owned : List (Nat × List Nat)} (h : c.RowsFree s owned) :
    c.transferGo s (owned.flatMap fun x => x.2) = .ok () := by
  simp [Issuer.transferGo, h.idle, c.checkCounter_ok h.counter]

section
variable {s : State} {c : Issuer} {f : EForm} (hready : c.Ready (accTouch [f.a, f.b] f.g))
  (hrows : c.RowsFree s (c.ownedRows f.g (c.num f.a) (if EForm.dbl f then 2 else 1)))
include hready hrows

/-- The checks that ACCZERO, ACCLD and ACCST share leave the rows of the active lanes. -/
theorem Issuer.transfer_then {α : Type} {r : Except Stop α} {k : List (Nat × List Nat) → Except Stop α}
    (hk : k (c.ownedRows f.g (c.num f.a) (if EForm.dbl f then 2 else 1)) = r) : (c.transfer s f >>= k) = r := by
  have h : c.transfer s f = .ok (c.ownedRows f.g (c.num f.a) (if EForm.dbl f then 2 else 1)) :=
    check_then (c.checkTouch_ok hready _ _) <| unless_then (ne_true_of_eq_false hrows.settled) <|
      check_then (c.checkRows_ok hrows.inside) rfl
  rw [h]
  exact hk

end

/-! ### MMA (R242, R243) -/

/-- The operation that an MMA enters: its fragments and its scale words as they stand at issue. -/
def Issuer.mmaOp (c : Issuer) (f : XForm) (base : Nat) (rows : List Nat) (bank : Bank) (id : Nat) : AccOp :=
  let present := c.sub.fibres
  { c.accOp (.mma f) base rows present id with
    a := present.toList.map fun i => (i, (vRun f.a.toNat 8).map fun v => c.vreg v i)
    b := (List.range 32).map fun n => (n, (vRun f.b.toNat (XForm.nB f)).map fun v => c.vreg v n)
    sa := match XForm.scale? f with
      | some q => present.toList.map fun i => (i, c.vreg q i)
      | none => []
    sb := match XForm.scale? f with
      | some q => (List.range 32).map fun n => (n, c.vreg (q + 1) n)
      | none => []
    bank := bank }

/-! ### VEXPAND (R102, R253) -/

/-- The result of a VEXPAND: the words of each active lane's index through the bank. -/
def Issuer.expanded (c : Issuer) (f : RForm) (vdst : List Nat) (bank : Bank) (idx : Nat → Nat) : Out :=
  let vals := (c.active f.g).toList.map fun i => (i, expandWords f.t (bank.entry (indexEntry f.t (idx i))) (idx i))
  { Out.none with
    vregs := (vdst.zip (List.range vdst.length)).map fun x => (c.slotOf x.1, vals.map fun y => (y.1, nth y.2 x.2 0)) }

theorem Issuer.expanded_vregs (c : Issuer) (f : RForm) (vdst : List Nat) (bank : Bank) (idx : Nat → Nat) :
    (c.expanded f vdst bank idx).vregs = (vdst.zip (List.range vdst.length)).map fun x =>
      (c.slotOf x.1, (c.active f.g).toList.map fun i =>
        (i, nth (expandWords f.t (bank.entry (indexEntry f.t (idx i))) (idx i)) x.2 0)) := by
  simp only [Issuer.expanded, List.map_map, Function.comp_def]

/-- No lane holds an index through an entry that is not valid. -/
theorem filterMap_badEntry_nil {t : Ty} {bank : Bank} {lanes : List Nat} {idx : Nat → Nat}
    (h : ∀ i ∈ lanes, bank.valid.contains (indexEntry t (idx i)) = true) :
    (lanes.filterMap fun i => (badEntry t bank [idx i]).map fun e => (i, e)) = [] := by
  simp only [List.filterMap_eq_nil_iff, Option.map_eq_none_iff]
  intro i hi
  have := h i hi
  simp_all [badEntry]

/-- Settles O35: each instruction passes its checks one after another, and what it leaves is its issue. -/
theorem matrixInstructionsIssue : Obligations.MatrixInstructionsIssue := by
  refine ⟨fun s c f hc => ?mma, fun s c f hc => ?transfers, fun s c src f hc => ?accout,
    fun s c f hc hready hcounter hgang htarget hbase hlim => ?accwin,
    fun s c f hc hready hcounter hscratch hread => ?cbload, fun s c f hc hready hcounter => ?cbvalid,
    fun s c f n hc hb => ?vexpand⟩
  case mma =>
    intro acct nB scale base present rows coded bank hready hsettled hinside hfree hta htb hbusy hcols hcounter
    have hbank : (if (f.ta.codebook || f.tb.codebook) = true then nth c.team.banks f.bank.toNat Bank.empty else Bank.empty) =
        bank := by simp only [Bool.or_eq_true]; rfl
    refine ⟨c.mmaOp f base rows bank, runInstr_ok hc <| check_then (c.checkTouch_ok hready _ _) <|
      unless_then (ne_true_of_eq_false hsettled) <| unless_then (Nat.not_lt.2 hinside) <|
      unless_then (ne_true_of_eq_false hfree) <| unless_then (by simp [hta, htb]) <| unless_then (by simpa using hbusy) ?_,
      fun id => ⟨rfl, rfl, rfl, rfl, rfl, rfl⟩⟩
    dsimp only
    rw [hbank, hcols]
    exact check_then (c.checkCounter_ok hcounter) rfl
  case transfers =>
    intro owned rows first act hready hrows
    refine ⟨runInstr_ok hc <| Issuer.transfer_then hready hrows <| check_then hrows.transferGo rfl,
      fun hranges hscratch => runInstr_ok hc <| Issuer.transfer_then hready hrows <|
        unless_then (ne_true_of_eq_false hscratch) <| check_then hranges <| check_then hrows.transferGo rfl,
      fun hranges => runInstr_ok hc <| Issuer.transfer_then hready hrows <| check_then hranges <|
        check_then hrows.transferGo rfl⟩
  case accout =>
    intro us vdst act owned t hready hrows hscratch hpool
    exact runInstr_ok hc <| check_then (c.checkTouch_ok hready _ _) <| unless_then (ne_true_of_eq_false hrows.settled) <|
      check_then (c.checkRows_ok hrows.inside) <| check_then (c.checkSp_ok hscratch) <| check_then hrows.transferGo <|
      check_then (c.checkPool_ok hpool) rfl
  case accwin =>
    exact runInstr_ok hc <| check_then (c.checkTouch_ok hready _ _) <| unless_then (by simp [hgang]) <|
      unless_then (by simp only [Bool.or_eq_true, decide_eq_true_eq]; omega) <| check_then (c.checkCounter_ok hcounter) rfl
  case cbload =>
    exact runInstr_ok hc <| check_then (c.checkTouch_ok hready _ _) <| unless_then (ne_true_of_eq_false hscratch) <|
      check_then hread <| check_then (c.checkCounter_ok hcounter) rfl
  case cbvalid =>
    exact runInstr_ok hc <| check_then (c.checkTouch_ok hready _ _) <| check_then (c.checkCounter_ok hcounter) rfl
  case vexpand =>
    intro us vdst t act bank idx hready hscratch hbank hvalid hcounter hpool
    refine ⟨fun p => { p with out := c.expanded f vdst bank idx }, runInstr_ok hc <|
      check_then (c.checkTouch_ok hready _ _) <| check_then (c.checkSp_ok hscratch) ?_,
      fun _ => c.expanded_vregs f vdst bank idx⟩
    rw [hb]
    refine unless_then (ne_true_of_eq_false hbank) ?_
    dsimp only
    rw [filterMap_badEntry_nil hvalid]
    exact check_then (c.checkCounter_ok hcounter) <| check_then (c.checkPool_ok hpool) rfl

end Sys2Proof.Machine

/-! PROOFS. The Spur: reservations (R254), the product over partners (R255, R256) and its status (R257). -/

namespace Sys2Proof.Machine

/-! ### Checks of an instruction that acts once (R211, R266) -/

theorem Issuer.OnceExecutes.checkOnce {c : Issuer} {s : State} {ss : List Nat} {k : Ctr} (h : c.OnceExecutes s ss k) :
    c.checkOnce ss = .ok () := c.checkTouch_ok h.ready _ _

theorem Issuer.checkRange_ok {c : Issuer} {ok : Bool} (h : ok = true) : c.checkRange ok = .ok () := if_pos h

theorem Issuer.Quiet.checkReport {c : Issuer} (h : c.Quiet) : c.checkReport = .ok () := by
  rcases h with h | ⟨hf, hu⟩
  · simp [Issuer.checkReport, h]
  · simp [Issuer.checkReport, hf, hu]

/-- An instruction that touches fewer v registers is ready where one that touches more is. -/
theorem Issuer.Ready.fewer {c : Issuer} {v w ss ps : List Nat} (h : c.Ready { v := w, s := ss, p := ps }) (hv : v ⊆ w) :
    c.Ready { v := v, s := ss, p := ps } := by
  refine ⟨fun r hr => h.1 r (hv hr), List.filter_eq_nil_iff.2 fun q hq hblocks => List.filter_eq_nil_iff.1 h.2 q hq ?_⟩
  simp only [Bool.or_eq_true, List.any_eq_true, List.contains_iff_mem] at hblocks ⊢
  have hslots : v.map c.slotOf ⊆ w.map c.slotOf := List.map_subset _ hv
  rcases hblocks with (⟨d, hd, hmem⟩ | hsregs) | hpred
  · exact .inl (.inl ⟨d, hd, hslots hmem⟩)
  · exact .inl (.inr hsregs)
  · exact .inr hpred

theorem vRun_subset {first m n : Nat} (h : m ≤ n) : vRun first m ⊆ vRun first n :=
  List.map_subset _ (List.range_subset.2 h)

/-! ### A partner's work (R256) -/

theorem State.reservations_sameTeams (s : State) (c : Nat) (f : Core → List Reservation) :
    SameTeams s (s.modCore c fun k => { k with reservations := f k }) :=
  SameTeams.modCore s c (fun _ => rfl) (fun _ => rfl)

@[simp] theorem State.team?_modCore_reservations (s : State) (c : Nat) (f : Core → List Reservation) (d t : Nat) :
    (s.modCore c fun k => { k with reservations := f k }).team? d t = s.team? d t :=
  (s.reservations_sameTeams c f).team? d t

@[simp] theorem State.gang?_modCore_reservations (s : State) (c : Nat) (f : Core → List Reservation) (d g : Nat) :
    (s.modCore c fun k => { k with reservations := f k }).gang? d g = s.gang? d g :=
  (s.reservations_sameTeams c f).gang? d g

section
variable {s : State} {cl j : Nat} {o : SpurOp} (ho : (s.cluster cl).spurs.find? (fun x => x.id == o.id) = some o)
  (hj : j < o.partners.length) (hnew : Table.get? o.reports j = none)
include ho hj hnew

theorem spurPartnerWork_unreserved
    (hr : ((s.core (16 * cl + nth o.partners j 0)).reservations.find? fun r => r.posted && r.tag == o.tag) = none) :
    exec (.spurPartnerWork cl o.id j) s = .next (s.spurReport cl o.id j (some .spurPartner) 0) := by
  change execSpurPartnerWork cl o.id j s = _
  simp only [execSpurPartnerWork, ho, hnew, hr, Nat.not_le.2 hj]
  rfl

theorem spurPartnerWork_reserved {core : Nat} (hcore : 16 * cl + nth o.partners j 0 = core) {r : Reservation} {t : Team}
    {g : Gang} (hr : ((s.core core).reservations.find? fun r => r.posted && r.tag == o.tag) = some r)
    (ht : s.team? core r.team = some t) (hg : s.gang? core r.gang = some g) (hteam : g.team = r.team) :
    let u := s.modCore core fun k => { k with reservations := k.reservations.filter fun x => x.id != r.id }
    exec (.spurPartnerWork cl o.id j) s = .next (match spurFailure o r t (some (g.accBase, g.accLim)) with
      | some code => (u.spurReport cl o.id j (some code) 0).arrive cl r.barrier 1 true 0
      | none =>
        let res := (List.range o.steps).foldl (spurStep o r t.width) (t, 0)
        ((u.modTeam core r.team fun _ => res.1).spurReport cl o.id j none res.2).arrive cl r.barrier 1 false 0) := by
  subst hcore
  have hwindow : ((some g).bind fun g => if g.team == r.team then some (g.accBase, g.accLim) else none) =
      some (g.accBase, g.accLim) := if_pos (by simp [hteam])
  change execSpurPartnerWork cl o.id j s = _
  simp only [execSpurPartnerWork, ho, hnew, hr, Nat.not_le.2 hj, State.team?_modCore_reservations, ht,
    State.gang?_modCore_reservations, hg, hwindow]
  cases spurFailure o r t (some (g.accBase, g.accLim)) <;> rfl

end

/-! ### The status (R257) -/

theorem spurStatusReady_delivers {s : State} {cl : Nat} {o : SpurOp} {g : Gang} {p : Pending}
    (ho : (s.cluster cl).spurs.find? (fun x => x.id == o.id) = some o) (hall : o.partners.length ≤ o.reports.length)
    (hg : s.gang? o.core o.gang = some g) (hp : g.pending? o.id = some p) :
    exec (.spurStatusReady cl o.id) s = .next ((s.modCluster cl fun k =>
      { k with spurs := k.spurs.filter fun x => x.id != o.id }).deliver o.core o.gang o.id
        { Out.none with
          sregs := p.sdst.zip [o.status.1, o.status.2]
          flags := o.flags }) := by
  have hentry : (((s.modCluster cl fun k => { k with spurs := k.spurs.filter fun x => x.id != o.id }).gang? o.core o.gang).bind
      fun g => g.pending? o.id) = some p := by
    rw [(SameTeams.modCluster s cl _).gang?, hg]
    exact hp
  change execSpurStatusReady cl o.id s = _
  simp only [execSpurStatusReady, ho, Nat.not_lt.2 hall, if_false]
  rw [hentry]

/-- Settles O37: SPURACC and SPUR by their checks, one after another, and the partner and the status by their lemmas. -/
theorem spurWorks : Obligations.SpurWorks := by
  refine ⟨fun s c f => ?spuracc, fun s core slot id r hr => ?posts, fun s c f first hb => ?spur,
    fun _ _ _ _ ho hj hnew => ⟨spurPartnerWork_unreserved ho hj hnew,
      fun _ _ _ hr ht hg hteam => spurPartnerWork_reserved ho hj hnew rfl hr ht hg hteam⟩,
    fun _ _ _ _ _ ho hall hg hp => spurStatusReady_delivers ho hall hg hp⟩
  case spuracc =>
    intro n r h hquiet hok halign hsettled hinside hfree
    exact runInstr_ok h.issues <| check_then h.checkOnce <| check_then (c.checkRange_ok hok) <|
      unless_then (fun hne => absurd halign (bne_iff_ne.1 hne)) <| unless_then (ne_true_of_eq_false hsettled) <|
      unless_then (Nat.not_lt.2 hinside) <| unless_then (ne_true_of_eq_false hfree) <| check_then hquiet.checkReport <|
      check_then (c.checkCounter_ok h.counter) rfl
  case posts =>
    simp only [State.postReservation, hr]
    exact ⟨_, rfl, by simp⟩
  case spur =>
    intro w steps ds hfield honce hregs hc hready hcounter
    have hfirst := hready.fewer (v := (vRun first.toNat 8).filter fun v => decide (v < 256)) <|
      List.Subset.trans List.filter_sublist.subset (vRun_subset (by omega))
    refine runInstr_ok hc ?_
    rw [hb]
    exact check_then (c.checkTouch_ok hfirst _ _) <|
      check_then (c.checkRange_ok (by rw [hfield, honce, decide_eq_true hregs]; rfl)) <|
      check_then (c.checkTouch_ok hready _ _) <| check_then (c.checkCounter_ok hcounter) rfl

end Sys2Proof.Machine

/-! PROOFS. The cluster's instructions at issue (R265, R274 to R284), its barriers (R277 to R283) and the Damsel's chunks (R284,
R285). -/

namespace Sys2Proof.Machine

/-! ### Instructions at issue (R265, R274 to R284) -/

/-- A check that is made under a condition, and passes there. -/
theorem when_then {α : Type} {r : Except Stop α} {p : Prop} [Decidable p] {x : Except Stop Unit} {k : Unit → Except Stop α}
    (hx : p → x = .ok ()) (hk : k () = r) : (if p then x >>= k else k ()) = r := by
  split
  · exact check_then (hx ‹p›) hk
  · exact hk

/-- Settles O38: each instruction passes its checks one after another, and what it leaves is its issue. -/
theorem clusterInstructions : Obligations.ClusterInstructions := by
  refine ⟨fun s c f => ?cpy, fun s c f h => ?cpystat, fun s c f h hbar htarget => ?barinit,
    fun s c f wait h hbar hcount hquiet => ?arrive, fun s c f h hbar => ?barw, fun s c f n d hb => ?rangeset⟩
  case cpy =>
    intro desc h halign hcanon hquiet hroom
    exact runInstr_ok h.issues <| check_then h.checkOnce <| unless_then (fun hne => absurd halign (bne_iff_ne.1 hne)) <|
      unless_then (Nat.not_le.2 hcanon) <| when_then (fun hrel => (hquiet hrel).checkReport) <|
      unless_then (Nat.not_le.2 hroom) <| check_then (c.checkCounter_ok h.counter) rfl
  case cpystat =>
    exact runInstr_ok h.issues <| check_then h.checkOnce <| check_then (c.checkCounter_ok h.counter) rfl
  case barinit =>
    exact runInstr_ok h.issues <| check_then h.checkOnce <| check_then (c.checkRange_ok (by simp [hbar, htarget])) <|
      check_then (c.checkCounter_ok h.counter) rfl
  case arrive =>
    have issues : arriveIssue f wait s = _ := runInstr_ok h.issues <| check_then h.checkOnce <|
      check_then (c.checkRange_ok (by simp [hbar, hcount])) <| check_then hquiet.checkReport <|
      check_then (c.checkCounter_ok h.counter) rfl
    cases wait <;> exact issues
  case barw =>
    exact runInstr_ok h.issues <| check_then h.checkOnce <| check_then (c.checkRange_ok (decide_eq_true hbar)) <|
      check_then (c.checkCounter_ok h.counter) rfl
  case rangeset =>
    intro w h hslot hd
    refine runInstr_ok h.issues ?_
    rw [hb]
    refine check_then h.checkOnce <| check_then (c.checkRange_ok (decide_eq_true hslot)) ?_
    dsimp only [w] at hd ⊢
    rw [hd]
    exact check_then (c.checkCounter_ok h.counter) rfl

/-! ### Arrivals (R279, R280, R282) -/

/-- A barrier after an arrival that completes no phase (R279). -/
def Barrier.counted (b : Barrier) (m : Nat) (err : Bool) (granules : Nat) : Barrier :=
  { b with
    arrived := b.arrived + m
    errp := b.errp || err
    gsum := min (b.gsum + granules) (2 ^ 24 - 1) }

section
variable {b : Barrier} {m : Nat}

theorem Barrier.arrive_disabled (h : b.target = 0) (err : Bool) (n : Nat) : b.arrive m err n = (b, false) :=
  if_pos (by simp [h])

theorem Barrier.arrive_zero (ht : b.target ≠ 0) (hm : m = 0) (err : Bool) (n : Nat) :
    b.arrive m err n = ({ b with errp := b.errp || err }, false) :=
  (if_neg (by simpa using ht)).trans (if_pos (by simpa using hm))

theorem Barrier.arrive_counts (ht : b.target ≠ 0) (hm : m ≠ 0) (err : Bool) (n : Nat) : b.arrive m err n =
    if b.target ≤ b.arrived + m then ((b.counted m err n).complete, true) else (b.counted m err n, false) :=
  (if_neg (by simpa using ht)).trans (if_neg (by simpa using hm))

theorem Barrier.arrive_below (hm : m ≠ 0) (h : b.arrived + m < b.target) (err : Bool) (n : Nat) :
    b.arrive m err n = (b.counted m err n, false) :=
  (Barrier.arrive_counts (by omega) hm err n).trans (if_neg (Nat.not_le.2 h))

theorem Barrier.arrive_completes (ht : b.target ≠ 0) (hm : m ≠ 0) (h : b.target ≤ b.arrived + m) (err : Bool) (n : Nat) :
    b.arrive m err n = ((b.counted m err n).complete, true) :=
  (Barrier.arrive_counts ht hm err n).trans (if_pos h)

/-- An arrival completes a phase just where it counts, at an enabled barrier, and reaches the target. -/
theorem Barrier.arrive_completed {err : Bool} {n : Nat} (h : (b.arrive m err n).2 = true) :
    b.arrive m err n = ((b.counted m err n).complete, true) := by
  by_cases ht : b.target = 0
  · rw [Barrier.arrive_disabled ht] at h
    cases h
  by_cases hm : m = 0
  · rw [Barrier.arrive_zero ht hm] at h
    cases h
  by_cases hlow : b.arrived + m < b.target
  · rw [Barrier.arrive_below hm hlow] at h
    cases h
  exact Barrier.arrive_completes ht hm (Nat.not_lt.1 hlow) err n

end

/-- The number of a completed phase's first status word (R282). -/
theorem Barrier.complete_last_fst (b : Barrier) : b.complete.last.1.toNat = (if b.errp then 2 ^ 30 else 0) +
    (if b.ovrp = true ∨ b.target < b.arrived then 2 ^ 29 else 0) + b.phase.toNat := by
  have hphase := b.phase.isLt
  simp only [Barrier.complete, Barrier.status, BitVec.toNat_ofNat, Bool.or_eq_true, decide_eq_true_eq]
  apply Nat.mod_eq_of_lt
  split <;> split <;> omega

theorem Barrier.complete_last_snd (b : Barrier) : b.complete.last.2.toNat = b.gsum % 2 ^ 32 := BitVec.toNat_ofNat ..

theorem Barrier.counted_last_snd (b : Barrier) (m : Nat) (err : Bool) (n : Nat) :
    (b.counted m err n).complete.last.2.toNat = min (b.gsum + n) (2 ^ 24 - 1) :=
  (Barrier.complete_last_snd _).trans (Nat.mod_eq_of_lt (by simp only [Barrier.counted]; omega))

/-- Settles O39: an arrival at a disabled barrier, one of count 0, one below the target, and one that reaches it. -/
theorem barrierArrivals : Obligations.BarrierArrivals := fun b m n err =>
  ⟨fun ht => Barrier.arrive_disabled ht err n, fun ht hm => Barrier.arrive_zero ht hm err n,
    fun hm h => Barrier.arrive_below hm h err n,
    fun ht hm h => ⟨_, Barrier.arrive_completes ht hm h err n, Barrier.complete_last_fst _, b.counted_last_snd m err n⟩⟩

/-! ### Waits (R281 to R283) -/

/-- Bit k of a completed phase's first status word: the phase's below bit 29, and there `OVR` and `ERR` (R282). -/
theorem Barrier.complete_last_bit (b : Barrier) (k : Nat) : b.complete.last.1.getLsbD k =
    if k < 29 then b.phase.getLsbD k
    else (2 * b.errp.toNat + (b.ovrp || decide (b.target < b.arrived)).toNat).testBit (k - 29) := by
  have word : b.complete.last.1.toNat =
      2 ^ 29 * (2 * b.errp.toNat + (b.ovrp || decide (b.target < b.arrived)).toNat) + b.phase.toNat := by
    rw [Barrier.complete_last_fst]
    cases b.errp <;> cases b.ovrp <;> by_cases h : b.target < b.arrived <;> simp [h]
  have hphase : b.phase.toNat < 2 ^ 29 := by have := b.phase.isLt; omega
  rw [← BitVec.testBit_toNat, word, Nat.testBit_two_pow_mul_add _ hphase]
  rfl

/-- The layout of a completed phase's first status word (R282). -/
theorem Barrier.complete_last_layout (b : Barrier) : let w := b.complete.last.1
    w.getLsbD 31 = false ∧ w.getLsbD 30 = b.errp ∧ w.getLsbD 29 = (b.ovrp || decide (b.target < b.arrived)) ∧
    (∀ k, 8 ≤ k → k < 29 → w.getLsbD k = false) ∧ w.extractLsb' 0 8 = b.phase := by
  simp only [Barrier.complete_last_bit]
  generalize b.errp = e, (b.ovrp || decide (b.target < b.arrived)) = o
  refine ⟨?_, ?_, ?_, fun k hlow hhigh => ?_, ?_⟩
  · cases e <;> cases o <;> rfl
  · cases e <;> cases o <;> rfl
  · cases e <;> cases o <;> rfl
  · rw [if_pos hhigh, BitVec.getLsbD_of_ge _ _ hlow]
  · ext k hk
    rw [BitVec.getElem_extractLsb', Nat.zero_add, Barrier.complete_last_bit, if_pos (by omega), BitVec.getLsbD_eq_getElem]

section
variable {s : State} {core slot id bar m : Nat} {err : Bool}

theorem State.arriveRequest_token {p : Pending}
    (hp : (((s.arrive (clusterOf core) bar m err 0).gang? core slot).bind fun g => g.pending? id) = some p) :
    s.arriveRequest core slot id bar m err false = (s.arrive (clusterOf core) bar m err 0).deliver core slot id { Out.none with
      sregs := p.sdst.zip [(s.barrier (clusterOf core) bar).token] } := by
  simp only [State.arriveRequest, Bool.false_eq_true, if_false]
  rw [hp]

theorem State.arriveRequest_wait : s.arriveRequest core slot id bar m err true =
    if (s.barrier (clusterOf core) bar).target = 0 then s.deliverWait core slot id disabledStatus
    else (s.modGang core slot fun g => g.modPending id fun p => { p with
      op := .barrier bar (s.barrier (clusterOf core) bar).phase.toNat 0
      sent := true }).arrive (clusterOf core) bar m err 0 := by
  simp only [State.arriveRequest, if_true, beq_iff_eq]

end

/-- Settles O40: an arrival that completes a phase has the status of `Barrier.complete`, and a wait is a look at its barrier. -/
theorem barrierWaits : Obligations.BarrierWaits := by
  refine ⟨fun s cl bar m n err h => ?counts, fun s cl bar m n err h => ?releases, fun b m n err h => ?status,
    fun s core slot id bar m err p => ?token, fun s core slot id bar m err => ?wait,
    fun s r p bar m err wait part h hop hgo hfree => ?request, fun s r p bar phase n part h hop hgo hsent => ?look⟩
  case counts => simp only [State.arrive, h, Bool.false_eq_true, if_false, List.foldl_nil]
  case releases => simp only [State.arrive, h, if_true]
  case status =>
    rw [Barrier.arrive_completed h]
    obtain ⟨hdis, herr, hovr, hzero, hphase⟩ := (b.counted m err n).complete_last_layout
    exact ⟨hdis, herr, hovr, hzero, hphase, b.counted_last_snd m err n⟩
  case token =>
    intro u b hp
    rw [State.arriveRequest_token hp, Barrier.token]
    simp only [beq_iff_eq]
    rfl
  case wait =>
    rw [State.arriveRequest_wait]
    exact ⟨fun h => if_pos h, fun h => if_neg h⟩
  case request =>
    rw [longResultArrive_going h hgo, State.arriveFor, hop]
    exact congrArg _ (if_neg (by simp [hfree]))
  case look =>
    rw [longResultArrive_going h hgo, State.arriveFor, hop]
    simp only [hsent, Bool.false_eq_true, if_false, State.barrierLook, disabledStatus, Bool.and_eq_true, beq_iff_eq,
      Bool.not_eq_true', beq_eq_false_iff_ne, bne_iff_ne]
    rfl

/-! ### The Damsel (R284, R285) -/

/-- What RANGESET loads, where it does not refuse its registers (R284). -/
theorem rangeOf_some {a b c e : Nat} {d : DamselSlot} (h : rangeOf a b c e = some d) :
    d = { next := a, stop := b, minc := c % 2 ^ 16, kf := c / 2 ^ 16 % 2 ^ 8, pw := e % 2 ^ 16 } ∧ a ≤ b ∧
    d.minc ≠ 0 ∧ d.kf ≠ 0 ∧ d.pw ≠ 0 := by
  simp only [rangeOf, bitsOf_eq, pow_zero, Nat.div_one] at h
  split at h
  · cases h
  · rename_i taken
    simp only [Bool.or_eq_true, beq_iff_eq, decide_eq_true_eq, bne_iff_ne, not_or, Nat.not_lt] at taken
    obtain ⟨⟨⟨⟨⟨hminc, hkf⟩, hpw⟩, hle⟩, -⟩, -⟩ := taken
    cases h
    exact ⟨rfl, hle, hminc, hkf, hpw⟩

/-- Settles O41: TAKE by its checks, the chunk by the bounds of its minimum, and the slot by `rangeOf_some`. -/
theorem damselChunks : Obligations.DamselChunks := by
  refine ⟨fun s c f h hslot => ?take, fun d hle => ?chunk, fun a b c e d h => ?range⟩
  case take =>
    exact runInstr_ok h.issues <| check_then h.checkOnce <| check_then (c.checkRange_ok (decide_eq_true hslot)) <|
      check_then (c.checkCounter_ok h.counter) rfl
  case chunk =>
    have hrem : d.chunk ≤ d.stop - d.next := Nat.min_le_left _ _
    have hall : d.stop - d.next ≤ d.minc → d.chunk = d.stop - d.next := fun h =>
      Nat.min_eq_left (h.trans (Nat.le_max_left _ _))
    exact ⟨by omega, fun h => le_min h (Nat.le_max_left _ _), hall, fun h => by omega⟩
  case range =>
    obtain ⟨rfl, hle, hminc, hkf, hpw⟩ := rangeOf_some h
    exact ⟨rfl, rfl, hle, rfl, Nat.pos_of_ne_zero hminc, rfl, Nat.pos_of_ne_zero hkf, rfl, Nat.pos_of_ne_zero hpw⟩

end Sys2Proof.Machine

/-! PROOFS. The copy engine: a CPY's acceptance (R267, R274), a copy's start, its granules and its end (R267 to R273, R316). -/

namespace Sys2Proof.Machine

/-! ### Acceptance (R267, R274) -/

/-- The request of a CPY that finds room, with no earlier CPY of its gang waiting. -/
theorem State.cpyRequest_accepted {s : State} {r : Runner} {p : Pending} {desc which : Nat}
    (hfirst : ∀ q ∈ r.gang.earlier p, ∀ a b e, q.op ≠ .request (.cpy a b e))
    (hroom : (s.leat (clusterOf r.core) ((s.cluster (clusterOf r.core)).chooseLeat which)).load < 64) :
    let cl := clusterOf r.core
    let unit := (s.cluster cl).chooseLeat which
    s.cpyRequest r p desc which = (s.modLeat cl unit fun l => l.accept (newCopy (s.leat cl unit).nextSeq r.core
      (some (r.slot, r.gang.number)) r.gang.team r.team.grid r.grid.vmid r.grid.asid r.grid.group desc false)).deliver
        r.core r.slot p.id { Out.none with sregs := p.sdst.zip [ticketOf unit (s.leat cl unit).nextSeq] } := by
  refine if_neg ?_
  simp only [Bool.or_eq_true, List.any_eq_true, decide_eq_true_eq, not_or, not_exists, not_and]
  refine ⟨fun q hq hcpy => ?_, Nat.not_le.2 hroom⟩
  split at hcpy
  · exact hfirst q hq _ _ _ ‹_›
  · cases hcpy

/-! ### Granules (R269, R272, R316) -/

theorem State.copyToMemory_ok {s : State} {cl unit : Nat} {c : Copy} {va : Nat} {l : Ln} (bs : List Byte) (y : Stream)
    (h : s.access .engineWrite none c.vmid c.asid va 16 = .ok l) :
    s.copyToMemory cl unit c va bs y =
      s.modCopy cl unit c.seq fun x => { x.streamed y with staged := x.staged ++ [bs] } := by
  simp only [State.copyToMemory, h]

section
variable {s : State} {cl unit : Nat} {c : Copy} (hunit : unit < 2) (hc : (s.leat cl unit).head = some c)
  (hwait : c.waitCode = none)
include hunit hc hwait

/-- A granule whose bytes are there is delivered. -/
theorem copyGranuleDeliver_ready {d : CopyDesc} {bs : List Byte} {y : Stream} (hd : c.desc = some d) (hcode : c.code = none)
    (hnext : c.next < d.total) (hread : c.lineRead d = false) (hready : s.copyGranule cl unit c d c.next = .ready bs y) :
    exec (.copyGranuleDeliver cl unit) s = .next (s.copyDeliver cl unit c d bs y) := by
  simp only [exec, execCopyGranuleDeliver, Nat.not_le.2 hunit, hc, hd, hcode, hwait, Nat.not_le.2 hnext, hread, hready]
  rfl

/-! ### The end (R273, R276) -/

/-- A copy that owns no line and awaits no answer ends at its code, or when it has delivered everything. -/
theorem copyEnd_idle (hawaits : s.copyAwaits cl unit c.seq none = false) (hown : s.linesOwned cl unit = [])
    (htxns : ∀ t ∈ s.mem.txns, t.kind ≠ .engine cl unit) (hderr : c.derr = true → c.staged = []) {code : Option Code}
    (hcode : c.code = code) (hdone : code = none → ∃ d, c.desc = some d ∧ d.total ≤ c.granules) :
    exec (.copyEnd cl unit) s = .next (s.endCopy cl unit c code) := by
  subst hcode
  have idle : (s.mem.txns.any fun t => t.kind == .engine cl unit) = false := by simpa using htxns
  have settled : (c.derr && !c.staged.isEmpty) = false := by
    cases h : c.derr
    · rfl
    · simp [hderr h]
  simp only [exec, execCopyEnd, Nat.not_le.2 hunit, hc, hwait, hawaits, hown, idle, settled]
  cases hcode : c.code with
  | some code => rfl
  | none =>
    obtain ⟨d, hd, htotal⟩ := hdone hcode
    simp only [hd, htotal]
    rfl

end

/-! ### What a failed copy poisons (R273) -/

theorem Team.granule_setGranule (t : Team) (n : Nat) (g : Granule) (j : Nat) :
    (t.setGranule n g).granule j = if j = n then g else t.granule j := by
  unfold Team.setGranule Team.granule Table.getD
  by_cases h : j = n <;> cases g <;> simp [Table.get?_put, Table.get?_del, h]

theorem Team.granule_setGranules (at_ : Nat) (g : Granule) (l : List Nat) (t : Team) (j : Nat) :
    (l.foldl (fun (t : Team) n => t.setGranule (at_ + n) g) t).granule j =
      if ∃ n ∈ l, j = at_ + n then g else t.granule j := by
  induction l generalizing t with
  | nil => simp
  | cons n l ih =>
    simp only [List.foldl_cons, ih, Team.granule_setGranule, List.mem_cons, exists_eq_or_imp]
    by_cases h : j = at_ + n <;> simp [h]

theorem Team.setGranules_keeps (at_ : Nat) (g : Granule) (l : List Nat) (t : Team) :
    { l.foldl (fun (t : Team) n => t.setGranule (at_ + n) g) t with granules := t.granules } = t :=
  foldl_keeps (fun x : Team => { x with granules := t.granules }) (fun (t : Team) n => t.setGranule (at_ + n) g)
    (fun _ _ => rfl) l t

theorem mem_drop_range {n m k : Nat} : k ∈ (List.range n).drop m ↔ m ≤ k ∧ k < n := by
  rw [List.range_eq_range', List.drop_range', List.mem_range'_1]
  omega

section
variable {s : State} {c : Copy} {d : CopyDesc} {t : Team} (hd : c.desc = some d) (ht : s.copyTeam c = some t)
include hd ht

theorem State.poisonRest_eq : s.poisonRest c = if d.dsp = false ∨ d.failure t.scratchBytes ≠ none then s
    else s.modTeam c.core c.team fun t => ((List.range d.total).drop c.granules).foldl
      (fun (t : Team) n => t.setGranule (d.dst / 16 + n) .poison) t := by
  simp only [State.poisonRest, hd, ht, Bool.or_eq_true, Bool.not_eq_true', Option.isSome_iff_ne_none]

/-- The granules of a scratchpad destination that a copy has not delivered are poisoned, and nothing else of the team
changes. -/
theorem State.poisonRest_poisons (hdsp : d.dsp = true) (hok : d.failure t.scratchBytes = none) :
    ∃ u, (s.poisonRest c).team? c.core c.team = some u ∧ { u with granules := t.granules } = t ∧ ∀ n, u.granule n =
      if d.dst / 16 + c.granules ≤ n ∧ n < d.dst / 16 + d.total then .poison else t.granule n := by
  have hteam : s.team? c.core c.team = some t := ht
  rw [State.poisonRest_eq hd ht, if_neg (by simp [hdsp, hok]), State.team?_modTeam_self, hteam, Option.map_some]
  refine ⟨_, rfl, t.setGranules_keeps _ _ _, fun n => ?_⟩
  have rest : (∃ k ∈ (List.range d.total).drop c.granules, n = d.dst / 16 + k) ↔
      d.dst / 16 + c.granules ≤ n ∧ n < d.dst / 16 + d.total := by
    simp only [mem_drop_range]
    exact ⟨fun ⟨k, hk, hn⟩ => by omega, fun hn => ⟨n - d.dst / 16, by omega, by omega⟩⟩
  rw [Team.granule_setGranules]
  exact if_congr rest rfl rfl

end

/-- Settles O42: each event of the engine by what its copy stands at, and the poison by the granules not delivered. -/
theorem copyEngineWorks : Obligations.CopyEngineWorks := by
  refine ⟨fun s r p desc which rel part => ?accept, fun s cl unit c t hunit hc hd hcode hwait ht => ?start,
    fun s cl unit c d bs y hunit hc hd hcode hwait hnext hread hready => ?granule, fun c y => rfl,
    fun s cl unit c hunit hc hwait hawaits hown htxns hderr => ⟨fun code hcode => ?failed, fun d hd hcode htotal => ?done⟩,
    fun s cl unit c d code hd => ?ended, fun s c d t hd ht => ?poison⟩
  case accept =>
    intro cl unit h hgo hop hfree hfirst hroom
    rw [longResultArrive_going h hgo, State.arriveFor, hop]
    exact congrArg _ ((if_neg (by simp [hfree])).trans (State.cpyRequest_accepted hfirst hroom))
  case start =>
    refine ⟨fun bs hread => ?_, fun code va hread => ?_⟩
    · simp only [exec, execCopyStart, Nat.not_le.2 hunit, hc, hd, hcode, hwait, hread, ht]
      rfl
    · simp only [exec, execCopyStart, Nat.not_le.2 hunit, hc, hd, hcode, hwait, hread]
      rfl
  case granule =>
    intro va records u
    rw [copyGranuleDeliver_ready hunit hc hwait hd hcode hnext hread hready, State.copyDeliver]
    refine ⟨fun hdsp => congrArg _ (if_pos hdsp), fun l hdsp hva hroute haccess => congrArg _ <|
      (if_neg (ne_true_of_eq_false hdsp)).trans <| (if_neg (Nat.not_le.2 hva)).trans ?_⟩
    rw [show (s.touchRead _ _ _ _).routeIn c.group (d.dstAt c.next) = .local_ from hroute]
    exact State.copyToMemory_ok bs y haccess
  case failed => exact copyEnd_idle hunit hc hwait hawaits hown htxns hderr hcode nofun
  case done => exact copyEnd_idle hunit hc hwait hawaits hown htxns hderr hcode fun _ => ⟨d, hd, htotal⟩
  case ended => simp only [State.endCopy, hd]
  case poison =>
    exact ⟨fun h => (State.poisonRest_eq hd ht).trans (if_pos h), fun hdsp hok => State.poisonRest_poisons hd ht hdsp hok⟩

end Sys2Proof.Machine

/-! PROOFS. The graphics instructions at issue (R288, R294, R296, R298). -/

namespace Sys2Proof.Machine

/-- No lane's address is refused where none is bad. -/
theorem Issuer.memFault_none {c : Issuer} {k : MemKind} {code : Code} {addrs : Table Nat} {bad : Nat → Bool}
    (h : ∀ x ∈ addrs, bad x.2 = false) : c.memFault k code addrs bad = none := by
  have kept : addrs.filter (fun x => bad x.2) = [] := by simpa [List.filter_eq_nil_iff] using h
  simp only [Issuer.memFault, kept]

/-- Settles O43: each instruction passes its checks one after another, and what it leaves is its issue. -/
theorem graphicsInstructionsIssue : Obligations.GraphicsInstructionsIssue := by
  refine ⟨fun s c f first hc ha => ?prim, fun s c f hc => ?occq, fun s c f d a hc hd ha => ?rayq, fun s c f h => ?raywait⟩
  case prim =>
    intro b act hready halign hcanon hcounter hopen hpool
    refine runInstr_ok hc ?_
    rw [ha]
    exact check_then (c.checkTouch_ok hready _ _) <| unless_then (by simpa [b] using fun _ => halign) <|
      unless_then (by simpa [b] using fun _ => hcanon) <| check_then (c.checkCounter_ok hcounter) <|
      unless_then (ne_true_of_eq_false hopen) <| check_then (c.checkPool_ok hpool) rfl
  case occq =>
    intro b act addr hready halign hcanon hcounter hpool
    have touch := c.checkTouch_ok hready act 0
    have noFault : c.memFault .ld .addrNoncanon (act.toList.map fun i => (i, addr i)) (fun a => decide (2 ^ 56 ≤ a)) = none :=
      Issuer.memFault_none (by simpa [addr] using hcanon)
    refine runInstr_ok hc <| check_then (by cases h : predOf f.c <;> rw [h] at touch <;> exact touch) <|
      unless_then (by simpa [b] using fun _ => halign) ?_
    dsimp only [addr, b, act] at noFault ⊢
    rw [noFault]
    exact check_then (c.checkCounter_ok hcounter) <| check_then (c.checkPool_ok hpool) rfl
  case rayq =>
    intro act hready hcounter hpool
    refine runInstr_ok hc ?_
    rw [hd, ha]
    exact check_then (c.checkTouch_ok hready _ _) <| check_then (c.checkCounter_ok hcounter) <|
      check_then (c.checkPool_ok hpool) rfl
  case raywait =>
    refine ⟨_, runInstr_ok h.issues <| check_then h.checkOnce <| check_then (c.checkCounter_ok h.counter) rfl, fun id => ?_⟩
    simp only [List.mem_map, List.mem_filter]
    refine exists_congr fun p => ⟨fun ⟨⟨hp, hray⟩, hid⟩ => ⟨hp, hid, ?_⟩,
      fun ⟨hp, hid, _, _, _, hop⟩ => ⟨⟨hp, by rw [hop]⟩, hid⟩⟩
    split at hray
    · exact ⟨_, _, _, ‹_›⟩
    · cases hray

end Sys2Proof.Machine

/-! PROOFS. The rasteriser (R289 to R293) and the traversal unit (R295 to R297). -/

namespace Sys2Proof.Machine

/-! ### The rasteriser (R289, R291 to R293) -/

theorem State.modVis_congr {s : State} {cl : Nat} {f g : Vis → Vis} (h : f (s.cluster cl).vis = g (s.cluster cl).vis) :
    s.modVis cl f = s.modVis cl g := by
  simp only [State.modVis, State.modCluster, h]

/-- A maximum at the home by the rasteriser, once the line and the dirty ring allow it. -/
theorem State.homeMax_writes {s u : State} {cl : Nat} {l : Ln} {vmid asid va : Nat} (hmay : s.engineMay cl 3 l true = true)
    (hlog : s.logWrite vmid asid va = (true, u)) (n x : Nat) :
    let w := u.dropTracked l.tag l.line
    let old := leNat (slice (w.homeData l.tag l.line l.pline) (va % 128) n)
    s.homeMax cl l vmid asid va n x = (some old, w.writeAtHome l [(va % 128, leBytes n (max old x))]) := by
  simp only [State.homeMax, hmay, hlog]
  rfl

/-- The next kept sample of a triangle from where the rasteriser stands, as `execRasterSampleWrite` looks for it. -/
def Vis.nextKept (v : Vis) (t : Tri) (p : Screen) : Option (Nat × Nat × Nat × Nat) :=
  let box := pixelBox t.ctx p
  nextSample t p box (box.2.2.1 * box.2.2.2 - v.cursor) v.cursor

section
variable {s : State} {cl : Nat} {t : Tri} {rest : List Tri} {p : Screen} (hjob : (s.cluster cl).vis.job = t :: rest)
  (hwait : (s.cluster cl).vis.waitCode = none) (hscreen : screenOf t.verts = some p)
include hjob

/-- The triangle being rasterised leaves the buffer, and with the last one an overflow is counted. -/
theorem State.modVis_pop : s.modVis cl Vis.pop = s.modVis cl fun v =>
    { v with
      job := rest
      cursor := 0
      binflush := if rest = [] ∧ v.overflow = true then v.binflush + 1 else v.binflush } := by
  refine State.modVis_congr ?_
  simp only [Vis.pop, hjob, List.drop_one, List.tail_cons, Bool.and_eq_true, List.isEmpty_iff]

include hwait hscreen

theorem rasterSampleWrite_pops (hnext : (s.cluster cl).vis.nextKept t p = none) :
    exec (.rasterSampleWrite cl) s = .next (s.modVis cl Vis.pop) := by
  rw [Vis.nextKept] at hnext
  simp only [exec, execRasterSampleWrite, hjob, hwait, hscreen, hnext]
  rfl

section
variable {n px py word : Nat} (hnext : (s.cluster cl).vis.nextKept t p = some (n, px, py, word))
include hnext

theorem rasterSampleWrite_tests (htest : t.test = true) : exec (.rasterSampleWrite cl) s =
    .next (s.testSample cl t n (t.ctx.vbase + py * t.ctx.vpitch + 8 * px) word) := by
  rw [Vis.nextKept] at hnext
  simp only [exec, execRasterSampleWrite, hjob, hwait, hscreen, hnext, htest]
  rfl

/-- A kept sample whose access faults, in a test draw or not. -/
theorem rasterSampleWrite_faults {code : Code}
    (hfault : s.visAccess t.ctx (if t.test then .engineRead else .atomic) (t.ctx.vbase + py * t.ctx.vpitch + 8 * px) 8 =
      .error code) :
    exec (.rasterSampleWrite cl) s =
      .next (s.visFault cl t.ctx code (t.ctx.vbase + py * t.ctx.vpitch + 8 * px) n) := by
  cases htest : t.test with
  | true =>
    rw [htest, if_pos rfl] at hfault
    rw [rasterSampleWrite_tests hjob hwait hscreen hnext htest, State.testSample, hfault]
  | false =>
    rw [htest, if_neg Bool.false_ne_true] at hfault
    rw [Vis.nextKept] at hnext
    simp only [exec, execRasterSampleWrite, hjob, hwait, hscreen, hnext, htest, hfault]
    rfl

theorem rasterSampleWrite_writes {l : Ln} {u : State} {va : Nat} (hva : t.ctx.vbase + py * t.ctx.vpitch + 8 * px = va)
    (htest : t.test = false) (hl : s.visAccess t.ctx .atomic va 8 = .ok l) (hmay : s.engineMay cl 3 l true = true)
    (hlog : s.logWrite t.ctx.vmid t.ctx.asid va = (true, u)) :
    let w := u.dropTracked l.tag l.line
    let old := leNat (slice (w.homeData l.tag l.line l.pline) (va % 128) 8)
    exec (.rasterSampleWrite cl) s = .next ((w.writeAtHome l [(va % 128, leBytes 8 (max old word))]).modVis cl fun v =>
      { v with cursor := n + 1 }) := by
  subst hva
  rw [Vis.nextKept] at hnext
  simp only [exec, execRasterSampleWrite, hjob, hwait, hscreen, hnext, htest, hl, State.homeMax_writes hmay hlog]
  rfl

end
end

section
variable {s : State} {cl : Nat} {t : Tri} {n va word : Nat} {l : Ln} (hl : s.visAccess t.ctx .engineRead va 8 = .ok l)
  (hmay : s.engineMay cl 3 l false = true)
include hl hmay

/-- A test sample that the buffer's word hides. -/
theorem State.testSample_hidden (h : word < leNat (slice (s.coherentData l.tag l.line l.pline) (va % 128) 8)) :
    s.testSample cl t n va word = (s.touchLine l).modVis cl fun v => { v with cursor := n + 1 } := by
  simp only [State.testSample, hl, hmay, h]
  rfl

/-- A test sample that is seen: the object's word takes the draw's. -/
theorem State.testSample_seen {o : Ln} {u : State} {oa : Nat} (hoa : t.ctx.obase + 4 * t.inst = oa)
    (h : leNat (slice (s.coherentData l.tag l.line l.pline) (va % 128) 8) ≤ word)
    (ho : s.visAccess t.ctx .atomic oa 4 = .ok o) (howns : s.engineMay cl 3 o true = true)
    (hlog : s.logWrite t.ctx.vmid t.ctx.asid oa = (true, u)) :
    let w := u.dropTracked o.tag o.line
    let old := leNat (slice (w.homeData o.tag o.line o.pline) (oa % 128) 4)
    s.testSample cl t n va word = ((w.writeAtHome o [(oa % 128, leBytes 4 (max old (2 ^ 31 + t.ctx.ftag)))]).touchLine
      l).modVis cl fun v => { v with cursor := n + 1 } := by
  subst hoa
  simp only [State.testSample, hl, hmay, Nat.not_lt.2 h, ho, State.homeMax_writes howns hlog]
  rfl

end

@[simp] theorem State.recordWalk_parts (s : State) (asid va : Nat) (w : Walk) : (s.recordWalk asid va w).parts = s.parts := by
  unfold State.recordWalk
  split
  · dsimp only
    split <;> rfl
  · rfl

@[simp] theorem State.noteWalk_parts (s : State) (vmid asid va : Nat) (core : Option Nat) :
    (s.noteWalk vmid asid va core).parts = s.parts := by
  unfold State.noteWalk
  dsimp only
  split
  · exact s.recordWalk_parts _ _ _
  · rfl

@[simp] theorem State.askMigration_parts (s : State) (vmid : Nat) (code : Code) (va : Nat) :
    (s.askMigration vmid code va).parts = s.parts := by
  unfold State.askMigration
  split
  · split
    · exact State.post_parts _ _ _
    · rfl
  · rfl

theorem State.serviced_of_parts {s t : State} (h : t.parts = s.parts) (vmid : Nat) (code : Code) :
    t.serviced vmid code = s.serviced vmid code := by
  simp only [State.serviced, State.partOfVm, h]

/-- A fault that firmware does not service drops its sample, and the first one dropped is kept. -/
theorem State.visFault_drops {s : State} {c : DrawCtx} {code : Code} (h : s.serviced c.vmid code = false) (cl va n : Nat) :
    s.visFault cl c code va n = ((s.noteWalk c.vmid c.asid va).askMigration c.vmid code va).modVis cl fun v =>
      { v with
        cursor := n + 1
        dropped := if v.dropped = none then some (code, va) else v.dropped } := by
  have unserved : ((s.noteWalk c.vmid c.asid va).askMigration c.vmid code va).serviced c.vmid code = false :=
    (State.serviced_of_parts (by simp) _ _).trans h
  refine (if_neg (by simp [unserved])).trans (State.modVis_congr ?_)
  cases (State.cluster _ cl).vis.dropped <;> rfl

/-! ### The traversal unit (R295 to R297) -/

section
variable {s : State} {r : Runner} {p : Pending} {any cullb : Bool} {root : Nat} (h : s.Outstanding r p)
  (hop : p.op = .rayq any cullb root) (hst : p.st = .pending) (hfree : s.blocked r p [] = false)
include h hop hst hfree

/-- A RAYQ with no active lane delivers at once. -/
theorem rayqDeliver_noLanes (hdata : p.data = []) (lane : Nat) :
    exec (.rayqDeliver r.core r.slot p.id lane) s = .next (s.deliver r.core r.slot p.id (rayOut p)) := by
  simp only [exec, execRayqDeliver, h.runs, h.entry, hop, hst, hfree, hdata]
  rfl

variable {lane : Nat} {ws : List Word} (hdata : p.data ≠ []) (hws : Table.get? p.data lane = some ws)
  (hopen : p.laneOpen lane = true)
include hdata hws hopen

theorem rayqDeliver_miss (hray : rayOf ws = .miss) :
    exec (.rayqDeliver r.core r.slot p.id lane) s = .next (s.rayLane r p lane missWords) := by
  simp only [exec, execRayqDeliver, h.runs, h.entry, hop, hst, hfree, List.isEmpty_eq_false_iff.2 hdata, hws, hopen, hray]
  rfl

variable {ray : Ray} (hray : rayOf ws = .ray ray) {v : Visit}
  (hv : s.visit (clusterOf r.core) r.grid.vmid r.grid.asid r.grid.group ray any cullb 64 root
    { best := none, stop := none, seen := [] } = v)
include hray hv

/-- A lane whose visit ends with words for its result. -/
theorem rayqDeliver_ends {out : List Word}
    (hend : v.stop = some .malformed ∧ out = malformedWords ∨
      (v.stop = none ∨ v.stop = some .found) ∧ out = v.best.elim missWords Hit.words) :
    exec (.rayqDeliver r.core r.slot p.id lane) s =
      .next ((s.touchRead r.grid.vmid r.grid.asid r.grid.group v.seen.reverse).rayLane r p lane out) := by
  simp only [exec, execRayqDeliver, h.runs, h.entry, hop, hst, hfree, List.isEmpty_eq_false_iff.2 hdata, hws, hopen, hray, hv]
  obtain ⟨hstop, rfl⟩ | ⟨hstop | hstop, rfl⟩ := hend <;> rw [hstop]
  · rfl
  · cases v.best <;> rfl
  · cases v.best <;> rfl

theorem rayqDeliver_faults {code : Code} {va : Nat} (hstop : v.stop = some (.fault code va)) :
    exec (.rayqDeliver r.core r.slot p.id lane) s =
      .next (((s.touchRead r.grid.vmid r.grid.asid r.grid.group v.seen.reverse).noteWalk r.grid.vmid r.grid.asid va).modGang
        r.core r.slot fun g => g.modPending p.id fun q => q.addFailure false code lane va 0) := by
  simp only [exec, execRayqDeliver, h.runs, h.entry, hop, hst, hfree, List.isEmpty_eq_false_iff.2 hdata, hws, hopen, hray, hv,
    hstop]
  rfl

end

/-! ### The visit of a node (R295, R296) -/

section
variable (s : State) (cl vmid asid : Nat) (group : Option Group) (ray : Ray) (any cullb : Bool) {v : Visit} (fuel ptr : Nat)

theorem State.visit_stopped (h : v.stop ≠ none) : s.visit cl vmid asid group ray any cullb fuel ptr v = v := by
  unfold State.visit
  exact if_pos (Option.isSome_iff_ne_none.2 h)

theorem State.visit_malformed (h : v.stop = none) (hbad : bitsOf ptr 63 56 ≠ 0 ∨ 2 < ptr % 64) :
    s.visit cl vmid asid group ray any cullb fuel ptr v = { v with stop := some .malformed } := by
  unfold State.visit
  exact (if_neg (by simp [h])).trans (if_pos (by simpa using hbad))

theorem State.visit_triangle {bs : List Byte} (h : v.stop = none) (hhigh : bitsOf ptr 63 56 = 0) (hkind : ptr % 64 = 2)
    (hread : s.engineRead .engineRead cl 4 vmid asid group (bitsOf ptr 55 6 * 64) 64 = .bytes bs) :
    s.visit cl vmid asid group ray any cullb fuel ptr v =
      visitTriangle ray any cullb (nodeWords bs) { v with seen := bitsOf ptr 55 6 * 64 :: v.seen } := by
  unfold State.visit
  simp only [h, hhigh, hkind, hread]
  rfl

end

section
variable {ray : Ray} {cullb : Bool} {ws : List Word} (hrest : (ws.drop 11).all (fun w => w == 0) = true)
include hrest

theorem no_reservedWord : ¬ ((ws.drop 11).any fun w => w != 0) = true := by
  simpa [List.any_eq_true, List.all_eq_true] using hrest

theorem visitTriangle_missed (hmiss : ray.hit cullb (ws.take 9) (nth ws 9 0) (nth ws 10 0) = none) (any : Bool) (v : Visit) :
    visitTriangle ray any cullb ws v = v := by
  rw [visitTriangle, if_neg (no_reservedWord hrest), hmiss]

/-- The nearest hit stays where the new one is not before it (R296). -/
theorem visitTriangle_hit {h : Hit} (hhit : ray.hit cullb (ws.take 9) (nth ws 9 0) (nth ws 10 0) = some h) (any : Bool)
    (v : Visit) : visitTriangle ray any cullb ws v =
      { v with
        best := if ∃ b, v.best = some b ∧ h.before b = false then v.best else some h
        stop := if any = true then some .found else v.stop } := by
  rw [visitTriangle, if_neg (no_reservedWord hrest), hhit]
  cases hbest : v.best with
  | none => simp
  | some b => cases hbefore : h.before b <;> simp [hbefore]

end

/-- Settles O44: a sample by what its access meets, a flush by the write that was dropped, and a ray by how its visit ends. -/
theorem graphicsUnitsWork : Obligations.GraphicsUnitsWork := by
  refine ⟨fun s cl t rest p hjob hwait hscreen => ?raster, fun s cl c code va n h => State.visFault_drops h cl va n,
    fun s r p h hop hsent hst hjob => ?flush, fun s r p any cullb root lane h hop hst hfree => ?ray,
    fun s cl vmid asid fuel ptr group ray any cullb v => ?visit, fun s cl => rfl, fun s cl unit c hunit hc => ?serviced⟩
  case raster =>
    intro box next move
    refine ⟨fun hnext => ?_, fun n px py word hnext => ?_⟩
    · rw [rasterSampleWrite_pops hjob hwait hscreen hnext, State.modVis_pop hjob]
    · intro va oa
      refine ⟨fun code hfault => rasterSampleWrite_faults hjob hwait hscreen hnext hfault,
        fun l htest hl hmay u hlog => rasterSampleWrite_writes hjob hwait hscreen hnext rfl htest hl hmay hlog,
        fun l htest hl hmay => ?_⟩
      rw [rasterSampleWrite_tests hjob hwait hscreen hnext htest]
      exact ⟨fun h => congrArg _ (State.testSample_hidden hl hmay h),
        fun o u h ho howns hlog => congrArg _ (State.testSample_seen hl hmay rfl h ho howns hlog)⟩
  case flush =>
    refine ⟨fun hdrop => ?_, fun code va hdrop => ?_⟩
    · simp only [exec, execFlushClassesArrive, h.runs, h.entry, hop, hsent, hst, hjob, hdrop]
      rfl
    · simp only [exec, execFlushClassesArrive, h.runs, h.entry, hop, hsent, hst, hjob, hdrop]
      rfl
  case ray =>
    intro out
    refine ⟨fun hdata => rayqDeliver_noLanes h hop hst hfree hdata lane, fun ws hdata hws hopen => ?_⟩
    intro miss
    refine ⟨fun hray => rayqDeliver_miss h hop hst hfree hdata hws hopen hray, fun ray hray => ?_⟩
    intro v t
    have ends {words : List Word} := rayqDeliver_ends (v := v) (out := words) h hop hst hfree hdata hws hopen hray rfl
    exact ⟨fun hstop => ⟨fun x hbest => ends (.inr ⟨hstop, by rw [hbest]; rfl⟩),
        fun hbest => ends (.inr ⟨hstop, by rw [hbest]; rfl⟩)⟩,
      fun hstop => ends (.inl ⟨hstop, rfl⟩), fun code va => rayqDeliver_faults h hop hst hfree hdata hws hopen hray rfl⟩
  case visit =>
    refine ⟨s.visit_stopped cl vmid asid group ray any cullb fuel ptr,
      s.visit_malformed cl vmid asid group ray any cullb fuel ptr, fun bs hstop hhigh hkind hread hrest => ?_⟩
    intro seen
    rw [s.visit_triangle cl vmid asid group ray any cullb fuel ptr hstop hhigh hkind hread]
    cases hhit : ray.hit cullb ((nodeWords bs).take 9) (nth (nodeWords bs) 9 0) (nth (nodeWords bs) 10 0) with
    | none => exact visitTriangle_missed hrest hhit any _
    | some x =>
      rw [visitTriangle_hit hrest hhit]
      simp only [hstop, seen]
  case serviced =>
    simp only [exec, execEngineFirmwareServiceDone, hunit, hc, if_true]

end Sys2Proof.Machine

/-! PROOFS. The home's transactions (R310 to R314, R321, R323): misses, copies that leave an L1, evictions, probes and walks. -/

namespace Sys2Proof.Machine

/-! ### The line that an access reaches -/

section
variable {s : State} {core : Option Nat} {vmid asid va : Nat} {l : Ln}

theorem State.lineAt_line {heap : Bool} (h : s.lineAt core vmid asid va heap = .ok l) : l.line = va / 128 := by
  unfold State.lineAt at h
  dsimp only at h
  repeat' split at h
  all_goals cases h <;> rfl

theorem State.access_line {k : Acc} {n : Nat} (h : s.access k core vmid asid va n = .ok l) : l.line = va / 128 := by
  unfold State.access at h
  dsimp only at h
  repeat' split at h
  all_goals cases h
  all_goals exact State.lineAt_line ‹_›

end

section
variable {s : State} {core vmid asid line : Nat} {l : Ln}

/-- An access of a line's first byte reaches that line. -/
theorem State.access_lineStart {k : Acc} {n : Nat} (h : s.access k (some core) vmid asid (128 * line) n = .ok l) :
    l.line = line := by
  have := State.access_line h
  omega

theorem State.getsLine_of_load (h : s.access .load (some core) vmid asid (128 * line) 1 = .ok l) :
    s.getsLine core vmid asid line = some (l, false) := by
  rw [State.getsLine, h]

theorem State.getsLine_line {write : Bool} (h : s.getsLine core vmid asid line = some (l, write)) : l.line = line := by
  unfold State.getsLine at h
  split at h
  · rename_i found
    cases h
    exact State.access_lineStart found
  · split at h
    · rename_i found
      split at h
      · cases h
        exact State.access_lineStart found
      · cases h
    · cases h

end

/-! ### Copies in an L1 (R310, R313) -/

theorem find?_filter_not {α : Type} (p : α → Bool) (l : List α) : (l.filter fun x => !p x).find? p = none := by
  simp [List.find?_filter]

section
variable (s : State) (core tag line : Nat)

@[simp] theorem State.core_setDir (pline : Nat) (d : DirEntry) (c : Nat) : (s.setDir tag line pline d).core c = s.core c := rfl

@[simp] theorem State.core_notify (pline c : Nat) : (s.notify pline).core c = s.core c := by
  unfold State.notify
  split <;> rfl

@[simp] theorem State.core_writeHome (pline off : Nat) (bs : List Byte) (c : Nat) :
    (s.writeHome tag line pline off bs).core c = s.core c := by
  unfold State.writeHome
  split <;> exact State.core_notify _ _ _

theorem State.l1?_putL1_self (x : L1Line) : ((s.putL1 core x).core core).l1? x.tag x.line = some x := by
  rw [State.putL1, State.core_modCore_self, Core.l1?, List.find?_append, find?_filter_not]
  simp

theorem State.dropL1_of_none (h : (s.core core).l1? tag line = none) : s.dropL1 core tag line = s := by
  rw [State.dropL1, h]

variable {s core tag line} {x : L1Line} (hx : (s.core core).l1? tag line = some x)
include hx

theorem State.dropL1_of_lost (hlost : x.lost = true) :
    s.dropL1 core tag line = s.modL1 core tag line fun y => { y with st := .ip } := by
  rw [State.dropL1, hx]
  exact if_pos hlost

theorem State.dropL1_of_kept (hlost : x.lost = false) : s.dropL1 core tag line =
    if (x.dirty && !(s.lineMeta x.pline).lost) = true then
      (s.delL1 core tag line).writeHome tag line x.pline 0 x.data else s.delL1 core tag line := by
  rw [State.dropL1, hx]
  exact if_neg (by simp [hlost])

end

theorem State.core_dropL1_ne (s : State) {core c : Nat} (h : c ≠ core) (tag line : Nat) :
    (s.dropL1 core tag line).core c = s.core c := by
  cases hx : (s.core core).l1? tag line with
  | none => rw [s.dropL1_of_none core tag line hx]
  | some x =>
    cases hlost : x.lost with
    | true => rw [State.dropL1_of_lost hx hlost]; exact State.core_modCore_ne s h _
    | false =>
      have gone : (s.delL1 core tag line).core c = s.core c := State.core_modCore_ne s h _
      rw [State.dropL1_of_kept hx hlost]
      split
      · rw [State.core_writeHome, gone]
      · exact gone

/-- A core keeps of a line that it drops the mark of a lost copy alone, which is not tracked (R175). -/
theorem State.l1?_dropL1_self (s : State) (core tag line : Nat) : ((s.dropL1 core tag line).core core).l1? tag line =
    (((s.core core).l1? tag line).filter fun x => x.lost).map fun x => { x with st := .ip } := by
  cases hx : (s.core core).l1? tag line with
  | none => rw [s.dropL1_of_none core tag line hx, hx]; rfl
  | some x =>
    cases hlost : x.lost with
    | true =>
      rw [State.dropL1_of_lost hx hlost, s.l1?_modL1_self core tag line (f := fun y => { y with st := .ip })
        fun _ => ⟨rfl, rfl⟩, hx]
      simp [hlost]
    | false =>
      have gone := s.l1?_delL1_self core tag line
      rw [State.dropL1_of_kept hx hlost]
      split <;> simp [gone, hlost]

/-! ### Misses (R311, R312) -/

theorem gets_goes {s u : State} {core asid line vmid hint : Nat} {l : Ln} {write : Bool} (hvm : s.vmOfCore core = some vmid)
    (hl : s.getsLine core vmid asid line = some (l, write))
    (hhint : s.missHint core asid line l.perms.attr write = some hint) (hbusy : s.lineBusy l.tag l.line l.pline = false)
    (hmiss : (s.core core).l1? l.tag l.line = none)
    (hroom : ¬ (l.heap = true ∨ hint = 1 ∨ s.l1On core = false) → s.l1Full core = false)
    (hfill : (s.keepFill l (128 * line)).fillL2 l (s.maskOfVm vmid) hint = some u) :
    exec (.gets core asid line) s = .next
      (if l.heap = true ∨ hint = 1 ∨ s.l1On core = false then u.dropPref core asid line l.perms.attr write
       else (u.dropPref core asid line l.perms.attr write).grantS core l) := by
  have l2Only : (l.heap || hint == 1 || !s.l1On core) = decide (l.heap = true ∨ hint = 1 ∨ s.l1On core = false) := by
    simp [Bool.or_assoc, Bool.beq_eq_decide_eq]
  have miss : (s.core core).l1? l.tag line = none := State.getsLine_line hl ▸ hmiss
  have goes : (s.lineBusy l.tag l.line l.pline || ((s.core core).l1? l.tag line).isSome ||
      (!(l.heap || hint == 1 || !s.l1On core) && s.l1Full core)) = false := by
    rw [hbusy, miss, l2Only]
    simpa using hroom
  simp only [exec, execGets, hvm, hl, hhint, hfill, goes]
  simp [l2Only]

theorem getm_goes {s u : State} {core asid line vmid hint : Nat} {l : Ln} (hvm : s.vmOfCore core = some vmid)
    (hl : s.access .store (some core) vmid asid (128 * line) 1 = .ok l)
    (hhint : s.missHint core asid line l.perms.attr true = some hint) (hbusy : s.lineBusy l.tag l.line l.pline = false)
    (hheap : l.heap = false) (hattr : l.perms.attr = .sc ∨ l.perms.attr = .rc) (hon : s.l1On core = true)
    (hwatch : (s.lineMeta l.pline).watch = false)
    (hroom : hint ≠ 1 → ((s.core core).l1? l.tag line).isSome = true ∨ s.l1Full core = false)
    (hfill : (s.keepFill l (128 * line)).fillL2 l (s.maskOfVm vmid) hint = some u) :
    let v := u.dropPref core asid line l.perms.attr true
    let d := v.dir l.tag l.line l.pline
    let waiting := if d.st = .s ∨ d.st = .o then d.probes (some core) else []
    exec (.getm core asid line) s = .next (if hint = 1 then v else if waiting = [] then v.grantM core l
      else v.openTxn { tag := l.tag, line := line, kind := .getm core, waiting := waiting }) := by
  have tracked : (l.perms.attr == .sc || l.perms.attr == .rc) = true := by simpa using hattr
  have room : (hint != 1 && !(((s.core core).l1? l.tag line).isSome || !s.l1Full core)) = false := by
    by_cases h : hint = 1
    · simp [h]
    · rcases hroom h with hold | free
      · simp [hold]
      · simp [free]
  simp only [exec, execGetm, hvm, hl, hhint, hfill, hbusy, hheap, tracked, hon, hwatch, room]
  simp only [Bool.or_false, Bool.not_true, Bool.false_eq_true, if_false, beq_iff_eq, Bool.or_eq_true, List.isEmpty_iff,
    State.access_lineStart hl, apply_ite Host.Outcome.next]

/-- The state in which a GETS leaves the requester's copy (R311, R317). -/
theorem State.l1?_grantS (u : State) (core : Nat) (l : Ln) : ((u.grantS core l).core core).l1? l.tag l.line =
    some (l.l1Copy
      (match l.perms.attr with
        | .wo => .wo
        | .ip => .ip
        | _ => if (u.dir l.tag l.line l.pline).st = .i ∧ (u.lineMeta l.pline).watch = false then .e else .s)
      (u.coherentData l.tag l.line l.pline)) := by
  have put (t : State) (st : L1St) (data : List Byte) :
      ((t.putL1 core (l.l1Copy st data)).core core).l1? l.tag l.line = some (l.l1Copy st data) :=
    t.l1?_putL1_self core (l.l1Copy st data)
  cases hattr : l.perms.attr with
  | wo | ip => simp [State.grantS, hattr, put]
  | sc | rc =>
    cases hst : (u.dir l.tag l.line l.pline).st with
    | i => cases hwatch : (u.lineMeta l.pline).watch <;> simp [State.grantS, hattr, hst, hwatch, put]
    | s | e | m | o | en => simp [State.grantS, hattr, hst, put]

theorem State.l1?_grantM (u : State) (core : Nat) (l : Ln) : ((u.grantM core l).core core).l1? l.tag l.line =
    some { l.l1Copy .m (u.coherentData l.tag l.line l.pline) with dirty := true } :=
  State.l1?_putL1_self _ core { l.l1Copy .m (u.coherentData l.tag l.line l.pline) with dirty := true }

/-! ### Copies that leave (R311, R314) -/

section
variable {s : State} {core tag line : Nat} {x : L1Line} (hx : (s.core core).l1? tag line = some x)
include hx

theorem putsPute_clean (hclean : x.leavesDirty = false) : ∃ t, exec (.putsPute core tag line) s = .next t ∧
    (t.core core).l1? tag line = none ∧ t.mem.hbm = s.mem.hbm := by
  obtain ⟨hcore, hmem⟩ := s.putClean_core_hbm core tag line x core
  refine ⟨s.putClean core tag line x, ?_, hcore ▸ s.l1?_delL1_self core tag line, hmem⟩
  simp only [exec, execPutsPute, hx, hclean]
  rfl

theorem putmPuto_lost (hlost : x.lost = true) : exec (.putmPuto core tag line) s = .next s := by
  simp only [exec, execPutmPuto, hx, hlost]
  simp

theorem putmPuto_dirty (hdirty : x.leavesDirty = true) (hlost : x.lost = false) :
    exec (.putmPuto core tag line) s = .next (s.putDirty core tag line x) := by
  simp only [exec, execPutmPuto, hx, hdirty, hlost]
  rfl

end

/-- A write of a line that the L2 does not hold goes to memory. -/
theorem State.writeHome_hbm {s : State} {tag line pline : Nat} (h : s.l2? tag line pline = none) (off : Nat) (bs : List Byte) :
    (s.writeHome tag line pline off bs).mem.hbm = Memory.writeN s.mem.hbm (128 * pline + off) bs := by
  rw [State.writeHome, h]
  exact State.notify_hbm _ _

/-- A dirty copy that leaves is a write at the home, but for the directory. -/
theorem State.putDirty_writes (s : State) (core tag line : Nat) {x : L1Line} (hlost : x.lost = false) :
    let written := (s.delL1 core tag line).writeHome tag line x.pline 0 x.data
    (∀ c, (s.putDirty core tag line x).core c = written.core c) ∧
      (s.putDirty core tag line x).mem.hbm = written.mem.hbm := by
  simp only [State.putDirty, hlost]
  cases x.st.tracked <;> exact ⟨fun _ => rfl, rfl⟩

theorem State.putDirty_l1? (s : State) (core tag line : Nat) {x : L1Line} (hlost : x.lost = false) :
    ((s.putDirty core tag line x).core core).l1? tag line = none := by
  rw [(s.putDirty_writes core tag line hlost).1, State.core_writeHome, s.l1?_delL1_self]

theorem State.putDirty_hbm {s : State} {tag line : Nat} {x : L1Line} (h : s.l2? tag line x.pline = none) (core : Nat)
    (hlost : x.lost = false) :
    (s.putDirty core tag line x).mem.hbm = Memory.writeN s.mem.hbm (128 * x.pline) x.data := by
  rw [(s.putDirty_writes core tag line hlost).2]
  exact State.writeHome_hbm (s := s.delL1 core tag line) h 0 x.data

/-! ### Every tracked copy of a line dropped (R311, R313) -/

/-- The copy of a line that a core would write back: tracked and dirty. -/
def Core.dirtyCopy (k : Core) (tag line : Nat) : Option L1Line := (k.l1? tag line).filter fun y => y.st.tracked && y.dirty

/-- The part of one core, as it stood, in the dropping of every tracked copy. -/
def State.dropTrackedOf (tag line : Nat) (s : State) (k : Nat × Core) : State :=
  if (k.2.l1? tag line).any (fun x => x.st.tracked) then s.dropL1 k.1 tag line else s

theorem State.dropTracked_eq_foldl (s : State) (tag line : Nat) :
    s.dropTracked tag line = s.cores.foldl (State.dropTrackedOf tag line) s := by
  unfold State.dropTracked
  congr 1
  funext t k
  unfold State.dropTrackedOf
  cases k.2.l1? tag line <;> rfl

/-- In `t` a core's copy of a line is the one that it has in `s`, or a lost one. -/
def ShedsLine (tag line : Nat) (s t : State) : Prop :=
  ∀ c z, (t.core c).l1? tag line = some z → z.lost = true ∨ (s.core c).l1? tag line = some z

section
variable {tag line : Nat} {s t : State}

theorem ShedsLine.refl (s : State) : ShedsLine tag line s s := fun _ _ h => .inr h

theorem ShedsLine.dropL1 (h : ShedsLine tag line s t) (core : Nat) : ShedsLine tag line s (t.dropL1 core tag line) := by
  intro c z hz
  by_cases hc : c = core
  · subst hc
    rw [t.l1?_dropL1_self] at hz
    obtain ⟨x, hx, rfl⟩ := Option.map_eq_some_iff.1 hz
    exact .inl (Option.filter_eq_some_iff.1 hx).2
  · rw [t.core_dropL1_ne hc] at hz
    exact h c z hz

/-- A core without a dirty copy drops what it has of a line and writes nothing. -/
theorem ShedsLine.dropTrackedOf_mem (h : ShedsLine tag line s t) {k : Nat × Core} (hk : s.core k.1 = k.2)
    (hclean : k.2.dirtyCopy tag line = none) :
    (t.dropTrackedOf tag line k).mem = t.mem ∧ (t.dropTrackedOf tag line k).boot = t.boot := by
  unfold State.dropTrackedOf
  split
  · rename_i htracked
    cases hz : (t.core k.1).l1? tag line with
    | none => rw [t.dropL1_of_none k.1 tag line hz]; exact ⟨rfl, rfl⟩
    | some z =>
      cases hlost : z.lost with
      | true => rw [State.dropL1_of_lost hz hlost]; exact ⟨rfl, rfl⟩
      | false =>
        have own : k.2.l1? tag line = some z := by
          rw [← hk]
          exact (h k.1 z hz).resolve_left (by simp [hlost])
        have clean : z.dirty = false := by
          simp only [Core.dirtyCopy, own] at hclean
          simp only [own, Option.any_some] at htracked
          simpa [htracked] using hclean
        rw [State.dropL1_of_kept hz hlost, if_neg (by simp [clean])]
        exact ⟨rfl, rfl⟩
  · exact ⟨rfl, rfl⟩

theorem ShedsLine.dropTrackedOf (h : ShedsLine tag line s t) (k : Nat × Core) :
    ShedsLine tag line s (t.dropTrackedOf tag line k) := by
  unfold State.dropTrackedOf
  split
  · exact h.dropL1 k.1
  · exact h

theorem ShedsLine.foldl (h : ShedsLine tag line s t) (ks : List (Nat × Core)) :
    ShedsLine tag line s (ks.foldl (State.dropTrackedOf tag line) t) := by
  induction ks generalizing t with
  | nil => exact h
  | cons k ks ih => exact ih (h.dropTrackedOf k)

theorem ShedsLine.foldl_mem (h : ShedsLine tag line s t) {ks : List (Nat × Core)} (hks : ∀ k ∈ ks, s.core k.1 = k.2)
    (hclean : ∀ k ∈ ks, k.2.dirtyCopy tag line = none) :
    (ks.foldl (State.dropTrackedOf tag line) t).mem = t.mem ∧ (ks.foldl (State.dropTrackedOf tag line) t).boot = t.boot := by
  induction ks generalizing t with
  | nil => exact ⟨rfl, rfl⟩
  | cons k ks ih =>
    obtain ⟨hk, hks⟩ := List.forall_mem_cons.1 hks
    obtain ⟨clean, hclean⟩ := List.forall_mem_cons.1 hclean
    obtain ⟨mem, boot⟩ := h.dropTrackedOf_mem hk clean
    obtain ⟨mem', boot'⟩ := ih (h.dropTrackedOf k) hks hclean
    exact ⟨mem'.trans mem, boot'.trans boot⟩

/-- A core that is not among those whose copies are dropped stays as it is. -/
theorem State.core_foldl_dropTrackedOf (tag line : Nat) {ks : List (Nat × Core)} {c : Nat} (h : ∀ k ∈ ks, k.1 ≠ c)
    (t : State) : (ks.foldl (State.dropTrackedOf tag line) t).core c = t.core c := by
  induction ks generalizing t with
  | nil => rfl
  | cons k ks ih =>
    rw [List.foldl_cons, ih fun k hk => h k (List.mem_cons_of_mem _ hk), State.dropTrackedOf]
    split
    · exact t.core_dropL1_ne (h k List.mem_cons_self).symm tag line
    · rfl

end

theorem State.dropTracked_of_clean {s : State} {tag line : Nat} (hkeys : ∀ k ∈ s.cores, s.core k.1 = k.2)
    (hclean : ∀ k ∈ s.cores, k.2.dirtyCopy tag line = none) : (s.dropTracked tag line).mem = s.mem := by
  rw [s.dropTracked_eq_foldl]
  exact ((ShedsLine.refl s).foldl_mem hkeys hclean).1

/-- A dirty copy of a line that the L2 holds, dropped, is the L2's copy from then on, and memory stays. -/
theorem State.dropL1_of_dirty {s : State} {core : Nat} {x : L2Line} {y : L1Line}
    (hy : (s.core core).l1? x.tag x.line = some y) (hm : s.boot.memSide = false)
    (hx : s.mem.l2.find? (fun z => z.tag == x.tag && z.line == x.line) = some x) (hdirty : y.dirty = true)
    (hlost : y.lost = false) (hmeta : (s.lineMeta y.pline).lost = false) :
    (s.dropL1 core x.tag x.line).mem.hbm = s.mem.hbm ∧
      (s.dropL1 core x.tag x.line).mem.l2.find? (fun z => z.tag == x.tag && z.line == x.line) =
        some (x.writes [(0, y.data)]) := by
  have gone : HoldsLine (s.delL1 core x.tag x.line) (s.delL1 core x.tag x.line) x := ⟨⟨_, _, _, _, rfl⟩, hx⟩
  obtain ⟨⟨_, _, _, _, frame⟩, held⟩ := gone.writeHome (by exact hm) y.pline 0 y.data
  rw [State.dropL1_of_kept hy hlost, if_pos (by simp [hdirty, hmeta])]
  exact ⟨by rw [frame]; rfl, held⟩

/-- Of the copies of a line that the L2 holds, the one dirty one is the L2's once all are dropped, and memory stays: those
dropped before it and after it write nothing. -/
theorem State.dropTracked_of_dirty {s : State} {x : L2Line} {y : L1Line} (hkeys : ∀ k ∈ s.cores, s.core k.1 = k.2)
    (hm : s.boot.memSide = false) (hx : s.mem.l2.find? (fun z => z.tag == x.tag && z.line == x.line) = some x)
    (hcopies : s.cores.filterMap (fun k => k.2.dirtyCopy x.tag x.line) = [y]) (hlost : y.lost = false)
    (hmeta : (s.lineMeta y.pline).lost = false) :
    (s.dropTracked x.tag x.line).mem.hbm = s.mem.hbm ∧
      (s.dropTracked x.tag x.line).mem.l2.find? (fun z => z.tag == x.tag && z.line == x.line) =
        some (x.writes [(0, y.data)]) := by
  obtain ⟨before, k, after, hcores, hbefore, hk, hafter⟩ := List.filterMap_eq_cons_iff.1 hcopies
  rw [List.filterMap_eq_nil_iff] at hafter
  obtain ⟨keys_before, key, keys_after⟩ : (∀ p ∈ before, s.core p.1 = p.2) ∧ s.core k.1 = k.2 ∧
      ∀ p ∈ after, s.core p.1 = p.2 := by simpa [hcores, or_imp, forall_and] using hkeys
  obtain ⟨own, hy⟩ := Option.filter_eq_some_iff.1 hk
  obtain ⟨tracked, dirty⟩ := Bool.and_eq_true_iff.1 hy
  have other_cores : ∀ p ∈ before, p.1 ≠ k.1 := fun p hp hpk => by
    have clean := hbefore p hp
    rw [← keys_before p hp, hpk, key, hk] at clean
    cases clean
  have here := (State.core_foldl_dropTrackedOf x.tag x.line other_cores s).trans key
  have sheds := (ShedsLine.refl (tag := x.tag) (line := x.line) s).foldl before
  obtain ⟨mem, boot⟩ := (ShedsLine.refl s).foldl_mem keys_before hbefore
  rw [s.dropTracked_eq_foldl, hcores, List.foldl_append]
  generalize before.foldl (State.dropTrackedOf x.tag x.line) s = t at *
  obtain ⟨hbm, held⟩ := State.dropL1_of_dirty (s := t) (core := k.1) (by rw [here, own]) (by rw [boot, hm])
    (by rw [mem, hx]) dirty hlost (by rw [State.lineMeta, mem]; exact hmeta)
  rw [List.foldl_cons, State.dropTrackedOf, if_pos (by simp [own, tracked]),
    ((sheds.dropL1 k.1).foldl_mem keys_after hafter).1]
  exact ⟨hbm.trans (congrArg MemSide.hbm mem), held⟩

/-! ### Evictions (R311) -/

theorem l2EvictRecall_goes {s : State} {x : L2Line}
    (hx : s.mem.l2.find? (fun y => y.tag == x.tag && y.line == x.line) = some x)
    (hbusy : s.lineBusy x.tag x.line x.pline = false) : exec (.l2EvictRecall x.tag x.line) s = .next (s.evictL2 x) := by
  simp only [exec, execL2EvictRecall, hx, hbusy]
  rfl

/-- The L2 has lost the line that it evicts. -/
theorem State.evictL2_l2 (s : State) (x : L2Line) :
    (s.evictL2 x).mem.l2.find? (fun y => y.tag == x.tag && y.line == x.line) = none := by
  unfold State.evictL2
  generalize (if x.tag == physAsid then s else s.dropTracked x.tag x.line) = t
  dsimp only
  split <;> split <;> exact find?_filter_not (fun y : L2Line => y.tag == x.tag && y.line == x.line) t.mem.l2

/-- What memory takes from an evicted line: its bytes as the dropped copies left them, where they are dirty. -/
theorem State.evictL2_hbm {s t : State} {x now : L2Line}
    (ht : (if x.tag == physAsid then s else s.dropTracked x.tag x.line) = t)
    (hnow : t.mem.l2.find? (fun y => y.tag == x.tag && y.line == x.line) = some now) :
    (s.evictL2 x).mem.hbm = if now.dirty = true then Memory.writeN t.mem.hbm (128 * now.pline) now.data else t.mem.hbm := by
  simp only [State.evictL2, ht, hnow, Option.getD_some, State.physWrite]
  split <;> split <;> rfl

section
variable {s : State} {x : L2Line} (hkeys : ∀ k ∈ s.cores, s.core k.1 = k.2)
  (hx : s.mem.l2.find? (fun y => y.tag == x.tag && y.line == x.line) = some x)
include hkeys hx

theorem State.evictL2_hbm_of_clean (hcopies : s.cores.filterMap (fun k => k.2.dirtyCopy x.tag x.line) = []) :
    (s.evictL2 x).mem.hbm = if x.dirty = true then Memory.writeN s.mem.hbm (128 * x.pline) x.data else s.mem.hbm := by
  have kept : (if x.tag == physAsid then s else s.dropTracked x.tag x.line).mem = s.mem := by
    split
    · rfl
    · exact State.dropTracked_of_clean hkeys (List.filterMap_eq_nil_iff.1 hcopies)
  rw [State.evictL2_hbm rfl (by rw [kept]; exact hx), kept]

theorem State.evictL2_hbm_of_dirty {y : L1Line} (hm : s.boot.memSide = false) (hphys : x.tag ≠ physAsid)
    (hcopies : s.cores.filterMap (fun k => k.2.dirtyCopy x.tag x.line) = [y]) (hlost : y.lost = false)
    (hmeta : (s.lineMeta y.pline).lost = false) (hlen : y.data.length = x.data.length) :
    (s.evictL2 x).mem.hbm = Memory.writeN s.mem.hbm (128 * x.pline) y.data := by
  obtain ⟨hbm, held⟩ := State.dropTracked_of_dirty hkeys hm hx hcopies hlost hmeta
  have whole : (x.writes [(0, y.data)]).data = y.data := by simp [L2Line.writes, patch, hlen]
  rw [State.evictL2_hbm (if_neg (by simpa using hphys)) held, hbm, whole, if_pos (by simp [L2Line.writes])]
  rfl

end

/-! ### Probes (R313) -/

/-- A core has no tracked copy of a line that it gave up. -/
theorem State.dropTrackedOf_untracked (s : State) (core tag line : Nat) :
    (((s.dropTrackedOf tag line (core, s.core core)).core core).l1? tag line).all (fun x => !x.st.tracked) = true := by
  unfold State.dropTrackedOf
  split
  · rw [s.l1?_dropL1_self]
    cases ((s.core core).l1? tag line).filter fun x => x.lost <;> rfl
  · rename_i untracked
    cases h : (s.core core).l1? tag line with
    | none => rfl
    | some x => simpa [h] using untracked

theorem probeAck_goes {s : State} {core tag line : Nat} {t : Txn} (ht : s.txn? tag line = some t) (hcore : core ∈ t.waiting) :
    ∃ u, exec (.probeAck core tag line) s =
        .next (if t.waiting.filter (fun c => c != core) = [] then u.finishTxn t else u) ∧
      ((u.core core).l1? tag line).all (fun x => !x.st.tracked) = true := by
  refine ⟨(s.dropTrackedOf tag line (core, s.core core)).modMem fun m => { m with txns := m.txns.map fun x =>
    if x.tag == tag && x.line == line then { x with waiting := t.waiting.filter fun c => c != core } else x }, ?_,
    s.dropTrackedOf_untracked core tag line⟩
  have waits : t.waiting.contains core = true := by simpa using hcore
  simp only [exec, execProbeAck, ht, waits, State.dropTrackedOf, List.isEmpty_iff]
  cases (s.core core).l1? tag line <;> rfl

/-! ### Walks (R321, R323) -/

section
variable {s : State} {vmid asid page : Nat} (htlb : s.tlb? vmid asid page = none)
include htlb

theorem translationWalk_leaf {e pa frame : Nat} {big : Bool} {x : Xlat}
    (hwalk : s.walk vmid asid (65536 * page) = .leaf e pa frame big) (hx : s.translate vmid asid (65536 * page) = .ok x) :
    exec (.translationWalk vmid asid page) s = .next
      (if ∃ k ∈ allAccs, x.perms.permitsOn k x.frame = true ∧ x.bits.fault k = none then s.keepTlb vmid asid (65536 * page)
       else s) := by
  simp only [exec, execTranslationWalk, htlb, hwalk, hx]
  simp [List.any_eq_true]

theorem translationWalk_fails {w : Walk} (hw : s.translate vmid asid (65536 * page) = .error w) :
    exec (.translationWalk vmid asid page) s =
      .next (s.recordWalk asid (65536 * page) (s.walk vmid asid (65536 * page))) := by
  simp only [exec, execTranslationWalk, htlb, hw]
  cases s.walk vmid asid (65536 * page) <;> rfl

end

theorem watchNotice_takes (s : State) (pline : Nat) : ∃ t, exec (.watchNotice pline) s = .next t ∧ pline ∉ t.mem.notices := by
  by_cases h : pline ∈ s.mem.notices
  · exact ⟨_, if_neg (by simpa using h), by simp [State.setMem]⟩
  · exact ⟨s, if_pos (by simpa using h), h⟩

/-- Settles O33: each event goes where nothing holds it up, and what a grant, a drop and an eviction leave follows from what
each does to the requester's copy, to the L2's and to memory. -/
theorem homeTransactions : Obligations.HomeTransactions := by
  refine ⟨fun s u core asid line vmid hint l write hvm hl hhint hbusy hmiss => gets_goes hvm hl hhint hbusy hmiss,
    fun s core vmid asid line l => State.getsLine_of_load, State.l1?_grantS,
    fun s u core asid line vmid hint l hvm hl hhint hbusy hheap hattr hon hwatch hroom =>
      getm_goes hvm hl hhint hbusy hheap hattr hon hwatch hroom,
    State.l1?_grantM, fun s core tag line x hx => ⟨putsPute_clean hx, fun hdirty hlost => ?dirty, putmPuto_lost hx⟩,
    fun s x hx hbusy => ⟨l2EvictRecall_goes hx hbusy, s.evictL2_l2 x, fun hkeys => ?evicted⟩,
    fun s core tag line t => probeAck_goes,
    fun s vmid asid page e pa frame big htlb hwalk x => translationWalk_leaf htlb hwalk,
    fun s vmid asid page w htlb => translationWalk_fails htlb, watchNotice_takes⟩
  case dirty =>
    exact ⟨_, putmPuto_dirty hx hdirty hlost, s.putDirty_l1? core tag line hlost, fun h => State.putDirty_hbm h core hlost⟩
  case evicted =>
    exact ⟨State.evictL2_hbm_of_clean hkeys hx, fun y hm hphys => State.evictL2_hbm_of_dirty hkeys hx hm hphys⟩

end Sys2Proof.Machine

/-! PROOFS. Memory after a cold reset (R404), and the Millpond's and the queues' instructions at issue (R332, R340, R345, R346, R348
to R352, R377, R378). -/

namespace Sys2Proof.Machine

/-- Settles O6: reset memory lists no cell, so every address reads as the fill. -/
theorem resetMemoryCanonical : Obligations.ResetMemoryCanonical := ⟨rfl, fun _ => rfl⟩

/-! ### A chain of checks that stops -/

section
variable {α : Type} {r : Except Stop α} {k : Unit → Except Stop α} {e : Stop}

theorem check_stops {x : Except Stop Unit} (hx : x = .error e) : (x >>= k) = .error e := by
  rw [hx]
  rfl

theorem unless_stops {p : Prop} [Decidable p] (hp : p) :
    (if p then Except.error e >>= k else k ()) = .error e := (if_pos hp).trans rfl

end

theorem Issuer.checkRange_error {c : Issuer} {ok : Bool} (h : ok = false) : c.checkRange ok = .error c.reserved :=
  if_neg (ne_true_of_eq_false h)

/-! ### Keys with a reserved bit (R332, R345) -/

theorem getLsbD_badKeys (keys : Table (List Word)) {i : Nat} (hi : i < 128) :
    (badKeys keys).getLsbD i = true ↔ ∃ x ∈ keys, x.1 = i ∧ keyOk x.2 = false := by
  have fold : ∀ (l : Table (List Word)) (m : Lanes),
      (l.foldl (fun (m : Lanes) x => if keyOk x.2 then m else m ||| Lanes.one x.1) m).getLsbD i = true ↔
        m.getLsbD i = true ∨ ∃ x ∈ l, x.1 = i ∧ keyOk x.2 = false := by
    intro l
    induction l with
    | nil => simp
    | cons x l ih =>
      intro m
      rw [List.foldl_cons, ih]
      cases hk : keyOk x.2 <;> simp [hk, Lanes.getLsbD_one_of_lt _ hi, or_assoc]
  simpa [badKeys] using fold keys 0

/-- The lanes that TXREQ refuses are the active ones whose key has a reserved bit. -/
theorem getLsbD_badKeys_active (m : Lanes) (key : Nat → List Word) {i : Nat} (hi : i < 128) :
    (badKeys (m.toList.map fun i => (i, key i))).getLsbD i = true ↔ i ∈ m.toList ∧ keyOk (key i) = false := by
  rw [getLsbD_badKeys _ hi]
  simp

theorem badKeys_eq_zero {keys : Table (List Word)} (h : ∀ x ∈ keys, keyOk x.2 = true) : badKeys keys = 0 := by
  refine BitVec.eq_of_getLsbD_eq fun i hi => ?_
  rw [Bool.eq_iff_iff, getLsbD_badKeys _ hi]
  refine ⟨fun ⟨x, hx, _, hbad⟩ => absurd (h x hx) (ne_true_of_eq_false hbad), fun h0 => by simp at h0⟩

theorem Lanes.lt_of_mem_toList {m : Lanes} {i : Nat} (h : i ∈ m.toList) : i < 128 :=
  BitVec.lt_of_getLsbD (Lanes.mem_toList.1 h)

/-! ### Image and operands of the Millpond's instructions (R349) -/

theorem Issuer.checkImage_ok {c : Issuer} {a n : Nat} (halign : a % 16 = 0) (hin : a + n ≤ c.team.scratchBytes)
    (hclean : c.team.meetsPoison a n = false) : c.checkImage a n = .ok () := by
  simp [Issuer.checkImage, halign, Nat.not_lt.2 hin, hclean]

theorem bitsOf_ne_zero {w lo : Nat} (hw : w < 2 ^ 32) (h : 2 ^ lo ≤ w) (hlo : lo < 32) : (bitsOf w 31 lo == 0) = false := by
  have quotient : w / 2 ^ lo < 2 ^ (32 - lo) := by
    rw [Nat.div_lt_iff_lt_mul (Nat.two_pow_pos lo), ← Nat.pow_add, Nat.sub_add_cancel hlo.le]
    exact hw
  rw [bitsOf_eq, Nat.mod_eq_of_lt quotient, beq_eq_false_iff_ne]
  exact (Nat.div_pos h (Nat.two_pow_pos lo)).ne'

theorem bitsOf_high_eq_zero {w hi lo : Nat} (h : w < 2 ^ lo) : (bitsOf w hi lo == 0) = true := by
  rw [bitsOf_eq, Nat.div_eq_of_lt h, Nat.zero_mod]
  rfl

/-- Settles O45: each instruction passes its checks one after another, and what it leaves is its issue; a reserved bit stops the
chain at the check of its range. -/
theorem millpondInstructionsIssue : Obligations.MillpondInstructionsIssue := by
  refine ⟨fun s c f d a hc hd ha => ?txreq, fun s c f d a hc hd ha => ?txwait, fun s c f d a hc hd ha => ?badKey,
    fun s c f hc => ?reserved, fun s c f => ?txfill, fun s c f => ?txinv, fun s c f h hpool => ?txframe,
    fun s c f on h => ?txpin⟩
  case txreq =>
    intro act keys hready hkeys hcounter hpool
    have clean : ¬ (badKeys keys != 0) = true := by simp [badKeys_eq_zero hkeys]
    refine runInstr_ok hc ?_
    rw [hd, ha]
    exact check_then (c.checkTouch_ok hready _ _) <| unless_then clean <| check_then (c.checkCounter_ok hcounter) <|
      check_then (c.checkPool_ok hpool) rfl
  case txwait =>
    intro act tokens hready hcounter hpool
    have opens : (tokens.any fun x => s.tokenLive (nth x.2 0 0).toNat) = true ↔
        ∃ i ∈ act.toList, s.tokenLive (c.vreg a.toNat i).toNat = true := by
      simp [tokens, List.any_map, List.any_eq_true, nth]
    refine ⟨_, runInstr_ok hc ?_, rfl⟩
    rw [hd, ha]
    refine check_then (c.checkTouch_ok hready _ _) <| check_then (c.checkCounter_ok hcounter) <|
      check_then (c.checkPool_ok hpool) ?_
    rw [← if_congr opens rfl rfl]
    rfl
  case badKey =>
    intro key hready ⟨i, hi, hbad⟩
    have at128 := Lanes.lt_of_mem_toList hi
    have some_bad : badKeys ((c.active f.g).toList.map fun i => (i, key i)) ≠ 0 := fun h0 => by
      have := (getLsbD_badKeys_active (c.active f.g) key at128).2 ⟨hi, hbad⟩
      simp [h0] at this
    refine ⟨_, runInstr_error hc (e := .fault _) ?_, fun i hi => getLsbD_badKeys_active (c.active f.g) key hi⟩
    rw [hd, ha]
    exact check_then (c.checkTouch_ok hready _ _) <| unless_stops (bne_iff_ne.2 some_bad)
  case reserved =>
    intro n w ready stops
    have touches : ∀ {ss : List Nat}, ready ss → c.checkOnce (sRegs false f.d ++ ss) = .ok () := fun h => c.checkTouch_ok h _ _
    have high : ∀ {k lo}, 2 ^ lo ≤ w k → lo < 32 → (bitsOf (w k) 31 lo == 0) = false := bitsOf_ne_zero (BitVec.isLt _)
    have stopped : ∀ {k : Issuer → Except Stop State}, k c = .error c.reserved →
        runInstr s k = .next (s.faultHere c (c.record .reservedField c.sub.fibres 0 0)) := fun hk => runInstr_error hc hk
    refine ⟨fun h hw => stopped (check_then (touches h) ?_), fun h hw => stopped (check_then (touches h) ?_),
      fun h hw => stopped (check_then (touches h) ?_), fun h hw => stopped (check_then (touches h) ?_),
      fun h hkey => ⟨stopped (check_then (touches h) ?_), stopped (check_then (touches h) ?_)⟩⟩
    · exact check_stops (c.checkRange_error (high (lo := 1) hw (by decide)))
    · exact check_stops (c.checkRange_error (high (lo := 8) hw (by decide)))
    · exact check_stops (c.checkRange_error (high (lo := 8) hw (by decide)))
    · exact check_stops (c.checkRange_error (decide_eq_false (Nat.not_lt.2 hw)))
    · exact check_stops (c.checkRange_error hkey)
    · exact check_stops (c.checkRange_error hkey)
  case txfill =>
    intro n w size h hquiet hword hfree halign hin hclean
    have shared : bitOf (w 4) 0 = decide (w 4 = 1) := by
      have : w 4 = 0 ∨ w 4 = 1 := by omega
      rcases this with h4 | h4 <;> rw [h4] <;> rfl
    rw [← shared]
    exact runInstr_ok h.issues <| check_then h.checkOnce <|
      check_then (c.checkRange_ok (bitsOf_high_eq_zero hword)) <| unless_then (ne_true_of_eq_false hfree) <|
      check_then (c.checkImage_ok halign hin hclean) <| check_then hquiet.checkReport <|
      check_then (c.checkCounter_ok h.counter) rfl
  case txinv =>
    intro n w out hquiet hpool
    have range := c.checkRange_ok (bitsOf_high_eq_zero (hi := 31) (lo := 8) hpool)
    exact ⟨fun h => runInstr_ok h.issues <| check_then h.checkOnce <| check_then range <| check_then hquiet.checkReport <|
        check_then (c.checkCounter_ok h.counter) rfl,
      fun h => runInstr_ok h.issues <| check_then h.checkOnce <| check_then range <| check_then hquiet.checkReport <|
        check_then (c.checkCounter_ok h.counter) rfl⟩
  case txframe =>
    exact runInstr_ok h.issues <| check_then h.checkOnce <| check_then (c.checkRange_ok (decide_eq_true hpool)) <|
      check_then (c.checkCounter_ok h.counter) rfl
  case txpin =>
    intro key hkey
    have issues : txpinIssue on f s = _ := runInstr_ok h.issues <| check_then h.checkOnce <|
      check_then (c.checkRange_ok hkey) <| check_then (c.checkCounter_ok h.counter) rfl
    cases on <;> exact issues

/-! ### The queue instructions (R377, R378) -/

/-- Settles O47: the four instructions are `queueIssue`, and with their operands in range no check stops it. -/
theorem queueInstructionsIssue : Obligations.QueueInstructionsIssue := by
  intro s c f mk op limit len pop amp n act p at_ hkind hc hready hn hmany hbusy hranges hcounter
  have issues : ∀ (size : State → Issuer → Nat → Nat), size s c n = len →
      queueIssue f limit op size pop amp s = .next ((s.issue c .enc [] [] [] (some p) act fun e =>
        { e with
          addrs := at_
          data := at_.map fun x => (x.1, (if amp then [BitVec.ofNat 32 (c.read .n32 f.c x.1)] else []) ++
            (if pop then [] else c.seen.words x.2 (len / 4)))
          op := .queue (op n) p }).advance c) := by
    intro size hsize
    subst hsize
    have few : (act.toList.filter fun i => amp && decide (65536 < c.read .n32 f.c i)) = [] := by
      refine List.filter_eq_nil_iff.2 fun i hi hbad => ?_
      obtain ⟨hamp, hlt⟩ := Bool.and_eq_true_iff.1 hbad
      exact absurd (hmany hamp i hi) (Nat.not_le.2 (of_decide_eq_true hlt))
    have inRange : ¬ ((if limit < n then act else (act.toList.filter fun i => amp && decide (65536 < c.read .n32 f.c i)).foldl
        (fun (m : Lanes) i => m ||| Lanes.one i) 0) != 0) = true := by
      rw [if_neg (Nat.not_lt.2 hn), few]
      decide
    have idle : ¬ (!pop && c.gang.scratchBusy) = true := by
      cases pop with
      | true => exact Bool.false_ne_true
      | false => simp [hbusy rfl]
    exact runInstr_ok hc <| check_then (c.checkTouch_ok hready _ _) <| unless_then inRange <| unless_then idle <|
      check_then hranges <| check_then (c.checkCounter_ok hcounter) rfl
  rcases hkind with ⟨rfl, rfl, rfl, hlen, rfl, rfl⟩ | ⟨rfl, rfl, rfl, hlen, rfl, rfl⟩ | ⟨rfl, rfl, rfl, hlen, rfl, rfl⟩ |
    ⟨rfl, rfl, rfl, hlen, rfl, rfl⟩
  · exact issues (fun s c n => s.imageSize c.grid.pid n) hlen.symm
  · exact issues (fun s c n => s.imageSize c.grid.pid n) hlen.symm
  · exact issues (fun s c n => s.imageSize c.grid.pid n) hlen.symm
  · exact issues (fun _ _ _ => 256) hlen.symm

end Sys2Proof.Machine

/-! PROOFS. The system instructions (R329 to R331, R388 to R391), faults taken (R385 to R387) and the return from a handler
(R387, R388). -/

namespace Sys2Proof.Machine

/-! ### System instructions (R329 to R331, R389 to R391) -/

theorem Issuer.checkPriv_ok {c : Issuer} (h : c.grid.sys = true) : c.checkPriv = .ok () := if_pos h

theorem Issuer.checkVaRange_ok {c : Issuer} {va unit n : Nat} (halign : va % unit = 0) (hva : va < 2 ^ 56)
    (hend : va + n ≤ 2 ^ 56) : c.checkVaRange va unit n = .ok () := by
  have inside : ¬ (2 ^ 56 ≤ va || decide (2 ^ 56 < va + n)) = true := by simpa using ⟨hva, hend⟩
  exact (if_neg (by simp [halign])).trans (if_neg inside)

/-! ### ERET (R387, R388) -/

theorem SubGang.perContext_of_one {b : SubGang} {m : Lanes} {h : Handler} (hone : b.contexts = [(m, some h)]) (n : Nat) :
    b.perContext n = [(b, h)] := by
  simp only [SubGang.perContext, hone]

/-- The sub-gang of one of several handler contexts. -/
def SubGang.inContext (b : SubGang) (n : Nat) (m : Lanes) (h : Handler) : SubGang :=
  { b with id := n, anc := n :: b.anc, fibres := m, handler := some h, others := [] }

theorem SubGang.perContext_of_several {b : SubGang} (hmany : 1 < b.contexts.length) (n : Nat) : b.perContext n =
    (b.contexts.zip (List.range b.contexts.length)).filterMap fun x => x.1.2.map fun h =>
      (b.inContext (n + x.2) x.1.1 h, h) := by
  unfold SubGang.perContext
  split
  · rename_i hone
    rw [hone] at hmany
    exact absurd hmany (by simp)
  · rfl

/-- Where every element gives a value, `filterMap` keeps their places. -/
theorem filterMap_isSome {α β : Type} {f : α → Option β} {l : List α} (h : ∀ x ∈ l, (f x).isSome = true) :
    (l.filterMap f).map some = l.map f := by
  induction l with
  | nil => rfl
  | cons x l ih =>
    obtain ⟨y, hy⟩ := Option.isSome_iff_exists.1 (h x (by simp))
    rw [List.filterMap_cons_some hy, List.map_cons, List.map_cons, hy, ih fun z hz => h z (by simp [hz])]

/-- Settles O51: each instruction passes its checks one after another, and what it leaves is its issue; ERET is `State.eretTo`. -/
theorem systemInstructions : Obligations.SystemInstructions := by
  refine ⟨fun s c f hsys h => ⟨fun hown => ?sysrd, fun hown => ?own⟩, fun s c f hsys h => ?syswr,
    fun s c f hc hall hcounter => ?eret, fun s c m h dest k hone => ?one, fun b n hmany hall => ?several,
    fun s c f h => ?firmcall, fun s c f => ?attrset, fun s c f => ?tlbshoot, fun s c f => ?cacheop⟩
  case sysrd =>
    refine runInstr_ok h.issues <| check_then (c.checkPriv_ok hsys) <| check_then h.checkOnce <|
      check_then (c.checkCounter_ok h.counter) <| if_neg (ne_true_of_eq_false hown)
  case own =>
    exact runInstr_ok h.issues <| check_then (c.checkPriv_ok hsys) <| check_then h.checkOnce <|
      check_then (c.checkCounter_ok h.counter) <| if_pos hown
  case syswr =>
    exact runInstr_ok h.issues <| check_then (c.checkPriv_ok hsys) <| check_then h.checkOnce <|
      check_then (c.checkCounter_ok h.counter) rfl
  case eret =>
    have returns : ∀ dest k, eret s dest k = .next (s.eretTo c dest k) := fun dest k =>
      runInstr_ok hc <| unless_then (by simp [hall]) <| check_then (c.checkCounter_ok hcounter) rfl
    exact ⟨returns _ _, returns _ _⟩
  case one =>
    simp only [State.eretTo, SubGang.perContext_of_one hone]
    rfl
  case several =>
    have kept := filterMap_isSome (l := b.contexts.zip (List.range b.contexts.length))
      (f := fun x => x.1.2.map fun h => (b.inContext (n + x.2) x.1.1 h, h))
      fun x hx => by simpa using hall x.1 (List.of_mem_zip hx).1
    rw [SubGang.perContext_of_several hmany]
    refine ⟨by simpa using congrArg List.length kept, fun i m h hi => ?_⟩
    have hlt : i < b.contexts.length := (List.getElem?_eq_some_iff.1 hi).1
    have place : (b.contexts.zip (List.range b.contexts.length))[i]? = some ((m, some h), i) :=
      List.getElem?_zip_eq_some.2 ⟨hi, List.getElem?_range hlt⟩
    have at_i := congrArg (fun l => l[i]?) kept
    simp only [List.getElem?_map, place, Option.map_some] at at_i
    obtain ⟨y, hy, hsome⟩ := Option.map_eq_some_iff.1 at_i
    rw [hy]
    exact hsome
  case firmcall =>
    exact runInstr_ok h.issues <| check_then h.checkOnce <| check_then (c.checkCounter_ok h.counter) rfl
  case attrset =>
    intro n va id w stop hsys h hquiet hid hzero howner halign hva hstop
    have range : (id.2.2 && bitsOf w 15 12 == 0 && (attrOf (bitsOf w 1 0) != .ip || s.coreOfVm id.1 (bitsOf w 11 2))) = true := by
      simp only [hid, hzero, Bool.and_eq_true, Bool.or_eq_true, bne_iff_ne]
      exact ⟨by decide, or_iff_not_imp_left.2 fun hip => howner (not_not.1 hip)⟩
    exact runInstr_ok h.issues <| check_then (c.checkPriv_ok hsys) <| check_then h.checkOnce <|
      check_then (c.checkRange_ok range) <| check_then (c.checkVaRange_ok halign hva hstop) <|
      check_then hquiet.checkReport <| check_then (c.checkCounter_ok h.counter) rfl
  case tlbshoot =>
    intro va units id hsys hquiet
    refine ⟨fun hsub h hid halign hva hend => ?_, fun hsub h hid => ?_, fun hsub h => ?_⟩
    · refine runInstr_ok h.issues <| check_then (c.checkPriv_ok hsys) ?_
      rw [hsub]
      exact check_then h.checkOnce <| check_then (c.checkRange_ok hid) <|
        check_then (c.checkVaRange_ok halign hva hend) <| check_then hquiet.checkReport <|
        check_then (c.checkCounter_ok h.counter) rfl
    · refine runInstr_ok h.issues <| check_then (c.checkPriv_ok hsys) ?_
      rcases hsub with hsub | hsub <;> rw [hsub] <;>
        exact check_then h.checkOnce <| check_then (c.checkRange_ok hid) <| check_then hquiet.checkReport <|
          check_then (c.checkCounter_ok h.counter) rfl
    · refine runInstr_ok h.issues <| check_then (c.checkPriv_ok hsys) ?_
      rw [hsub]
      exact check_then h.checkOnce <| check_then (c.checkRange_ok rfl) <| check_then hquiet.checkReport <|
        check_then (c.checkCounter_ok h.counter) rfl
  case cacheop =>
    intro va lines id hsys h hquiet hid halign hva hend
    have issues : ∀ sub, cacheopIssue sub f s = .next (s.issueSystem c (.cacheop sub va lines id.1 id.2.1)) := fun sub =>
      runInstr_ok h.issues <| check_then (c.checkPriv_ok hsys) <| check_then h.checkOnce <|
        check_then (c.checkRange_ok hid) <| check_then (c.checkVaRange_ok halign hva hend) <|
        check_then hquiet.checkReport <| check_then (c.checkCounter_ok h.counter) rfl
    exact ⟨issues 0, issues 1, issues 2, issues 3, issues 4⟩

theorem Gang.sub?_modSub_self {g : Gang} {id : Nat} {b : SubGang} (hb : g.sub? id = some b) {f : SubGang → SubGang}
    (hf : ∀ b, (f b).id = b.id) : (g.modSub id f).sub? id = some (f b) := by
  rw [Gang.sub?_modSub g id id f hf, if_pos rfl, hb, Option.map_some]

theorem Gang.sub?_leaveHandler {g : Gang} {b : SubGang} (hb : g.sub? b.id = some b) (h : Handler) (pc : DWord)
    (inClause : Option (DWord × BitVec 56)) (park : Bool) : (g.leaveHandler b h pc inClause park).sub? b.id =
      some { b with
        pc := pc
        wb := h.wb
        handler := none
        inClause := inClause
        park := if park then b.park.thenPark else b.park } :=
  Gang.sub?_modSub_self (g := { g with preds := (List.range 7).map fun p =>
    (nth g.preds p 0 &&& ~~~b.fibres) ||| (nth g.handlerPreds p 0 &&& b.fibres) }) hb fun _ => rfl

/-- Settles O55: `Gang.leaveHandler` is one update of the sub-gang and one of the predicates. -/
theorem handlersReturn : Obligations.HandlersReturn := by
  intro g b h pc ic park hb
  exact ⟨_, Gang.sub?_leaveHandler hb h pc ic park, rfl, rfl, rfl, rfl, rfl, rfl, fun p hp => nth_range_map _ _ hp, rfl, rfl⟩

/-! ### Taking a fault (R385 to R387) -/

theorem Core.pipe?_freePipe {k : Core} {slot sub n : Nat} {cl : Clause} (h : (k.freePipe slot sub).pipe? n = some cl) :
    k.pipe? n = some cl ∧ ¬(cl.gang = slot ∧ cl.sub = sub) := by
  have off : ∀ {x : Option Clause}, (match x with
      | some x => if x.gang == slot && x.sub == sub then none else some x
      | none => none) = some cl → x = some cl ∧ ¬(cl.gang = slot ∧ cl.sub = sub) := by
    intro x hx
    cases x with
    | none => cases hx
    | some y =>
      dsimp only at hx
      split at hx
      · cases hx
      · cases hx
        rename_i hother
        exact ⟨rfl, fun ⟨hslot, hsub⟩ => hother (by simp [hslot, hsub])⟩
  unfold Core.pipe? at h ⊢
  split <;> rename_i hn
  · rw [if_pos hn] at h
    exact off h
  · rw [if_neg hn] at h
    exact off h

theorem State.gangMigration_keeps (s : State) (core slot : Nat) (fr : FaultRec) : (s.gangMigration core slot fr).cores = s.cores ∧
    (s.gangMigration core slot fr).grids = s.grids ∧ (s.gangMigration core slot fr).parts = s.parts ∧
    (fr.code ≠ some .hostOwned → (s.gangMigration core slot fr).mem = s.mem) := by
  unfold State.gangMigration
  split
  · exact ⟨rfl, rfl, rfl, fun _ => rfl⟩
  · rename_i hcode
    have owned : fr.code = some .hostOwned := by simpa using hcode
    refine ⟨?_, ?_, ?_, fun hne => absurd owned hne⟩ <;> (split <;> [(split <;> rfl); rfl])

/-- The state in which a fault's disposition is carried out: the record stands, and the sub-gang's pipe is free. -/
def State.recorded (s : State) (core slot sub : Nat) (fr : FaultRec) : State :=
  (s.writeRecord core slot fr).modCore core fun k => k.freePipe slot sub

@[simp] theorem Core.freePipe_gangs (k : Core) (slot sub : Nat) : (k.freePipe slot sub).gangs = k.gangs := rfl

theorem State.gang?_recorded {s : State} {core slot : Nat} {g : Gang} (hg : s.gang? core slot = some g) (sub : Nat)
    (fr : FaultRec) : (s.recorded core slot sub fr).gang? core slot = some { g with frec := fr } := by
  obtain ⟨hcores, -, -, -⟩ := s.gangMigration_keeps core slot fr
  have same : (s.gangMigration core slot fr).gang? core slot = some g := by
    rw [← hg]
    simp only [State.gang?, State.core, hcores]
  rw [State.recorded, State.gang?, State.core_modCore_self, Core.freePipe_gangs]
  exact (State.gang?_modGang_self _ core slot _).trans (congrArg (Option.map _) same)

theorem State.pipe?_recorded {s : State} {core slot sub n : Nat} {fr : FaultRec} {cl : Clause}
    (h : ((s.recorded core slot sub fr).core core).pipe? n = some cl) :
    (s.core core).pipe? n = some cl ∧ ¬(cl.gang = slot ∧ cl.sub = sub) := by
  obtain ⟨hcores, -, -, -⟩ := s.gangMigration_keeps core slot fr
  rw [State.recorded, State.core_modCore_self] at h
  obtain ⟨hpipe, hne⟩ := Core.pipe?_freePipe h
  rw [State.writeRecord, State.core_modGang_self] at hpipe
  refine ⟨?_, hne⟩
  rw [← hpipe]
  simp only [Core.pipe?, State.core, hcores]

section
variable {s : State} {core slot sub : Nat} {g : Gang} {t : Team} {gr : Grid} {b : SubGang}
  (hg : s.gang? core slot = some g) (ht : s.team? core g.team = some t)

include hg ht

theorem State.dispose_kill (sub : Nat) (fr : FaultRec) (place : StopAt) :
    s.dispose core slot sub .kill fr place = s.killGrid t.grid fr t.linear g.number := by
  simp only [State.dispose, hg, ht]

theorem State.dispose_resolve {fr : FaultRec} (hcode : fr.code ≠ some .debug) (sub : Nat) (place : StopAt) :
    s.dispose core slot sub .resolve fr place = s.modGang core slot fun x => x.modSub sub fun b =>
      { b with park := .fault place.entry fr, pc := place.pc, inClause := place.inClause } := by
  have other : (fr.code == some .debug) = false := by simpa using hcode
  simp only [State.dispose, hg, ht, other, Bool.false_eq_true, if_false]

theorem State.dispose_handler (hgr : s.grid? t.grid = some gr) (hb : g.sub? sub = some b) (fr : FaultRec) (place : StopAt) :
    s.dispose core slot sub .handler fr place =
      if gr.kd.handler = 0 ∨ b.inHandler = true ∨ 1016 < b.wb.toNat + 8 * gr.kd.hws then
        s.killGrid t.grid fr t.linear g.number
      else s.modGang core slot fun x => x.enterHandler sub place fr gr.kd.handler gr.kd.hws s.next := by
  simp only [State.dispose, hg, ht, hgr, hb, Bool.or_eq_true, beq_iff_eq, decide_eq_true_eq, or_assoc]

end

/-- The sub-gang that has entered its handler (R387). -/
def SubGang.handled (b : SubGang) (place : StopAt) (fr : FaultRec) (handler hws since : Nat) : SubGang :=
  { b with
    handler := some { since := since, hret := place.pc, skip := skipPoint place fr, wb := b.wb, entry := place.entry,
                      inClause := place.inClause }
    wb := b.wb + BitVec.ofNat 10 (8 * hws)
    pc := BitVec.ofNat 64 handler
    inClause := none
    park := .run }

theorem Gang.sub?_enterHandler {g : Gang} {sub : Nat} {b : SubGang} (hb : g.sub? sub = some b) (place : StopAt) (fr : FaultRec)
    (handler hws since : Nat) :
    (g.enterHandler sub place fr handler hws since).sub? sub = some (b.handled place fr handler hws since) :=
  Gang.sub?_modSub_self (f := fun b => b.handled place fr handler hws since) hb fun _ => rfl

/-- The predicates of the sub-gang's own lanes are saved. -/
theorem Gang.handlerPreds_enterHandler {g : Gang} {sub : Nat} {b : SubGang} (hb : g.sub? sub = some b) (place : StopAt)
    (fr : FaultRec) (handler hws since : Nat) {p : Nat} (hp : p < 7) :
    nth (g.enterHandler sub place fr handler hws since).handlerPreds p 0 &&& b.fibres = nth g.preds p 0 &&& b.fibres := by
  have saved : nth (g.enterHandler sub place fr handler hws since).handlerPreds p 0 =
      (nth g.handlerPreds p 0 &&& ~~~b.fibres) ||| (nth g.preds p 0 &&& b.fibres) := by
    simp only [Gang.enterHandler, hb]
    exact nth_range_map _ _ hp
  rw [saved]
  refine BitVec.eq_of_getLsbD_eq fun i hi => ?_
  simp only [BitVec.getLsbD_and, BitVec.getLsbD_or, BitVec.getLsbD_not]
  cases b.fibres.getLsbD i <;> simp

theorem Partition.disposition_eq (p : Partition) (code : Code) :
    p.disposition code = if bitsOf p.fdisp.toNat (2 * codeNum code + 1) (2 * codeNum code) = 1 then .resolve
      else if bitsOf p.fdisp.toNat (2 * codeNum code + 1) (2 * codeNum code) = 2 then .handler
      else if bitsOf p.fdisp.toNat (2 * codeNum code + 1) (2 * codeNum code) = 3 then .kill
      else defaultDisposition code := by
  unfold Partition.disposition
  split
  · rename_i h; rw [if_pos h]
  · rename_i h; rw [h]; rfl
  · rename_i h; rw [h]; rfl
  · rename_i h1 h2 h3; rw [if_neg h1, if_neg h2, if_neg h3]

theorem faultResolveResume_decline {s : State} {core slot sub : Nat} {g : Gang} {b : SubGang} {entry : Option Nat} {fr : FaultRec}
    (hsaved : s.savedSub sub = none) (hg : s.gang? core slot = some g) (hb : g.sub? sub = some b)
    (hpark : b.park = .fault entry fr) : exec (.faultResolveResume core slot sub .decline) s =
      .next (s.dispose core slot sub .handler fr { pc := b.pc, inClause := b.inClause, entry := entry }) := by
  have resolving : b.resolving = some (entry, fr) := by simp only [SubGang.resolving, hpark]
  simp only [exec, execFaultResolveResume, hsaved, hg, State.answerOnCore, hb, resolving]

/-- Settles O54: the record is written in `State.recorded`, and each disposition is the lemma of its branch. -/
theorem faultsAreTaken : Obligations.FaultsAreTaken := by
  refine ⟨fun s core slot sub fr place g hg => ?record, fun s core slot sub fr place g t gr b hg ht hgr hb => ?dispose,
    fun p code => p.disposition_eq code,
    fun s core slot sub g b entry fr hsaved hg hb hpark => faultResolveResume_decline hsaved hg hb hpark⟩
  case record =>
    obtain ⟨-, hgrids, hparts, hmem⟩ := s.gangMigration_keeps core slot fr
    exact ⟨s.recorded core slot sub fr, State.gang?_recorded hg sub fr, hgrids, hparts, hmem,
      fun n cl h => State.pipe?_recorded h, rfl⟩
  case dispose =>
    have kill := State.dispose_handler hg ht hgr hb fr place
    refine ⟨fun hcode => ?_, fun hhandler hout hwindow => ?_, fun hno => kill.trans (if_pos hno),
      State.dispose_kill hg ht sub fr place⟩
    · rw [State.dispose_resolve hg ht hcode, State.gang?_modGang_self, hg]
      exact ⟨_, _, rfl, Gang.sub?_modSub_self hb fun _ => rfl, rfl⟩
    · rw [kill, if_neg (by simp [hhandler, hout, hwindow]), State.gang?_modGang_self, hg]
      exact ⟨_, _, rfl, Gang.sub?_enterHandler hb place fr _ _ _, rfl, rfl, rfl, rfl, rfl, rfl, rfl,
        fun p hp => Gang.handlerPreds_enterHandler hb place fr _ _ _ hp⟩

end Sys2Proof.Machine

/-! PROOFS. What the Millpond answers and changes (R340, R341, R343, R349, R350, R352, R354). -/

namespace Sys2Proof.Machine

/-! ### Entries and pools -/

theorem State.pondEntry_setEntry (s : State) (way w : Nat) (x : PondEntry) :
    (s.setEntry way x).pondEntry w = if w = way then x else s.pondEntry w := by
  simp only [State.pondEntry, State.setEntry, State.modPond_pond, Table.getD, Table.get?_put]
  split <;> rfl

theorem State.pool?_eq_some {s : State} {n : Nat} {p : Pool} :
    s.pool? n = some p ↔ Table.get? s.pond.pools n = some p ∧ p.enabled = true := by
  unfold State.pool?
  cases Table.get? s.pond.pools n with
  | none => simp
  | some q =>
    refine ⟨fun h => ?_, fun ⟨hq, hon⟩ => ?_⟩
    · obtain ⟨hon, hq⟩ := Option.ite_none_right_eq_some.1 h
      obtain rfl := Option.some.inj hq
      exact ⟨rfl, hon⟩
    · obtain rfl := Option.some.inj hq
      exact if_pos hon

theorem State.get?_modPool (s : State) (n m : Nat) (f : Pool → Pool) :
    Table.get? (s.modPool n f).pond.pools m =
      if m = n then (Table.get? s.pond.pools m).map f else Table.get? s.pond.pools m :=
  Table.get?_modify ..

theorem State.wake_pond (s : State) (token : Nat) (key : BitVec 81) (o : ViewEntry → Nat → PondOutcome) :
    (s.wake token key o).pond = s.pond := by
  unfold State.wake
  apply foldl_keeps (fun s : State => s.pond)
  exact fun _ _ => rfl

/-! ### A valid entry dropped (R335, R339, R350) -/

theorem State.pondEntry_dropValid (s : State) (way w : Nat) : (s.dropValid way).pondEntry w =
    if w = way then { s.pondEntry way with st := .invalid, pin := false } else s.pondEntry w :=
  State.pondEntry_setEntry ..

theorem State.get?_pools_dropValid (s : State) (way n : Nat) : Table.get? (s.dropValid way).pond.pools n =
    if n = keyPool (s.pondEntry way).key then
      (Table.get? s.pond.pools n).map fun p => { p with quar := p.quar ++ [((s.pondEntry way).tile, p.frame)] }
    else Table.get? s.pond.pools n :=
  State.get?_modPool ..

/-- Entries `l` of a pool evicted between two states: they are invalid, and the pool's quarantine alone changes beside them. -/
structure Evicted (pool : Nat) (l : List Nat) (s t : State) : Prop where
  cores : t.cores = s.cores
  mem : t.mem = s.mem
  gone : ∀ w ∈ l, (t.pondEntry w).st = .invalid
  kept : ∀ w ∉ l, t.pondEntry w = s.pondEntry w
  quar : ∀ p, Table.get? s.pond.pools pool = some p → ∃ quar, Table.get? t.pond.pools pool = some { p with quar := quar }
  others : ∀ n, n ≠ pool → Table.get? t.pond.pools n = Table.get? s.pond.pools n

theorem evicted_dropValid {pool : Nat} (l : List Nat) (s : State) (hpool : ∀ w ∈ l, keyPool (s.pondEntry w).key = pool) :
    Evicted pool l s (l.foldl State.dropValid s) := by
  induction l generalizing s with
  | nil => exact ⟨rfl, rfl, by simp, fun _ _ => rfl, fun p hp => ⟨p.quar, hp⟩, fun _ _ => rfl⟩
  | cons way l ih =>
    have key : ∀ w, ((s.dropValid way).pondEntry w).key = (s.pondEntry w).key := fun w => by
      rw [State.pondEntry_dropValid]
      split
      case isTrue h => rw [h]
      case isFalse => rfl
    have hway : keyPool (s.pondEntry way).key = pool := hpool way List.mem_cons_self
    obtain ⟨hcores, hmem, hgone, hkept, hpl, hothers⟩ :=
      ih (s.dropValid way) fun w hw => by rw [key]; exact hpool w (List.mem_cons_of_mem _ hw)
    refine ⟨hcores, hmem, fun w hw => ?_, fun w hw => ?_, fun p hp => ?_, fun n hn => ?_⟩
    · by_cases h : w ∈ l
      · exact hgone w h
      · rw [List.foldl_cons, hkept w h, State.pondEntry_dropValid, if_pos ((List.mem_cons.1 hw).resolve_right h)]
    · obtain ⟨hne, hl⟩ := not_or.1 (fun h => hw (List.mem_cons.2 h))
      rw [List.foldl_cons, hkept w hl, State.pondEntry_dropValid, if_neg hne]
    · exact hpl { p with quar := p.quar ++ [((s.pondEntry way).tile, p.frame)] }
        (by rw [State.get?_pools_dropValid, hway, if_pos rfl, hp]; rfl)
    · rw [List.foldl_cons, hothers n hn, State.get?_pools_dropValid, hway, if_neg hn]

/-! ### What the Millpond answers -/

theorem State.pondLookup_hit {s : State} {vmid way : Nat} {e : ViewEntry} {probe : Bool} {key : BitVec 81} {p : Pool}
    (hv : e.v = true) (hp : s.pool? (keyPool key) = some p) (hway : s.findKey key = some way)
    (hst : (s.pondEntry way).st = .valid)
    (hsees : if (s.pondEntry way).shared = true then (s.pondEntry way).act = e.act
      else (s.pondEntry way).ownvm.toNat = vmid) :
    s.pondLookup vmid e probe key = (s.setEntry way { s.pondEntry way with lhf := p.frame },
      .hit (p.hbase + (s.pondEntry way).tile * p.tileBytes)) := by
  have hit : entryOutcome p e vmid way (s.pondEntry way) = .hit (p.hbase + (s.pondEntry way).tile * p.tileBytes) := by
    refine if_pos ?_
    split at hsees
    case isTrue h => simp [hst, h, hsees]
    case isFalse h => simp [hst, h, hsees]
  simp [State.pondLookup, hp, hv, hway, hit]

theorem State.pondLookup_probe {s : State} {vmid : Nat} {e : ViewEntry} {key : BitVec 81} {p : Pool} (hv : e.v = true)
    (hp : s.pool? (keyPool key) = some p) (hmiss : s.findKey key = none) :
    s.pondLookup vmid e true key = (s, .miss 3 0) := by
  simp [State.pondLookup, hp, hv, hmiss, State.pondMiss]

theorem State.pondLookup_denied {s : State} {vmid : Nat} {e : ViewEntry} {probe : Bool} {key : BitVec 81} (hv : e.v = false) :
    s.pondLookup vmid e probe key = (s, .denied) := by
  cases hp : s.pool? (keyPool key) with
  | none => simp [State.pondLookup, hp]
  | some p => simp [State.pondLookup, hp, hv]

/-- A fill with a free tile whose lines the fill path may write leaves its entry valid and answers 0 (R349). -/
theorem State.fillTile_valid {s : State} {way pool tile : Nat} {p : Pool} {mask : DWord} {sh : Bool} {bs : List Byte}
    (hlines : s.badHeapLine (p.hbase + tile * p.tileBytes) p.tileBytes = none) :
    (s.fillTile way pool p tile mask sh bs).2 = 0 ∧ (s.fillTile way pool p tile mask sh bs).1.pondEntry way =
      { s.pondEntry way with st := .valid, shared := sh, infl := mask, tile := tile, lhf := p.frame } := by
  unfold State.fillTile
  simp only [hlines]
  refine ⟨trivial, ?_⟩
  rw [State.pondEntry, State.wake_pond]
  exact (State.pondEntry_setEntry ..).trans (if_pos rfl)

theorem State.txfillArrive_fills {s : State} {r : Runner} {p : Pending} {token tile : Nat} {mask : DWord} {sh : Bool}
    {bs : List Byte} {q : Pool} {rest : List Nat} (hlive : s.tokenLive token = true)
    (hp : s.pool? (keyPool (s.pondEntry (token / 1024)).key) = some q)
    (hf : (s.viewFor p 0 r.grid.vmid (keyPool (s.pondEntry (token / 1024)).key)).f = true)
    (hst : (s.pondEntry (token / 1024)).st ≠ .doomed) (hfree : q.free = tile :: rest)
    (hmay : ∀ a ∈ linesOf (q.hbase + tile * q.tileBytes) q.tileBytes, s.heapMay (wayDie (token / 1024)) a = true) :
    s.txfillArrive r p token mask sh bs =
      let y := s.fillTile (token / 1024) (keyPool (s.pondEntry (token / 1024)).key) q tile mask sh bs
      y.1.deliverWord r p y.2 := by
  have all : (linesOf (q.hbase + tile * q.tileBytes) q.tileBytes).all (s.heapMay (wayDie (token / 1024))) = true :=
    List.all_eq_true.2 hmay
  simp [State.txfillArrive, hlive, hp, hf, hst, hfree, all]

theorem State.txinvEntry_dooms {s : State} {r : Runner} {id way : Nat} (hst : (s.pondEntry way).st = .inFlight) :
    (s.txinvEntry r id way).pondEntry way = { s.pondEntry way with st := .doomed } := by
  have away : ¬ ((s.pondEntry way).st == .valid) = true := by rw [hst]; decide
  show (if (s.pondEntry way).st == .valid then s.dropValid way
    else s.setEntry way { s.pondEntry way with st := .doomed }).pondEntry way = _
  rw [if_neg away]
  exact (State.pondEntry_setEntry ..).trans (if_pos rfl)

theorem State.txpinArrive_pins {s : State} {r : Runner} {p : Pending} {on : Bool} {way : Nat} {key : BitVec 81}
    (hkey : keyOf (Table.getD p.data 0 []) = key) (hp : (s.pool? (keyPool key)).isSome = true)
    (hf : (s.viewFor p 0 r.grid.vmid (keyPool key)).f = true) (hway : s.findKey key = some way) :
    s.txpinArrive r p on = (s.setEntry way { s.pondEntry way with pin := on }).deliverWord r p 1 := by
  simp [State.txpinArrive, hkey, Option.isSome_iff_ne_none.1 hp, hf, hway]

/-! ### The clock hands (R354) -/

/-- The entries that a clock hand evicts from a set (R354). -/
def State.handTakes (s : State) (pool agethr set : Nat) : List Nat :=
  (waysOfSet set).filter fun w =>
    (s.pondEntry w).st == .valid && !(s.pondEntry w).pin && keyPool (s.pondEntry w).key == pool &&
      decide (agethr ≤ s.entryAge (s.pondEntry w))

theorem State.mem_handTakes {s : State} {pool agethr set w : Nat} : w ∈ s.handTakes pool agethr set ↔
    w ∈ waysOfSet set ∧ (s.pondEntry w).st = .valid ∧ (s.pondEntry w).pin = false ∧
      keyPool (s.pondEntry w).key = pool ∧ agethr ≤ s.entryAge (s.pondEntry w) := by
  simp [State.handTakes, and_assoc]

theorem State.not_mem_handTakes {s : State} {pool agethr set w : Nat} (h : w ∉ waysOfSet set ∨ (s.pondEntry w).st ≠ .valid ∨
    (s.pondEntry w).pin = true ∨ keyPool (s.pondEntry w).key ≠ pool ∨ s.entryAge (s.pondEntry w) < agethr) :
    w ∉ s.handTakes pool agethr set := fun hw => by
  obtain ⟨hset, hst, hpin, hpool, hage⟩ := State.mem_handTakes.1 hw
  obtain h | h | h | h | h := h
  · exact h hset
  · exact h hst
  · rw [hpin] at h
    exact Bool.false_ne_true h
  · exact h hpool
  · exact Nat.not_le.2 h hage

/-- A clock hand put at its place. -/
def State.setHand (s : State) (pool die : Nat) (x : Nat × Nat × Bool) : State :=
  s.modPool pool fun p => { p with hands := Table.put p.hands die x }

theorem clockHandAdvance_eq {s : State} {die pool set idle : Nat} {p : Pool} (hp : s.pool? pool = some p) (hdie : die < 4)
    (hfree : p.free.length < p.wmark) (hhand : Table.getD p.hands die (0, 0, false) = (set, idle, false)) :
    exec (.clockHandAdvance die pool) s =
      if p.wmark ≤ p.free.length + p.quar.length then .next (s.setHand pool die (set, idle, true))
      else
        let gone := s.handTakes pool p.agethr (65536 * die + set)
        let t := gone.foldl State.dropValid s
        let idle := if gone.isEmpty then idle + 1 else 0
        .next (t.setHand pool die ((set + 1) % 65536, idle,
          ((t.pool? pool).map Pool.handsDone).getD false || decide (65536 ≤ idle))) := by
  have go : ¬ ((decide (4 ≤ die) || decide (p.wmark ≤ p.free.length) || false) = true) := by simp; omega
  show execClockHandAdvance die pool s = _
  simp only [execClockHandAdvance, hp, hhand, if_neg go, Pool.handsDone, decide_eq_true_eq]
  rfl

theorem State.get?_pools_setHand {s : State} {pool die : Nat} {x : Nat × Nat × Bool} {p : Pool}
    (hp : Table.get? s.pond.pools pool = some p) :
    Table.get? (s.setHand pool die x).pond.pools pool = some { p with hands := Table.put p.hands die x } :=
  (State.get?_modPool ..).trans ((if_pos rfl).trans (by rw [hp]; rfl))

theorem State.get?_pools_setHand_ne {s : State} {pool die n : Nat} {x : Nat × Nat × Bool} (hn : n ≠ pool) :
    Table.get? (s.setHand pool die x).pond.pools n = Table.get? s.pond.pools n :=
  (State.get?_modPool ..).trans (if_neg hn)

/-- Settles O46: lookups, fills, invalidations and pins act on one entry, and a clock hand on the entries of its pool in one
set. -/
theorem millpondAnswers : Obligations.MillpondAnswers := by
  refine ⟨fun s vmid e probe key => State.pondLookup_denied,
    fun s vmid way e probe key p => State.pondLookup_hit, fun s vmid e key p => State.pondLookup_probe,
    fun s r p token mask sh bs => ⟨fun hdead => ?dead, fun q tile rest hlive hp hf hst hfree hmay hlines => ?live⟩,
    fun s way x hx hst => ⟨?entry, fun p hp => ?quarantine⟩, fun s r id way => State.txinvEntry_dooms,
    fun s r p on way hp hf hway => State.txpinArrive_pins rfl hp hf hway,
    fun s die pool set idle p hp hdie hfree hhand => ?hand⟩
  case dead => simp [State.txfillArrive, hdead, State.deliverWord]
  case live =>
    obtain ⟨hword, hentry⟩ := State.fillTile_valid (s := s) (way := token / 1024)
      (pool := keyPool (s.pondEntry (token / 1024)).key) (mask := mask) (sh := sh) (bs := bs) hlines
    refine ⟨_, (State.txfillArrive_fills hlive hp hf hst hfree hmay).trans ?_, hentry⟩
    simp only [hword, State.deliverWord]
  case entry => rw [State.pondEntry_dropValid, if_pos rfl, hx]
  case quarantine => rw [State.get?_pools_dropValid, hx, if_pos rfl, hp]; rfl
  case hand =>
    obtain ⟨hget, -⟩ := State.pool?_eq_some.1 hp
    rw [clockHandAdvance_eq hp hdie hfree hhand]
    by_cases hfull : p.wmark ≤ p.free.length + p.quar.length
    · simp only [if_pos hfull]
      exact ⟨_, _, 0, true, rfl, State.get?_pools_setHand hget, rfl, rfl, rfl, ⟨Table.get?_put_self .., rfl⟩,
        fun _ _ => rfl, fun n => State.get?_pools_setHand_ne⟩
    · simp only [if_neg hfull]
      have ev := evicted_dropValid (s.handTakes pool p.agethr (65536 * die + set)) s fun w hw =>
        (State.mem_handTakes.1 hw).2.2.2.1
      obtain ⟨quar, hq⟩ := ev.quar p hget
      exact ⟨_, _, _, _, rfl, State.get?_pools_setHand hq, rfl, ev.cores, ev.mem, ⟨Table.get?_put_self ..,
        fun w hw hst hpin hkey hage => ev.gone w (State.mem_handTakes.2 ⟨hw, hst, hpin, hkey, hage⟩)⟩,
        fun w hw => ev.kept w (State.not_mem_handTakes hw),
        fun n hn => (State.get?_pools_setHand_ne hn).trans (ev.others n hn)⟩

end Sys2Proof.Machine

/-! PROOFS. Node queues and the Wallower (R375 to R378, R429). -/

namespace Sys2Proof.Machine

theorem Partition.get?_of_node? {p : Partition} {n : Nat} {x : Node} (h : p.node? n = some x) :
    Table.get? p.nodes n = some x := by
  unfold Partition.node? at h
  split at h
  case h_1 y hy =>
    obtain ⟨-, hyx⟩ := Option.ite_none_right_eq_some.1 h
    rw [hy, Option.some.inj hyx]
  case h_2 => exact absurd h (by simp)

/-! ### Pushes (R375) -/

section
variable {s : State} {pid n : Nat} {p : Partition} {x : Node} {rs : List (List Byte)} {bs : List Byte}

theorem State.nodePush_refused (hrs : rs ≠ []) (hb : s.schedRead p.vmid x.nasid (x.nbase + 8) 8 .windowRead = .bytes bs)
    (hfull : x.ring < (2 ^ 64 + x.reserve + rs.length - leNat bs) % 2 ^ 64) : s.nodePush pid n p x rs =
      ((s.schedTouch p.vmid x.nasid (x.nbase + 8) 8).addOverflow pid n p x rs.length).map fun t => (t, false) := by
  have some_ : ¬ (rs.length == 0) = true := by simpa using hrs
  simp only [State.nodePush, if_neg some_, hb, if_pos hfull]
  cases State.addOverflow _ pid n p x rs.length <;> rfl

theorem State.nodePush_written {t u : State} (hrs : rs ≠ [])
    (hb : s.schedRead p.vmid x.nasid (x.nbase + 8) 8 .windowRead = .bytes bs)
    (hroom : (2 ^ 64 + x.reserve + rs.length - leNat bs) % 2 ^ 64 ≤ x.ring)
    (hw : (s.schedTouch p.vmid x.nasid (x.nbase + 8) 8).writeRecords p.vmid x x.reserve rs = .done t)
    (hput : (t.modNode pid n fun y => { y with reserve := y.reserve + rs.length }).schedPut pid .queueError p.vmid x.nasid
      x.nbase (leBytes 8 (x.reserve + rs.length)) = .ok u) : s.nodePush pid n p x rs = .ok (u, true) := by
  have some_ : ¬ (rs.length == 0) = true := by simpa using hrs
  simp only [State.nodePush, if_neg some_, hb, if_neg (Nat.not_lt.2 hroom), hw, hput]
  rfl

end

/-! ### Pops (R378) -/

section
variable {s : State} {r : Runner} {n addr : Nat} {p : Partition} {x : Node}

theorem State.nodePop_drained (h : x.wl = true) : s.nodePop r n p x addr = .ok (s, false) := if_pos h

theorem State.nodePop_empty {bs : List Byte} (hwl : x.wl = false)
    (hb : s.schedRead p.vmid x.nasid x.nbase 8 .windowRead = .bytes bs) (hle : leNat bs ≤ x.take) :
    s.nodePop r n p x addr = .ok (s.schedTouch p.vmid x.nasid x.nbase 8, false) := by
  simp only [State.nodePop, if_neg (ne_true_of_eq_false hwl), hb, if_pos hle]

end

/-! ### The Wallower (R376, R429) -/

/-- The state after the Wallower has put a grid for the next `k` records of a node: `n` is the free value of its grid's
number, `id` its grid. -/
def State.fired (s : State) (pid node k n id : Nat) (p : Partition) (x : Node) (kd : KDesc) : State :=
  ({ s with grids := Table.put s.grids id (wallowerGrid pid node x.take k p x kd (Config.freeWord n)) } : State).modNode pid
    node fun x => { x with take := x.take + k, takes := x.takes ++ [(id, x.take + k, false)] }

theorem State.fired_node {s : State} {pid node k n id : Nat} {p : Partition} {x : Node} {kd : KDesc}
    (hp : s.part? pid = some p) (hx : Table.get? p.nodes node = some x) :
    ∃ p' x', (s.fired pid node k n id p x kd).part? pid = some p' ∧ Table.get? p'.nodes node = some x' ∧
      x'.take = x.take + k ∧ x'.takes = x.takes ++ [(id, x.take + k, false)] :=
  ⟨_, _, (State.part?_modPart_self ..).trans (congrArg _ hp), (Table.get?_modify_self ..).trans (congrArg _ hx), rfl, rfl⟩

section
variable {s : State} {pid node : Nat} {p : Partition} {x : Node} {kd : KDesc} (hp : s.part? pid = some p)
  (hx : p.node? node = some x) (hkd : x.kd = some kd) (hwl : x.wl = true)
include hp hx hkd hwl

theorem wallowerFire_fault {va : Nat} {code : Code}
    (hb : s.schedRead p.vmid x.nasid x.nbase 8 .windowRead = .fault code va) :
    exec (.wallowerFire pid node) s = .next (s.schedFault pid .queueError x.nasid va) := by
  show execWallowerFire pid node s = _
  simp only [execWallowerFire, hp, hx, hkd, hb, if_pos hwl]

theorem wallowerFire_fires {bs : List Byte} (hb : s.schedRead p.vmid x.nasid x.nbase 8 .windowRead = .bytes bs)
    (hpend : x.take < leNat bs) (hmax : (x.takes.filter fun t => !t.2.2).length < x.wmax) :
    exec (.wallowerFire pid node) s =
      let t := s.schedTouch p.vmid x.nasid x.nbase 8
      .next (t.takeFree.2.fresh.2.fired pid node (min (leNat bs - x.take) (kd.ngang * kd.width)) t.free t.next p x kd) := by
  have go : ¬ ((!x.wl || (leNat bs - x.take == 0) || decide (x.wmax ≤ (x.takes.filter fun t => !t.2.2).length)) = true) := by
    simp only [hwl, Bool.not_true, Bool.false_or, Bool.or_eq_true, beq_iff_eq, decide_eq_true_eq]
    omega
  show execWallowerFire pid node s = _
  simp only [execWallowerFire, hp, hx, hkd, hb, if_neg go]
  rfl

end

/-- Settles O48: a push, a pop and a firing take the branch that the read of the queue's word opens to them. -/
theorem nodeQueues : Obligations.NodeQueues := by
  refine ⟨fun s pid n p x => rfl, fun s pid n p x rs bs => State.nodePush_refused,
    fun s t u pid n p x rs bs => State.nodePush_written, fun s r n addr p x => State.nodePop_drained,
    fun s r n addr p x bs => State.nodePop_empty,
    fun s pid node va p x kd code hp hx hkd hwl hb => wallowerFire_fault hp hx hkd hwl hb,
    fun s pid node p x kd bs hp hx hkd hb hwl hpend hmax => ?_⟩
  obtain ⟨l2, clock, htouch, -⟩ := s.schedTouch_onlyUse p.vmid x.nasid x.nbase 8
  have fires := wallowerFire_fires hp hx hkd hwl hb hpend hmax
  rw [htouch] at fires ⊢
  exact ⟨_, _, fires, Table.get?_put_self .., rfl, rfl, rfl, rfl, rfl, rfl, rfl,
    State.fired_node hp (Partition.get?_of_node? hx)⟩

end Sys2Proof.Machine

/-! PROOFS. Requests, replies, time-outs and ports of the fabric (R409 to R411, R414, R415, R417, R419, R422, R423). -/

namespace Sys2Proof.Machine

/-! ### The target (R415, R417, R422) -/

theorem State.recordWalk_changes (s : State) (asid va : Nat) (w : Walk) :
    ∃ e, s.recordWalk asid va w = { s with mem := { s.mem with walkerr := e } } := by
  unfold State.recordWalk
  split
  · dsimp only
    split <;> exact ⟨_, rfl⟩
  · exact ⟨s.mem.walkerr, rfl⟩

theorem State.noteWalk_changes (s : State) (vmid asid va : Nat) :
    ∃ e, s.noteWalk vmid asid va = { s with mem := { s.mem with walkerr := e } } := by
  unfold State.noteWalk
  dsimp only
  split
  · exact s.recordWalk_changes ..
  · exact ⟨s.mem.walkerr, rfl⟩

theorem State.noteWalk_hbm (s : State) (vmid asid va : Nat) : (s.noteWalk vmid asid va).mem.hbm = s.mem.hbm := by
  obtain ⟨e, h⟩ := s.noteWalk_changes vmid asid va
  rw [h]

theorem State.refuse_logs (s : State) (req : RemoteRequest) (code : Code) : ∃ t : State,
    s.refuse req code = .done t (.refusal code) ∧ t.fabric.logValid = true ∧ t.mem.hbm = s.mem.hbm ∧
    (s.fabric.logValid = false → t.fabric.logCode = BitVec.ofNat 8 (codeNum code)) ∧
    (s.fabric.logValid = true → t.fabric = s.fabric) := by
  refine ⟨_, rfl, ?_, s.noteWalk_hbm .., fun h => ?_, fun h => if_pos h⟩
  · dsimp only
    cases h : s.fabric.logValid
    · rfl
    · exact h
  · dsimp only
    rw [h]
    rfl

theorem State.serve_refused {s : State} {req : RemoteRequest} (h : s.accepts req = false) :
    s.serve req = s.refuse req .pageProtection := if_pos (by simp [h])

theorem Ln.mayKeep_iff (l : Ln) : l.mayKeep = true ↔
    l.heap = false ∧ (l.perms.attr = .wo ∨ (l.perms.attr = .rc ∧ l.perms.w = false)) := by
  simp [Ln.mayKeep]

theorem State.serve_load {s : State} {req : RemoteRequest} {n : Nat} {l : Ln} (hacc : s.accepts req = true)
    (hop : req.op = .load n) (hl : s.targetLine req .load req.va n = .ok l) (hmay : s.outsideMay l false = true) :
    s.serve req = .done ((s.keepFill l req.va).touchLine l)
      (if l.heap = false ∧ (l.perms.attr = .wo ∨ (l.perms.attr = .rc ∧ l.perms.w = false))
       then .copy (s.coherentData l.tag l.line l.pline)
       else .data (slice (s.coherentData l.tag l.line l.pline) (req.va % 128) n)) := by
  have target : s.serve req = s.targetLoad req n := by simp [State.serve, hacc, hop]
  simp only [target, State.targetLoad, hl, hmay, Bool.not_true, Bool.false_eq_true, if_false, Ln.mayKeep_iff]
  exact (apply_ite (Served.done _) _ _ _).symm

theorem State.serve_store {s u : State} {req : RemoteRequest} {bs : List Byte} {l : Ln} (hacc : s.accepts req = true)
    (hop : req.op = .store bs) (hl : s.targetLine req .store req.va bs.length = .ok l)
    (hmay : s.outsideMay l true = true) (hattr : l.perms.attr ≠ .wo)
    (hlog : s.logWrite req.vmid req.asid req.va = (true, u)) :
    s.serve req = .done ((u.keepFill l req.va).writeAtHome l [(req.va % 128, bs)]) .ack := by
  have target : s.serve req = s.targetWrite req l bs .ack := by simp [State.serve, hacc, hop, hl]
  simp [target, State.targetWrite, hmay, hlog, hattr]

theorem State.takesRequest {s : State} {req : RemoteRequest} (hup : s.fabricUp = true)
    (hline : req.va % 128 + opInLine req.op ≤ 128) :
    ¬ (!s.fabricUp || decide (128 < req.va % 128 + opInLine req.op)) = true := by
  simpa [hup] using hline

/-! ### The initiator (R414, R418, R419, R422, R423) -/

/-- Between two states requests may have ended: the ports are the same, and what is outstanding was so before, at the same
port. -/
def FewerOut (s t : State) : Prop :=
  t.fabric.ports = s.fabric.ports ∧ ∀ x ∈ t.fabric.out, ∃ y ∈ s.fabric.out, y.1 = x.1 ∧ y.2.port = x.2.port

theorem FewerOut.of_fabric {s t : State} (h : t.fabric = s.fabric) : FewerOut s t :=
  ⟨by rw [h], fun x hx => ⟨x, h ▸ hx, rfl, rfl⟩⟩

theorem FewerOut.trans {s t u : State} (h : FewerOut s t) (k : FewerOut t u) : FewerOut s u := by
  refine ⟨k.1.trans h.1, fun x hx => ?_⟩
  obtain ⟨y, hy, hyx, hport⟩ := k.2 x hx
  obtain ⟨z, hz, hzy, hzport⟩ := h.2 y hy
  exact ⟨z, hz, hzy.trans hyx, hzport.trans hport⟩

theorem State.keepNoCopy_fewerOut (s : State) (test : Outgoing → Bool) : FewerOut s (s.keepNoCopy test) := by
  refine ⟨rfl, fun x hx => ?_⟩
  obtain ⟨y, hy, rfl⟩ := List.mem_map.1 hx
  exact ⟨y, hy, rfl, by dsimp only; split <;> rfl⟩

theorem State.dropKept_fewerOut (s : State) (core : Nat) (o : Outgoing) : FewerOut s (s.dropKept core o) := by
  unfold State.dropKept
  dsimp only
  split
  · exact (FewerOut.of_fabric rfl).trans (State.keepNoCopy_fewerOut _ _)
  · exact (FewerOut.of_fabric rfl).trans (State.keepNoCopy_fewerOut _ _)
  · exact .of_fabric rfl

theorem State.dropOut_fewerOut (s : State) (id : Nat) : FewerOut s (s.dropOut id) :=
  ⟨rfl, fun x hx => ⟨x, List.mem_of_mem_filter hx, rfl, rfl⟩⟩

theorem State.dropOut_unanswered (s : State) (id : Nat) (o : Outgoing) (code : Code) :
    FewerOut (s.dropOut id) (s.unanswered id o code) := by
  unfold State.unanswered
  dsimp only
  split
  · exact (State.dropKept_fewerOut _ _ o).trans (.of_fabric rfl)
  · exact .of_fabric rfl
  · exact .of_fabric rfl

/-- Requests that end without an answer are outstanding no more. -/
theorem unanswered_ends (l : Table Outgoing) (code : Code) (s : State) :
    let t := l.foldl (fun (s : State) x => s.unanswered x.1 x.2 code) s
    FewerOut s t ∧ ∀ x ∈ t.fabric.out, ∀ y ∈ l, x.1 ≠ y.1 := by
  induction l generalizing s with
  | nil => exact ⟨.of_fabric rfl, fun x _ y hy => absurd hy List.not_mem_nil⟩
  | cons z l ih =>
    obtain ⟨hfew, hne⟩ := ih (s.unanswered z.1 z.2 code)
    have few := (s.dropOut_unanswered z.1 z.2 code).trans hfew
    refine ⟨(s.dropOut_fewerOut z.1).trans few, fun x hx y hy => ?_⟩
    obtain rfl | hy := List.mem_cons.1 hy
    · obtain ⟨w, hw, hwx, -⟩ := few.2 x hx
      exact hwx ▸ by simpa using (List.mem_filter.1 hw).2
    · exact hne x hx y hy

theorem State.dropKept_load {s : State} {core n : Nat} {o : Outgoing} (h : o.req.op = .load n) : s.dropKept core o = s := by
  unfold State.dropKept
  rw [h]
  cases s.vmOfCore core <;> rfl

section
variable {s : State} {id core slot p key : Nat} {o : Outgoing} (hw : o.waiter = .gang core slot p key)
include hw

theorem State.replied_gang (reply : RemoteReply) :
    s.replied id o reply = ((s.dropOut id).dropKept core o).gangReply o core slot p key reply := by
  simp only [State.replied, hw]

theorem State.replied_copy (line : List Byte) (hkeep : o.keep = false) :
    s.replied id o (.copy line) = s.replied id o (.data (slice line (o.va % 128) o.req.op.bytes)) := by
  rw [State.replied_gang hw, State.replied_gang hw]
  simp only [State.gangReply, hkeep]
  cases ((s.dropOut id).dropKept core o).vmOfCore core <;> rfl

theorem State.unanswered_gang (code : Code) :
    s.unanswered id o code = ((s.dropOut id).dropKept core o).elemFails core slot p key o.va code 0 := by
  simp only [State.unanswered, hw]

end

section
variable {s : State} {id port : Nat} {o : Outgoing} (ho : Table.get? s.fabric.out id = some o)
include ho

theorem remoteReplyArrive_replied {reply : RemoteReply} (hport : o.port = some port)
    (hans : answersOp o.req.op reply = true) (hup : (Table.getD s.fabric.ports port Port.reset).st = 2) :
    exec (.remoteReplyArrive id reply) s = .next ((s.delivered port).replied id o reply) := by
  show execRemoteReplyArrive id reply s = _
  simp [execRemoteReplyArrive, ho, hport, hans, hup]

theorem remoteReplyArrive_own {t : State} {reply r : RemoteReply} (hport : o.port = none)
    (hserve : s.serve o.req = .done t r) : exec (.remoteReplyArrive id reply) s =
      .next (t.replied id o (ownReply o.req.op o.req.va (replyIsCopy reply) r)) := by
  show execRemoteReplyArrive id reply s = _
  simp only [execRemoteReplyArrive, ho, hport, hserve]

theorem remoteTimeout_ends (hport : o.port = some port) :
    exec (.remoteTimeout id) s = .next (s.unanswered id o .remoteTimeout) := by
  show execRemoteTimeout id s = _
  simp [execRemoteTimeout, ho, hport]

theorem switchUndeliverable_ends (hport : o.port = some port) :
    exec (.switchUndeliverable id) s = .next (s.unanswered id o .linkDown) := by
  show execSwitchUndeliverable id s = _
  simp [execSwitchUndeliverable, ho, hport]

end

/-! ### Ports (R409 to R411) -/

/-- The state with a port as given. -/
def State.withPort (s : State) (port : Nat) (q : Port) : State :=
  { s with fabric := { s.fabric with ports := Table.put s.fabric.ports port q } }

section
variable {s : State} {port : Nat} {p : Port} (hlt : port < 36) (hp : Table.getD s.fabric.ports port Port.reset = p)
include hlt hp

theorem State.portStep_of {test : Port → Bool} (f : Port → Port) (h : test p = true) :
    s.portStep port test f = s.withPort port (f p) := by
  have go : ¬ ((decide (36 ≤ port) || !test p) = true) := by simp [h]; omega
  simp only [State.portStep, hp, if_neg go]
  rfl

omit hlt in
theorem State.portStep_of_not {test : Port → Bool} (f : Port → Port) (h : test p = false) : s.portStep port test f = s := by
  simp [State.portStep, hp, h]

theorem flitReplay_counts (hst : p.st = 2) (htries : p.tries < 16) : exec (.flitReplay port) s = .next (s.withPort port
    { p with replay := if p.replay = BitVec.allOnes 16 then p.replay else p.replay + 1, tries := p.tries + 1 }) := by
  have test : (p.st == 2 && decide (p.tries < 16)) = true := by simp [hst, htries]
  refine (congrArg _ (State.portStep_of hlt hp _ test)).trans ?_
  simp only [beq_iff_eq]

theorem portRetrain_retrains (h : (p.st = 2 ∧ 16 ≤ p.tries) ∨ (p.st = 0 ∧ 5 ≤ s.boot.stage ∧ s.boot.minimal = false)) :
    exec (.portRetrain port) s = .next (s.withPort port
      { p with st := 1, retrain := if p.retrain = BitVec.allOnes 8 then p.retrain else p.retrain + 1, tries := 0 }) := by
  have test : ((p.st == 2 && decide (16 ≤ p.tries)) || (p.st == 0 && (decide (5 ≤ s.boot.stage) && !s.boot.minimal))) =
      true := by
    simpa using h
  refine (congrArg _ (State.portStep_of hlt hp _ test)).trans ?_
  simp only [beq_iff_eq]

theorem portDown_falls (hst : p.st = 1) : ∃ t, exec (.portDown port) s = .next t ∧
    t.fabric.ports = (s.withPort port { p with st := 0 }).fabric.ports ∧ ∀ x ∈ t.fabric.out, x.2.port ≠ some port := by
  have go : ¬ ((decide (36 ≤ port) || (Table.getD s.fabric.ports port Port.reset).st != 1) = true) := by
    simp [hp, hst]; omega
  have down : s.portStep port (fun _ => true) (fun p => { p with st := 0 }) = s.withPort port { p with st := 0 } :=
    State.portStep_of hlt hp _ rfl
  obtain ⟨hfew, hne⟩ := unanswered_ends (s.fabric.out.filter fun x => x.2.port == some port) .linkDown
    (s.withPort port { p with st := 0 })
  refine ⟨_, ?_, hfew.1, fun x hx hport => ?_⟩
  · show execPortDown port s = _
    simp only [execPortDown, if_neg go, down]
    rfl
  · obtain ⟨y, hy, hyx, hyport⟩ := hfew.2 x hx
    exact hne x hx y (List.mem_filter.2 ⟨hy, by simp [hyport, hport]⟩) hyx.symm

end

/-- Settles O60: the target serves or refuses, an answer or its lack ends a request, and a port steps as its state lets it. -/
theorem fabricEvents : Obligations.FabricEvents := by
  refine ⟨fun s req hup hline => ⟨fun t reply h => ?done, fun t h => ?later⟩, fun s req hacc => ?refused,
    fun s req n l => State.serve_load, fun s u req bs l => State.serve_store,
    fun s id port o reply ho hport => ⟨remoteReplyArrive_replied ho hport, remoteTimeout_ends ho hport,
      switchUndeliverable_ends ho hport⟩,
    fun s t id o reply r ho => remoteReplyArrive_own ho,
    fun s id core slot p key o hw => ⟨fun bs => State.replied_gang hw _, State.replied_copy hw,
      fun n vmid hop _ => State.dropKept_load hop, State.replied_gang hw _, fun code => State.replied_gang hw _,
      State.unanswered_gang hw⟩,
    fun s id => (Table.get?_del ..).trans (if_pos rfl),
    fun s port p hlt hp => ⟨flitReplay_counts hlt hp, fun htries => ?tried, State.portStep_of hlt hp _ rfl,
      portRetrain_retrains hlt hp, fun hst htries => ?fresh, fun hst => ?trained, portDown_falls hlt hp⟩⟩
  case done =>
    show execRemoteRequestArrive req s = _
    simp only [execRemoteRequestArrive, if_neg (State.takesRequest hup hline), h]
  case later =>
    show execRemoteRequestArrive req s = _
    simp only [execRemoteRequestArrive, if_neg (State.takesRequest hup hline), h]
  case refused =>
    obtain ⟨t, hserve, hvalid, hhbm, hcode, hold⟩ := s.refuse_logs req .pageProtection
    exact ⟨t, (State.serve_refused hacc).trans hserve, hvalid, hhbm, fun h => by rw [hcode h]; rfl, hold⟩
  case tried => exact congrArg _ (State.portStep_of_not hp _ (by simp; omega))
  case fresh => exact congrArg _ (State.portStep_of_not hp _ (by simp [hst]; omega))
  case trained => exact congrArg _ (State.portStep_of hlt hp _ (by simp [hst]))

end Sys2Proof.Machine

/-! PROOFS. What a write at the home of a line leaves as it is (R216, R219, R311). -/

namespace Sys2Proof.Machine

/-- Between two states copies of lines alone have moved: gangs and teams, grids and partitions stand as before, and so does the
Millpond. -/
structure LinesMoved (s t : State) : Prop extends SameTeams s t where
  pond : t.pond = s.pond

namespace LinesMoved

theorem refl (s : State) : LinesMoved s s := ⟨.refl s, rfl⟩

theorem trans {s t u : State} (h : LinesMoved s t) (k : LinesMoved t u) : LinesMoved s u :=
  ⟨h.toSameTeams.trans k.toSameTeams, k.pond.trans h.pond⟩

theorem foldl {α : Type} {f : State → α → State} (h : ∀ s x, LinesMoved s (f s x)) (l : List α) (s : State) :
    LinesMoved s (l.foldl f s) := by
  induction l generalizing s with
  | nil => exact refl s
  | cons x l ih => exact (h s x).trans (ih _)

theorem notify (s : State) (pline : Nat) : LinesMoved s (s.notify pline) :=
  ⟨.notify s pline, by unfold State.notify; split <;> rfl⟩

theorem writeHome (s : State) (tag line pline off : Nat) (bs : List Byte) :
    LinesMoved s (s.writeHome tag line pline off bs) := by
  refine ⟨.writeHome s tag line pline off bs, (notify _ pline).pond.trans ?_⟩
  split <;> rfl

theorem dropL1 (s : State) (core tag line : Nat) : LinesMoved s (s.dropL1 core tag line) := by
  have gone : LinesMoved s (s.delL1 core tag line) := ⟨.delL1 s core tag line, rfl⟩
  unfold State.dropL1
  split
  · exact refl s
  · dsimp only
    split
    · exact ⟨SameTeams.modCore s core (f := fun k => { k with l1 := _ }) (fun _ => rfl) fun _ => rfl, rfl⟩
    · split
      · exact gone.trans (writeHome ..)
      · exact gone

theorem dropTracked (s : State) (tag line : Nat) : LinesMoved s (s.dropTracked tag line) := by
  rw [State.dropTracked_eq_foldl]
  refine foldl (fun s k => ?_) _ s
  unfold State.dropTrackedOf
  split
  · exact dropL1 ..
  · exact refl s

theorem staleCode (s : State) (l : Ln) : LinesMoved s (s.staleCode l) := by
  obtain ⟨st, h⟩ := s.noteStale_changes l.pline (lineWords (s.coherentData l.tag l.line l.pline))
  rw [State.staleCode, h]
  exact ⟨⟨fun _ => rfl, fun _ => rfl, rfl, rfl⟩, rfl⟩

theorem touchL2 (s : State) (tag line pline : Nat) : LinesMoved s (s.touchL2 tag line pline) :=
  ⟨⟨fun _ => rfl, fun _ => rfl, rfl, rfl⟩, rfl⟩

theorem setDir (s : State) (tag line pline : Nat) (d : DirEntry) : LinesMoved s (s.setDir tag line pline d) :=
  ⟨.setDir s tag line pline d, rfl⟩

theorem writeAtHome (s : State) (l : Ln) (ws : List (Nat × List Byte)) : LinesMoved s (s.writeAtHome l ws) :=
  ((((staleCode s l).trans (dropTracked ..)).trans (touchL2 ..)).trans (foldl (fun s _ => writeHome s ..) ws _)).trans
    (setDir ..)

end LinesMoved

end Sys2Proof.Machine

/-! PROOFS. The mailbox and its commands (R389, R398 to R401). -/

namespace Sys2Proof.Machine

/-! ### Commands in line (R398) -/

section
variable {s : State}

theorem State.answered_waits (h : ∀ fn, s.firstCommand = some fn → (s.mailbox fn).refusal fn = none) (n : Nat) :
    s.answered n = s := by
  cases n with
  | zero => rfl
  | succ n =>
    cases hfirst : s.firstCommand with
    | none => simp only [State.answered, hfirst]
    | some fn => simp only [State.answered, hfirst, h fn hfirst]

theorem State.answered_next {fn rc : Nat} (hfirst : s.firstCommand = some fn)
    (hrc : (s.mailbox fn).refusal fn = some rc) (n : Nat) : s.answered (n + 1) = (s.finish fn rc []).answered n := by
  simp only [State.answered, hfirst, hrc]

/-- The command first in line stands, and none that stands came before it. -/
theorem State.of_firstCommand {fn : Nat} (h : s.firstCommand = some fn) : (s.mailbox fn).db = true ∧
    ∀ n, n < 65 → (s.mailbox n).db = true → (s.mailbox fn).arrival ≤ (s.mailbox n).arrival := by
  have first := List.find?_some h
  simp only [Bool.and_eq_true, List.all_eq_true, List.mem_range, Bool.or_eq_true, Bool.not_eq_true', decide_eq_true_eq]
    at first
  exact ⟨first.1, fun n hn hdb => (first.2 n hn).resolve_left (by simp [hdb])⟩

/-- Where a command stands, some command is first in line. -/
theorem State.of_firstCommand_none (h : s.firstCommand = none) {n : Nat} (hn : n < 65) : (s.mailbox n).db = false := by
  by_contra hdb
  obtain ⟨fn, hfn, least⟩ := Finset.exists_min_image ((Finset.range 65).filter fun k => (s.mailbox k).db = true)
    (fun k => (s.mailbox k).arrival) ⟨n, by simpa using ⟨hn, eq_true_of_ne_false hdb⟩⟩
  simp only [Finset.mem_filter, Finset.mem_range] at hfn least
  refine List.find?_eq_none.1 h fn (List.mem_range.2 hfn.1) ?_
  simp only [Bool.and_eq_true, List.all_eq_true, List.mem_range, Bool.or_eq_true, Bool.not_eq_true', decide_eq_true_eq]
  refine ⟨hfn.2, fun k hk => ?_⟩
  cases hk' : (s.mailbox k).db with
  | false => exact .inl rfl
  | true => exact .inr (least k ⟨hk, hk'⟩)

theorem State.mailbox_finish_ne {n fn : Nat} (h : n ≠ fn) (rc : Nat) (bs : List Byte) :
    (s.finish fn rc bs).mailbox n = s.mailbox n := State.mailbox_modMailbox_ne _ h _

/-- Answering the refused commands in line touches no mailbox that awaits none. -/
theorem State.mailbox_answered {n : Nat} (h : (s.mailbox n).db = false ∨ (s.mailbox n).refusal n = none) (k : Nat) :
    (s.answered k).mailbox n = s.mailbox n := by
  induction k generalizing s with
  | zero => rfl
  | succ k ih =>
    cases hfirst : s.firstCommand with
    | none => simp only [State.answered, hfirst]
    | some fn =>
      cases hrc : (s.mailbox fn).refusal fn with
      | none => simp only [State.answered, hfirst, hrc]
      | some rc =>
        have hne : n ≠ fn := by
          rintro rfl
          rcases h with h | h
          · exact absurd (State.of_firstCommand hfirst).1 (by simp [h])
          · simp [h] at hrc
        have same := State.mailbox_finish_ne (s := s) hne rc []
        rw [State.answered_next hfirst hrc, ih (by rw [same]; exact h), same]

theorem State.mailbox_complete_self (fn rc : Nat) (bs : List Byte) : (s.complete fn rc bs).mailbox fn =
    { s.mailbox fn with db := false, rc := BitVec.ofNat 16 rc, rlen := BitVec.ofNat 32 bs.length,
                        payload := putBytes (s.mailbox fn).payload 0 bs } := by
  have own := State.mailbox_modMailbox_self s fn fun m =>
    { m with db := false, rc := BitVec.ofNat 16 rc, rlen := BitVec.ofNat 32 bs.length, payload := putBytes m.payload 0 bs }
  exact (State.mailbox_answered (.inl (congrArg Mailbox.db own)) 65).trans own

theorem State.mailbox_complete_ne {n fn : Nat} (hne : n ≠ fn) (h : (s.mailbox n).refusal n = none) (rc : Nat)
    (bs : List Byte) : (s.complete fn rc bs).mailbox n = s.mailbox n := by
  have same := State.mailbox_finish_ne (s := s) hne rc bs
  exact (State.mailbox_answered (.inr (by rw [same]; exact h)) 65).trans same

end

theorem Mailbox.refusal_eq (m : Mailbox) (fn : Nat) : m.refusal fn =
    if fn ≠ 0 ∧ vfCommand m.opc.toNat = false then some 2
    else if knownCommand m.opc.toNat = false then some 1 else if 4096 < m.len.toNat then some 3 else none := by
  simp [Mailbox.refusal]

/-! ### A command performed (R398, R399, R404) -/

theorem State.opc_of_commandNext {s : State} {fn opc : Nat} (h : s.commandNext fn opc = true) :
    (s.mailbox fn).opc.toNat = opc := by
  simp only [State.commandNext, Bool.and_eq_true, beq_iff_eq] at h
  exact h.1.2

section
variable {s : State} {fn opc : Nat} {run : State → Answer}

theorem State.command_notAllowed (h : s.commandNext fn opc = true) (hfn : fn ≠ 0) (hvf : vfCommand opc = false) :
    s.command fn opc run = .next (s.complete fn 2 []) := by
  have refused : (s.mailbox fn).refusal fn = some 2 := by
    rw [Mailbox.refusal_eq, State.opc_of_commandNext h, if_pos ⟨hfn, hvf⟩]
  simp [State.command, h, refused]

theorem State.command_tooEarly (h : s.commandNext fn opc = true) (hrc : (s.mailbox fn).refusal fn = none)
    (hstage : s.boot.stage ≠ 6) (hopc : earlyCommand opc = false) :
    s.command fn opc run = .next (s.complete fn 4 []) := by
  simp [State.command, h, hrc, hstage, hopc]

/-- What a command comes to, completed. -/
def State.outcome (s : State) (fn : Nat) : Answer → State
  | .refused rc => s.complete fn rc []
  | .done t result => t.complete fn 0 result
  | .wait => s

theorem State.TakesCommand.command (h : s.TakesCommand fn opc) (hknown : knownCommand opc = true) :
    s.command fn opc run = .next (s.outcome fn (run s)) := by
  obtain ⟨hnext, hallowed, hfits, hstarted⟩ := h
  have none_ : (s.mailbox fn).refusal fn = none := by
    rw [Mailbox.refusal_eq, State.opc_of_commandNext hnext, if_neg, if_neg (by simp [hknown]), if_neg (Nat.not_lt.2 hfits)]
    rintro ⟨hfn, hvf⟩
    rcases hallowed with h | h
    · exact hfn h
    · exact absurd h (by simp [hvf])
  have mode : ¬ (!(s.boot.stage == 6 && !s.boot.stopped) && !earlyCommand opc) = true := by
    rcases hstarted with ⟨hst, hstop⟩ | ⟨hearly, -⟩
    · simp [hst, hstop]
    · simp [hearly]
  have begun : ¬ (s.boot.stage == 0 && !s.boot.stopped) = true := by
    rcases hstarted with ⟨hst, -⟩ | ⟨-, hst | hstop⟩
    · simp [hst]
    · simp [hst]
    · simp [hstop]
  simp only [State.command, hnext, none_, if_neg mode, if_neg begun]
  cases run s <;> rfl

theorem State.TakesCommand.done {i : Instr} {t : State} {bs : List Byte} (h : s.TakesCommand fn opc)
    (hknown : knownCommand opc = true) (hexec : exec i s = s.command fn opc run) (hrun : run s = .done t bs) :
    exec i s = .next (t.complete fn 0 bs) := by
  rw [hexec, h.command hknown, hrun]
  rfl

theorem State.TakesCommand.refused {i : Instr} {rc : Nat} (h : s.TakesCommand fn opc)
    (hknown : knownCommand opc = true) (hexec : exec i s = s.command fn opc run) (hrun : run s = .refused rc) :
    exec i s = .next (s.complete fn rc []) := by
  rw [hexec, h.command hknown, hrun]
  rfl

end

/-! ### The PF's and the guests' commands (R364, R384, R392, R399) -/

section
variable {s : State} {fn : Nat}

theorem registerWrite_rings {v : DWord} (hfn : s.functionOf (.mbctl fn) = true) (hdb : (s.mailbox fn).db = false)
    (hv : v.getLsbD 0 = true) : exec (.registerWrite (.mbctl fn) v) s =
      .next ((({ s with next := s.next + 1 } : State).modMailbox fn
        fun m => { m with db := true, arrival := s.next }).answered 65) := by
  have ring : ¬ (!bitOf v.toNat 0 || (s.mailbox fn).db) = true := by
    have bit : bitOf v.toNat 0 = true := hv
    simp [bit, hdb]
  show execRegisterWrite (.mbctl fn) v s = _
  simp only [execRegisterWrite, hfn, if_true, State.busWrite, if_neg ring]
  rfl

theorem restart_starts {arg : Nat} (h : s.TakesCommand fn 0x02) (harg : arg < 2) : ∃ u : State,
    exec (.restart fn arg) s = .next (u.complete fn 0 []) ∧ u.boot.stage = 0 ∧
    (arg = 1 → u.boot.minimal = true) ∧ (arg = 0 → u.boot.fails = 0) :=
  ⟨_, h.done rfl (execRestart.eq_def ..) (if_neg (Nat.not_le.2 harg)), rfl, by rintro rfl; exact Bool.or_true _,
    by rintro rfl; rfl⟩

theorem imgwrite_writes {off : Nat} {bs : List Byte} (h : s.TakesCommand fn 0x03) (hlen : bs.length ≤ 4096) :
    ∃ u : State, exec (.imgwrite fn off bs) s = .next (u.complete fn 0 []) ∧
    (if s.boot.slot = true then u.boot.imageA = some (putBytes (s.boot.imageA.getD []) off bs) ∧
        u.boot.imageB = s.boot.imageB
     else u.boot.imageB = some (putBytes (s.boot.imageB.getD []) off bs) ∧ u.boot.imageA = s.boot.imageA) := by
  refine ⟨_, h.done rfl (execImgwrite.eq_def ..) (if_neg (Nat.not_lt.2 hlen)), ?_⟩
  cases s.boot.slot
  · exact ⟨rfl, rfl⟩
  · exact ⟨rfl, rfl⟩

theorem partcreate_creates {pid vmid vf : Nat} {mask : BitVec 64} (h : s.TakesCommand fn 0x10) (hpid : pid < 64)
    (hfree : s.part? pid = none) (hmask : s.clustersOk pid mask = true) (hid : s.identityOk pid vmid vf = true) :
    ∃ u : State, exec (.partcreate fn pid mask vmid vf) s = .next (u.complete fn 0 []) ∧
      u.part? pid = some { Partition.reset with cmask := mask, vmid := vmid, spect := vf } ∧
      ∀ n, n ≠ pid → u.part? n = s.part? n :=
  ⟨_, h.done rfl (execPartcreate.eq_def ..) (if_neg (by simpa [hfree, hmask, hid] using hpid)),
    Table.get?_put_self .., fun _ hn => Table.get?_put_ne _ hn _⟩

theorem partdestroy_destroys {pid : Nat} {p : Partition} (h : s.TakesCommand fn 0x11) (hp : s.part? pid = some p)
    (hres : s.residentIn p = false) (hgrids : ∀ g ∈ s.grids, g.2.pid ≠ pid) : ∃ u : State,
    exec (.partdestroy fn pid) s = .next (u.complete fn 0 []) ∧ u.part? pid = none := by
  have idle : ¬ (s.residentIn p || s.grids.any fun g => g.2.pid == pid) = true := by
    simpa [hres] using fun a b hab => hgrids (a, b) hab
  refine ⟨_, h.done rfl (execPartdestroy.eq_def ..) (by simp only [hp, if_neg idle]; rfl), ?_⟩
  exact (Table.get?_del ..).trans (if_pos rfl)

theorem State.part?_of_partFor {named pid : Nat} {p : Partition} (h : s.partFor fn named = some (pid, p)) :
    s.part? pid = some p := by
  unfold State.partFor at h
  split at h
  · obtain ⟨q, hq, hqp⟩ := Option.map_eq_some_iff.1 h
    obtain ⟨rfl, rfl⟩ := Prod.mk.inj hqp
    exact hq
  · have found := List.find?_some h
    simp only [Bool.and_eq_true, beq_iff_eq] at found
    exact found.2

/-- Changes of clusters one after another that each close the gate leave those closed. -/
theorem State.gateClosed_foldl {f : Cluster → Cluster} (hf : ∀ k, (f k).vis.gateClosed = true) (l : List Nat) (s : State)
    (c : Nat) : ((l.foldl (fun s c => s.modCluster c f) s).cluster c).vis.gateClosed =
      ((s.cluster c).vis.gateClosed || decide (c ∈ l)) := by
  induction l generalizing s with
  | nil => simp
  | cons d l ih =>
    rw [List.foldl_cons, ih]
    by_cases hcd : c = d
    · subst hcd
      simp [hf]
    · have other : (s.modCluster d f).cluster c = s.cluster c := State.cluster_setCluster_ne _ hcd _
      simp [other, hcd]

theorem preempt_closes {named pid : Nat} {p : Partition} {mask : BitVec 64} (hp : s.partFor fn named = some (pid, p))
    (h : s.TakesCommand fn 0x13) (hmask : mask &&& ~~~p.cmask = 0) : ∃ u : State,
      exec (.preemptCmd fn named mask) s = .next (u.complete fn 0 []) ∧
      u.part? pid = some { p with preempting := p.preempting ||| mask } ∧
      ∀ c, (u.cluster c).vis.gateClosed = ((s.cluster c).vis.gateClosed || (decide (c < 64) && mask.getLsbD c)) := by
  have inside : ¬ (mask &&& ~~~p.cmask != 0) = true := by simp [hmask]
  refine ⟨_, h.done rfl (execPreemptCmd.eq_def ..) (by simp only [hp, if_neg inside]; rfl), ?_, fun c => ?_⟩
  · have parts := foldl_keeps (fun u : State => u.part? pid)
      (fun (u : State) c => u.modCluster c fun k => { k with vis := { k.vis with gateClosed := true } }) (fun _ _ => rfl)
    refine (parts _ _).trans ?_
    rw [State.part?_modPart_self, State.part?_of_partFor hp]
    rfl
  · refine (State.gateClosed_foldl (fun _ => rfl) _ _ c).trans ?_
    simp only [List.mem_filter, List.mem_range, Bool.decide_and, Bool.decide_eq_true]
    rfl

theorem queueset_guestSys {named pid queue : Nat} {p : Partition} {d : BitVec 128}
    (hp : s.partFor fn named = some (pid, p)) (h : s.TakesCommand fn 0x20)
    (hsys : fn ≠ 0 ∧ d.getLsbD 36 = true ∧ d.getLsbD 35 = true) :
    exec (.queueset fn named queue d) s = .next (s.complete fn 2 []) := by
  obtain ⟨hfn, h36, h35⟩ := hsys
  exact h.refused rfl (execQueueset.eq_def ..) (by simp [hp, hfn, h36, h35])

theorem queueset_sets {named pid queue : Nat} {p : Partition} {d : BitVec 128}
    (hp : s.partFor fn named = some (pid, p)) (h : s.TakesCommand fn 0x20)
    (hsys : ¬ (fn ≠ 0 ∧ d.getLsbD 36 = true ∧ d.getLsbD 35 = true)) (hqueue : queue < 16)
    (hres : s.residentIn p = false) (hdesc : queueDescOk d = true) :
    exec (.queueset fn named queue d) s = .next ((s.setQueue pid queue d).complete fn 0 []) := by
  have may : ¬ (fn != 0 && d.getLsbD 36 && d.getLsbD 35) = true := by
    simpa only [Bool.and_eq_true, bne_iff_ne, and_assoc] using hsys
  have fits : ¬ (decide (16 ≤ queue) || s.residentIn p || !queueDescOk d) = true := by
    simpa [hres, hdesc] using hqueue
  exact h.done rfl (execQueueset.eq_def ..) (by simp only [hp, if_neg may, if_neg fits]; rfl)

end

/-! ### Pools, frames and registers (R236, R237, R336, R340, R401) -/

theorem State.heapWrite_pools (s : State) (va : Nat) (bs : List Byte) :
    (s.heapWrite va bs).pond.pools = s.pond.pools := by
  have guard : ∀ (t : State) (line pline : Nat), (t.recordGuard line pline).pond.pools = t.pond.pools := by
    intro t line pline
    unfold State.recordGuard
    split <;> rfl
  unfold State.heapWrite
  split
  case h_1 => rfl
  case h_2 l _ =>
    have home := congrArg Pond.pools (LinesMoved.writeAtHome s l [(va % 128, bs)]).pond
    dsimp only
    split
    · exact (guard ..).trans home
    · exact home

section
variable {s : State} {fn : Nat}

theorem poolon_enables {pool : Nat} (hpool : pool < 256) (h : s.TakesCommand fn 0x30) {bs : List Byte} {q : Pool}
    (hbs : bs = Memory.readN s.mem.hbm (s.pkg.poolTable.toNat + 64 * pool) 64)
    (hq : q = poolOf (Table.get? s.pond.pools pool) bs) (hok : s.poolOk pool bs q = true)
    (hmay : ∀ d, d < 4 → s.heapMay d q.qbase = true) : ∃ u : State,
      exec (.poolon fn pool) s = .next (u.complete fn 0 []) ∧ Table.get? u.pond.pools pool = some q := by
  have fits : ¬ (decide (256 ≤ pool) || !s.poolOk pool bs q) = true := by simpa [hok] using hpool
  have free : ¬ (!(List.range 4).all fun d => s.heapMay d q.qbase) = true := by
    simpa using fun d hd => hmay d hd
  subst hq hbs
  refine ⟨_, h.done rfl (execPoolon.eq_def ..) (by rw [if_neg fits, if_neg free]; rfl), ?_⟩
  rw [State.heapWrite_pools, State.heapWrite_pools]
  exact Table.get?_put_self ..

theorem viewset_sets {vmid pid : Nat} {p : Partition} {view : DWord} (hp : s.partOfVm vmid = some (pid, p))
    (h : s.TakesCommand fn 0x32) : exec (.viewset fn vmid view) s =
      .next (if s.residentIn p = true then s.complete fn 3 []
        else (s.modPart pid fun p => { p with pondview := view &&& viewMask }).complete fn 0 []) := by
  by_cases hres : s.residentIn p = true
  · rw [if_pos hres]
    exact h.refused rfl (execViewset.eq_def ..) (by simp only [hp, if_pos hres])
  · rw [if_neg hres]
    exact h.done rfl (execViewset.eq_def ..) (by simp only [hp, if_neg hres]; rfl)

theorem drresume_resumes {vmid pid : Nat} {p : Partition} (hp : s.partOfVm vmid = some (pid, p))
    (h : s.TakesCommand fn 0x42)
    (hroom : (s.physNat p.drbase 8 + 2 ^ 64 - s.physNat (p.drbase + 8) 8) % 2 ^ 64 ≠ 2 ^ p.drlog) :
    exec (.drresume fn vmid) s = .next ((s.modPart pid fun p => { p with paused := false }).complete fn 0 []) := by
  have room : ¬ ((s.physNat p.drbase 8 + 2 ^ 64 - s.physNat (p.drbase + 8) 8) % 2 ^ 64 == 2 ^ p.drlog) = true := by
    simpa only [beq_iff_eq] using hroom
  exact h.done rfl (execDrresume.eq_def ..) (by simp only [hp, if_neg room]; rfl)

theorem pagetake_takes {frames : List Nat} (h : s.TakesCommand fn 0x41) (hok : s.framesOk frames false = true)
    (hidle : ∀ f ∈ frames, s.frameBusy f = false) : exec (.pagetake fn frames) s =
      .next ((frames.foldl (fun (u : State) f => (u.recallFrame f).setHost f true) s).complete fn 0 []) := by
  have idle : ¬ (frames.any s.frameBusy) = true := by simpa using hidle
  exact h.done rfl (execPagetake.eq_def ..) (by simp only [hok, if_neg idle]; rfl)

theorem regread_reads {addr : DWord} {v : Nat} (hmin : s.boot.minimal = false) (hreg : s.register (regAddr addr) = some v)
    (h : s.TakesCommand 0 0x8000) : exec (.regread 0 addr) s = .next (s.complete 0 0 (leBytes 8 v)) :=
  h.done rfl (execRegread.eq_def ..) (by simp [hreg, hmin])

theorem regwrite_writes {addr value : DWord} {v : Nat} {u : State} (hmin : s.boot.minimal = false)
    (hreg : s.register (regAddr addr) = some v) (h : s.TakesCommand 0 0x8001)
    (hw : s.writeRegister (regAddr addr) value.toNat = .done u) :
    exec (.regwrite 0 addr value) s = .next (u.complete 0 0 []) :=
  h.done rfl (execRegwrite.eq_def ..) (by simp [hreg, hmin, hw, Answer.ok])

theorem regwrite_refused {addr value : DWord} (h : s.TakesCommand 0 0x8001) (hmin : s.boot.minimal = false)
    (hno : s.register (regAddr addr) = none ∨ s.writeRegister (regAddr addr) value.toNat = .refused) :
    exec (.regwrite 0 addr value) s = .next (s.complete 0 3 []) := by
  refine h.refused rfl (execRegwrite.eq_def ..) ?_
  cases hreg : s.register (regAddr addr) with
  | none => simp [hreg, hmin]
  | some v => simp [hreg, hmin, hno.resolve_left (by simp [hreg])]

theorem State.writePart_resident {pid off v : Nat} {p : Partition} (hres : s.residentIn p = true)
    (hfdisp : ¬ (0x010 ≤ off ∧ off < 0x030)) (hwd : off ≠ 0x040) (hag : off ≠ 0x048) :
    s.writePart pid p off v = .refused := by
  refine if_pos ?_
  simp only [hres, Bool.true_and, Bool.not_eq_true', Bool.or_eq_false_iff, Bool.and_eq_false_iff, decide_eq_false_iff_not,
    beq_eq_false_iff_ne]
  exact ⟨⟨not_and_or.1 hfdisp, hwd⟩, hag⟩

end

/-! ### The debugger (R37, R400) -/

theorem State.debugPart_eq_some {s : State} {fn pid : Nat} {p : Partition} (h : s.debugPart fn pid = some p) :
    p.fn = fn ∧ s.part? pid = some p := by
  unfold State.debugPart at h
  split at h
  case h_1 q hq =>
    obtain ⟨hfn, hqp⟩ := Option.ite_none_right_eq_some.1 h
    obtain rfl := Option.some.inj hqp
    exact ⟨beq_iff_eq.1 hfn, hq⟩
  case h_2 => exact absurd h (by simp)

/-- One change made on each of several cores. -/
theorem State.core_foldl_modCore (f : Core → Core) {l : List Nat} (hl : l.Nodup) (s : State) (c : Nat) :
    (l.foldl (fun s c => s.modCore c f) s).core c = if c ∈ l then f (s.core c) else s.core c := by
  induction l generalizing s with
  | nil => simp
  | cons d l ih =>
    obtain ⟨hd, hl⟩ := List.nodup_cons.1 hl
    rw [List.foldl_cons, ih hl]
    by_cases hcd : c = d
    · subst hcd
      simp [hd]
    · simp [State.core_modCore_ne _ hcd, hcd]

section
variable {s : State} {fn pid : Nat} {p : Partition} (hp : s.debugPart fn pid = some p)
include hp

theorem dbgattach_attaches {arg : Nat} (h : s.TakesCommand fn 0x70) (harg : arg < 2) :
    exec (.dbgattach fn pid arg) s = .next ((if arg = 1 then s.modPart pid fun p => { p with debugger := true }
      else (s.modPart pid fun p => { p with debugger := false }).resumeAll p).complete fn 0 []) := by
  refine h.done rfl (execDbgattach.eq_def ..) ?_
  simp only [hp, if_neg (Nat.not_le.2 harg)]
  obtain rfl | rfl : arg = 0 ∨ arg = 1 := by omega
  · rfl
  · rfl

theorem dbglist_lists (h : s.TakesCommand fn 0x71) : ∃ bs : List Byte,
    exec (.dbglist fn pid) s = .next (s.complete fn 0 bs) ∧ bs.length ≤ 4096 :=
  ⟨_, h.done rfl (execDbglist.eq_def ..) (by simp only [hp]; rfl), List.length_take_le ..⟩

theorem dbgresume_all {core slot : Nat} (h : s.TakesCommand fn 0x75) :
    exec (.dbgresume fn pid true core slot) s = .next ((s.resumeAll p).complete fn 0 []) :=
  h.done rfl (execDbgresume.eq_def ..) (by simp only [hp, if_true]; rfl)

theorem dbghalt_sets {core : Nat} {on : Bool} (h : s.TakesCommand fn 0x76) (hcore : p.holdsCore core = true) :
    exec (.dbghalt fn pid core on) s = .next ((s.modCore core fun k => k.setHalt on).complete fn 0 []) :=
  h.done rfl (execDbghalt.eq_def ..) (by simp only [hp, if_pos hcore]; rfl)

theorem dbgbkpt_sets {n : Nat} {lo hi : Word} (h : s.TakesCommand fn 0x77) (hn : n < 4) : ∃ u : State,
    exec (.dbgbkpt fn pid n lo hi) s = .next (u.complete fn 0 []) ∧
    ∀ core, core < 1024 → u.core core = if p.holdsCore core
      then ((s.core core).setSpecial (0x410 + 2 * n) lo).setSpecial (0x411 + 2 * n) hi else s.core core := by
  refine ⟨_, h.done rfl (execDbgbkpt.eq_def ..) (by simp only [hp, if_neg (Nat.not_le.2 hn)]; rfl), fun core hcore => ?_⟩
  refine (State.core_foldl_modCore _ (List.nodup_range.filter _) s core).trans ?_
  simp only [List.mem_filter, List.mem_range, hcore, true_and]

end

section
variable {s : State} {fn pid core slot : Nat} {r : Runner} (hr : s.heldGang fn pid core slot = some r)
include hr

theorem dbgread_reads (h : s.TakesCommand fn 0x72) : exec (.dbgread fn pid core slot) s =
    .next (s.complete fn 0 ((gangBlock (s.core core) r.gang r.team r.grid).take 4096)) :=
  h.done rfl (execDbgread.eq_def ..) (by simp only [hr])

theorem dbgwrite_writes {fields : List DebugField} (h : s.TakesCommand fn 0x73)
    (hmay : ∀ x ∈ fields, r.gang.mayWrite x = true)
    (hneed : r.gang.slotsNeed (fields.flatMap DebugField.slot) ≤ (s.core core).regFree) :
    exec (.dbgwrite fn pid core slot fields) s =
      .next ((s.modGang core slot fun g => fields.foldl Gang.writeField g).complete fn 0 []) := by
  have ok : (fields.all r.gang.mayWrite &&
      decide (r.gang.slotsNeed (fields.flatMap DebugField.slot) ≤ (s.core core).regFree)) = true := by
    simpa using ⟨hmay, hneed⟩
  exact h.done rfl (execDbgwrite.eq_def ..) (by simp only [hr, if_pos ok]; rfl)

theorem dbgstep_steps {fibre : Nat} {b : SubGang} (h : s.TakesCommand fn 0x74)
    (hb : r.gang.subs.find? (fun x => x.fibres.getLsbD fibre) = some b) :
    exec (.dbgstep fn pid core slot fibre) s = .next ((s.modGang core slot fun g =>
      { g with dbg := { g.dbg with
          request := none, halted := false, stepping := some b.id, waitingReconverge := false } }).complete fn 0 []) :=
  h.done rfl (execDbgstep.eq_def ..) (by simp only [hr, hb]; rfl)

theorem dbgresume_one (h : s.TakesCommand fn 0x75) : exec (.dbgresume fn pid false core slot) s =
    .next ((s.modGang core slot Gang.resumed).complete fn 0 []) := by
  cases hp : s.debugPart fn pid with
  | none => simp [State.heldGang, hp] at hr
  | some p => exact h.done rfl (execDbgresume.eq_def ..) (by simp only [hp, hr]; rfl)

end

/-- Settles O59: a command that a function may issue, in a mode that takes it, acts as its operands say and completes; the
others are answered with their codes. -/
theorem mailboxCommands : Obligations.MailboxCommands := by
  refine ⟨fun s fn v => registerWrite_rings, fun s n h => State.answered_waits h n,
    fun s n fn rc hfirst hrc => State.answered_next hfirst hrc n, fun s => ?first, Mailbox.refusal_eq,
    fun s fn rc bs _ => ⟨State.mailbox_complete_self fn rc bs, fun n hn h => State.mailbox_complete_ne hn h rc bs⟩,
    fun s fn opc run hnext => ⟨State.command_notAllowed hnext, State.command_tooEarly hnext⟩, fun fn _ => ?cap,
    fun s fn hfn => ?capValue, fun s fn h => h.done rfl (execGetstatus.eq_def ..) rfl, fun s fn arg => restart_starts,
    fun s fn off bs => imgwrite_writes, fun s fn arg h => h.done rfl (execImgselect.eq_def ..) rfl,
    fun s fn pid vmid vf mask => partcreate_creates,
    fun s fn pid p => partdestroy_destroys,
    fun s fn named pid p hp => ⟨fun h => h.done rfl (execPartreset.eq_def ..) (by simp only [hp]; rfl),
      fun mask => preempt_closes hp,
      fun queue d h => ⟨queueset_guestSys hp h, queueset_sets hp h⟩⟩,
    fun s fn pool hpool => ⟨fun h => poolon_enables hpool h rfl rfl,
      fun h => h.done rfl (execPooloff.eq_def ..) (if_neg (Nat.not_le.2 hpool))⟩,
    fun s fn vmid pid p hp => ⟨fun view => viewset_sets hp, drresume_resumes hp⟩,
    fun s fn frames => ⟨fun h hok => h.done rfl (execPagegive.eq_def ..) (if_pos hok), pagetake_takes⟩,
    fun s fn base entries h => h.done rfl (execEvring.eq_def ..) rfl,
    fun s fn h => h.done rfl (execSvnraise.eq_def ..) rfl,
    fun s addr v hmin hreg => ⟨regread_reads hmin hreg, fun value u => regwrite_writes hmin hreg⟩,
    fun s addr value => regwrite_refused, fun s pid off v p _ => State.writePart_resident,
    fun s fn pid p => State.debugPart_eq_some,
    fun s fn pid p hp => ⟨fun arg => dbgattach_attaches hp, dbglist_lists hp, fun core slot => dbgresume_all hp,
      fun core on => dbghalt_sets hp, fun n lo hi => dbgbkpt_sets hp⟩,
    fun s fn pid core slot r hr => ⟨dbgread_reads hr, fun fields => dbgwrite_writes hr, fun fibre b => dbgstep_steps hr,
      dbgresume_one hr⟩⟩
  case first =>
    split
    case h_1 fn h => exact State.of_firstCommand h
    case h_2 h => exact fun n hn => State.of_firstCommand_none h hn
  case cap =>
    unfold mbcap
    by_cases h : fn = 0
    · simp [h]
    · simp [h]
  case capValue =>
    have exists_ : s.functionOf (.mbcap fn) = true := by
      simpa [State.functionOf, and_comm] using hfn
    simp [State.busValue, exists_]

end Sys2Proof.Machine

/-! PROOFS. What the scheduler's writes and the retirement of grids leave of a partition (R371, R392, R393, R429). -/

namespace Sys2Proof.Machine

/-! ### What an access of the scheduler leaves as it is -/

namespace SameTeams

/-- Cores, grids and partitions are the same. -/
theorem of_eq {s t : State} (hc : t.cores = s.cores) (hg : t.grids = s.grids) (hp : t.parts = s.parts) : SameTeams s t :=
  have core : ∀ c, t.core c = s.core c := fun c => by rw [State.core, hc, State.core]
  ⟨fun c => by rw [core], fun c => by rw [core], hg, hp⟩

theorem setMem (s : State) (m : MemSide) : SameTeams s (s.setMem m) := of_eq rfl rfl rfl

theorem physWrite (s : State) (pa : Nat) (bs : List Byte) : SameTeams s (s.physWrite pa bs) := of_eq rfl rfl rfl

theorem post (s : State) (fn : Nat) (e : Event) : SameTeams s (s.post fn e) := of_eq rfl rfl rfl

theorem raiseIrq (s : State) (fn vec : Nat) : SameTeams s (s.raiseIrq fn vec) := of_eq rfl rfl rfl

theorem noteWalk (s : State) (vmid asid va : Nat) : SameTeams s (s.noteWalk vmid asid va) := by
  obtain ⟨e, h⟩ := s.noteWalk_changes vmid asid va
  rw [h]
  exact of_eq rfl rfl rfl

theorem addTlb (s : State) (e : TlbEntry) : SameTeams s (s.addTlb e) := by
  unfold State.addTlb
  dsimp only
  split <;> exact of_eq rfl rfl rfl

theorem keepTlb (s : State) (vmid asid va : Nat) : SameTeams s (s.keepTlb vmid asid va) := by
  unfold State.keepTlb
  dsimp only
  split
  · exact of_eq rfl rfl rfl
  · split
    · exact addTlb s _
    · exact refl s

theorem setLineMeta (s : State) (pline : Nat) (m : LineMeta) : SameTeams s (s.setLineMeta pline m) := of_eq rfl rfl rfl

theorem unwatch (s : State) (pline : Option Nat) : SameTeams s (s.unwatch pline) := by
  unfold State.unwatch
  split
  · exact refl s
  · exact either (refl s) (setLineMeta s _ _)

theorem woWrite_home (s : State) (l : Ln) (ws : List (Nat × Nat × List Byte)) : SameTeams s (s.woWrite none l ws) :=
  (((LinesMoved.staleCode s l).trans (LinesMoved.touchL2 ..)).trans
    (LinesMoved.foldl (fun s _ => LinesMoved.writeHome s ..) ws _)).toSameTeams.trans (setLineMeta ..)

theorem announce (s : State) (g : Grid) : SameTeams s (s.announce g) := by
  unfold State.announce
  split
  · exact refl s
  · refine either (refl s) ?_
    split
    · exact either ((post ..).trans (raiseIrq ..)) (post ..)
    · exact post ..

end SameTeams

/-! ### The writes of a grid that retires (R371) -/

/-- The record of a grid that retires has ended, unless a reset has cut it (R371, R392). -/
def Grid.queueEnded (g : Grid) (t : State) : Except Stall State :=
  match g.queue with
  | some (q, n) => if g.status == 4 then .ok t else t.recordEnded g.pid q n
  | none => .ok t

/-- The take of a Wallower grid that retires has ended (R376). -/
def Grid.nodeEnded (g : Grid) (grid : Nat) (t : State) : Except Stall State :=
  match g.node with
  | some (n, _) => t.takeEnded g.pid n grid
  | none => .ok t

/-- The writes of a grid that retires, in their order (R371). -/
def State.retireWrites (s : State) (grid : Nat) (g : Grid) : Except Stall State :=
  s.completion g >>= fun t => g.queueEnded t >>= g.nodeEnded grid

/-- A grid that has made its writes is gone (R371). -/
def State.gridGone (s : State) (grid : Nat) (g : Grid) : State :=
  (({ s with grids := Table.del s.grids grid } : State).unwatch g.watched).announce g

/-! ### What a reset has left of a partition -/

/-- A queue apart from whether its `QHEAD` is still to be written after a reset. -/
def Queue.settled (q : Queue) : Queue := { q with rewind := false }

/-- Two states of a partition have the same saved teams and queues. -/
structure SameWork (p q : Partition) : Prop where
  frames : q.frames = p.frames
  preempting : q.preempting = p.preempting
  queues : ∀ n, (q.queue n).settled = (p.queue n).settled

theorem SameWork.refl (p : Partition) : SameWork p p := ⟨rfl, rfl, fun _ => rfl⟩

theorem SameWork.trans {p q r : Partition} (h : SameWork p q) (k : SameWork q r) : SameWork p r :=
  ⟨k.frames.trans h.frames, k.preempting.trans h.preempting, fun n => (k.queues n).trans (h.queues n)⟩

/-- Between two states nothing comes that a reset of a partition has ended: the gangs and teams on the cores stand, no grid
comes or changes, and the partition has the same saved teams and queues. -/
structure ResetStays (pid : Nat) (s t : State) : Prop where
  gangs : ∀ c, (t.core c).gangs = (s.core c).gangs
  teams : ∀ c, (t.core c).teams = (s.core c).teams
  grids : ∀ n g, t.grid? n = some g → s.grid? n = some g
  part : ∀ p, s.part? pid = some p → ∃ q, t.part? pid = some q ∧ SameWork p q

namespace ResetStays

variable {pid : Nat}

theorem of_sameTeams {s t : State} (h : SameTeams s t) : ResetStays pid s t :=
  ⟨h.gangs, h.teams, fun n g hg => by rwa [State.grid?, h.grids] at hg,
    fun p hp => ⟨p, by rwa [State.part?, h.parts], .refl p⟩⟩

theorem refl (s : State) : ResetStays pid s s := of_sameTeams (.refl s)

theorem trans {s t u : State} (h : ResetStays pid s t) (k : ResetStays pid t u) : ResetStays pid s u := by
  refine ⟨fun c => (k.gangs c).trans (h.gangs c), fun c => (k.teams c).trans (h.teams c),
    fun n g hg => h.grids n g (k.grids n g hg), fun p hp => ?_⟩
  obtain ⟨q, hq, hpq⟩ := h.part p hp
  obtain ⟨r, hr, hqr⟩ := k.part q hq
  exact ⟨r, hr, hpq.trans hqr⟩

theorem modPart (s : State) {n : Nat} {f : Partition → Partition} (hf : n = pid → ∀ p, SameWork p (f p)) :
    ResetStays pid s (s.modPart n f) := by
  refine ⟨fun _ => rfl, fun _ => rfl, fun _ _ hg => hg, fun p hp => ?_⟩
  by_cases h : pid = n
  · subst h
    exact ⟨f p, by rw [State.part?_modPart_self, hp]; rfl, hf rfl p⟩
  · exact ⟨p, by rwa [State.part?_modPart_ne s h], .refl p⟩

/-! #### The scheduler's writes (R366, R371, R393, R429) -/

/-- Of two ways that each keep what a reset has left, either may be taken. -/
theorem either {s : State} {b : Prop} [Decidable b] {x y : Bool × State} (hx : ResetStays pid s x.2)
    (hy : ResetStays pid s y.2) : ResetStays pid s (if b then x else y).2 := by
  split
  · exact hx
  · exact hy

theorem logWrite (s : State) (vmid asid va : Nat) : ResetStays pid s (s.logWrite vmid asid va).2 := by
  have paused : ∀ n f e v, ResetStays pid s (((s.modPart n fun p => { p with paused := true }).post f e).raiseIrq 0 v) :=
    fun n f e v => (modPart s (f := fun p => { p with paused := true }) fun _ p => ⟨rfl, rfl, fun _ => rfl⟩).trans
      (of_sameTeams ((SameTeams.post ..).trans (SameTeams.raiseIrq ..)))
  unfold State.logWrite
  refine either (refl s) ?_
  split
  · refine either (refl s) (either (either (refl s) (paused ..)) (of_sameTeams ?_))
    refine SameTeams.trans ?_ (SameTeams.setMem _ _)
    refine SameTeams.trans ?_ (SameTeams.keepTlb ..)
    exact (SameTeams.physWrite ..).trans (SameTeams.physWrite ..)
  · exact refl s

theorem stalled (s : State) (w : Stall) : ResetStays pid s (s.stalled w) := by
  unfold State.stalled
  split
  · exact refl s
  · exact logWrite s _ _ _

theorem schedWriteLine {s t : State} {vmid asid va : Nat} {bs : List Byte} {drain : Bool}
    (h : s.schedWriteLine vmid asid va bs drain = .done t) : ResetStays pid s t := by
  unfold State.schedWriteLine at h
  split at h
  · cases h
  · dsimp only at h
    generalize (if (drain && s.inHeap va && s.heapWriteOk vmid va bs.length) = true then _ else _) = found at h
    cases found with
    | error c => cases h
    | ok l =>
      dsimp only at h
      split at h
      · cases h
      · split at h
        · cases h
        · split at h
          · split at h
            · cases h
            · obtain rfl := EngineWrite.done.inj h
              exact (logWrite s _ _ _).trans (of_sameTeams (.woWrite_home ..))
          · obtain rfl := EngineWrite.done.inj h
            exact (logWrite s _ _ _).trans (of_sameTeams (LinesMoved.writeAtHome ..).toSameTeams)

theorem schedWrite {s t : State} {vmid asid va : Nat} {bs : List Byte} {drain : Bool}
    (h : s.schedWrite vmid asid va bs drain = .done t) : ResetStays pid s t := by
  refine List.foldlRecOn (motive := fun acc => ∀ u, acc = EngineWrite.done u → ResetStays pid s u) _ _
    (fun u hu => EngineWrite.done.inj hu ▸ refl s) (fun acc ih x _ u hu => ?_) t h
  split at hu
  · exact (ih _ rfl).trans (schedWriteLine hu)
  · exact ih u hu

theorem schedFault (s : State) (n : Nat) (kind : EventKind) (asid va : Nat) :
    ResetStays pid s (s.schedFault n kind asid va) := by
  unfold State.schedFault
  split
  · exact of_sameTeams ((SameTeams.noteWalk ..).trans (SameTeams.post ..))
  · exact refl s

theorem schedPut {s t : State} {n vmid asid va : Nat} {kind : EventKind} {bs : List Byte} {drain : Bool}
    (h : s.schedPut n kind vmid asid va bs drain = .ok t) : ResetStays pid s t := by
  unfold State.schedPut at h
  split at h
  case h_1 u hu => exact Except.ok.inj h ▸ schedWrite hu
  case h_2 => exact Except.ok.inj h ▸ schedFault ..
  case h_3 => cases h

/-! #### Retirement (R371, R376) -/

theorem bind {s t : State} {x : Except Stall State} {k : State → Except Stall State} (h : (x >>= k) = .ok t)
    (hx : ∀ u, x = .ok u → ResetStays pid s u) (hk : ∀ u, k u = .ok t → ResetStays pid u t) : ResetStays pid s t := by
  cases x with
  | error w => cases h
  | ok u => exact (hx u rfl).trans (hk u h)

theorem putUnless {b : Prop} [Decidable b] {s t : State} {x : Except Stall State} (h : (if b then .ok s else x) = .ok t)
    (hx : x = .ok t → ResetStays pid s t) : ResetStays pid s t := by
  split at h
  · exact Except.ok.inj h ▸ refl s
  · exact hx h

theorem completion {s t : State} {g : Grid} (h : s.completion g = .ok t) : ResetStays pid s t := by
  unfold State.completion at h
  dsimp only at h
  split at h
  · exact bind h (fun _ hu => Except.ok.inj hu ▸ refl s) fun _ ht => putUnless ht schedPut
  · exact bind h (fun _ hu => schedPut hu) fun _ ht => putUnless ht schedPut

theorem recordEnded {s t : State} {n queue k : Nat} (hn : n ≠ pid) (h : s.recordEnded n queue k = .ok t) :
    ResetStays pid s t := by
  unfold State.recordEnded at h
  split at h
  · exact Except.ok.inj h ▸ refl s
  · refine trans ?_ (putUnless h schedPut)
    exact modPart s fun h => absurd h hn

theorem takeEnded {s t : State} {n node grid : Nat} (h : s.takeEnded n node grid = .ok t) : ResetStays pid s t := by
  unfold State.takeEnded at h
  split at h
  · exact Except.ok.inj h ▸ refl s
  · split at h
    · exact Except.ok.inj h ▸ refl s
    · refine trans ?_ (putUnless h schedPut)
      exact modPart s fun _ p => ⟨rfl, rfl, fun _ => rfl⟩

theorem queueEnded {s t : State} {g : Grid} (hcut : g.pid = pid → g.status = 4) (h : g.queueEnded s = .ok t) :
    ResetStays pid s t := by
  unfold Grid.queueEnded at h
  split at h
  · split at h
    · exact Except.ok.inj h ▸ refl s
    · next hst => exact recordEnded (fun hpid => hst (beq_iff_eq.2 (hcut hpid))) h
  · exact Except.ok.inj h ▸ refl s

theorem nodeEnded {s t : State} {g : Grid} {grid : Nat} (h : g.nodeEnded grid s = .ok t) : ResetStays pid s t := by
  unfold Grid.nodeEnded at h
  split at h
  · exact takeEnded h
  · exact Except.ok.inj h ▸ refl s

theorem gridGone (s : State) (grid : Nat) (g : Grid) : ResetStays pid s (s.gridGone grid g) := by
  have gone : ResetStays pid s { s with grids := Table.del s.grids grid } := by
    refine ⟨fun _ => rfl, fun _ => rfl, fun n x hx => ?_, fun p hp => ⟨p, hp, .refl p⟩⟩
    have del := Table.get?_del s.grids grid n
    rw [State.grid?, del] at hx
    split at hx
    · cases hx
    · exact hx
  exact gone.trans (of_sameTeams ((SameTeams.unwatch ..).trans (SameTeams.announce ..)))

end ResetStays

section
variable {s : State} {grid : Nat} {g : Grid} (hg : s.grid? grid = some g)
include hg

theorem State.retireGrid_stays (hover : s.gridOver grid g = false) : s.retireGrid grid = s := by
  simp [State.retireGrid, hg, hover]

theorem State.retireGrid_eq (hover : s.gridOver grid g = true) : s.retireGrid grid = match s.retireWrites grid g with
    | .error w => s.stalled w
    | .ok t => t.gridGone grid g := by
  simp only [State.retireGrid, hg, hover, Bool.not_true, Bool.false_eq_true, if_false, State.retireWrites]
  cases s.completion g with
  | error w => rfl
  | ok t =>
    have writes : (Except.ok t >>= fun t => g.queueEnded t >>= g.nodeEnded grid : Except Stall State) =
      g.queueEnded t >>= g.nodeEnded grid := rfl
    rw [writes, Grid.queueEnded]
    cases g.queue with
    | none => rfl
    | some x => cases g.status == 4 <;> rfl

end

/-- A retirement undoes nothing that a reset of a partition has left, where the reset has cut the grid. -/
theorem ResetStays.retireGrid {pid : Nat} {s : State} {grid : Nat}
    (hcut : ∀ g, s.grid? grid = some g → g.pid = pid → g.status = 4) : ResetStays pid s (s.retireGrid grid) := by
  cases hg : s.grid? grid with
  | none => simp only [State.retireGrid, hg]; exact refl s
  | some g =>
    cases hover : s.gridOver grid g with
    | false => rw [State.retireGrid_stays hg hover]; exact refl s
    | true =>
      rw [State.retireGrid_eq hg hover]
      cases hrun : s.retireWrites grid g with
      | error w => exact stalled s w
      | ok t =>
        have wrote : ResetStays pid s t := bind hrun (fun _ => completion) fun u hu =>
          bind hu (fun _ => queueEnded (hcut g hg)) fun _ => nodeEnded
        exact wrote.trans (gridGone t grid g)

end Sys2Proof.Machine

/-! PROOFS. Grids accepted, eligible, ended and reset (R366, R370, R371, R392). -/

namespace Sys2Proof

theorem Table.mem_of_get? {α : Type} {t : Table α} {k : Nat} {v : α} (h : Table.get? t k = some v) : (k, v) ∈ t := by
  induction t with
  | nil => cases h
  | cons x t ih =>
    rw [Table.get?] at h
    split at h
    case isTrue hx =>
      obtain rfl := Option.some.inj h
      obtain rfl := beq_iff_eq.1 hx
      exact List.mem_cons_self
    case isFalse => exact List.mem_cons_of_mem _ (ih h)

end Sys2Proof

namespace Sys2Proof.Machine

/-! ### A partition reset (R392) -/

namespace ResetStays

variable {pid : Nat}

theorem foldl {α : Type} {f : State → α → State} (h : ∀ s x, ResetStays pid s (f s x)) (l : List α) (s : State) :
    ResetStays pid s (l.foldl f s) := by
  induction l generalizing s with
  | nil => exact refl s
  | cons x l ih => exact (h s x).trans (ih _)

theorem foldl_retireGrid (l : List Nat) {s : State} (hcut : ∀ n g, s.grid? n = some g → g.pid = pid → g.status = 4) :
    ResetStays pid s (l.foldl State.retireGrid s) := by
  induction l generalizing s with
  | nil => exact refl s
  | cons n l ih =>
    have first := retireGrid (hcut n)
    exact first.trans (ih fun m g hg => hcut m g (first.grids m g hg))

theorem writeHead (s : State) (n queue : Nat) (p : Partition) (q : Queue) :
    ResetStays pid s (s.writeHead n queue p q) := by
  have clear : ∀ u : State, ResetStays pid u (u.modQueue n queue fun q => { q with rewind := false }) := fun u => by
    refine modPart u fun _ p => ⟨rfl, rfl, fun m => ?_⟩
    simp only [Partition.queue, Table.getD, Table.get?_put]
    split
    case isTrue h => subst h; rfl
    case isFalse => rfl
  unfold State.writeHead
  dsimp only
  split
  · exact refl s
  · split
    · exact clear s
    · split
      case h_1 hput => exact (schedPut hput).trans (clear _)
      case h_2 => exact stalled s _

end ResetStays

/-- The queues of a partition that is reset, each back at its first record that has not ended. -/
def State.rewoundQueues (s : State) (p : Partition) : Table Queue :=
  p.queues.map fun q => (q.1, q.2.rewound fun g => (s.grid? g).isSome)

/-- The state once a reset has stopped a partition's units and cut its grids, before it makes the writes of R371. -/
def State.cutDown (s : State) (pid : Nat) (p : Partition) (code : Option Code) : State :=
  let u := (s.stopUnits p).modPart pid fun x => { x with frames := [], preempting := 0, queues := s.rewoundQueues p }
  { u with grids := u.grids.map fun g => (g.1, if g.2.pid == pid then g.2.cut code else g.2) }

section
variable {s : State} {pid : Nat} {p : Partition} {code : Option Code}

theorem State.grid?_cutDown (n : Nat) : (s.cutDown pid p code).grid? n =
    (s.grid? n).map fun g => if g.pid == pid then g.cut code else g :=
  Table.get?_map_entry s.grids (fun _ g => if g.pid == pid then g.cut code else g) n

/-- What stands in the table of grids after the cut was cut, where it is a grid of the partition. -/
theorem State.of_grid?_cutDown {n : Nat} {g : Grid} (hg : (s.cutDown pid p code).grid? n = some g) (hpid : g.pid = pid) :
    g.status = 4 ∧ g.frec.code = code ∧ ∀ u ∈ g.unretired, u.2 = true := by
  rw [State.grid?_cutDown] at hg
  obtain ⟨x, -, rfl⟩ := Option.map_eq_some_iff.1 hg
  have mine : (x.pid == pid) = true := by
    by_contra h
    rw [if_neg h] at hpid
    exact h (beq_iff_eq.2 hpid)
  rw [if_pos mine]
  refine ⟨rfl, rfl, fun u hu => ?_⟩
  obtain ⟨y, -, rfl⟩ := List.mem_map.1 hu
  rfl

theorem State.core_cutDown_of_holds {c : Nat} (hc : p.holdsCore c = true) :
    ((s.cutDown pid p code).core c).gangs = [] ∧ ((s.cutDown pid p code).core c).teams = [] := by
  have core : (s.cutDown pid p code).core c = (s.core c).emptied := (State.core_stopUnits s p c).trans (if_pos hc)
  rw [core]
  exact ⟨rfl, rfl⟩

theorem State.part?_cutDown (hp : s.part? pid = some p) : (s.cutDown pid p code).part? pid =
    some { p with frames := [], preempting := 0, queues := s.rewoundQueues p } :=
  (State.part?_modPart_self ..).trans (congrArg _ hp)

/-- A queue of a partition that is reset. -/
theorem State.getD_rewoundQueues (n : Nat) : Table.getD (s.rewoundQueues p) n Queue.reset =
    if (Table.get? p.queues n).isSome then (p.queue n).rewound fun g => (s.grid? g).isSome else p.queue n := by
  have entry : Table.get? (s.rewoundQueues p) n = (Table.get? p.queues n).map fun q => q.rewound fun g => (s.grid? g).isSome :=
    Table.get?_map_entry p.queues (fun _ q => q.rewound fun g => (s.grid? g).isSome) n
  rw [Table.getD, entry, Partition.queue, Table.getD]
  cases Table.get? p.queues n <;> rfl

/-- A rewound queue is back at `QDONE`, and what it keeps of its parents are those that the reset ends not. -/
theorem Queue.rewound_spec (q : Queue) (cut : Nat → Bool) :
    (q.rewound cut).done = q.done ∧ (q.rewound cut).head = q.done ∧ (q.rewound cut).ended = [] ∧ ∀ r x, Table.get? (q.rewound cut).parents r = some x → ∃ y, (r, y) ∈ q.parents ∧
      x = y.filter fun w => !cut w.grid := by
  refine ⟨rfl, rfl, rfl, fun r x hx => ?_⟩
  obtain ⟨z, hz, heq⟩ := List.mem_map.1 (Table.mem_of_get? hx)
  obtain ⟨rfl, rfl⟩ := Prod.mk.inj heq
  exact ⟨z.2, hz, rfl⟩

theorem State.rewoundQueues_spec (n : Nat) : let q := Table.getD (s.rewoundQueues p) n Queue.reset
    q.done = (p.queue n).done ∧ q.head = (p.queue n).done ∧ q.ended = [] ∧
      ∀ r x, Table.get? q.parents r = some x → ∃ y, (r, y) ∈ (p.queue n).parents ∧
        x = y.filter fun w => (s.grid? w.grid).isNone := by
  have gone : (fun w : ParentRef => !(s.grid? w.grid).isSome) = fun w => (s.grid? w.grid).isNone :=
    funext fun w => Option.not_isSome _
  intro q
  have hq : q = _ := State.getD_rewoundQueues n
  split at hq
  case isTrue =>
    rw [hq, ← gone]
    exact Queue.rewound_spec ..
  case isFalse h =>
    have none_ : p.queue n = Queue.reset := by
      rw [Partition.queue, Table.getD, Option.not_isSome_iff_eq_none.1 h]
      rfl
    rw [hq, none_]
    exact ⟨rfl, rfl, rfl, fun r x hx => by cases hx⟩

theorem State.cutDown_resetPartition (hp : s.part? pid = some p) (code : Option Code) :
    ResetStays pid (s.cutDown pid p code) (s.resetPartition pid code) := by
  simp only [State.resetPartition, hp]
  refine ResetStays.trans ?_ (.of_sameTeams (SameTeams.raiseIrq ..))
  refine ResetStays.trans ?_ (.foldl (fun t q => .writeHead t ..) _ _)
  exact .foldl_retireGrid _ fun n g hg hpid => (State.of_grid?_cutDown hg hpid).1

end

/-! ### Grids on their way (R366, R370, R371) -/

section
variable {s : State} {pid n : Nat} {p : Partition} (hp : s.part? pid = some p) (hon : (p.queue n).enabled = true)
  (hopen : (p.queue n).opened = true) (hrew : (p.queue n).rewind = false)
include hp hon hopen hrew

theorem queueAccept_accepts (hmore : (p.queue n).head < (p.queue n).tail) : exec (.queueAccept pid n) s =
    .next ((s.watchQueue pid n p (p.queue n)).acceptNext pid n p (p.queue n)) := by
  show execQueueAccept pid n s = _
  simp [execQueueAccept, hp, hon, hopen, hrew, hmore]

theorem queueAccept_readsTail (hall : ¬ (p.queue n).head < (p.queue n).tail) (hnotice : (p.queue n).notice = true)
    (hlnch : (p.queue n).lnch = false) : exec (.queueAccept pid n) s =
      .next ((s.watchQueue pid n p (p.queue n)).readTail pid n p (p.queue n)) := by
  show execQueueAccept pid n s = _
  simp [execQueueAccept, hp, hon, hopen, hrew, hall, hnotice, hlnch]

end

theorem State.schedTouch_parts (s : State) (vmid asid va n : Nat) : (s.schedTouch vmid asid va n).parts = s.parts := by
  obtain ⟨l2, clock, h, -⟩ := s.schedTouch_onlyUse vmid asid va n
  rw [h]

/-- A queue once the scheduler has read `QTAIL` from its header (R366). -/
def Queue.tailRead (q : Queue) (tail : Nat) : Queue :=
  { q with notice := false, unread := false, tail := if q.tailOk tail then tail else q.tail }

theorem State.readTail_eq {s : State} {pid n : Nat} {p : Partition} {q : Queue} {bs : List Byte}
    (hb : s.schedRead p.vmid q.asid q.base 8 = .bytes bs) : ∃ f : Queue → Queue, f q = q.tailRead (leNat bs) ∧
      s.readTail pid n p q =
        let u := (s.schedTouch p.vmid q.asid q.base 8).modQueue pid n f
        if q.tailOk (leNat bs) then u else u.post p.fn { kind := .queueError, pid := pid, addr := q.base } := by
  simp only [State.readTail, hb]
  exact ⟨_, rfl, rfl⟩

theorem State.tail_readTail {s : State} {pid n : Nat} {p : Partition} {q : Queue} {bs : List Byte}
    (hp : s.part? pid = some p) (hq : p.queue n = q) (hb : s.schedRead p.vmid q.asid q.base 8 = .bytes bs) :
    ∃ p', (s.readTail pid n p q).part? pid = some p' ∧
      (p'.queue n).tail = if q.head ≤ leNat bs ∧ leNat bs ≤ q.head + q.ring then leNat bs else q.tail := by
  have touched : (s.schedTouch p.vmid q.asid q.base 8).part? pid = some p := by
    rw [State.part?, State.schedTouch_parts]
    exact hp
  obtain ⟨f, hf, heq⟩ := State.readTail_eq (pid := pid) (n := n) hb
  have read : (s.readTail pid n p q).part? pid =
      ((s.schedTouch p.vmid q.asid q.base 8).modQueue pid n f).part? pid := by
    rw [heq]
    dsimp only
    split <;> rfl
  refine ⟨_, read.trans ((State.part?_modPart_self ..).trans (congrArg _ touched)), ?_⟩
  have queue : Partition.queue { p with queues := Table.put p.queues n (f (p.queue n)) } n = q.tailRead (leNat bs) := by
    rw [hq, hf]
    exact Table.getD_put_self ..
  refine (congrArg Queue.tail queue).trans ?_
  simp only [Queue.tailRead, Queue.tailOk, Bool.and_eq_true, decide_eq_true_eq]

theorem gridEligible_runs {s : State} {grid : Nat} {g : Grid} (hg : s.grid? grid = some g) (hst : g.st = .accepted)
    (hfence : g.lr.faddr = 0) (hocc : g.lr.occ = 0) :
    exec (.gridEligible grid) s = .next (s.modGrid grid fun g => { g with st := .eligible }) := by
  show execGridEligible grid s = _
  simp [execGridEligible, hg, hst, hfence, State.occlusion, hocc]

theorem gridRetire_gone {s t u v : State} {grid : Nat} {g : Grid} (hg : s.grid? grid = some g)
    (hover : s.gridOver grid g = true) (hdone : s.completion g = .ok t) (hqueue : g.queueEnded t = .ok u)
    (hnode : g.nodeEnded grid u = .ok v) : exec (.gridRetire grid) s = .next (v.gridGone grid g) := by
  have writes : s.retireWrites grid g = .ok v := by
    rw [State.retireWrites, hdone]
    show (g.queueEnded t >>= g.nodeEnded grid) = _
    rw [hqueue]
    exact hnode
  show Host.Outcome.next (s.retireGrid grid) = _
  rw [State.retireGrid_eq hg hover, writes]

theorem FaultRec.number_lt (f : FaultRec) : f.number < 256 := by
  unfold FaultRec.number
  split
  case h_1 c _ => cases c <;> decide
  case h_2 => decide

/-- The first dword of a status record: the grid's number above the code and the status (R371). -/
theorem Grid.statusWords_head (g : Grid) (hst : g.status < 256) : nth g.statusWords 0 0 % 256 = g.status ∧
    nth g.statusWords 0 0 / 2 ^ 32 = g.lr.gridid.toNat := by
  have code := g.frec.number_lt
  have high : bitsOf g.fteam 47 32 < 2 ^ 16 := by
    rw [bitsOf_eq]
    exact Nat.mod_lt _ (by decide)
  have head : nth g.statusWords 0 0 = g.lr.gridid.toNat * 2 ^ 32
      + (if g.status == 3 then bitsOf g.fteam 47 32 * 2 ^ 16 else 0)
      + (if g.status == 2 || g.status == 3 || g.status == 4 then g.frec.number else 0) * 256 + g.status := rfl
  rw [head]
  split <;> split <;> omega

theorem watchdogExpire_resets {s : State} {pid : Nat} {p : Partition} (hp : s.part? pid = some p) (hlim : p.wdlim ≠ 0)
    (hgo : p.paused = false) (hworks : s.works pid p = true) :
    exec (.watchdogExpire pid) s = .next (s.resetPartition pid (some .watchdog)) := by
  show execWatchdogExpire pid s = _
  simp [execWatchdogExpire, hp, hlim, hgo, hworks]

/-- Settles O49: each event takes the branch that the grid or the queue stands for, and what a reset has cut stays so through
the writes that follow, which bring no team, no grid and no record back. -/
theorem gridsComeAndGo : Obligations.GridsComeAndGo := by
  refine ⟨fun s pid n p hp hon hopen hrew => ⟨queueAccept_accepts hp hon hopen hrew,
      queueAccept_readsTail hp hon hopen hrew⟩,
    fun s pid n p q bs => State.tail_readTail, fun s grid g => gridEligible_runs,
    fun s t u v grid g hg hover hdone hqueue hnode => ?retires, fun g => ⟨rfl, g.statusWords_head⟩,
    fun s pid p => watchdogExpire_resets, fun s pid code p hp => ?reset⟩
  case retires =>
    refine gridRetire_gone hg hover hdone ?_ hnode
    rw [← hqueue, Grid.queueEnded]
    cases g.queue with
    | none => rfl
    | some x => simp only [beq_iff_eq]
  case reset =>
    have stays := State.cutDown_resetPartition hp code
    obtain ⟨q, hq, same⟩ := stays.part _ (State.part?_cutDown hp)
    refine ⟨fun n g hg => State.of_grid?_cutDown (stays.grids n g hg), fun c hc => ?_, q, hq, same.frames, same.preempting,
      fun n => ?_⟩
    · rw [stays.gangs, stays.teams]
      exact State.core_cutDown_of_holds hc
    · obtain ⟨hdone, hhead, hended, hparents⟩ := State.rewoundQueues_spec (s := s) (p := p) n
      have queue := same.queues n
      refine ⟨(congrArg Queue.done queue).trans hdone, (congrArg Queue.head queue).trans hhead,
        (congrArg Queue.ended queue).trans hended, fun r x hx => hparents r x ?_⟩
      exact (congrArg (fun y => Table.get? (Queue.parents y) r) queue).symm.trans hx

end Sys2Proof.Machine

/-! PROOFS. The memory instructions at issue (R187 to R191, R204, R208, R213). -/

namespace Sys2Proof.Machine

/-! ### The checks of a memory instruction (R189) -/

theorem Issuer.checkAddrs_ok {c : Issuer} {k : MemKind} {f : MForm} {addrs : Table Nat}
    (haligned : ∀ x ∈ addrs, x.2 % k.unit f = 0)
    (hrange : ∀ x ∈ addrs, if k.scratch = true then x.2 + k.bytes f ≤ c.team.scratchBytes ∧ x.2 < 2 ^ 18 else x.2 < 2 ^ 56) :
    c.checkAddrs k f addrs = .ok () := by
  have aligned : c.memFault k .align addrs (fun a => a % k.unit f != 0) = none :=
    memFault_none fun x hx => by simp [haligned x hx]
  rw [checkAddrs, aligned]
  cases hk : k.scratch with
  | true =>
    have inside : c.memFault k .scratchBound addrs
        (fun a => decide (c.team.scratchBytes < a + k.bytes f) || decide (2 ^ 18 ≤ a)) = none :=
      memFault_none fun x hx => by
        obtain ⟨share, bound⟩ : _ ∧ _ := by simpa [hk] using hrange x hx
        simp [share, bound]
    simp only [if_true, inside]
  | false =>
    have canonical : c.memFault k .addrNoncanon addrs (fun a => decide (2 ^ 56 ≤ a)) = none :=
      memFault_none fun x hx => decide_eq_false (Nat.not_le.2 (by simpa [hk] using hrange x hx))
    simp only [Bool.false_eq_true, if_false, canonical]

/-! ### Memory instructions at issue (R189, R204, R208, R213) -/

/-- What a memory instruction leaves at its issue: an LDS with `.fe` that meets an empty granule has its sub-gang wait for it. -/
def State.memLeft (s : State) (c : Issuer) (k : MemKind) (f : MForm) : State :=
  if k = .lds ∧ MForm.fe f = true ∧ ∃ n ∈ addrGranules (c.memAddrs k f) (k.bytes f), c.team.granule n = .empty then
    s.waitingIssue c k f
  else c.memIssued s k f

theorem memIssue_eq {s : State} {c : Issuer} {k : MemKind} {f : MForm} (h : c.MemExecutes s k f) :
    memIssue k f s = .next ((s.memLeft c k f).advance c) := by
  have vdst : (if (k != .sld && isV f.d) = true then regRun (k.resultRegs f) f.d else []) =
      if k ≠ .sld ∧ isV f.d = true then regRun (k.resultRegs f) f.d else [] := if_congr (by simp) rfl rfl
  have sdst : (if (k == .sld) = true then regRun (k.resultRegs f) f.d else []) =
      if k = .sld then regRun (k.resultRegs f) f.d else [] := if_congr (by simp) rfl rfl
  have waits : (k == .lds && MForm.fe f && (addrGranules (c.memAddrs k f) (k.bytes f)).any
        fun n => c.team.granule n == .empty) = true ↔
      k = .lds ∧ MForm.fe f = true ∧ ∃ n ∈ addrGranules (c.memAddrs k f) (k.bytes f), c.team.granule n = .empty := by
    simp [and_assoc]
  have quiet : k.reports f = true → c.Quiet := h.quiet
  refine runInstr_ok h.issues <| check_then (c.checkTouch_ok h.ready _ _) <| when_then (fun hk => (quiet hk).checkReport) <|
    check_then (Issuer.checkAddrs_ok h.aligned h.inRange) <| check_then (c.checkCounter_ok h.counter) ?_
  rw [vdst, sdst]
  refine check_then (c.checkPool_ok h.pool) ?_
  rw [State.memLeft, ← if_congr waits rfl rfl]
  rfl

/-- Only an LDS has its sub-gang wait. -/
theorem memIssue_of_ne_lds {s : State} {c : Issuer} {k : MemKind} {f : MForm} (hk : k ≠ .lds) (h : c.MemExecutes s k f) :
    memIssue k f s = .next ((c.memIssued s k f).advance c) := by
  rw [memIssue_eq h, State.memLeft, if_neg fun hlds => hk hlds.1]

theorem memIssue_lds {s : State} {c : Issuer} {f : MForm} (h : c.MemExecutes s .lds f) :
    memIssue .lds f s = .next ((if MForm.fe f = true ∧ ∃ n ∈ addrGranules (c.memAddrs .lds f) (MemKind.bytes .lds f),
      c.team.granule n = .empty then s.waitingIssue c .lds f else c.memIssued s .lds f).advance c) := by
  rw [memIssue_eq h, State.memLeft]
  simp only [true_and]

/-- Settles O30: the nine that never wait and LDS by what `memIssue` leaves, PREF by its one check. -/
theorem memoryInstructionsIssue : Obligations.MemoryInstructionsIssue := by
  have issues : ∀ {k : MemKind}, k ≠ .lds → ∀ (s : State) (c : Issuer) (f : MForm), c.MemExecutes s k f →
      memIssue k f s = .next ((c.memIssued s k f).advance c) := fun hk _ _ _ => memIssue_of_ne_lds hk
  refine ⟨issues ?_, issues ?_, issues ?_, issues ?_, issues ?_, issues ?_, issues ?_, issues ?_, issues ?_,
    fun s c f h => ?lds, fun s c f hc hready => ?pref⟩
  case lds => exact memIssue_lds h
  case pref => exact runInstr_ok hc <| check_then (c.checkTouch_ok hready _ _) rfl
  all_goals decide

end Sys2Proof.Machine

/-! PROOFS. The scratchpad instructions performing (R194, R199, R202, R204, R205). -/

namespace Sys2Proof.Machine

/-! ### Who runs an entry -/

theorem State.runner?_team {s : State} {core slot : Nat} {r : Runner} (h : s.runner? core slot = some r) :
    s.team? core r.gang.team = some r.team := by
  unfold State.runner? at h
  split at h
  · cases h
  · split at h
    case h_1 => cases h
    case h_2 ht =>
      obtain ⟨_, _, rfl⟩ := Option.map_eq_some_iff.1 h
      exact ht

theorem Pending.going_of_pending {p : Pending} (h : p.st = .pending) : p.going = true := by
  rw [going, h]

theorem Pending.mem?_of_op {p : Pending} {k : MemKind} {f : MForm} (h : p.op = .mem k f) : p.mem? = some (k, f) := by
  rw [mem?, h]

/-- What a search finds once whatever it looks for has changed. -/
theorem find?_map_found {α : Type} {P : α → Bool} {f : α → α} (hf : ∀ x, P (f x) = P x) (l : List α) :
    (l.map fun x => if P x then f x else x).find? P = (l.find? P).map f := by
  induction l with
  | nil => rfl
  | cons x l ih =>
    cases hx : P x with
    | true => simp [hx, hf]
    | false => simpa [hx] using ih

theorem Gang.pending?_modPending (g : Gang) (id : Nat) {f : Pending → Pending} (hf : ∀ q, (f q).id = q.id) :
    (g.modPending id f).pending? id = (g.pending? id).map f :=
  find?_map_found (fun q => by rw [hf]) g.pending

theorem State.entry?_modGang {s : State} {core slot id : Nat} {q : Pending} (h : s.entry? core slot id = some q)
    {f : Pending → Pending} (hf : ∀ q, (f q).id = q.id) :
    (s.modGang core slot fun g => g.modPending id f).entry? core slot id = some (f q) := by
  obtain ⟨g, hg, hq⟩ := Option.bind_eq_some_iff.1 h
  rw [State.entry?, State.gang?_modGang_self, hg]
  exact (g.pending?_modPending id hf).trans (congrArg _ hq)

section
variable {s : State} {r : Runner} {p : Pending} (h : s.Outstanding r p)
include h

theorem State.Outstanding.gang? : s.gang? r.core r.slot = some r.gang := State.runner?_gang h.runs

theorem State.Outstanding.entry? : s.entry? r.core r.slot p.id = some p := by
  rw [State.entry?, h.gang?]
  exact h.entry

end

/-! ### An acquire leaves gangs and teams (R227) -/

namespace SameTeams

theorem acquired (s : State) (r : Runner) (scope : Nat) : SameTeams s (s.acquired r scope) := by
  let keep := fun (x : L1Line) => x.st != .wo && !(x.st == .remote && scope == 5)
  have drops : SameTeams s (s.modCore r.core fun k => { k with l1 := k.l1.filter keep }) :=
    modCore s r.core (fun _ => rfl) fun _ => rfl
  unfold State.acquired
  exact either (refl s) (either (drops.trans ⟨fun _ => rfl, fun _ => rfl, rfl, rfl⟩) drops)

theorem acquireOf (s : State) (r : Runner) (p : Pending) : SameTeams s (s.acquireOf r p) := by
  unfold State.acquireOf
  split
  · exact refl s
  · exact either (acquired s r _) (either (acquired s r _) (refl s))

theorem afterTake (s : State) (r : Runner) (id : Nat) : SameTeams s (s.afterTake r id) := by
  unfold State.afterTake
  split
  · exact either (acquireOf s r _) (refl s)
  · exact refl s

theorem entry? {s t : State} (h : SameTeams s t) (core slot id : Nat) : t.entry? core slot id = s.entry? core slot id := by
  rw [State.entry?, h.gang?, State.entry?]

end SameTeams

/-! ### The event of an entry that may go on (R195) -/

section
variable {s : State} {r : Runner} {p : Pending} {f : MForm} (h : s.Outstanding r p) (hst : p.st = .pending)
include h hst

omit h in
theorem State.passes_of_clean (hclean : s.laneFaults r p = []) : s.passes r p = true := by
  simp [State.passes, hst, hclean]

theorem memoryAccessPerform_sts (hop : p.op = .mem .sts f) (part : Nat) :
    exec (.memoryAccessPerform r.core r.slot p.id part) s =
      .next (s.stsPerform r p f (if part == 0 then none else some (part - 1))) := by
  simp [exec, execMemoryAccessPerform, h.runs, h.entry, Pending.mem?_of_op hop, Pending.going_of_pending hst]

theorem memoryAccessPerform_fec (hop : p.op = .mem .fec f) (part : Nat) :
    exec (.memoryAccessPerform r.core r.slot p.id part) s =
      .next (s.fecPerform r p f (if part == 0 then none else some (part - 1))) := by
  simp [exec, execMemoryAccessPerform, h.runs, h.entry, Pending.mem?_of_op hop, Pending.going_of_pending hst]

theorem memoryAccessPerform_atoms (hop : p.op = .mem .atoms f) (hret : MForm.ret f = false) (part : Nat) :
    exec (.memoryAccessPerform r.core r.slot p.id part) s = .next (s.atomsPerform r p f (part != 0)) := by
  cases part <;>
    simp [exec, execMemoryAccessPerform, h.runs, h.entry, Pending.mem?_of_op hop, Pending.going_of_pending hst, hret]

theorem longResultArrive_mem {k : MemKind} (hop : p.op = .mem k f) (part : Option Nat) :
    exec (.longResultArrive r.core r.slot p.id part) s = .next (s.memArrive r p part) := by
  rw [longResultArrive_going h (Pending.going_of_pending hst), State.arriveFor, hop]

theorem longResultArrive_atoms (hop : p.op = .mem .atoms f) (hret : MForm.ret f = true) (part : Option Nat) :
    exec (.longResultArrive r.core r.slot p.id part) s = .next (s.atomsPerform r p f part.isSome) := by
  rw [longResultArrive_mem h hst hop]
  simp [State.memArrive, Pending.mem?_of_op hop, Pending.going_of_pending hst, hret]

theorem longResultArrive_lds (hop : p.op = .mem .lds f) (part : Option Nat) :
    exec (.longResultArrive r.core r.slot p.id part) s = .next (s.ldsArrive r p f part) := by
  rw [longResultArrive_mem h hst hop]
  simp [State.memArrive, Pending.mem?_of_op hop, Pending.going_of_pending hst]

end

/-! ### Elements taken by an LDS (R192, R204) -/

/-- Beside accumulator stores that store nothing the scratchpad is as it stands (R51). -/
theorem Core.besideAcc_of_no_stores {k : Core} {uid : Nat} {t : Team}
    (h : ∀ o ∈ k.accOps, o.team = uid → o.stores t = []) (free pc : Nat) : k.besideAcc free pc uid t = t := by
  refine List.foldlRecOn (motive := fun u => u = t) _ _ rfl fun u hu o ho => ?_
  obtain ⟨hmem, hmine⟩ := List.mem_filter.1 ho
  have none : o.stores u = [] := hu ▸ h o hmem (beq_iff_eq.1 (Bool.and_eq_true_iff.1 hmine).1)
  rw [none]
  exact hu

theorem elemCount_le_four (sub : BitVec 6) : elemCount sub ≤ 4 := by
  unfold elemCount
  split <;> omega

theorem MemKind.elems_lds_le (f : MForm) : (MemKind.elems .lds f).2 ≤ 8 := by
  have few : MForm.count f ≤ 4 := elemCount_le_four f.sub
  simp only [MemKind.elems]
  split <;> omega

theorem mem_elemsAt {k : MemKind} {f : MForm} {lanes : Table Nat} {x : Nat × Nat} :
    x ∈ elemsAt k f lanes ↔ ∃ y ∈ lanes, ∃ j < (k.elems f).2, x = (8 * y.1 + j, y.2 + (k.elems f).1 * j) := by
  simp [elemsAt, eq_comm]

namespace Pending

/-- What taking elements leaves of an entry but for the bytes taken. -/
theorem keepElem_keeps (p : Pending) (key : Nat) (bs : List Byte) : { p.keepElem key bs with got := p.got } = p := rfl

/-- An element taken has a value, and every other keeps the one it has. -/
theorem got_keepElem {p : Pending} {key : Nat} {bs : List Byte} {n : Nat} (h : (Table.get? p.got n).isSome = true ∨
    n / 8 ∈ p.sharers (key / 8) ∧ n % 8 = key % 8) : (Table.get? (p.keepElem key bs).got n).isSome = true := by
  have put : ∀ (l : List Nat) (t : Table DWord), ((Table.get? t n).isSome = true ∨ n / 8 ∈ l ∧ n % 8 = key % 8) →
      (Table.get? (l.foldl (fun t i => Table.put t (8 * i + key % 8) (BitVec.ofNat 64 (leNat bs))) t) n).isSome = true := by
    intro l
    induction l with
    | nil => simp
    | cons i l ih =>
      intro t ht
      refine ih _ ?_
      rw [Table.get?_put]
      split
      · exact .inl rfl
      · next hne =>
        refine ht.imp_right fun ⟨hmem, hmod⟩ => ⟨(List.mem_cons.1 hmem).resolve_left fun hi => hne ?_, hmod⟩
        omega
  exact put _ _ h

end Pending

/-- Of elements taken one after another each has a value then, and so has what had one before. -/
theorem Pending.got_keepElems {p : Pending} {es : List (Nat × Nat)} {value : Nat × Nat → List Byte} {n : Nat}
    (h : (Table.get? p.got n).isSome = true ∨ ∃ x ∈ es, x.1 = n ∧ n / 8 ∈ p.sharers (n / 8)) :
    (Table.get? (es.foldl (fun q x => q.keepElem x.1 (value x)) p).got n).isSome = true := by
  induction es generalizing p with
  | nil => simpa using h
  | cons x es ih =>
    refine ih ?_
    rcases h with h | ⟨y, hy, rfl, hshare⟩
    · exact .inl (got_keepElem (.inl h))
    · rcases List.mem_cons.1 hy with rfl | hy
      · exact .inl (got_keepElem (.inr ⟨hshare, rfl⟩))
      · exact .inr ⟨y, hy, rfl, hshare⟩

/-- Taking elements changes the values taken alone. -/
theorem Pending.keepElems_changes (es : List (Nat × Nat)) (value : Nat × Nat → List Byte) (p : Pending) :
    ∃ t, es.foldl (fun q x => q.keepElem x.1 (value x)) p = { p with got := t } := by
  induction es generalizing p with
  | nil => exact ⟨p.got, rfl⟩
  | cons x es ih => exact ih (p.keepElem x.1 (value x))

/-- Whoever reads an element of a load shares it. -/
theorem Pending.mem_sharers {p : Pending} {k : MemKind} {f : MForm} (hmem : p.mem? = some (k, f)) {x : Nat × Nat}
    (hx : x ∈ p.readers k f) : x.1 ∈ p.sharers x.1 := by
  simp only [sharers, hmem]
  split
  next hshared =>
    rw [readers, if_pos hshared] at hx
    exact List.mem_map_of_mem (List.mem_of_mem_take hx)
  next => exact List.mem_singleton_self _

/-- An LDS that takes all the elements it has left has none left. -/
theorem Pending.openElems_taken {p : Pending} {f : MForm} (hop : p.op = .mem .lds f) (value : Nat × Nat → List Byte) :
    ((p.openElems .lds f).foldl (fun q x => q.keepElem x.1 (value x)) p).openElems .lds f = [] := by
  have taken : ∀ {n}, ((Table.get? p.got n).isSome = true ∨ ∃ x ∈ p.openElems .lds f, x.1 = n ∧ n / 8 ∈ p.sharers (n / 8)) →
      (Table.get? ((p.openElems .lds f).foldl (fun q x => q.keepElem x.1 (value x)) p).got n).isSome = true := got_keepElems
  obtain ⟨t, ht⟩ := keepElems_changes (p.openElems .lds f) value p
  rw [ht] at taken ⊢
  refine List.filter_eq_nil_iff.2 fun x hx => ?_
  obtain ⟨y, hy, j, hj, rfl⟩ := mem_elemsAt.1 hx
  have few : j < 8 := lt_of_lt_of_le hj (MemKind.elems_lds_le f)
  have lane : (8 * y.1 + j) / 8 = y.1 := by omega
  cases hopen : p.elemOpen (8 * y.1 + j) with
  | true =>
    have share := mem_sharers (mem?_of_op hop) hy
    have got := taken (.inr ⟨_, List.mem_filter.2 ⟨hx, hopen⟩, rfl, by rwa [lane]⟩)
    simp [elemOpen, Option.isSome_iff_ne_none.1 got]
  | false =>
    rcases Bool.and_eq_false_iff.1 hopen with hgot | hfail
    · have got := taken (.inl (by simpa [Option.isSome_iff_ne_none] using hgot))
      simp [elemOpen, Option.isSome_iff_ne_none.1 got]
    · simp [elemOpen, hfail]

/-! ### ATOMS (R200, R202) -/

section
variable {s : State} {r : Runner} {p : Pending} {f : MForm} (h : s.Performs r p (p.openSpans .atoms f))
include h

/-- One lane of an ATOMS performs. -/
theorem State.atomsPerform_one {x : Nat × Nat} (hx : (p.open_ .atoms f).head? = some x) :
    s.atomsPerform r p f true = (s.atomsLane r p.id f r.team p).afterTake r p.id := by
  have some_lane : p.addrs.isEmpty = false := by
    cases haddrs : p.addrs with
    | nil => simp [Pending.open_, haddrs] at hx
    | cons => rfl
  have one : s.atomsLanes r p.id f 1 = s.atomsLane r p.id f r.team p := by
    simp only [State.atomsLanes, h.out.entry?, State.runner?_team h.out.runs]
  simp only [State.atomsPerform, State.passes_of_clean h.pending h.clean, h.free, some_lane, Bool.not_true, Bool.or_false,
    Bool.false_eq_true, if_false, if_true, one, Bool.true_or]
  split <;> rfl

/-- An ATOMS whose lanes have all performed delivers. -/
theorem State.atomsPerform_over (hnone : p.open_ .atoms f = []) : s.atomsPerform r p f false =
    (if p.addrs = [] then s.acquireOf r p else s.afterTake r p.id).deliver r.core r.slot p.id
      (if MForm.ret f = true then atomOut f p else Out.none) := by
  have entry : (if p.addrs = [] then s.acquireOf r p else s.afterTake r p.id).entry? r.core r.slot p.id = some p := by
    rw [(SameTeams.either (.acquireOf s r p) (.afterTake s r p.id)).entry?, h.out.entry?]
  have lanes : s.atomsLanes r p.id f 0 = s := rfl
  simp [State.atomsPerform, State.passes_of_clean h.pending h.clean, h.free, lanes, entry, hnone]

end

/-! ### LDS (R204) -/

/-- An entry with elements of an LDS taken, as its team's scratchpad is seen. -/
def Pending.ldsTook (q : Pending) (sees : Team) (f : MForm) (es : List (Nat × Nat)) : Pending :=
  es.foldl (fun q x => q.keepElem x.1 (sees.bytes x.2 (MemKind.elems .lds f).1)) q

theorem Pending.ldsTook_changes (sees : Team) (f : MForm) (es : List (Nat × Nat)) (q : Pending) :
    ∃ t, q.ldsTook sees f es = { q with got := t } := keepElems_changes es _ q

/-- The state once an LDS has taken elements, with the granules empty that `.clr` empties. -/
def State.ldsTaken (s : State) (r : Runner) (p : Pending) (f : MForm) (es : List (Nat × Nat)) : State :=
  let u := s.ldsTake r p f es
  if MForm.clr f = true then
    u.modTeam r.core r.gang.team fun t => (addrGranules p.addrs (MemKind.bytes .lds f)).foldl
      (fun t g => if t.granule g == .full then t.setGranule g .empty else t) t
  else u

/-- Whether an LDS takes all it has left in one step. -/
def MForm.ldsWhole (f : MForm) (part : Option Nat) : Bool := part.isNone || MForm.fe f || MForm.clr f

/-- The elements that an LDS takes when one is named or all are. -/
def Pending.ldsNow (p : Pending) (f : MForm) (part : Option Nat) : List (Nat × Nat) :=
  (p.openElems .lds f).filter fun x => MForm.ldsWhole f part || part == some x.1

theorem Pending.ldsNow_whole {p : Pending} {f : MForm} {part : Option Nat} (h : MForm.ldsWhole f part = true) :
    p.ldsNow f part = p.openElems .lds f := by
  simp [ldsNow, h]

section
variable {s : State} {r : Runner} {p : Pending} {f : MForm}

theorem State.entry?_ldsTaken (h : s.Outstanding r p) (es : List (Nat × Nat)) :
    (s.ldsTaken r p f es).entry? r.core r.slot p.id = some (p.ldsTook (s.ldsSees r p) f es) := by
  have took : (s.ldsTake r p f es).entry? r.core r.slot p.id = some (p.ldsTook (s.ldsSees r p) f es) :=
    State.entry?_modGang h.entry? fun q => by
      obtain ⟨t, ht⟩ := q.ldsTook_changes (s.ldsSees r p) f es
      change (q.ldsTook (s.ldsSees r p) f es).id = q.id
      rw [ht]
  unfold State.ldsTaken
  dsimp only
  split
  · rwa [State.entry?, State.gang?_modTeam]
  · exact took

/-- A load of the scratchpad that has nothing left delivers what it took. -/
theorem State.loadDeliver_over {k : MemKind} {q : Pending} {id : Nat} (hq : s.entry? r.core r.slot id = some q)
    (hopen : q.openElems k f = []) (hst : q.st = .pending) :
    s.loadDeliver r id k f = s.deliver r.core r.slot id (loadOut k f q) := by
  simp [State.loadDeliver, hq, hopen, hst]

variable (h : s.Performs r p (p.openSpans .lds f))
  (hfull : MForm.fe f = true → ∀ g ∈ addrGranules p.addrs (MemKind.bytes .lds f), r.team.granule g ≠ .empty)
include h hfull

theorem State.ldsArrive_eq (part : Option Nat) : s.ldsArrive r p f part =
    let v := s.ldsTaken r p f (p.ldsNow f part)
    let t := if p.addrs = [] then v.acquireOf r p else if p.ldsNow f part = [] then v else v.afterTake r p.id
    if MForm.ldsWhole f part = true then t.loadDeliver r p.id .lds f else t := by
  have goes : ¬ (!s.passes r p || s.blocked r p (p.openSpans .lds f) ||
      (MForm.fe f && (addrGranules p.addrs (MemKind.bytes .lds f)).any fun g => r.team.granule g == .empty)) = true := by
    simpa [State.passes_of_clean h.pending h.clean, h.free] using hfull
  have whole : (part.isNone || (MForm.fe f || MForm.clr f)) = MForm.ldsWhole f part := (Bool.or_assoc ..).symm
  refine (if_neg goes).trans ?_
  simp only [whole, List.isEmpty_iff]
  rfl

/-- An LDS takes an element, or all that it has left and delivers. -/
theorem State.ldsArrive_takes (hop : p.op = .mem .lds f) {part : Option Nat} (hnow : p.ldsNow f part ≠ []) :
    s.ldsArrive r p f part =
      let t := (s.ldsTaken r p f (p.ldsNow f part)).afterTake r p.id
      if MForm.ldsWhole f part = true then
        t.deliver r.core r.slot p.id (loadOut .lds f (p.ldsTook (s.ldsSees r p) f (p.ldsNow f part)))
      else t := by
  have lanes : p.addrs ≠ [] := fun hnil => hnow (by simp [Pending.ldsNow, Pending.openElems, Pending.readers, elemsAt, hnil])
  rw [State.ldsArrive_eq h hfull]
  dsimp only
  rw [if_neg lanes, if_neg hnow]
  split
  next hwhole =>
    have entry := State.entry?_ldsTaken (f := f) h.out (p.ldsNow f part)
    rw [← (SameTeams.afterTake _ r p.id).entry?] at entry
    refine State.loadDeliver_over entry ?_ ?_
    · rw [Pending.ldsNow_whole hwhole]
      exact Pending.openElems_taken hop _
    · obtain ⟨t, ht⟩ := p.ldsTook_changes (s.ldsSees r p) f (p.ldsNow f part)
      rw [ht]
      exact h.pending
  next => rfl

/-- An LDS of no lane delivers at once. -/
theorem State.ldsArrive_no_lane (hnone : p.addrs = []) : s.ldsArrive r p f none =
    ((s.ldsTaken r p f (p.ldsNow f none)).acquireOf r p).deliver r.core r.slot p.id (loadOut .lds f p) := by
  have nothing : p.openElems .lds f = [] := by simp [Pending.openElems, Pending.readers, elemsAt, hnone]
  have now : p.ldsNow f none = [] := (Pending.ldsNow_whole rfl).trans nothing
  have entry := State.entry?_ldsTaken (f := f) h.out (p.ldsNow f none)
  rw [now, ← (SameTeams.acquireOf _ r p).entry?] at entry
  rw [State.ldsArrive_eq h hfull, now]
  dsimp only
  rw [if_pos hnone]
  exact State.loadDeliver_over entry nothing h.pending

end

/-- Settles O31: STS and FEC by what they have left, ATOMS lane by lane, and LDS by the elements that it takes. -/
theorem scratchAccessesPerform : Obligations.ScratchAccessesPerform := by
  refine ⟨fun s r p f part hop h => ?sts, fun s r p f part hop h => ?fec, fun s r p f n hop h => ?atoms,
    fun s r p f part hop h => ?lds⟩
  case sts =>
    have hgo := State.passes_of_clean h.pending h.clean
    intro e left put
    refine ⟨?_, fun hmeets => ?_⟩
    · rw [memoryAccessPerform_sts h.out h.pending hop]
      simp [State.stsPerform, hgo, h.free, put, left, e]
    · have alone : left.filter (fun x => x.1 == part && left.all fun y =>
          !(decide (y.1 < x.1) && rangesMeet (x.2, e.1) (y.2, e.1))) = left.filter fun x => x.1 == part := by
        refine List.filter_congr fun x hx => ?_
        simp only [Bool.and_eq_left_iff_imp, beq_iff_eq, List.all_eq_true]
        intro hpart y hy
        cases hlt : decide (y.1 < x.1) with
        | false => rfl
        | true => rw [hmeets x hx hpart y hy (of_decide_eq_true hlt)]; rfl
      rw [memoryAccessPerform_sts h.out h.pending hop]
      change Host.Outcome.next (s.stsPerform r p f (some part)) = _
      simp only [State.stsPerform, hgo, h.free, Bool.not_true, Bool.or_false, Bool.false_eq_true, if_false]
      rw [alone]
      simp only [beq_iff_eq]
      rfl
  case fec =>
    have hgo := State.passes_of_clean h.pending h.clean
    refine ⟨?_, ?_⟩
    · rw [memoryAccessPerform_fec h.out h.pending hop]
      simp [State.fecPerform, hgo, h.free, MemKind.bytes]
    · rw [memoryAccessPerform_fec h.out h.pending hop]
      simp [State.fecPerform, hgo, h.free, MemKind.bytes]
  case atoms =>
    refine ⟨fun x hx => ?_, fun hnone => ?_⟩
    · intro old d t
      have lane : s.atomsPerform r p f true = t := by
        rw [State.atomsPerform_one h hx, State.atomsLane, hx]
      exact ⟨fun hret => (memoryAccessPerform_atoms h.out h.pending hop hret _).trans (congrArg _ lane),
        fun hret => (longResultArrive_atoms h.out h.pending hop hret _).trans (congrArg _ lane)⟩
    · have delivers := State.atomsPerform_over h hnone
      refine ⟨fun hret => ?_, fun hret => ?_⟩
      · rw [hret] at delivers
        exact (memoryAccessPerform_atoms h.out h.pending hop hret _).trans (congrArg _ delivers)
      · rw [hret] at delivers
        exact (longResultArrive_atoms h.out h.pending hop hret _).trans (congrArg _ delivers)
  case lds =>
    refine ⟨fun hstores => Core.besideAcc_of_no_stores hstores _ _, fun hfull => ⟨fun hnow => ?_, fun hnone hpart => ?_⟩⟩
    · exact (longResultArrive_lds h.out h.pending hop part).trans (congrArg _ (State.ldsArrive_takes h hfull hop hnow))
    · subst hpart
      exact (longResultArrive_lds h.out h.pending hop none).trans (congrArg _ (State.ldsArrive_no_lane h hfull hnone))

end Sys2Proof.Machine

/-! PROOFS. Loads, stores, atomics and fences performing (R192, R195, R196, R198, R201, R203, R207, R210, R311). -/

namespace Sys2Proof.Machine

/-! ### A load's element (R192, R196) -/

theorem nth_slice {bs : List Byte} {off n j : Nat} (h : j < n) : nth (slice bs off n) j 0 = nth bs (off + j) 0 := by
  simp [nth, slice, h]

section
variable {s t : State} {r : Runner} {p : Pending} {k : MemKind} {f : MForm} {l : Ln} {g : List Nat × Nat} {key va : Nat}

theorem State.loadBytes_length (n : Nat) (fresh : Bool) : (s.loadBytes r p l va n fresh).length = n := by
  simp [State.loadBytes]

theorem State.nth_loadBytes {n j : Nat} (h : j < n) (fresh : Bool) : nth (s.loadBytes r p l va n fresh) j 0 =
    (forwarded ((r.gang.earlier p).filter (s.passes r)) (va + j)).getD (nth (s.viewData r.core l fresh) (va % 128 + j) 0) := by
  rw [State.loadBytes, nth_range_map _ _ h, nth_slice h]

theorem State.takeElem_takes (hroute : s.route r.grid va = .local_) (hline : s.accessOf r k va (k.elems f).1 = .ok l)
    (hgate : s.gate r p [(va, (k.elems f).1)] l.tag l.line = some g)
    (hread : s.readLine r.core r.grid.vmid l f.hint.toNat va = some t) (hheld : s.held r.agent l.tag l.line false = false)
    (hbusy : l.fresh g = true → s.lineBusy l.tag l.line l.pline = false) :
    s.takeElem r p k f key va = (t.modGang r.core r.slot fun x => (x.relyOn p.id va (k.elems f).1).modPending p.id fun q =>
      q.keepElem key (t.loadBytes r p l va (k.elems f).1 (l.fresh g))).addHold r p l.tag l.line false g := by
  have goes : (s.held r.agent l.tag l.line false || (l.fresh g && s.lineBusy l.tag l.line l.pline)) = false := by
    simpa [hheld] using hbusy
  simp only [State.takeElem, hroute, hline, hgate, hread, goes]
  rfl

/-- A load that no lane stops takes the element named. -/
theorem State.loadArrive_one (hpass : s.passes r p = true) (haddrs : p.addrs ≠ [])
    (hone : (p.openElems k f).filter (fun x => x.1 == key) = [(key, va)])
    (hawaits : s.awaits r.core r.slot p.id (some key) = false) : s.loadArrive r p k f (some key) =
      (((s.markPassed r p).takeElem r p k f key va).modGang r.core r.slot fun g => g.joinFault p.id).afterTake r p.id := by
  obtain ⟨hst, hclean⟩ : p.st = .pending ∧ s.laneFaults r p = [] := by
    simpa [State.passes] using hpass
  have goes : ∀ x : Nat × Nat, s.mayGo r p [x] = true := fun x => by simp [State.mayGo, hst, hclean]
  have now : (p.openElems k f).filter (fun x => ((some key).isNone || some key == some x.1) &&
      !s.awaits r.core r.slot p.id (some x.1) && s.mayGo r p [(x.1 / 8, x.2)]) = [(key, va)] := by
    rw [← hone]
    refine List.filter_congr fun x _ => ?_
    by_cases hx : x.1 = key
    · simp [hx, hawaits, goes]
    · simp [beq_false_of_ne hx, beq_false_of_ne (Ne.symm hx)]
  simp only [State.loadArrive, now, hpass, List.isEmpty_iff, haddrs]
  rfl

end

/-! ### Loads held with a faulted one (R203) -/

theorem Gang.joinFault_of_none {g : Gang} {id : Nat} (h : ∀ p ∈ g.pending, p.answered = false) : g.joinFault id = g := by
  unfold Gang.joinFault
  split
  · rfl
  · next q _ =>
    have none : g.pending.find? (fun p => p.answered && q.follows p) = none :=
      List.find?_eq_none.2 fun p hp => by simp [h p hp]
    rw [none]

theorem Gang.joinFault_joins {g : Gang} {p q : Pending} (hq : g.pending? q.id = some q)
    (hp : g.pending.find? (fun p => p.answered && q.follows p) = some p) (hg : g.handling q = false) :
    (g.joinFault q.id).pending? q.id = some { q.discard with st := .behind p.id } := by
  simp only [Gang.joinFault, hq, hp, hg, Bool.false_eq_true, if_false]
  refine (Gang.pending?_modPending (g.addCounter q.ctr false) q.id ?_).trans (congrArg _ hq)
  exact fun _ => rfl

/-! ### Stores (R195, R207, R311) -/

section
variable {s v : State} {r : Runner} {p : Pending} {f : MForm} {l : Ln} {g : List Nat × Nat}

theorem State.storeDone_delivers {q : Pending} {lines : List Nat}
    (hq : (s.modGang r.core r.slot fun g => g.modPending p.id fun q => { q with done := unionNat lines q.done }).entry? r.core
      r.slot p.id = some q) (hleft : q.linesLeft f = []) (hst : q.st = .pending)
    (hawaits : (s.modGang r.core r.slot fun g => g.modPending p.id fun q =>
      { q with done := unionNat lines q.done }).awaits r.core r.slot q.id none = false)
    (hheld : (s.modGang r.core r.slot fun g => g.modPending p.id fun q =>
      { q with done := unionNat lines q.done }).heldOwn r q.id = false) :
    s.storeDone r p f lines = ((s.modGang r.core r.slot fun g => g.modPending p.id fun q =>
      { q with done := unionNat lines q.done }).acquireOf r q).deliver r.core r.slot q.id Out.none := by
  simp [State.storeDone, hq, hleft, hst, hawaits, hheld]

/-- A line of a store that no check, order, hold or full dirty ring stops. -/
theorem State.storePerform_goes {line : Nat} {x : Nat × Nat} {xs : Table Nat} (hpass : s.passes r p = true)
    (hlanes : (p.open_ .st f).filter (fun y => y.2 / 128 == line) = x :: xs) (hroute : s.route r.grid (128 * line) = .local_)
    (hacc : s.accessOf r .st x.2 (MemKind.bytes .st f) = .ok l) (hl : l.line = line)
    (hgate : s.gate r p ((x :: xs).map fun y => (y.2, MemKind.bytes .st f)) l.tag l.line = some g)
    (hheld : s.held r.agent l.tag l.line true = false)
    (hlog : (s.passAll r p).logWrite r.grid.vmid r.grid.asid (128 * line) = (true, v)) :
    s.storePerform r p f line = if l.perms.attr = .wo ∧ l.heap = false then v.claimLine r p f l
      else if v.woLines r p f = [] then v.storeLine r p f l g else v := by
  obtain ⟨hst, hclean⟩ : p.st = .pending ∧ s.laneFaults r p = [] := by
    simpa [State.passes] using hpass
  have open_ : x ∈ p.open_ .st f := (List.mem_filter.1 (hlanes ▸ List.mem_cons_self)).1
  have some_lane : p.addrs.isEmpty = false := by
    cases haddrs : p.addrs with
    | nil => simp [Pending.open_, haddrs] at open_
    | cons => rfl
  have some_line : (p.linesLeft f).isEmpty = false := by
    rw [List.isEmpty_eq_false_iff]
    exact List.ne_nil_of_mem (List.mem_eraseDups.2 (List.mem_map_of_mem open_))
  have goes : s.mayGo r p (x :: xs) = true := by simp [State.mayGo, hst, hclean]
  have wo : ((l.perms.attr == .wo && !l.heap) = true) = (l.perms.attr = .wo ∧ l.heap = false) := by simp
  rw [← hl] at hlog
  simp only [State.storePerform, some_lane, some_line, hlanes, goes, hroute, List.headD_cons, hacc, State.storeLocal, hgate,
    hheld, hlog, wo, List.isEmpty_iff]
  rfl

/-- A line that the core holds in M is written in its copy. -/
theorem State.storeLine_own {x : L1Line} (hip : l.perms.attr ≠ .ip) (hx : s.ownL1 r.core l = some x) (hm : x.st = .m)
    (hwatch : (s.lineMeta l.pline).watch = false) : s.storeLine r p f l g =
      (((s.staleCode l).modL1 r.core l.tag l.line fun x =>
        { x with
          data := patchAll x.data (p.lineWrites f l.line)
          dirty := true }).addHold r p l.tag l.line true g).storeDone r p f [l.line] := by
  simp [State.storeLine, hip, hx, hm, hwatch]

/-- A line that the core does not hold and that stays at the home is written there, once no core has a copy. -/
theorem State.storeLine_home {u : State} (hip : l.perms.attr ≠ .ip) (hnone : s.ownL1 r.core l = none)
    (hbusy : s.lineBusy l.tag l.line l.pline = false)
    (hhome : s.l1On r.core = false ∨ l.heap = true ∨ (s.lineMeta l.pline).watch = true ∨ f.hint = 1)
    (hfill : (s.keepFill l (128 * l.line)).fillL2 l (s.maskOfVm r.grid.vmid) f.hint.toNat = some u)
    (hprobes : (u.dir l.tag l.line l.pline).probes none = []) : s.storeLine r p f l g =
      ((u.storeHome l (p.lineWrites f l.line)).addHold r p l.tag l.line true g).storeDone r p f [l.line] := by
  have atHome : (!s.l1On r.core || l.heap || (s.lineMeta l.pline).watch || f.hint == 1) = true := by
    simpa [or_assoc] using hhome
  have elsewhere : (l.perms.attr == .ip && s.l1On r.core) = false := by simp [hip]
  simp only [State.storeLine, elsewhere, hnone, atHome, hbusy, hfill, hprobes]
  rfl

/-- A store whose claim fails writes nothing. -/
theorem State.claimLine_fails (h : s.claimFails r p (l, p.lineWrites f l.line) ≠ []) :
    s.claimLine r p f l = s.claimsFailed r p f := by
  simp [State.claimLine, h]

end

theorem State.l2?_modL2 (s : State) (tag line pline : Nat) {f : L2Line → L2Line} (htag : ∀ x, (f x).tag = x.tag)
    (hline : ∀ x, (f x).line = x.line) : (s.modL2 tag line pline f).l2? tag line pline = (s.l2? tag line pline).map f := by
  have found : ∀ tag line, (s.mem.l2.map fun x => if x.tag == tag && x.line == line then f x else x).find?
      (fun x => x.tag == tag && x.line == line) = (s.mem.l2.find? fun x => x.tag == tag && x.line == line).map f :=
    fun tag line => find?_map_found (fun x => by rw [htag, hline]) s.mem.l2
  cases hside : s.boot.memSide with
  | true => simpa [State.l2?, State.modL2, hside] using found physAsid pline
  | false => simpa [State.l2?, State.modL2, hside] using found tag line

/-- The directory entry of a line is empty once it is emptied, whether or not the L2 holds the line (R310). -/
theorem State.dir_setDir_empty (s : State) (tag line pline : Nat) :
    (s.setDir tag line pline DirEntry.empty).dir tag line pline = DirEntry.empty := by
  unfold State.dir
  rw [State.setDir, State.l2?_modL2]
  · cases s.l2? tag line pline <;> rfl
  · exact fun _ => rfl
  · exact fun _ => rfl

/-! ### Fences (R198) -/

/-- A FENCE whose acquire half, unless it has passed before, and release half hold completes. -/
theorem State.fencePerform_completes {s u : State} {r : Runner} {p : Pending} {f : MForm}
    (hu : u = if MForm.acq f = true ∧ p.passed = false then
        (s.acquireOf r p).modGang r.core r.slot fun g => g.modPending p.id fun q => { q with passed := true }
      else s)
    (hacq : MForm.acq f = true ∧ p.passed = false → s.fenceAcquired r p = true)
    (hrel : MForm.rel f = true → u.fenceReleased r p f = true) :
    s.fencePerform r p f = (u.fenceCode r.core f.scope.toNat).deliver r.core r.slot p.id Out.none := by
  have now : (!(!MForm.acq f || p.passed) && s.fenceAcquired r p) = true ↔ MForm.acq f = true ∧ p.passed = false := by
    simpa using hacq
  have half : ((!MForm.acq f || p.passed) || (!(!MForm.acq f || p.passed) && s.fenceAcquired r p)) = true := by
    cases hhalf : (!MForm.acq f || p.passed) with
    | true => rfl
    | false => simpa [hhalf] using hacq (by simpa using hhalf)
  have release : (!MForm.rel f || u.fenceReleased r p f) = true := by
    cases hr : MForm.rel f with
    | true => exact hrel hr
    | false => rfl
  subst hu
  simp only [State.fencePerform, now, half, release, Bool.and_self, if_true]

/-! ### Atomics (R201, R311) -/

/-- A lane of an atomic that no order, hold, full dirty ring or L1 copy stops performs at its line's home. -/
theorem State.atomStep_home {s u v : State} {r : Runner} {p : Pending} {f : MForm} {lane va : Nat} {l : Ln}
    {g : List Nat × Nat} (hlane : s.nextLaneOf r p f = some (lane, va)) (hroute : s.route r.grid va = .local_)
    (hacc : s.accessOf r .atom va (MForm.size f) = .ok l) (hgate : s.gate r p [(va, MForm.size f)] l.tag l.line = some g)
    (hlog : (s.passAll r p).logWrite r.grid.vmid r.grid.asid va = (true, v)) (hheld : v.held r.agent l.tag l.line true = false)
    (hip : l.perms.attr ≠ .ip ∨ v.l1On r.core = false) (hbusy : v.lineBusy l.tag l.line l.pline = false)
    (hfill : (v.keepFill l va).fillL2 l (v.maskOfVm r.grid.vmid) f.hint.toNat = some u)
    (hprobes : (u.dir l.tag l.line l.pline).probes none = []) : s.atomStep r p f = u.atomHome r p f lane va l g := by
  have elsewhere : (l.perms.attr == .ip && v.l1On r.core) = false := by
    rw [Bool.and_eq_false_iff]
    exact hip.imp_left beq_false_of_ne
  simp only [State.atomStep, hlane, hroute, hacc, hgate, State.atomLocal, hlog, hheld, elsewhere, hbusy, hfill, hprobes]
  rfl

/-! ### Faults that arrive (R203, R210) -/

/-- Walks that are noted change `WALKERR` alone (R323). -/
theorem State.noteWalks_changes (s : State) (r : Runner) (p : Pending) :
    ∃ e, s.noteWalks r p = { s with mem := { s.mem with walkerr := e } } := by
  refine List.foldlRecOn (motive := fun u : State => ∃ e, u = { s with mem := { s.mem with walkerr := e } }) _ _
    ⟨s.mem.walkerr, rfl⟩ fun u ⟨e, hu⟩ page _ => ?_
  subst hu
  unfold State.noteWalk
  dsimp only
  split
  · obtain ⟨e', h⟩ := State.recordWalk_changes { s with mem := { s.mem with walkerr := e } } _ _ _
    exact ⟨e', h⟩
  · exact ⟨e, rfl⟩

theorem State.acquired_hbm (s : State) (r : Runner) (scope : Nat) : (s.acquired r scope).mem.hbm = s.mem.hbm := by
  unfold State.acquired
  split
  · rfl
  · dsimp only
    split <;> rfl

/-- What a fault that arrives makes of an outstanding instruction: the failing one is faulted, and a load held with it waits
behind it. -/
def Pending.faultMark (p : Pending) (code : Code) (lanes : Lanes) (addr : DWord) (rc : BitVec 8) (q : Pending) : Pending :=
  if q.id == p.id then { q with st := .faulted code lanes addr rc }
  else if q.follows p then { q.discard with st := .behind p.id }
  else q

theorem Pending.faultMark_id (p : Pending) (code : Code) (lanes : Lanes) (addr : DWord) (rc : BitVec 8) (q : Pending) :
    (p.faultMark code lanes addr rc q).id = q.id := by
  unfold faultMark
  split
  · rfl
  · split <;> rfl

section
variable (g : Gang) (p : Pending) (code : Code) (lanes : Lanes) (addr : DWord) (rc : BitVec 8)

theorem Gang.faultArrives_pending :
    (g.faultArrives p code lanes addr rc).pending = g.pending.map (p.faultMark code lanes addr rc) := by
  have quads : (g.writeQuads p).pending = g.pending := by
    unfold Gang.writeQuads
    split
    · refine foldl_keeps Gang.pending _ ?_ _ g
      exact fun _ _ => rfl
    · rfl
  have counts := foldl_keeps Gang.pending (fun (g : Gang) (q : Pending) => g.addCounter q.ctr false) (fun _ _ => rfl)
    (p :: g.pending.filter fun q => q.follows p) (g.writeQuads p)
  exact congrArg (List.map _) (counts.trans quads)

theorem Gang.faultArrives_slots (hquad : p.quad = false) : (g.faultArrives p code lanes addr rc).slots = g.slots := by
  have quads : g.writeQuads p = g := if_neg (ne_true_of_eq_false hquad)
  have counts := foldl_keeps Gang.slots (fun (g : Gang) (q : Pending) => g.addCounter q.ctr false) (fun _ _ => rfl)
    (p :: g.pending.filter fun q => q.follows p) (g.writeQuads p)
  exact counts.trans (congrArg _ quads)

/-- A failing entry that has left its counter stands among the outstanding ones, faulted. -/
theorem Gang.pending?_faultArrives (hp : g.pending? p.id = some p) :
    (g.faultArrives p code lanes addr rc).pending? p.id = some { p with st := .faulted code lanes addr rc } := by
  have found : ((fun q : Pending => q.id == p.id) ∘ p.faultMark code lanes addr rc) = fun q => q.id == p.id := by
    funext q
    simp [Pending.faultMark_id]
  rw [Gang.pending?, Gang.faultArrives_pending, List.find?_map, found, ← Gang.pending?, hp]
  exact congrArg some (if_pos (beq_self_eq_true _))

end

/-- Settles O32: each kind of access by the lemma that says where it goes once nothing stops it. -/
theorem globalAccessesPerform : Obligations.GlobalAccessesPerform := by
  refine ⟨fun s t r p k f key va l g => ?takes, fun s r p k f key va => ?arrives, fun g id => ?noFault,
    fun g p q => ?joins, fun s r p k f => ?delivers, fun s v r p f line l x xs g => ?store, fun s r p f l g => ?line,
    fun s r p q f lines => ?done, fun s r p f l => ?claim, fun s r p f part => ?fence,
    fun s u v r p f lane va l g => ?atomic, fun s l ws => ?home, fun s r p code lanes addr rc => ?fails⟩
  case takes =>
    intro n hroute hline hgate hread hheld hbusy
    exact ⟨_, State.takeElem_takes hroute hline hgate hread hheld hbusy, State.loadBytes_length ..,
      fun j hj => State.nth_loadBytes hj _⟩
  case arrives =>
    intro h hop hk hst hclean haddrs hone hawaits
    have load : s.memArrive r p (some key) = s.loadArrive r p k f (some key) := by
      rcases hk with rfl | rfl <;> simp [State.memArrive, Pending.mem?_of_op hop, Pending.going_of_pending hst]
    rw [longResultArrive_mem h hst hop, load]
    exact congrArg _ (State.loadArrive_one (State.passes_of_clean hst hclean) haddrs hone hawaits)
  case noFault => exact Gang.joinFault_of_none
  case joins => exact fun hq hp hg => ⟨_, Gang.joinFault_joins hq hp hg, rfl, rfl⟩
  case delivers =>
    intro h hop hk hst haddrs hopen
    have load : s.memArrive r p none = s.loadArrive r p k f none := by
      rcases hk with rfl | rfl <;> simp [State.memArrive, Pending.mem?_of_op hop, Pending.going_of_pending hst]
    rw [longResultArrive_mem h hst hop, load]
    refine congrArg _ (Eq.trans ?_ (State.loadDeliver_over h.entry? hopen hst))
    simp [State.loadArrive, hopen, haddrs]
  case store =>
    intro h hop hst hclean hlanes hroute hacc hl hgate hheld hlog
    have store : exec (.memoryAccessPerform r.core r.slot p.id line) s = .next (s.storePerform r p f line) := by
      simp [exec, execMemoryAccessPerform, h.runs, h.entry, Pending.mem?_of_op hop, Pending.going_of_pending hst]
    exact store.trans (congrArg _ (State.storePerform_goes (State.passes_of_clean hst hclean) hlanes hroute hacc hl hgate hheld
      hlog))
  case line =>
    exact fun hip => ⟨fun x hx hm hwatch => State.storeLine_own hip hx hm hwatch,
      fun u hnone hbusy hhome hfill hprobes => State.storeLine_home hip hnone hbusy hhome hfill hprobes⟩
  case done =>
    intro u hq hleft hst hawaits hheld
    exact State.storeDone_delivers hq hleft hst hawaits hheld
  case claim =>
    intro h
    rw [State.claimLine_fails h]
    exact ⟨rfl, rfl, rfl⟩
  case fence =>
    intro h hop hst now u hacq hrel
    have fence : exec (.memoryAccessPerform r.core r.slot p.id part) s = .next (s.fencePerform r p f) := by
      simp [exec, execMemoryAccessPerform, h.runs, h.entry, Pending.mem?_of_op hop, Pending.going_of_pending hst]
    exact fence.trans (congrArg _ (State.fencePerform_completes rfl hacq hrel))
  case atomic =>
    intro hop h hst hclean hlane hroute hacc hgate hlog hheld hip hbusy hfill hprobes
    have atomic : exec (.homeAtomic r.core r.slot p.id) s = .next (s.atomStep r p f) := by
      simp [exec, execHomeAtomic, h.runs, h.entry, Pending.mem?_of_op hop]
    exact atomic.trans (congrArg _ (State.atomStep_home hlane hroute hacc hgate hlog hheld hip hbusy hfill hprobes))
  case home => exact State.dir_setDir_empty ..
  case fails =>
    intro h hfails hawaits hopen hleft
    let u := if p.quadHit = true then s.acquired r 4 else s
    obtain ⟨e, hwalks⟩ := u.noteWalks_changes r p
    have same : SameTeams s u := .either (.acquired s r 4) (.refl s)
    have hbm : u.mem.hbm = s.mem.hbm := by
      dsimp only [u]
      split
      · exact s.acquired_hbm r 4
      · rfl
    have arrives : exec (.deferredFaultArrive r.core r.slot p.id) s =
        .next ((u.noteWalks r p).modGang r.core r.slot fun g => g.faultArrives p code lanes addr rc) := by
      simp [exec, execDeferredFaultArrive, h.runs, h.entry, hfails, hawaits, hopen, hleft, u]
    have gang : (u.noteWalks r p).gang? r.core r.slot = some r.gang := by
      rw [hwalks]
      exact (same.gang? _ _).trans h.gang?
    refine ⟨_, _, _, arrives, ?_, r.gang.pending?_faultArrives p code lanes addr rc h.entry, rfl, rfl, ?_, ?_,
      r.gang.faultArrives_slots p code lanes addr rc⟩
    · rw [State.gang?_modGang_self, gang]
      rfl
    · rw [hwalks]
      exact same.grids
    · rw [hwalks]
      exact hbm

end Sys2Proof.Machine

/-! PROOFS. Every step keeps device and host memory in canonical form (R192, R195, R201, R311; log entry 4). Only writes of bytes
change what memory lists, and each keeps the form; every other operation is followed through its branches to one of them. -/

namespace Sys2Proof.Machine

/-! ### The canonical form as two facts -/

/-- The canonical form (log entry 4): no listed byte is what an unlisted address reads as, and the addresses rise. -/
theorem Memory.wf_iff {m : List Host.Cell} :
    Memory.wf m = true ↔ (∀ c ∈ m, c.2 ≠ Memory.fill) ∧ m.Pairwise fun c d => c.1 < d.1 := by
  induction m with
  | nil => simp [Memory.wf]
  | cons c m ih =>
    rw [Memory.wf_cons, ih, List.forall_mem_cons, List.pairwise_cons]
    constructor
    · rintro ⟨hc, hhead, hm, hrise⟩
      refine ⟨⟨hc, hm⟩, fun d hd => ?_, hrise⟩
      cases m with
      | nil => cases hd
      | cons e m =>
        have he : c.1 < e.1 := hhead e rfl
        rcases List.mem_cons.1 hd with rfl | hd
        · exact he
        · exact he.trans ((List.pairwise_cons.1 hrise).1 d hd)
    · rintro ⟨⟨hc, hm⟩, hall, hrise⟩
      exact ⟨hc, fun d hd => hall d (List.mem_of_mem_head? hd), hm, hrise⟩

/-- What is left of host memory when the package starts again (R395). -/
theorem hostCells_wf {m : List Host.Cell} (h : Memory.wf m = true) : Memory.wf (hostCells m) = true := by
  obtain ⟨hfill, hrise⟩ := Memory.wf_iff.1 h
  exact Memory.wf_iff.2 ⟨fun c hc => hfill c (List.mem_of_mem_filter hc), hrise.filter _⟩

/-! ### What an operation may answer -/

/-- A state that an operation may answer, where it answers one. -/
def CanonicalOpt : Option State → Prop
  | some t => t.MemCanonical
  | none => True

/-- The state of an operation that may stop, where it does not. -/
def CanonicalOk {ε : Type} : Except ε State → Prop
  | .ok t => t.MemCanonical
  | .error _ => True

/-- The state after a step, where one comes. -/
def CanonicalNext : Host.Outcome State Fault Refusal → Prop
  | .next t => t.MemCanonical
  | .fault _ => True
  | .refused _ => True

/-- The state after an engine's write, where it is done. -/
def CanonicalWrite : EngineWrite → Prop
  | .done t => t.MemCanonical
  | .fault _ _ => True
  | .later _ => True

/-- The state after a register write, where it is done. -/
def CanonicalWritten : Written → Prop
  | .refused => True
  | .wait => True
  | .done t => t.MemCanonical

/-- The state after a command, where it is done. -/
def CanonicalAnswer : Answer → Prop
  | .refused _ => True
  | .done t _ => t.MemCanonical
  | .wait => True

/-- The state of an operation that may wait for a word, beside what it gives. -/
def CanonicalWith {α : Type} : Option (State × α) → Prop
  | some x => x.1.MemCanonical
  | none => True

/-- The state after one lane's push or pop, beside its predicate bit. -/
def CanonicalLane : LaneOut → Prop
  | .ok x => x.1.MemCanonical
  | .error _ => True

/-- The state that a target leaves, whether it has answered or not. -/
def CanonicalServed : Served → Prop
  | .done t _ => t.MemCanonical
  | .later t => t.MemCanonical

namespace CanonicalOpt

theorem of_eq {o : Option State} {t : State} (h : CanonicalOpt o) (e : o = some t) : t.MemCanonical := by
  rwa [e] at h

theorem either {b : Prop} [Decidable b] {x y : Option State} (hx : CanonicalOpt x) (hy : CanonicalOpt y) :
    CanonicalOpt (if b then x else y) := by
  split
  · exact hx
  · exact hy

theorem getD {o : Option State} {t : State} (h : CanonicalOpt o) (ht : t.MemCanonical) : (o.getD t).MemCanonical := by
  cases o with
  | none => exact ht
  | some u => exact h

theorem map {α : Type} {o : Option α} {f : α → State} (h : ∀ a, (f a).MemCanonical) : CanonicalOpt (o.map f) := by
  cases o with
  | none => trivial
  | some a => exact h a

/-- What comes after a word that has been read. -/
theorem bind {α : Type} {o : Option α} {k : α → Option State} (h : ∀ a, CanonicalOpt (k a)) : CanonicalOpt (o >>= k) := by
  cases o with
  | none => trivial
  | some a => exact h a

/-- What comes after an operation that keeps the state canonical. -/
theorem andThen {o : Option State} {k : State → Option State} (h : CanonicalOpt o)
    (hk : ∀ t, t.MemCanonical → CanonicalOpt (k t)) : CanonicalOpt (o >>= k) := by
  cases o with
  | none => trivial
  | some t => exact hk t h

end CanonicalOpt

namespace CanonicalWith

variable {α : Type}

theorem of_eq {o : Option (State × α)} {t : State} {a : α} (h : CanonicalWith o) (e : o = some (t, a)) : t.MemCanonical := by
  rwa [e] at h

theorem map {β : Type} {o : Option (State × α)} {f : α → β} (h : CanonicalWith o) :
    CanonicalWith (o.map fun x => (x.1, f x.2)) := by
  cases o with
  | none => trivial
  | some x => exact h

/-- What comes after a word that has been read, from the state that the read left. -/
theorem andThen {o : Option (State × α)} {k : State × α → Option State} (h : CanonicalWith o)
    (hk : ∀ x : State × α, x.1.MemCanonical → CanonicalOpt (k x)) : CanonicalOpt (o >>= k) := by
  cases o with
  | none => trivial
  | some x => exact hk x h

end CanonicalWith

namespace CanonicalLane

theorem of_eq {x : LaneOut} {t : State} {b : Bool} (h : CanonicalLane x) (e : x = .ok (t, b)) : t.MemCanonical := by
  rwa [e] at h

theorem either {b : Prop} [Decidable b] {x y : LaneOut} (hx : CanonicalLane x) (hy : CanonicalLane y) :
    CanonicalLane (if b then x else y) := by
  split
  · exact hx
  · exact hy

/-- A lane's answer after a write that keeps the state canonical. -/
theorem after {x : Except Stall State} {b : Bool} (h : CanonicalOk x) :
    CanonicalLane (x >>= fun t => .ok (t, b)) := by
  cases x with
  | error e => trivial
  | ok t => exact h

end CanonicalLane

namespace CanonicalOk

variable {ε : Type}

theorem of_eq {x : Except ε State} {t : State} (h : CanonicalOk x) (e : x = .ok t) : t.MemCanonical := by
  rwa [e] at h

theorem either {b : Prop} [Decidable b] {x y : Except ε State} (hx : CanonicalOk x) (hy : CanonicalOk y) :
    CanonicalOk (if b then x else y) := by
  split
  · exact hx
  · exact hy

/-- What comes after a check. -/
theorem bind {α : Type} {x : Except ε α} {k : α → Except ε State} (h : ∀ a, CanonicalOk (k a)) : CanonicalOk (x >>= k) := by
  cases x with
  | error e => trivial
  | ok a => exact h a

/-- What comes after an operation that keeps the state canonical. -/
theorem andThen {x : Except ε State} {k : State → Except ε State} (h : CanonicalOk x)
    (hk : ∀ t, t.MemCanonical → CanonicalOk (k t)) : CanonicalOk (x >>= k) := by
  cases x with
  | error e => trivial
  | ok t => exact hk t h

end CanonicalOk

namespace CanonicalNext

theorem either {b : Prop} [Decidable b] {x y : Host.Outcome State Fault Refusal} (hx : CanonicalNext x)
    (hy : CanonicalNext y) : CanonicalNext (if b then x else y) := by
  split
  · exact hx
  · exact hy

theorem of_eq {o : Host.Outcome State Fault Refusal} {t : State} (h : CanonicalNext o) (e : o = .next t) :
    t.MemCanonical := by
  rwa [e] at h

end CanonicalNext

namespace CanonicalWrite

theorem of_eq {x : EngineWrite} {t : State} (h : CanonicalWrite x) (e : x = .done t) : t.MemCanonical := by
  rwa [e] at h

theorem either {b : Prop} [Decidable b] {x y : EngineWrite} (hx : CanonicalWrite x) (hy : CanonicalWrite y) :
    CanonicalWrite (if b then x else y) := by
  split
  · exact hx
  · exact hy

end CanonicalWrite

namespace CanonicalWritten

theorem of_eq {x : Written} {t : State} (h : CanonicalWritten x) (e : x = .done t) : t.MemCanonical := by
  rwa [e] at h

theorem either {b : Prop} [Decidable b] {x y : Written} (hx : CanonicalWritten x) (hy : CanonicalWritten y) :
    CanonicalWritten (if b then x else y) := by
  split
  · exact hx
  · exact hy

theorem of {x : Option State} (h : CanonicalOpt x) : CanonicalWritten (.of x) := by
  cases x with
  | none => trivial
  | some t => exact h

end CanonicalWritten

namespace CanonicalAnswer

theorem of_eq {x : Answer} {t : State} {bs : List Byte} (h : CanonicalAnswer x) (e : x = .done t bs) : t.MemCanonical := by
  rwa [e] at h

theorem either {b : Prop} [Decidable b] {x y : Answer} (hx : CanonicalAnswer x) (hy : CanonicalAnswer y) :
    CanonicalAnswer (if b then x else y) := by
  split
  · exact hx
  · exact hy

end CanonicalAnswer

namespace CanonicalServed

theorem of_done {x : Served} {t : State} {r : RemoteReply} (h : CanonicalServed x) (e : x = .done t r) : t.MemCanonical := by
  rwa [e] at h

theorem of_later {x : Served} {t : State} (h : CanonicalServed x) (e : x = .later t) : t.MemCanonical := by
  rwa [e] at h

theorem either {b : Prop} [Decidable b] {x y : Served} (hx : CanonicalServed x) (hy : CanonicalServed y) :
    CanonicalServed (if b then x else y) := by
  split
  · exact hx
  · exact hy

end CanonicalServed

namespace State.MemCanonical

theorem either {b : Prop} [Decidable b] {x y : State} (hx : x.MemCanonical) (hy : y.MemCanonical) :
    (if b then x else y).MemCanonical := by
  split
  · exact hx
  · exact hy

theorem foldl {α : Type} {f : State → α → State} {l : List α} {s : State}
    (step : ∀ s x, s.MemCanonical → (f s x).MemCanonical) (h : s.MemCanonical) : (l.foldl f s).MemCanonical :=
  List.foldlRecOn (motive := State.MemCanonical) _ _ h fun s hs x _ => step s x hs

theorem snd {α : Type} {x : α × State} {a : α} {t : State} (h : x.2.MemCanonical) (e : x = (a, t)) : t.MemCanonical := by
  rwa [e] at h

/-- A state with the bytes of one that is canonical. -/
theorem congr {s t : State} (h : t.MemCanonical) (e : s.mem.hbm = t.mem.hbm) : s.MemCanonical := by
  unfold State.MemCanonical
  rwa [e]

/-! ### Updates that change no byte -/

section
variable {s : State} (h : s.MemCanonical)
include h

/-- A change of the memory side that leaves its bytes. -/
theorem modMem {f : MemSide → MemSide} (hf : (f s.mem).hbm = s.mem.hbm) : (s.modMem f).MemCanonical := by
  unfold State.MemCanonical
  rwa [State.modMem_mem, hf]

theorem setMem {m : MemSide} (hm : m.hbm = s.mem.hbm) : (s.setMem m).MemCanonical := by
  unfold State.MemCanonical
  rwa [State.setMem_mem, hm]

theorem modCore {c : Nat} {f : Core → Core} : (s.modCore c f).MemCanonical := h
theorem modCluster {c : Nat} {f : Cluster → Cluster} : (s.modCluster c f).MemCanonical := h
theorem setGang {c g : Nat} {x : Gang} : (s.setGang c g x).MemCanonical := h
theorem modGang {c g : Nat} {f : Gang → Gang} : (s.modGang c g f).MemCanonical := h
theorem modTeam {c t : Nat} {f : Team → Team} : (s.modTeam c t f).MemCanonical := h
theorem modPart {p : Nat} {f : Partition → Partition} : (s.modPart p f).MemCanonical := h
theorem modGrid {g : Nat} {f : Grid → Grid} : (s.modGrid g f).MemCanonical := h
theorem modMailbox {fn : Nat} {f : Mailbox → Mailbox} : (s.modMailbox fn f).MemCanonical := h
theorem modPond {f : Pond → Pond} : (s.modPond f).MemCanonical := h
theorem fresh : s.fresh.2.MemCanonical := h
theorem takeFree : s.takeFree.2.MemCanonical := h
theorem raiseIrq {fn vec : Nat} : (s.raiseIrq fn vec).MemCanonical := h

theorem withPond {p : Pond} : ({ s with pond := p } : State).MemCanonical := h
theorem withGrids {g : Table Grid} : ({ s with grids := g } : State).MemCanonical := h
theorem withPkg {p : Pkg} : ({ s with pkg := p } : State).MemCanonical := h
theorem withCores {k : Table Core} : ({ s with cores := k } : State).MemCanonical := h
theorem withAgenda {a : List Turn} : ({ s with agenda := a } : State).MemCanonical := h
theorem withFree {n : Nat} : ({ s with free := n } : State).MemCanonical := h

/-! ### Writes of bytes -/

theorem physWrite {pa : Nat} {bs : List Byte} : (s.physWrite pa bs).MemCanonical := Memory.writeN_wf h pa bs

/-- An event is written as its bytes, or nowhere (R399). -/
theorem post {fn : Nat} {e : Event} : (s.post fn e).MemCanonical := by
  unfold State.MemCanonical
  cases hat : (s.mailbox fn).eventAt with
  | none =>
    have hbm : (s.post fn e).mem.hbm = s.mem.hbm := by simp [State.post, hat]
    rwa [hbm]
  | some pa =>
    have hbm : (s.post fn e).mem.hbm = Memory.writeN s.mem.hbm pa e.bytes := by simp [State.post, hat]
    rw [hbm]
    exact Memory.writeN_wf h pa _

end

section
variable {s : State} {r : Runner} {l : Ln} {core slot id sub va line pline tag vmid asid pid fn grid team cl unit n : Nat}
  {lane gang : Nat} (h : s.MemCanonical)
include h

/-! ### Gangs, faults and reports -/

theorem releaseTeam {c t : Nat} : (s.releaseTeam c t).MemCanonical := by
  unfold State.releaseTeam
  split
  · exact h
  · exact either h h.modCore.modGrid

theorem dropGang {c g : Nat} : (s.dropGang c g).MemCanonical := by
  unfold State.dropGang
  split
  · exact h
  · exact (h.modCore.setMem (by rfl)).releaseTeam

theorem stopTeam {c t : Nat} : (s.stopTeam c t).MemCanonical :=
  (foldl (fun _ _ h => either h h.dropGang) h.modTeam).releaseTeam

theorem discardFrames {doomed : List Nat} : (s.discardFrames doomed).MemCanonical := h.congr (by rfl)

theorem killGrid {g : Nat} {fr : FaultRec} : (s.killGrid g fr team gang).MemCanonical :=
  foldl (fun _ _ h => h.stopTeam) (h.congr (by rfl)).discardFrames

theorem gangMigration {c g : Nat} {fr : FaultRec} : (s.gangMigration c g fr).MemCanonical := by
  unfold State.gangMigration
  refine .either h ?_
  split
  · split
    · exact h.post
    · exact h
  · exact h

theorem writeRecord {c g : Nat} {fr : FaultRec} : (s.writeRecord c g fr).MemCanonical := h.gangMigration.modGang

theorem haltGang {c g : Nat} : (s.haltGang c g).MemCanonical := by
  unfold State.haltGang
  split
  · exact h
  · split
    · exact h.modGang
    · split
      · exact h.modGang
      · split
        · exact h.modGang.post
        · exact h.modGang

theorem dispose {c g : Nat} {d : Disposition} {fr : FaultRec} {place : StopAt} :
    (s.dispose c g sub d fr place).MemCanonical := by
  unfold State.dispose
  split
  · exact h
  · split
    · exact h
    · split
      · exact h.killGrid
      · exact either h.modGang.haltGang h.modGang
      · split
        · exact either h.killGrid h.modGang
        · exact h.killGrid

theorem stopSub {c g : Nat} {fr : FaultRec} {place : StopAt} : (s.stopSub c g sub fr place).MemCanonical :=
  h.writeRecord.modCore.dispose

theorem debugRequest {c g : Nat} {x : Gang} {t : Team} : (s.debugRequest c g x t).MemCanonical := by
  unfold State.debugRequest
  dsimp only
  split
  · exact h
  · refine .either h ?_
    split
    · exact h.modGang.stopSub
    · split
      · exact h.modGang.writeRecord.haltGang
      · exact h.modGang.writeRecord.killGrid

theorem breakpoint {c g : Nat} : (s.breakpoint c g).MemCanonical := by
  unfold State.breakpoint
  dsimp only
  split
  · exact h
  · split
    · exact h
    · exact either h h.modGang.stopSub

theorem boundary {c g : Nat} : (s.boundary c g sub).MemCanonical := by
  unfold State.boundary
  split
  · exact h
  · split
    · exact h
    · exact either h (either h.dropGang (either h.modGang h).debugRequest.breakpoint)

theorem takeFault {c g : Nat} {fr : FaultRec} {place : StopAt} : (s.takeFault c g sub fr place).MemCanonical :=
  h.stopSub.boundary

theorem faultHere {c : Issuer} {fr : FaultRec} : (s.faultHere c fr).MemCanonical := h.takeFault

theorem parkBehind {c g : Nat} {place : StopAt} : (s.parkBehind c g sub place).MemCanonical :=
  h.modCore.modGang.boundary

theorem report {c g : Nat} {place : StopAt} : (s.report c g sub place).MemCanonical := by
  unfold State.report
  split
  · exact h
  · split
    · refine .either h.parkBehind ?_
      split
      · exact h.modGang.takeFault
      · exact h
    · exact h.parkBehind

theorem reportHere {c : Issuer} : (s.reportHere c).MemCanonical := h.report

theorem endClause {c : Issuer} {groups : List (Key × Lanes)} : (s.endClause c groups).MemCanonical :=
  (h.congr (by rfl)).modCore.modGang.boundary

theorem fallThrough {c : Issuer} : (s.fallThrough c).MemCanonical := h.endClause

theorem advance {c : Issuer} : (s.advance c).MemCanonical := by
  unfold State.advance
  refine .either h.modCore ?_
  split
  · exact h.fallThrough
  · exact h

theorem parkForRegisters {c g : Nat} {slots : List Nat} {pc : DWord} {inClause : Option (DWord × BitVec 56)} :
    (s.parkForRegisters c g sub slots pc inClause).MemCanonical := by
  unfold State.parkForRegisters
  split
  · exact (h.fresh.snd ‹_›).modGang.modCore

theorem registerDeadlock {c : Nat} : (s.registerDeadlock c).MemCanonical := by
  unfold State.registerDeadlock
  refine .either h ?_
  split
  · exact either h h.takeFault
  · exact h

theorem stopped {c : Issuer} {x : Stop} : (s.stopped c x).MemCanonical := by
  unfold State.stopped
  split
  · exact h.faultHere
  · exact h.reportHere
  · exact h
  · exact h.parkForRegisters.registerDeadlock

theorem runInstr {k : Issuer → Except Stop State} (hk : ∀ c, CanonicalOk (k c)) :
    CanonicalNext (Machine.runInstr s k) := by
  unfold Machine.runInstr
  split
  · trivial
  · split
    · exact (hk _).of_eq ‹_›
    · exact h.stopped

theorem applyEffect {c : Issuer} {e : Effect} : (s.applyEffect c e).MemCanonical := either h.modGang h.modGang.modTeam
theorem commit {c : Issuer} {e : Effect} : (s.commit c e).MemCanonical := h.applyEffect.advance

theorem issue {c : Issuer} {k : Ctr} {rel vdst sdst : List Nat} {pdst : Option Nat} {lanes : Lanes}
    {mk : Pending → Pending} : (s.issue c k rel vdst sdst pdst lanes mk).MemCanonical := by
  unfold State.issue
  split
  · exact (h.fresh.snd ‹_›).modGang

theorem deliver {c g : Nat} {o : Out} : (s.deliver c g id o).MemCanonical := by
  unfold State.deliver
  split
  · exact h
  · split
    · exact h
    · exact either h.modGang h.modGang.modTeam

/-! ### The special registers (R178 to R182) -/

theorem tick {sel : Nat} : (s.tick core sel).MemCanonical := by
  unfold State.tick
  refine .either ?_ ?_
  · split
    · exact (h.takeFree.snd ‹_›).modCore
  · refine .either ?_ ?_
    · split
      · exact (h.takeFree.snd ‹_›).modCore
    · refine .either ?_ h
      split
      · exact (h.takeFree.snd ‹_›).modCore

theorem afterRead {sel : Nat} : (s.afterRead core slot sel).MemCanonical := either h.modGang (either h.modGang h)

theorem writeSpecial {sel : Nat} {w : Word} : (s.writeSpecial core slot pid sel w).MemCanonical :=
  either h.modGang (either h (either h.modCore (either h.modCluster (either h (either h.modPart (h.congr (by rfl)))))))

/-! ### Translation (R320 to R324) -/

theorem setLineMeta {m : LineMeta} : (s.setLineMeta pline m).MemCanonical := h.congr (by rfl)

theorem addTlb {e : TlbEntry} : (s.addTlb e).MemCanonical := by
  unfold State.addTlb
  refine .either (h.congr (by rfl)) ?_
  split
  · exact (h.takeFree.snd ‹_›).congr (by rfl)

theorem keepTlb : (s.keepTlb vmid asid va).MemCanonical := by
  unfold State.keepTlb
  dsimp only
  split
  · exact h.congr (by rfl)
  · split
    · exact h.addTlb
    · exact h

theorem recordWalk {x : Walk} : (s.recordWalk asid va x).MemCanonical := by
  unfold State.recordWalk
  dsimp only
  split
  · split
    · exact h.congr (by rfl)
    · exact h.congr (by rfl)
  · exact h

theorem noteWalk {core : Option Nat} : (s.noteWalk vmid asid va core).MemCanonical := by
  unfold State.noteWalk
  dsimp only
  split
  · exact h.recordWalk
  · exact h

/-! ### The uniform instructions (R127 to R132) -/

theorem uniform {f : RForm} {bT cT : Ty} {dWide : Bool} {val : Issuer → Nat} :
    CanonicalNext (uniform f bT cT dWide val s) :=
  h.runInstr (fun _ => .bind fun _ => h.commit)

theorem uniformT {f : RForm} {val : Nat → Nat → Nat} : CanonicalNext (uniformT f val s) := h.uniform
theorem execSmov {f : RForm} : CanonicalNext (execSmov f s) := h.uniformT
theorem execSmovi {f : IForm} : CanonicalNext (execSmovi f s) := h.runInstr (fun _ => .bind fun _ => h.commit)
theorem execSadd {f : RForm} : CanonicalNext (execSadd f s) := h.uniformT
theorem execSsub {f : RForm} : CanonicalNext (execSsub f s) := h.uniformT
theorem execSmul {f : RForm} : CanonicalNext (execSmul f s) := h.uniformT
theorem execSand {f : RForm} : CanonicalNext (execSand f s) := h.uniformT
theorem execSor {f : RForm} : CanonicalNext (execSor f s) := h.uniformT
theorem execSxor {f : RForm} : CanonicalNext (execSxor f s) := h.uniformT
theorem uniformShift {f : RForm} {sh : Nat → Nat → Nat → Nat} : CanonicalNext (uniformShift f sh s) := h.uniform
theorem execSshl {f : RForm} : CanonicalNext (execSshl f s) := h.uniformShift
theorem execSshr {f : RForm} : CanonicalNext (execSshr f s) := h.uniformShift
theorem execSsar {f : RForm} : CanonicalNext (execSsar f s) := h.uniformShift
theorem execScmp {f : RForm} : CanonicalNext (execScmp f s) := h.uniform
theorem execSsel {f : RForm} : CanonicalNext (execSsel f s) := h.uniform

theorem execSrd {f : YForm} : CanonicalNext (execSrd f s) :=
  h.runInstr (fun _ => .bind fun _ => h.tick.afterRead.commit)

/-! ### Memory instructions at issue (R187 to R191) -/

theorem memIssue {k : MemKind} {f : MForm} : CanonicalNext (memIssue k f s) :=
  h.runInstr (fun _ => .bind fun _ => .either
    (.bind fun _ => .bind fun _ => .bind fun _ => .bind fun _ => (either h.issue.modGang h.issue).advance)
    (.bind fun _ => .bind fun _ => .bind fun _ => (either h.issue.modGang h.issue).advance))

theorem execLd {f : MForm} : CanonicalNext (execLd f s) := h.memIssue
theorem execSt {f : MForm} : CanonicalNext (execSt f s) := h.memIssue
theorem execSld {f : MForm} : CanonicalNext (execSld f s) := h.memIssue
theorem execLds {f : MForm} : CanonicalNext (execLds f s) := h.memIssue
theorem execSts {f : MForm} : CanonicalNext (execSts f s) := h.memIssue
theorem execAtom {f : MForm} : CanonicalNext (execAtom f s) := h.memIssue
theorem execAtoms {f : MForm} : CanonicalNext (execAtoms f s) := h.memIssue
theorem execFence {f : MForm} : CanonicalNext (execFence f s) := h.memIssue
theorem execFec {f : MForm} : CanonicalNext (execFec f s) := h.memIssue
theorem execWoreset {f : MForm} : CanonicalNext (execWoreset f s) := h.memIssue
theorem execPref {f : MForm} : CanonicalNext (execPref f s) := h.runInstr (fun _ => .bind fun _ => h.modCore.commit)

/-! ### Cached lines: the home, the L2 and the directory (R304 to R319) -/

theorem modL2 {f : L2Line → L2Line} : (s.modL2 tag line pline f).MemCanonical := h.modMem (by rfl)
theorem modL1 {f : L1Line → L1Line} : (s.modL1 core tag line f).MemCanonical := h.modCore
theorem putL1 {x : L1Line} : (s.putL1 core x).MemCanonical := h.modCore
theorem delL1 : (s.delL1 core tag line).MemCanonical := h.modCore
theorem notify : (s.notify pline).MemCanonical := either (h.modMem (by rfl)) h

theorem writeHome {off : Nat} {bs : List Byte} : (s.writeHome tag line pline off bs).MemCanonical := by
  unfold State.writeHome
  refine .notify ?_
  split
  · exact h.modL2
  · exact h.physWrite

theorem dropL1 : (s.dropL1 core tag line).MemCanonical := by
  unfold State.dropL1
  split
  · exact h
  · exact either h.modL1 (either h.delL1.writeHome h.delL1)

theorem dropTracked : (s.dropTracked tag line).MemCanonical := by
  unfold State.dropTracked
  refine foldl (fun s x h => ?_) h
  split
  · exact either h.dropL1 h
  · exact h

theorem setDir {d : DirEntry} : (s.setDir tag line pline d).MemCanonical := h.modL2
theorem openTxn {t : Txn} : (s.openTxn t).MemCanonical := h.modMem (by rfl)
theorem closeTxn : (s.closeTxn tag line).MemCanonical := h.modMem (by rfl)

theorem evictL2 {x : L2Line} : (s.evictL2 x).MemCanonical := by
  unfold State.evictL2
  dsimp only
  refine either (State.MemCanonical.physWrite (either ?_ ?_)) (either ?_ ?_)
  · exact ((either h h.dropTracked).modMem (by rfl)).withPond
  · exact (either h h.dropTracked).modMem (by rfl)
  · exact ((either h h.dropTracked).modMem (by rfl)).withPond
  · exact (either h h.dropTracked).modMem (by rfl)

theorem touchL2 : (s.touchL2 tag line pline).MemCanonical := (h.modMem (by rfl)).modL2
theorem touchLine : (s.touchLine l).MemCanonical := either h.touchL2 h

theorem recordGuard : (s.recordGuard line pline).MemCanonical := by
  unfold State.recordGuard
  split
  · exact h.congr (by rfl)
  · exact h

theorem fillL2 {mask : BitVec 16} {hint : Nat} : CanonicalOpt (s.fillL2 l mask hint) := by
  unfold State.fillL2
  dsimp only
  split
  · exact h.touchL2
  · split
    · trivial
    · rename_i victim _
      refine .either trivial (either (State.MemCanonical.recordGuard ?_) ?_)
      all_goals
        refine modMem (modMem ?_ (by rfl)) (by rfl)
        cases victim with
        | none => exact h
        | some v => exact h.evictL2

theorem noteStale {ws : List DWord} : (s.noteStale pline ws).MemCanonical := either h (h.modMem (by rfl))
theorem staleCode : (s.staleCode l).MemCanonical := h.noteStale

theorem writeAtHome {ws : List (Nat × List Byte)} : (s.writeAtHome l ws).MemCanonical :=
  (foldl (fun _ _ h => h.writeHome) h.staleCode.dropTracked.touchL2).setDir

theorem dropPref {attr : Attr} {write : Bool} : (s.dropPref core asid line attr write).MemCanonical := h.modCore
theorem dropPrefs : (s.dropPrefs core asid line).MemCanonical := h.modCore
theorem keepFill : (s.keepFill l va).MemCanonical := either h.keepTlb h

theorem grantS : (s.grantS core l).MemCanonical := by
  unfold State.grantS
  dsimp only
  split
  · exact h.putL1
  · exact h.putL1
  · split
    · exact either h.putL1.setDir h.putL1.setDir
    · exact h.modL1.putL1.setDir
    · exact h.modL1.putL1.setDir
    · exact h.putL1.setDir

theorem execGets : CanonicalNext (execGets core asid line s) := by
  unfold Machine.execGets
  split
  · exact h
  · split
    · exact h.dropPrefs
    · split
      · exact h
      · refine .either h ?_
        split
        · exact h
        · exact either (h.keepFill.fillL2.of_eq ‹_›).dropPref (h.keepFill.fillL2.of_eq ‹_›).dropPref.grantS

theorem grantM : (s.grantM core l).MemCanonical := h.dropTracked.putL1.setDir

theorem execGetm : CanonicalNext (execGetm core asid line s) := by
  unfold Machine.execGetm
  split
  · exact h
  · split
    · exact h.modCore
    · split
      · exact h
      · refine .either h ?_
        split
        · exact h
        · exact .either (h.keepFill.fillL2.of_eq ‹_›).dropPref
            (.either (h.keepFill.fillL2.of_eq ‹_›).dropPref.grantM (h.keepFill.fillL2.of_eq ‹_›).dropPref.openTxn)

theorem putClean {x : L1Line} : (s.putClean core tag line x).MemCanonical := either h.delL1 h.delL1.setDir

theorem putDirty {x : L1Line} : (s.putDirty core tag line x).MemCanonical :=
  either (either h.delL1 h.delL1.writeHome) (either h.delL1 h.delL1.writeHome).setDir

theorem putLine {x : L1Line} : (s.putLine core x).MemCanonical :=
  either (either h.putDirty h.putClean).putL1 (either h.putDirty h.putClean)

theorem execPutsPute : CanonicalNext (execPutsPute core tag line s) := by
  unfold Machine.execPutsPute
  split
  · exact h
  · exact either h h.putClean

theorem execPutmPuto : CanonicalNext (execPutmPuto core tag line s) := by
  unfold Machine.execPutmPuto
  split
  · exact h
  · exact either h.putDirty h

theorem execL2EvictRecall : CanonicalNext (execL2EvictRecall tag line s) := by
  unfold Machine.execL2EvictRecall
  split
  · exact h
  · exact either h h.evictL2

theorem execTranslationWalk {page : Nat} : CanonicalNext (execTranslationWalk vmid asid page s) := by
  unfold Machine.execTranslationWalk
  refine .either h ?_
  split
  · exact either h.keepTlb h
  · exact h.recordWalk

/-! ### When an access may perform (R195 to R199, R419) -/

theorem fillTlb {p : Pending} : (s.fillTlb r p).MemCanonical := by
  unfold State.fillTlb
  split
  · exact h
  · refine foldl (fun s x h => ?_) h
    split
    · exact h
    · exact h
    · exact h.keepFill
    · exact h

theorem markPassed {p : Pending} : (s.markPassed r p).MemCanonical := h.fillTlb.modGang

theorem addHold {p : Pending} {wrote : Bool} {g : List Nat × Nat} : (s.addHold r p tag line wrote g).MemCanonical :=
  either h (h.modMem (by rfl))

theorem passEarlier {p : Pending} : (s.passEarlier r p).MemCanonical := by
  unfold State.passEarlier
  refine foldl (fun s x h => ?_) h
  split
  · exact either h.markPassed h
  · exact h

theorem keepNoCopy {test : Outgoing → Bool} : (s.keepNoCopy test).MemCanonical := h.congr (by rfl)

theorem acquired {scope : Nat} : (s.acquired r scope).MemCanonical :=
  either h (either (h.modCore.modMem (by rfl)).keepNoCopy h.modCore)

theorem acquireOf {p : Pending} : (s.acquireOf r p).MemCanonical := by
  unfold State.acquireOf
  split
  · exact h
  · exact either h.acquired (either h.acquired h)

theorem afterTake : (s.afterTake r id).MemCanonical := by
  unfold State.afterTake
  split
  · exact either h.acquireOf h
  · exact h

/-! ### The vector integer instructions (R138 to R143, R152, R158) -/

theorem vecShort {f : RForm} {ta tb tc td : Ty} {preds : List Nat} {eff : Issuer → Effect} :
    CanonicalNext (vecShort f ta tb tc td preds eff s) :=
  h.runInstr (fun _ => .bind fun _ => .bind fun _ => h.commit)

theorem vecMap {f : RForm} {ta tb tc td : Ty} {val : Issuer → Nat → Nat} : CanonicalNext (vecMap f ta tb tc td val s) :=
  h.vecShort

theorem vecElem {f : RForm} {op : Nat → Nat → Nat → Nat} : CanonicalNext (vecElem f op s) := h.vecMap
theorem execVadd {f : RForm} : CanonicalNext (execVadd f s) := h.vecElem
theorem execVaddc {f : RForm} : CanonicalNext (execVaddc f s) := h.vecShort
theorem execVsub {f : RForm} : CanonicalNext (execVsub f s) := h.vecElem
theorem execVmul {f : RForm} : CanonicalNext (execVmul f s) := h.vecElem
theorem execVmad {f : RForm} : CanonicalNext (execVmad f s) := h.vecElem
theorem execVmin {f : RForm} : CanonicalNext (execVmin f s) := h.vecElem
theorem execVmax {f : RForm} : CanonicalNext (execVmax f s) := h.vecElem
theorem execVand {f : RForm} : CanonicalNext (execVand f s) := h.vecElem
theorem execVor {f : RForm} : CanonicalNext (execVor f s) := h.vecElem
theorem execVxor {f : RForm} : CanonicalNext (execVxor f s) := h.vecElem
theorem execVnot {f : RForm} : CanonicalNext (execVnot f s) := h.vecElem
theorem vecShift {f : RForm} {sh : Nat → Nat → Nat → Nat} : CanonicalNext (vecShift f sh s) := h.vecMap
theorem execVshl {f : RForm} : CanonicalNext (execVshl f s) := h.vecShift
theorem execVshr {f : RForm} : CanonicalNext (execVshr f s) := h.vecShift
theorem execVsar {f : RForm} : CanonicalNext (execVsar f s) := h.vecShift
theorem vecCount {f : RForm} {count : Nat → Nat → Nat} : CanonicalNext (vecCount f count s) := h.vecMap
theorem execVpopc {f : RForm} : CanonicalNext (execVpopc f s) := h.vecCount
theorem execVclz {f : RForm} : CanonicalNext (execVclz f s) := h.vecCount
theorem execVctz {f : RForm} : CanonicalNext (execVctz f s) := h.vecCount
theorem execVbfe {f : RForm} : CanonicalNext (execVbfe f s) := h.vecMap
theorem execVbfi {f : RForm} : CanonicalNext (execVbfi f s) := h.vecMap
theorem execVcmp {f : RForm} : CanonicalNext (execVcmp f s) := h.vecShort
theorem execVsel {f : RForm} : CanonicalNext (execVsel f s) := h.vecShort
theorem execVmov {f : RForm} : CanonicalNext (execVmov f s) := h.vecMap

theorem execVmovi {f : IForm} : CanonicalNext (execVmovi f s) :=
  h.runInstr (fun _ => .bind fun _ => .bind fun _ => h.commit)

theorem execVpack {f : RForm} : CanonicalNext (execVpack f s) := h.vecMap
theorem execVunpack {f : RForm} : CanonicalNext (execVunpack f s) := h.vecMap
theorem execVfree {f : EForm} : CanonicalNext (execVfree f s) := h.runInstr (fun _ => .bind fun _ => h.commit)

/-! ### The vector float instructions (R144 to R151, R153) -/

theorem vecFlags {f : RForm} {ta tb tc td : Ty} {val : Issuer → Nat → Nat × Flags} :
    CanonicalNext (vecFlags f ta tb tc td val s) :=
  h.vecShort

theorem vecFloat {f : RForm} {op : Fmt → Mode → Nat → Nat → Nat → Nat × Flags} : CanonicalNext (vecFloat f op s) := by
  unfold Machine.vecFloat
  split
  · exact h.vecFlags
  · exact h.vecFlags

theorem execVfadd {f : RForm} : CanonicalNext (execVfadd f s) := h.vecFloat
theorem execVfsub {f : RForm} : CanonicalNext (execVfsub f s) := h.vecFloat
theorem execVfmul {f : RForm} : CanonicalNext (execVfmul f s) := h.vecFloat
theorem execVfma {f : RForm} : CanonicalNext (execVfma f s) := h.vecFloat
theorem execVfmin {f : RForm} : CanonicalNext (execVfmin f s) := h.vecFloat
theorem execVfmax {f : RForm} : CanonicalNext (execVfmax f s) := h.vecFloat
theorem execVfcmp {f : RForm} : CanonicalNext (execVfcmp f s) := h.vecShort

theorem execVfclass {f : RForm} : CanonicalNext (execVfclass f s) := by
  unfold Machine.execVfclass
  split
  · exact h.vecMap
  · exact h.vecMap

theorem execVfract {f : RForm} : CanonicalNext (execVfract f s) := h.vecFloat
theorem execVfrnd {f : RForm} : CanonicalNext (execVfrnd f s) := h.vecFloat

theorem execVldexp {f : RForm} : CanonicalNext (execVldexp f s) := by
  unfold Machine.execVldexp
  split
  · exact h.vecFlags
  · exact h.vecFlags

theorem execVfrexp {f : RForm} : CanonicalNext (execVfrexp f s) := by
  unfold Machine.execVfrexp
  dsimp only
  split
  · exact h.vecFlags
  · exact h.vecFlags

theorem vecLong {f : RForm} {k : Ctr} {us : List Use} {rel : List Nat} {td : Ty} {out : Issuer → Out} :
    CanonicalNext (vecLong f k us rel td out s) :=
  h.runInstr (fun _ => .bind fun _ => .bind fun _ => .bind fun _ => h.issue.advance)

theorem vecSpecial {f : RForm} {op : SfuOp} : CanonicalNext (vecSpecial f op s) := h.vecLong
theorem execVrcp {f : RForm} : CanonicalNext (execVrcp f s) := h.vecSpecial
theorem execVrsq {f : RForm} : CanonicalNext (execVrsq f s) := h.vecSpecial
theorem execVsqrt {f : RForm} : CanonicalNext (execVsqrt f s) := h.vecSpecial
theorem execVdiv {f : RForm} : CanonicalNext (execVdiv f s) := h.vecSpecial
theorem execVexp2 {f : RForm} : CanonicalNext (execVexp2 f s) := h.vecSpecial
theorem execVlog2 {f : RForm} : CanonicalNext (execVlog2 f s) := h.vecSpecial
theorem execVsinpi {f : RForm} : CanonicalNext (execVsinpi f s) := h.vecSpecial
theorem execVcospi {f : RForm} : CanonicalNext (execVcospi f s) := h.vecSpecial
theorem execVcvt {src : Ty} {f : RForm} : CanonicalNext (execVcvt src f s) := h.vecFlags
theorem execVcamrel {f : RForm} : CanonicalNext (execVcamrel f s) := h.vecFlags

/-! ### Accesses performing (R192 to R207) -/

theorem logWrite : (s.logWrite vmid asid va).2.MemCanonical := by
  unfold State.logWrite
  split
  · exact h
  · split
    · extract_lets page logged
      split
      · exact h
      · split
        · split
          · exact h
          · exact h.modPart.post.raiseIrq
        · exact h.physWrite.physWrite.keepTlb.congr (by rfl)
    · exact h

theorem keepRoute {number tdev port : Nat} : (s.keepRoute team number tdev port).MemCanonical := h.congr (by rfl)

theorem sendOut {number : Nat} {at_ : Nat × Nat} {mk : Option Nat → Outgoing} {tdev : Nat} :
    CanonicalOpt (s.sendOut team number at_ mk tdev) := by
  unfold State.sendOut
  refine .either h (.map fun port => ?_)
  have routed : (s.keepRoute team number tdev port).MemCanonical := h.keepRoute
  exact routed

theorem sendRemote {p : Pending} {key tdev tvmid tasid tva gtag : Nat} {op : RemoteOp} :
    (s.sendRemote r p key tdev tvmid tasid tva gtag va op).MemCanonical :=
  h.sendOut.getD h.modGang

theorem readLine {hint : Nat} : CanonicalOpt (s.readLine core vmid l hint va) :=
  .either h (.either trivial h.keepFill.fillL2)

theorem takeElem {p : Pending} {k : MemKind} {f : MForm} {key : Nat} : (s.takeElem r p k f key va).MemCanonical := by
  unfold State.takeElem
  dsimp only
  split
  · refine .either h ?_
    split
    · exact h.modGang
    · exact either h h.sendRemote
  · exact h
  · split
    · exact h
    · split
      · exact either h (h.readLine.of_eq ‹_›).modGang.addHold
      · exact h

theorem loadDeliver {k : MemKind} {f : MForm} : (s.loadDeliver r id k f).MemCanonical := by
  unfold State.loadDeliver
  split
  · exact either h.deliver h
  · exact h

theorem loadArrive {p : Pending} {k : MemKind} {f : MForm} {part : Option Nat} :
    (s.loadArrive r p k f part).MemCanonical := by
  unfold State.loadArrive
  extract_lets now passed taken gone
  have htaken : taken.MemCanonical := foldl (fun _ _ h => h.takeElem) (either h h.markPassed)
  have hgone : gone.MemCanonical := either htaken htaken.modGang.afterTake
  exact either (either h h.acquireOf.deliver) (either hgone.loadDeliver hgone)

theorem ldsTake {p : Pending} {f : MForm} {es : List (Nat × Nat)} : (s.ldsTake r p f es).MemCanonical := h.modGang

theorem ldsArrive {p : Pending} {f : MForm} {part : Option Nat} : (s.ldsArrive r p f part).MemCanonical := by
  unfold State.ldsArrive
  extract_lets gs whole now clear taken cleared gone
  have htaken : taken.MemCanonical := h.ldsTake
  have hcleared : cleared.MemCanonical := either htaken.modTeam htaken
  have hgone : gone.MemCanonical := either hcleared.acquireOf (either hcleared hcleared.afterTake)
  exact either h (either hgone.loadDeliver hgone)

theorem atomsLane {f : MForm} {t : Team} {p : Pending} : (s.atomsLane r id f t p).MemCanonical := by
  unfold State.atomsLane
  split
  · exact h
  · exact h.modTeam.modGang

theorem atomsLanes {f : MForm} {x : Nat} : (s.atomsLanes r id f x).MemCanonical := by
  induction x generalizing s with
  | zero => exact h
  | succ n ih =>
    rw [State.atomsLanes]
    split
    · exact ih h.atomsLane
    · exact h

theorem atomsPerform {p : Pending} {f : MForm} {one : Bool} : (s.atomsPerform r p f one).MemCanonical := by
  unfold State.atomsPerform
  extract_lets performed gone
  have hgone : gone.MemCanonical := either h.atomsLanes.acquireOf h.atomsLanes.afterTake
  refine either h ?_
  split
  · exact either hgone hgone.deliver
  · exact hgone

theorem stsPerform {p : Pending} {f : MForm} {key : Option Nat} : (s.stsPerform r p f key).MemCanonical :=
  either h (either h.modTeam.deliver h.modTeam.modGang)

theorem fecPerform {p : Pending} {f : MForm} {granule : Option Nat} : (s.fecPerform r p f granule).MemCanonical :=
  either h (either h.modTeam.deliver h.modTeam.modGang)

theorem fenceCode {scope : Nat} : (s.fenceCode core scope).MemCanonical := h.modMem (by rfl)

theorem fencePerform {p : Pending} {f : MForm} : (s.fencePerform r p f).MemCanonical :=
  either (either h.acquireOf.modGang h).fenceCode.deliver (either h.acquireOf.modGang h)

theorem storeDone {p : Pending} {f : MForm} {lines : List Nat} : (s.storeDone r p f lines).MemCanonical := by
  unfold State.storeDone
  dsimp only
  split
  · exact either h.modGang.acquireOf.deliver h.modGang
  · exact h.modGang

theorem dropClaims : (s.dropClaims core slot id).MemCanonical := h.modMem (by rfl)

theorem woWrite {core : Option Nat} {ws : List (Nat × Nat × List Byte)} : (s.woWrite core l ws).MemCanonical := by
  unfold State.woWrite
  split
  · exact (foldl (fun _ _ h => h.writeHome) h.staleCode.touchL2).setLineMeta.modL1
  · exact (foldl (fun _ _ h => h.writeHome) h.staleCode.touchL2).setLineMeta

theorem claimsFailed {p : Pending} {f : MForm} : (s.claimsFailed r p f).MemCanonical := h.dropClaims.modGang

theorem claimLine {p : Pending} {f : MForm} : (s.claimLine r p f l).MemCanonical :=
  either h.claimsFailed (either (foldl (fun _ _ h => h.woWrite.addHold) (h.modMem (by rfl)).dropClaims).storeDone
    (h.modMem (by rfl)))

theorem storeHome {ws : List (Nat × Nat × List Byte)} : (s.storeHome l ws).MemCanonical := h.writeAtHome

theorem storeLine {p : Pending} {f : MForm} {g : List Nat × Nat} : (s.storeLine r p f l g).MemCanonical := by
  unfold State.storeLine
  refine .either (either h.staleCode.modL1.addHold.storeDone h) ?_
  refine .either h.staleCode.modL1.addHold.storeDone ?_
  refine .either h ?_
  split
  · exact h
  · split
    · exact (h.keepFill.fillL2.of_eq ‹_›).storeHome.addHold.storeDone
    · exact (h.keepFill.fillL2.of_eq ‹_›).openTxn

theorem storeRemote {p : Pending} {f : MForm} : (s.storeRemote r p f line).MemCanonical := by
  unfold State.storeRemote
  refine .either ?_ ?_
  · refine .storeDone ?_
    refine foldl (fun s x h => ?_) h
    split
    · exact either h h.modGang.sendRemote
    · exact h
  · refine foldl (fun s x h => ?_) h
    split
    · exact either h h.modGang.sendRemote
    · exact h

theorem passAll {p : Pending} : (s.passAll r p).MemCanonical := either h.passEarlier.markPassed h.passEarlier

theorem storeLocal {p : Pending} {f : MForm} {lanes : Table Nat} : (s.storeLocal r p f lanes l).MemCanonical := by
  unfold State.storeLocal
  dsimp only
  split
  · exact h
  · exact either h (either h.passAll.logWrite
      (either h.passAll.logWrite.claimLine (either h.passAll.logWrite.storeLine h.passAll.logWrite)))

theorem storePerform {p : Pending} {f : MForm} : (s.storePerform r p f line).MemCanonical := by
  unfold State.storePerform
  refine .either (either h h.deliver) ?_
  refine .either h.storeDone ?_
  refine .either h ?_
  split
  · exact either h h.passAll.storeRemote
  · exact h
  · split
    · exact h
    · exact h.storeLocal

theorem laneDone {p : Pending} {old : List Byte} : (s.laneDone r p lane old).MemCanonical := h.modGang.afterTake

theorem atomHome {p : Pending} {f : MForm} {g : List Nat × Nat} : (s.atomHome r p f lane va l g).MemCanonical :=
  h.writeAtHome.addHold.laneDone

theorem atomL1 {p : Pending} {f : MForm} {x : L1Line} {g : List Nat × Nat} :
    (s.atomL1 r p f lane va l x g).MemCanonical :=
  h.staleCode.modL1.addHold.laneDone

theorem atomLocal {p : Pending} {f : MForm} {g : List Nat × Nat} : (s.atomLocal r p f lane va l g).MemCanonical := by
  unfold State.atomLocal
  refine .either h.logWrite ?_
  refine .either ?_ ?_
  · split
    · exact h.logWrite.atomL1
    · exact h.logWrite
  · refine .either h.logWrite ?_
    split
    · exact h.logWrite
    · split
      · exact (h.logWrite.keepFill.fillL2.of_eq ‹_›).atomHome
      · exact (h.logWrite.keepFill.fillL2.of_eq ‹_›).openTxn

theorem atomStep {p : Pending} {f : MForm} : (s.atomStep r p f).MemCanonical := by
  unfold State.atomStep
  dsimp only
  split
  · exact h
  · split
    · exact either h h.passAll.sendRemote.modGang
    · exact h
    · split
      · exact h
      · split
        · exact h
        · exact h.passAll.atomLocal

theorem atomFinish {p : Pending} {f : MForm} : (s.atomFinish r p f).MemCanonical :=
  either (either h.acquireOf h).deliver h

theorem resetFrame {frame : Nat} : (s.resetFrame frame).MemCanonical :=
  (foldl (fun _ _ h => h.evictL2) (foldl (fun _ _ h => foldl (fun _ _ h => h.dropL1) h) h)).modMem (by rfl)

theorem resetUnits {x : Nat} {y : Nat} : (s.resetUnits r x y).MemCanonical := by
  induction x generalizing s y with
  | zero => exact h
  | succ n ih =>
    rw [State.resetUnits]
    apply ih
    split
    · exact h.resetFrame
    · exact h

theorem woresetDone : (s.woresetDone r id va).MemCanonical := by
  unfold State.woresetDone
  split
  · exact either h.deliver h
  · exact h

theorem woresetRun {p : Pending} {x : Nat × Nat} : (s.woresetRun r p va x).MemCanonical := by
  unfold State.woresetRun
  refine .either h ?_
  split
  · exact either h h.modGang.sendRemote
  · exact h.modGang.resetUnits

theorem woresetPerform {p : Pending} : (s.woresetPerform r p).MemCanonical := by
  unfold State.woresetPerform
  split
  · exact either h (foldl (fun _ _ h => h.woresetRun) h.passEarlier.markPassed).woresetDone
  · exact h

theorem execMemoryAccessPerform {part : Nat} : CanonicalNext (execMemoryAccessPerform core gang id part s) := by
  unfold Machine.execMemoryAccessPerform
  dsimp only
  split
  · exact h
  · split
    · exact h
    · split
      · refine .either h ?_
        split
        · exact h.storePerform
        · exact h.stsPerform
        · exact h.fecPerform
        · exact h.fencePerform
        · exact h.woresetPerform
        · exact either h h.atomFinish
        · exact either h h.atomsPerform
        · exact h
      · exact h

theorem execHomeAtomic : CanonicalNext (execHomeAtomic core gang id s) := by
  unfold Machine.execHomeAtomic
  split
  · exact h
  · split
    · exact h
    · split
      · exact h.atomStep
      · exact h

theorem memArrive {p : Pending} {part : Option Nat} : (s.memArrive r p part).MemCanonical := by
  unfold State.memArrive
  split
  · refine .either h ?_
    split
    · exact h.loadArrive
    · exact h.loadArrive
    · exact h.ldsArrive
    · exact either h.atomFinish h
    · exact either h.atomsPerform h
    · exact h
  · exact h

theorem finishWrite : (s.finishWrite core gang id tag line).MemCanonical := by
  unfold State.finishWrite
  split
  · exact h
  · split
    · exact h
    · split
      · split
        · exact either h.storePerform h
        · exact h
      · split
        · exact either h.atomStep h
        · exact h
      · exact h

theorem settleDir {d : DirEntry} : (s.settleDir tag line d).MemCanonical := by
  unfold State.settleDir
  split
  · exact h.setDir
  · exact h

theorem finishTxn {t : Txn} : (s.finishTxn t).MemCanonical := by
  unfold State.finishTxn
  dsimp only
  split
  · split
    · exact either h.closeTxn.grantM h.closeTxn.settleDir
    · exact h.closeTxn
  · exact h.closeTxn.settleDir.finishWrite
  · exact h.closeTxn.settleDir

theorem execProbeAck : CanonicalNext (execProbeAck core tag line s) := by
  unfold Machine.execProbeAck
  split
  · exact h
  · exact .either h (either ((either h.dropL1 h).modMem (by rfl)).finishTxn ((either h.dropL1 h).modMem (by rfl)))

theorem noteWalks {p : Pending} : (s.noteWalks r p).MemCanonical := foldl (fun _ _ h => h.noteWalk) h

theorem execDeferredFaultArrive : CanonicalNext (execDeferredFaultArrive core gang id s) := by
  unfold Machine.execDeferredFaultArrive
  split
  · exact h
  · split
    · exact h
    · split
      · exact .either h (either h.acquired h).noteWalks.modGang
      · exact h

/-! ### Barriers and the Damsel (R277 to R285) -/

theorem issueKnown {c : Issuer} {ws : List (Nat × Word)} : (s.issueKnown c ws).MemCanonical := h.issue.advance
theorem waitFor {c : Issuer} : (s.waitFor c id).MemCanonical := h.modGang
theorem setBarrier {bar : Nat} {b : Barrier} : (s.setBarrier cl bar b).MemCanonical := h.modCluster

theorem deliverWait {status : Word × Word} : (s.deliverWait core slot id status).MemCanonical := by
  unfold State.deliverWait
  split
  · exact h
  · split
    · exact h
    · exact h.acquired.deliver

theorem arrive {bar m : Nat} {err : Bool} {granules : Nat} : (s.arrive cl bar m err granules).MemCanonical :=
  foldl (fun _ _ h => h.deliverWait) h.setBarrier

theorem barrierLook {bar phase : Nat} {restored : Bool} :
    (s.barrierLook core slot id bar phase restored).MemCanonical :=
  either h.deliverWait (either h.deliverWait h.modGang)

theorem arriveRequest {bar count : Nat} {err wait : Bool} :
    (s.arriveRequest core slot id bar count err wait).MemCanonical := by
  unfold State.arriveRequest
  dsimp only
  refine .either (either h.deliverWait h.modGang.arrive) ?_
  split
  · exact h.arrive.deliver
  · exact h.arrive

theorem execBarinit {f : EForm} : CanonicalNext (execBarinit f s) :=
  h.runInstr (fun _ => .bind fun _ => .bind fun _ => .bind fun _ => h.setBarrier.issueKnown)

theorem arriveIssue {f : EForm} {wait : Bool} : CanonicalNext (arriveIssue f wait s) :=
  h.runInstr (fun _ => .bind fun _ => .bind fun _ => .bind fun _ => .bind fun _ =>
    (either h.issue.waitFor h.issue).advance)

theorem execBara {f : EForm} : CanonicalNext (execBara f s) := h.arriveIssue
theorem execBaraw {f : EForm} : CanonicalNext (execBaraw f s) := h.arriveIssue

theorem execBarw {f : EForm} : CanonicalNext (execBarw f s) :=
  h.runInstr (fun _ => .bind fun _ => .bind fun _ => .bind fun _ => h.issue.waitFor.advance)

theorem setDamsel {d : DamselSlot} : (s.setDamsel cl slot d).MemCanonical := h.modCluster

theorem execRangeset {f : EForm} : CanonicalNext (execRangeset f s) := by
  unfold Machine.execRangeset
  refine runInstr h ?_
  intro c
  refine .bind fun _ => ?_
  refine .bind fun _ => ?_
  split
  · trivial
  · exact .bind fun _ => h.setDamsel.issueKnown

theorem execTake {f : EForm} : CanonicalNext (execTake f s) :=
  h.runInstr (fun _ => .bind fun _ => .bind fun _ => .bind fun _ => h.setDamsel.issueKnown)

/-! ### The copy engines (R267 to R276) -/

theorem touchRead {group : Option Group} {vas : List Nat} : (s.touchRead vmid asid group vas).MemCanonical := by
  unfold State.touchRead
  refine foldl (fun s x h => ?_) h
  split
  · exact h.touchLine
  · exact h.touchLine
  · exact h

theorem askMigration {code : Code} : (s.askMigration vmid code va).MemCanonical := by
  unfold State.askMigration
  split
  · exact either h.post h
  · exact h

theorem modLeat {f : Leat → Leat} : (s.modLeat cl unit f).MemCanonical := h.modCluster
theorem modCopy {seq : Nat} {f : Copy → Copy} : (s.modCopy cl unit seq f).MemCanonical := h.modLeat

theorem execCpy {f : EForm} : CanonicalNext (execCpy f s) :=
  h.runInstr (fun _ => .bind fun _ => .either trivial
    (.either trivial (.either (.bind fun _ => .either trivial (.bind fun _ => h.issue.advance))
    (.either trivial (.bind fun _ => h.issue.advance)))))

theorem cpyRequest {p : Pending} {desc which : Nat} : (s.cpyRequest r p desc which).MemCanonical :=
  either h h.modLeat.deliver

theorem execCpystat {f : EForm} : CanonicalNext (execCpystat f s) :=
  h.runInstr (fun _ => .bind fun _ => .bind fun _ => h.issueKnown)

theorem copyFault {c : Copy} {code : Code} : (s.copyFault cl unit c code va).MemCanonical :=
  either h.noteWalk.askMigration.modCopy h.noteWalk.askMigration.modCopy

theorem execCopyStart {cluster : Nat} : CanonicalNext (execCopyStart cluster unit s) := by
  unfold Machine.execCopyStart
  refine .either h ?_
  split
  · exact h
  · refine .either h ?_
    split
    · exact h
    · exact h.modCopy.copyFault
    · exact h.touchRead.modCopy

theorem copySend {c : Copy} {tdev tvmid tasid tva gtag key : Nat} {op : RemoteOp} :
    (s.copySend cl unit c tdev tvmid tasid tva gtag va key op).MemCanonical :=
  h.sendOut.getD h.modCopy

theorem copyAsk {c : Copy} {d : CopyDesc} {us : List Nat} : (s.copyAsk cl unit c d us).MemCanonical := by
  unfold State.copyAsk
  dsimp only
  refine foldl (fun s x h => ?_) h
  refine .either h ?_
  split
  · exact h.copySend
  · exact h

theorem copyToMemory {c : Copy} {bs : List Byte} {y : Stream} : (s.copyToMemory cl unit c va bs y).MemCanonical := by
  unfold State.copyToMemory
  split
  · exact h.copyFault
  · exact h.modCopy

theorem copyDeliver {c : Copy} {d : CopyDesc} {bs : List Byte} {y : Stream} :
    (s.copyDeliver cl unit c d bs y).MemCanonical := by
  unfold State.copyDeliver
  refine .either h.touchRead.modTeam.modCopy ?_
  refine .either h.touchRead.copyFault ?_
  split
  · exact either h.touchRead h.touchRead.copySend.modCopy
  · exact either h.touchRead (either h.touchRead.copySend.modCopy h.touchRead.modCopy)
  · exact h.touchRead.copyToMemory

theorem execCopyGranuleDeliver {cluster : Nat} : CanonicalNext (execCopyGranuleDeliver cluster unit s) := by
  unfold Machine.execCopyGranuleDeliver
  refine .either h ?_
  split
  · exact h
  · split
    · exact h
    · refine .either h ?_
      split
      · exact h
      · exact h.copyAsk
      · exact h.modCopy
      · exact h.copyFault
      · exact h.copyDeliver

theorem copyAcked {seq : Nat} : (s.copyAcked cl unit seq).MemCanonical := by
  unfold State.copyAcked
  split
  · exact h
  · split
    · exact h
    · exact h.modCopy

theorem lineFails {c : Copy} {code : Code} : (s.lineFails cl unit c code va).MemCanonical :=
  either h.copyFault h.copyFault.modCopy

theorem writeUnowned {c : Copy} {d : CopyDesc} : (s.writeUnowned cl unit c d l).MemCanonical :=
  either (either h.lineFails h.woWrite.modCopy) h.writeAtHome.modCopy

theorem execEngineLineRequest {cluster : Nat} : CanonicalNext (execEngineLineRequest cluster unit asid line s) := by
  unfold Machine.execEngineLineRequest
  refine .either h ?_
  split
  · exact h
  · split
    · exact h
    · refine .either h ?_
      split
      · exact h.lineFails
      · refine .either h ?_
        refine .either h.logWrite ?_
        refine .either h.logWrite.keepFill.writeUnowned ?_
        split
        · exact h
        · exact either (h.logWrite.fillL2.of_eq ‹_›).finishTxn (h.logWrite.fillL2.of_eq ‹_›).openTxn

theorem writeLine {c : Copy} {d : CopyDesc} {x : L2Line} : (s.writeLine cl unit c d x).MemCanonical :=
  h.writeAtHome.modCopy

theorem execEngineLineRelease {cluster : Nat} : CanonicalNext (execEngineLineRelease cluster unit asid line s) := by
  unfold Machine.execEngineLineRelease
  refine .either h ?_
  split
  · split
    · exact h.writeLine
    · exact h
  · exact h

theorem queueBinding : (s.queueBinding cl core team).MemCanonical := by
  unfold State.queueBinding
  split
  · exact h
  · refine .either h ?_
    split
    · exact h.modTeam
    · exact either h h.modTeam.modLeat
    · exact h

theorem queueBindings : (s.queueBindings cl).MemCanonical := foldl (fun _ _ h => h.queueBinding) h

theorem poisonRest {c : Copy} : (s.poisonRest c).MemCanonical := by
  unfold State.poisonRest
  split
  · exact either h h.modTeam
  · exact h

theorem endCopy {c : Copy} {code : Option Code} : (s.endCopy cl unit c code).MemCanonical := by
  unfold State.endCopy
  refine .releaseTeam ?_
  refine .queueBindings ?_
  split
  · exact either (either h.poisonRest h).modCopy.arrive (either h.poisonRest h).modCopy
  · exact (either h.poisonRest h).modCopy

theorem execCopyEnd {cluster : Nat} : CanonicalNext (execCopyEnd cluster unit s) := by
  unfold Machine.execCopyEnd
  refine .either h ?_
  split
  · exact h
  · refine .either h ?_
    split
    · exact h.endCopy
    · exact h
    · refine .either h.endCopy ?_
      refine .either h ?_
      split
      · exact h.endCopy
      · exact h

/-! ### The visibility unit (R286 to R294) -/

theorem execPrim {f : EForm} : CanonicalNext (execPrim f s) :=
  h.runInstr (fun _ => .bind fun _ => .either trivial
    (.either trivial (.bind fun _ => .either trivial (.bind fun _ => h.issue.advance))))

theorem modVis {f : Vis → Vis} : (s.modVis cl f).MemCanonical := h.modCluster

theorem primTaken {p : Pending} {flush : Bool} : (s.primTaken r p cl flush).MemCanonical :=
  either h.modVis.deliver h.modVis.modVis.modGang

theorem primArrive {p : Pending} {flush : Bool} : (s.primArrive r p flush).MemCanonical := by
  unfold State.primArrive
  dsimp only
  refine .either h ?_
  refine .either h.primTaken ?_
  split
  · exact h.modVis
  · exact h.modVis.noteWalk.modGang
  · split
    · exact h.modVis.touchRead.noteWalk.modGang
    · exact either h.modVis.touchRead.modVis
        (either h.modVis.touchRead.modVis.modGang.primTaken h.modVis.touchRead.modVis.modGang)

theorem execFlushClassesArrive : CanonicalNext (execFlushClassesArrive core gang id s) := by
  unfold Machine.execFlushClassesArrive
  split
  · exact h
  · split
    · exact h
    · split
      · refine .either h ?_
        split
        · exact h.modVis.modGang
        · exact h.deliver
      · exact h

theorem homeMax {x : Nat} : (s.homeMax cl l vmid asid va n x).2.MemCanonical := by
  unfold State.homeMax
  dsimp only
  split
  · exact h
  · split
    · exact h.logWrite
    · exact h.logWrite.dropTracked.writeAtHome

theorem visFault {c : DrawCtx} {code : Code} : (s.visFault cl c code va n).MemCanonical :=
  either h.noteWalk.askMigration.modVis h.noteWalk.askMigration.modVis

theorem testSample {t : Tri} {word : Nat} : (s.testSample cl t n va word).MemCanonical := by
  unfold State.testSample
  dsimp only
  split
  · exact h.visFault
  · refine .either h ?_
    refine .either h.touchLine.modVis ?_
    split
    · exact h.visFault
    · split
      · exact (h.homeMax.snd ‹_›).touchLine.modVis
      · exact h.homeMax.snd ‹_›

theorem execRasterSampleWrite {cluster : Nat} : CanonicalNext (execRasterSampleWrite cluster s) := by
  unfold Machine.execRasterSampleWrite
  dsimp only
  split
  · exact h
  · refine .either h ?_
    split
    · exact h.modVis
    · split
      · exact h.modVis
      · refine .either h.testSample ?_
        split
        · exact h.visFault
        · split
          · exact (h.homeMax.snd ‹_›).modVis
          · exact h.homeMax.snd ‹_›

theorem execEngineFirmwareServiceDone {cluster : Nat} :
    CanonicalNext (execEngineFirmwareServiceDone cluster unit s) := by
  unfold Machine.execEngineFirmwareServiceDone
  refine .either ?_ h.modVis
  split
  · exact h.modCopy
  · exact h

theorem execOccq {f : EForm} : CanonicalNext (execOccq f s) := by
  unfold Machine.execOccq
  refine runInstr h ?_
  intro c
  refine .bind fun _ => ?_
  refine .either trivial ?_
  split
  · trivial
  · exact .bind fun _ => .bind fun _ => h.issue.advance

/-! ### The traversal unit (R295 to R298) -/

theorem execRayq {f : EForm} : CanonicalNext (execRayq f s) :=
  h.runInstr (fun _ => .bind fun _ => .bind fun _ => .bind fun _ => h.issue.advance)

theorem rayLane {p : Pending} {ws : List Word} : (s.rayLane r p lane ws).MemCanonical :=
  either h.modGang.deliver h.modGang

theorem freeWords : (s.freeWords).2.MemCanonical := h.congr (by rfl)

theorem execRayqDeliver : CanonicalNext (execRayqDeliver core gang id lane s) := by
  unfold Machine.execRayqDeliver
  dsimp only
  split
  · exact h
  · split
    · exact h
    · split
      · refine .either h ?_
        refine .either h.deliver ?_
        split
        · exact h
        · refine .either h ?_
          split
          · exact h.rayLane
          · exact h.freeWords.rayLane
          · split
            · exact h
            · exact h.touchRead.rayLane
            · exact h.touchRead.noteWalk.modGang
            · exact h.touchRead.rayLane
            · exact h.touchRead.rayLane
      · exact h

theorem execRaywait {_f : EForm} : CanonicalNext (execRaywait _f s) :=
  h.runInstr (fun _ => .bind fun _ => .bind fun _ => h.issue.waitFor.advance)

/-! ### Control flow and predicates (R107 to R126) -/

theorem branch {c : Issuer} {f : CForm} : CanonicalOk (c.branch s f) := .bind fun _ => h.endClause
theorem execNop {f : CForm} : CanonicalNext (execNop f s) := h.runInstr (fun _ => .bind fun _ => h.commit)
theorem execBr {f : CForm} : CanonicalNext (execBr f s) := h.runInstr (fun _ => h.branch)
theorem execBrc {f : CForm} : CanonicalNext (execBrc f s) := h.runInstr (fun _ => h.branch)

theorem lookup {c : Issuer} {f : CForm} {call : Bool} : CanonicalOk (c.lookup s f call) := by
  unfold Issuer.lookup
  dsimp only
  refine .either trivial (.bind fun _ => .bind fun _ => ?_)
  split
  · trivial
  · exact .either h.fallThrough (.bind fun _ => h.fresh.modGang.modCore)

theorem execBrx {f : CForm} : CanonicalNext (execBrx f s) := h.runInstr (fun _ => h.lookup)
theorem execLpad {f : CForm} : CanonicalNext (execLpad f s) := h.runInstr (fun _ => .bind fun _ => h.commit)

theorem execCall {f : CForm} : CanonicalNext (execCall f s) :=
  h.runInstr (fun _ => .either trivial (.bind fun _ => .bind fun _ => h.applyEffect.endClause))

theorem execCallx {f : CForm} : CanonicalNext (execCallx f s) := h.runInstr (fun _ => h.lookup)

theorem execRet {f : CForm} : CanonicalNext (execRet f s) := by
  unfold Machine.execRet
  dsimp only
  refine runInstr h ?_
  intro c
  refine .bind fun _ => ?_
  split
  · trivial
  · exact h.endClause

theorem execSpawn {f : CForm} : CanonicalNext (execSpawn f s) :=
  h.runInstr (fun _ => .bind fun _ => .either h.commit (h.congr (by rfl)).modGang.modCore.advance)

theorem execEndFibre {f : CForm} : CanonicalNext (execEndFibre f s) :=
  h.runInstr (fun _ => .bind fun _ => h.modGang.endClause)

theorem execYield {f : CForm} : CanonicalNext (execYield f s) :=
  h.runInstr (fun _ => .bind fun _ => h.modGang.fallThrough)

theorem execTrap {f : CForm} : CanonicalNext (execTrap f s) :=
  h.runInstr (fun _ => .bind fun _ => .either h.fallThrough h.endClause.takeFault)

theorem execBkpt {f : CForm} : CanonicalNext (execBkpt f s) :=
  h.runInstr (fun _ => .bind fun _ => (either h h.modGang).commit)

theorem execPset {d a b : Fin 7} {tt : BitVec 4} {g : Guard} : CanonicalNext (execPset d a b tt g s) :=
  h.runInstr (fun _ => .bind fun _ => h.commit)

theorem execPmovGet {f : RForm} : CanonicalNext (execPmovGet f s) :=
  h.runInstr (fun _ => .bind fun _ => .bind fun _ => h.commit)

theorem execPmovSet {f : RForm} : CanonicalNext (execPmovSet f s) :=
  h.runInstr (fun _ => .bind fun _ => .bind fun _ => .bind fun _ => h.commit)

theorem decodeFault {c : Issuer} {code : Code} : (s.decodeFault c code).MemCanonical := h.faultHere

/-! ### Clauses: choosing, checking and issuing (R17 to R46) -/

theorem noteFetch {gr : Grid} {words : Nat} : (s.noteFetch core gr va words).MemCanonical := by
  unfold State.noteFetch
  refine foldl (fun s x h => ?_) h
  split
  · exact h
  · exact either h h.modCore

theorem countGangs {chosen : Nat} : (s.countGangs core chosen).MemCanonical := h.modCore

theorem staticFault {b : SubGang} {code : Code} {fetch : Bool} : (s.staticFault r b code va fetch).MemCanonical :=
  h.takeFault

theorem startClause {pipe : Nat} {b : SubGang} {w : DWord} {ws : List DWord} :
    (s.startClause r pipe b w ws).MemCanonical :=
  h.modGang.noteFetch.modCore

theorem issueClause {pipe : Nat} {b : SubGang} : (s.issueClause r pipe b).MemCanonical := by
  unfold State.issueClause
  dsimp only
  refine .either h.breakpoint ?_
  split
  · exact either h.setGang.withFree.report h.setGang.withFree.staticFault
  · exact either h.setGang.withFree.report h.setGang.withFree.startClause

theorem resumeClause {pipe : Nat} {b : SubGang} : (s.resumeClause r pipe b).MemCanonical := by
  unfold State.resumeClause
  dsimp only
  split
  · exact h
  · split
    · exact (h.congr (by rfl)).takeFault
    · exact (h.congr (by rfl)).modGang.modCore

theorem goOn {pipe : Nat} {b : SubGang} : (s.goOn r pipe b).MemCanonical := by
  unfold State.goOn
  split
  · exact h.modGang
  · exact either h.resumeClause (either h.issueClause h.modGang)

theorem markStepped : (s.markStepped core).MemCanonical := h.modCore

theorem execClauseIssue {pipe : Nat} : CanonicalNext (execClauseIssue core pipe s) := by
  unfold Machine.execClauseIssue
  dsimp only
  refine .either h ?_
  split
  · exact h.markStepped
  · split
    · exact h.markStepped.countGangs
    · split
      · exact h.markStepped.countGangs
      · exact h.markStepped.countGangs.setGang.goOn

theorem execParkRelease : CanonicalNext (execParkRelease core gang sub s) := by
  unfold Machine.execParkRelease
  split
  · exact h
  · split
    · exact h
    · exact .either h (.either h.modGang.report h.modGang)

theorem execRegisterParkRelease : CanonicalNext (execRegisterParkRelease core s) := by
  unfold Machine.execRegisterParkRelease
  split
  · exact h
  · exact .either h.registerDeadlock h.modGang

theorem readEntry {p : Pending} {o : Option (State × List Byte)}
    (e : s.readEntry r p va = .ok o) : CanonicalWith o := by
  unfold State.readEntry at e
  split at e
  · cases e
  split at e
  · cases e
  split at e
  · cases e
  · cases e
  split at e
  · cases e
  split at e
  · cases e
    trivial
  split at e
  · cases e
    trivial
  · cases e
    exact (h.readLine.of_eq ‹_›).modGang

theorem readEntries {p : Pending} {l : Table Nat} :
    CanonicalWith (s.readEntries r p l) := by
  induction l generalizing s with
  | nil => exact h
  | cons y rest ih =>
    rw [State.readEntries]
    split
    · trivial
    · exact (ih h).map
    · exact (ih ((readEntry h ‹_›).of_eq rfl)).map

theorem tableJump {b : SubGang} {call : Bool} {shift : Nat} {header clauseEnd : DWord} {act : Lanes}
    {es : List (Nat × Entry)} {park : Bool} : (s.tableJump r b call shift header clauseEnd act es park).MemCanonical :=
  (h.congr (by rfl)).modGang.boundary

theorem lookedUp {b : SubGang} {call : Bool} {shift : Nat} {header clauseEnd : DWord} {act : Lanes}
    {es : List (Nat × Entry)} : (s.lookedUp r b call shift header clauseEnd act es).MemCanonical := by
  unfold State.lookedUp
  split
  · exact (h.congr (by rfl)).takeFault
  · exact either (h.congr (by rfl)).tableJump (h.congr (by rfl)).parkForRegisters.registerDeadlock

theorem execJumpTableEntryReturn : CanonicalNext (execJumpTableEntryReturn core gang sub s) := by
  unfold Machine.execJumpTableEntryReturn
  split
  · exact h
  · split
    · split
      · exact (h.readEntries.of_eq ‹_›).acquireOf.lookedUp
      · exact .either h.report h
      · exact h
    · exact h

/-! ### The cross-lane instructions (R154 to R157) -/

theorem crossLong {f : RForm} {tb td : Ty} {preds : List Nat} {words : Issuer → Nat}
    {sps : Issuer → List (Nat × Nat × Nat × Bool)} {res : Issuer → Crossed} : CanonicalNext
    (crossLong f tb td preds words sps res s) :=
  h.runInstr (fun _ => .bind fun _ => .bind fun _ => .bind fun _ => .bind fun _ => h.issue.advance)

theorem fetchLanes {f : RForm} {source : Issuer → Nat → Option Nat} : CanonicalNext (fetchLanes f source s) :=
  h.crossLong

theorem execVshuf {f : RForm} : CanonicalNext (execVshuf f s) := h.fetchLanes
theorem execVswz {f : RForm} : CanonicalNext (execVswz f s) := h.fetchLanes
theorem execVbcast {f : RForm} : CanonicalNext (execVbcast f s) := h.fetchLanes
theorem execVvote {f : RForm} : CanonicalNext (execVvote f s) := h.crossLong
theorem execVred {f : RForm} : CanonicalNext (execVred f s) := h.crossLong
theorem execVscan {f : RForm} : CanonicalNext (execVscan f s) := h.crossLong

/-! ### The matrix engine (R242 to R253) -/

theorem issueAcc {c : Issuer} {rel vdst : List Nat} {lanes : Lanes} {mk : Nat → AccOp} :
    (s.issueAcc c rel vdst lanes mk).MemCanonical :=
  h.issue.modCore.advance

theorem execMma {f : XForm} : CanonicalNext (execMma f s) := by
  unfold Machine.execMma
  dsimp only
  refine runInstr h ?_
  intro c
  refine .bind fun _ => ?_
  refine .either trivial ?_
  refine .either trivial ?_
  refine .either trivial ?_
  refine .either trivial ?_
  refine .either trivial ?_
  split
  · trivial
  · exact .bind fun _ => h.issueAcc

theorem execAcczero {f : EForm} : CanonicalNext (execAcczero f s) :=
  h.runInstr (fun _ => .bind fun _ => .bind fun _ => h.issueAcc)

theorem execAccld {f : EForm} : CanonicalNext (execAccld f s) :=
  h.runInstr (fun _ => .bind fun _ => .either trivial (.bind fun _ => .bind fun _ => h.issueAcc))

theorem execAccst {f : EForm} : CanonicalNext (execAccst f s) :=
  h.runInstr (fun _ => .bind fun _ => .bind fun _ => .bind fun _ => h.issueAcc)

theorem execAccout {src : Ty} {f : RForm} : CanonicalNext (execAccout src f s) :=
  h.runInstr (fun _ => .bind fun _ => .either trivial
    (.bind fun _ => .bind fun _ => .bind fun _ => .bind fun _ => h.issueAcc))

theorem execMmaRetire : CanonicalNext (execMmaRetire core id s) := by
  unfold Machine.execMmaRetire
  dsimp only
  split
  · exact h
  · refine .either h ?_
    split
    · exact h
    · exact h.modTeam.modCore.deliver

theorem execAccwin {f : EForm} : CanonicalNext (execAccwin f s) :=
  h.runInstr (fun _ => .bind fun _ => .either trivial (.either trivial (.bind fun _ => h.issue.modCore.advance)))

theorem execAccwinPerform : CanonicalNext (execAccwinPerform core id s) := by
  unfold Machine.execAccwinPerform
  dsimp only
  split
  · exact h
  · exact .either h (foldl (fun _ _ h => h.modGang) h).modCore.deliver

theorem issueBank {c : Issuer} {lanes : Lanes} {mk : Nat → BankOp} : (s.issueBank c lanes mk).MemCanonical :=
  h.issue.modCore.advance

theorem execCbload {f : EForm} : CanonicalNext (execCbload f s) :=
  h.runInstr (fun _ => .bind fun _ => .either trivial (.bind fun _ => .bind fun _ => h.issueBank))

theorem execCbvalid {f : EForm} : CanonicalNext (execCbvalid f s) :=
  h.runInstr (fun _ => .bind fun _ => .bind fun _ => h.issueBank)

theorem execCodebookBankWrite : CanonicalNext (execCodebookBankWrite core id s) := by
  unfold Machine.execCodebookBankWrite
  dsimp only
  split
  · exact h
  · exact .either h h.modTeam.modCore.deliver

theorem execVexpand {f : RForm} : CanonicalNext (execVexpand f s) := by
  unfold Machine.execVexpand
  dsimp only
  refine runInstr h ?_
  intro c
  refine .bind fun _ => ?_
  refine .bind fun _ => ?_
  refine .either trivial ?_
  split
  · trivial
  · exact .bind fun _ => .bind fun _ => h.issue.advance

/-! ### The Spur (R254 to R258) -/

theorem execSpuracc {f : EForm} : CanonicalNext (execSpuracc f s) :=
  h.runInstr (fun _ => .bind fun _ => .bind fun _ => .either trivial
    (.either trivial (.either trivial (.either trivial (.bind fun _ => .bind fun _ => h.issue.modCore.advance)))))

theorem postReservation : (s.postReservation core slot id).MemCanonical := by
  unfold State.postReservation
  dsimp only
  split
  · exact h.deliver
  · exact h.modCore.deliver

theorem execSpur {f : EForm} : CanonicalNext (execSpur f s) :=
  h.runInstr (fun _ => .bind fun _ => .bind fun _ => .bind fun _ => .bind fun _ => h.issue.modCluster.advance)

theorem spurReport {j : Nat} {code : Option Code} {flags : Flags} : (s.spurReport cl id j code flags).MemCanonical :=
  h.modCluster

theorem execSpurPartnerWork {cluster partner : Nat} : CanonicalNext (execSpurPartnerWork cluster id partner s) := by
  unfold Machine.execSpurPartnerWork
  dsimp only
  split
  · exact h
  · refine .either h ?_
    split
    · exact h.spurReport
    · split
      · exact h.modCore.spurReport
      · split
        · exact h.modCore.spurReport.arrive
        · exact h.modCore.modTeam.spurReport.arrive

theorem execSpurStatusReady {cluster : Nat} : CanonicalNext (execSpurStatusReady cluster id s) := by
  unfold Machine.execSpurStatusReady
  dsimp only
  split
  · exact h
  · refine .either h ?_
    split
    · exact h.modCluster.deliver
    · exact h.modCluster

/-! ### The Millpond (R332 to R358) -/

theorem setEntry {way : Nat} {x : PondEntry} : (s.setEntry way x).MemCanonical := h.modPond
theorem modPool {f : Pool → Pool} : (s.modPool n f).MemCanonical := h.modPond
theorem quarantine {x : PondEntry} : (s.quarantine x).MemCanonical := h.modPool

theorem wake {token : Nat} {key : BitVec 81} {outcome : ViewEntry → Nat → PondOutcome} :
    (s.wake token key outcome).MemCanonical :=
  foldl (fun _ _ h => h.modGang) h

theorem dropLive {way : Nat} : (s.dropLive way).MemCanonical := h.setEntry.wake
theorem dropValid {way : Nat} : (s.dropValid way).MemCanonical := h.quarantine.setEntry

theorem heapWrite {bs : List Byte} : (s.heapWrite va bs).MemCanonical := by
  unfold State.heapWrite
  dsimp only
  split
  · exact h
  · split
    · exact h.writeAtHome.recordGuard
    · exact h.writeAtHome

theorem heapFault : (s.heapFault va).MemCanonical := by
  unfold State.heapFault
  split
  · exact (h.recordWalk.takeFree.snd ‹_›).post

theorem sluicePush {p : Pool} {bs : List Byte} : (s.sluicePush n p bs).MemCanonical := h.heapWrite.heapWrite.modPool
theorem refuseMiss {pool reason : Nat} : (s.refuseMiss pool reason).MemCanonical := h.modPool

theorem pondMiss {pool : Nat} {p : Pool} {e : ViewEntry} {probe : Bool} {key : BitVec 81} :
    (s.pondMiss vmid pool p e probe key).1.MemCanonical := by
  unfold State.pondMiss
  split
  · exact h
  · split
    · exact h.refuseMiss
    · split
      · exact h.refuseMiss.heapFault
      · exact h.refuseMiss
      · exact (either h.dropValid h).setEntry.sluicePush

theorem pondLookup {e : ViewEntry} {probe : Bool} {key : BitVec 81} :
    (s.pondLookup vmid e probe key).1.MemCanonical := by
  unfold State.pondLookup
  dsimp only
  split
  · exact h
  · split
    · exact h
    · split
      · exact h.pondMiss
      · split
        · exact h.setEntry
        · exact h

theorem execTxreq {f : EForm} : CanonicalNext (execTxreq f s) :=
  h.runInstr (fun _ => .bind fun _ => .either trivial (.bind fun _ => .bind fun _ => h.issue.advance))

theorem txreqLane : (s.txreqLane r id lane).MemCanonical := by
  unfold State.txreqLane
  split
  · exact h
  · split
    · exact either h h.pondLookup.modGang
    · exact h

theorem txreqLanes {x : List Nat} : (s.txreqLanes r id x).MemCanonical := by
  induction x generalizing s with
  | nil => exact h
  | cons lane rest ih =>
    rw [State.txreqLanes]
    split
    · exact .either h.txreqLane (ih h.txreqLane)
    · exact h.txreqLane

theorem quadFinish : (s.quadFinish r id).MemCanonical := by
  unfold State.quadFinish
  split
  · exact either h (either h.acquired h).deliver
  · exact h

theorem txreqArrive {p : Pending} {one : Bool} : (s.txreqArrive r p one).MemCanonical :=
  either h h.txreqLanes.quadFinish

theorem execTxwait {f : EForm} : CanonicalNext (execTxwait f s) :=
  h.runInstr (fun _ => .bind fun _ => .bind fun _ => .bind fun _ => (either h.issue.waitFor h.issue).advance)

theorem txwaitArrive {p : Pending} : (s.txwaitArrive r p).MemCanonical := h.modGang.quadFinish

theorem execTxfill {f : EForm} : CanonicalNext (execTxfill f s) :=
  h.runInstr (fun _ => .bind fun _ => .bind fun _ => .either trivial
    (.bind fun _ => .bind fun _ => .bind fun _ => h.issue.advance))

theorem pondFail {addr : Nat} : (s.pondFail r id addr).MemCanonical := h.modGang
theorem deliverWord {p : Pending} {w : Word} : (s.deliverWord r p w).MemCanonical := h.deliver
theorem setGuard {pool tile : Nat} {g : Option HeapGuard} : (s.setGuard pool tile g).MemCanonical := h.modPond
theorem killGuard {pool : Nat} {p : Pool} {tile : Nat} : (s.killGuard pool p tile).MemCanonical := h.setGuard.modPond

theorem fillTile {way pool : Nat} {p : Pool} {tile : Nat} {mask : DWord} {shared : Bool} {bs : List Byte} :
    (s.fillTile way pool p tile mask shared bs).1.MemCanonical := by
  unfold State.fillTile
  dsimp only
  split
  · exact h.dropLive.killGuard.heapFault
  · exact (foldl (fun _ _ h => h.heapWrite) h.setGuard).modPool.setEntry.wake

theorem txfillArrive {p : Pending} {token : Nat} {mask : DWord} {shared : Bool} {bs : List Byte} :
    (s.txfillArrive r p token mask shared bs).MemCanonical := by
  unfold State.txfillArrive
  dsimp only
  refine .either h.deliverWord ?_
  split
  · exact h.pondFail
  · refine .either h.pondFail ?_
    refine .either h.dropLive.deliverWord ?_
    split
    · exact h.dropLive.deliverWord
    · exact either h h.fillTile.deliverWord

theorem txinvIssue {f : EForm} {op : (Nat → Nat) → Request} {regs : List Nat} :
    CanonicalNext (txinvIssue f op regs s) :=
  h.runInstr (fun _ => .bind fun _ => .bind fun _ => .bind fun _ => .bind fun _ => h.issue.advance)

theorem execTxinvKey {f : EForm} : CanonicalNext (execTxinvKey f s) := h.txinvIssue
theorem execTxinvInfl {f : EForm} : CanonicalNext (execTxinvInfl f s) := h.txinvIssue
theorem txinvEntry {way : Nat} : (s.txinvEntry r id way).MemCanonical := (either h.dropValid h.setEntry).modGang

theorem txinvArrive {p : Pending} {pool : Nat} {range : Option (Nat × Nat)} {mask : DWord} {one : Bool} :
    (s.txinvArrive r p pool range mask one).MemCanonical := by
  unfold State.txinvArrive
  dsimp only
  refine .either h.pondFail ?_
  split
  · exact h.txinvEntry
  · split
    · exact (foldl (fun _ _ h => h.txinvEntry) h).deliverWord
    · exact foldl (fun _ _ h => h.txinvEntry) h

theorem execTxframe {f : EForm} : CanonicalNext (execTxframe f s) :=
  h.runInstr (fun _ => .bind fun _ => .bind fun _ => .bind fun _ => h.issue.advance)

theorem txframeArrive {p : Pending} {pool : Nat} : (s.txframeArrive r p pool).MemCanonical := by
  unfold State.txframeArrive
  split
  · exact h.pondFail
  · exact either h.pondFail (foldl (fun _ _ h => h.dropLive) h.modPool).deliverWord

theorem txpinIssue {on : Bool} {f : EForm} : CanonicalNext (txpinIssue on f s) :=
  h.runInstr (fun _ => .bind fun _ => .bind fun _ => .bind fun _ => h.issue.advance)

theorem execTxpinSet {f : EForm} : CanonicalNext (execTxpinSet f s) := h.txpinIssue
theorem execTxpinClr {f : EForm} : CanonicalNext (execTxpinClr f s) := h.txpinIssue

theorem txpinArrive {p : Pending} {on : Bool} : (s.txpinArrive r p on).MemCanonical := by
  unfold State.txpinArrive
  refine .either h.pondFail ?_
  split
  · exact h.deliverWord
  · exact h.setEntry.deliverWord

theorem execClockHandAdvance {die pool : Nat} : CanonicalNext (execClockHandAdvance die pool s) := by
  unfold Machine.execClockHandAdvance
  split
  · exact h
  · exact .either h (.either h.modPool (foldl (fun _ _ h => h.dropValid) h).modPool)

/-! ### Queues and grids of the scheduler (R364 to R371) -/

theorem schedTouch : (s.schedTouch vmid asid va n).MemCanonical := h.touchRead

theorem stalled {x : Stall} : (s.stalled x).MemCanonical := by
  unfold State.stalled
  split
  · exact h
  · exact h.logWrite

theorem schedWriteLine {bs : List Byte} {drain : Bool} : CanonicalWrite (s.schedWriteLine vmid asid va bs drain) := by
  unfold State.schedWriteLine
  dsimp only
  refine .either trivial ?_
  split
  · trivial
  · exact .either trivial (.either trivial (.either (.either trivial h.logWrite.woWrite) h.logWrite.writeAtHome))

theorem schedWrite {bs : List Byte} {drain : Bool} : CanonicalWrite (s.schedWrite vmid asid va bs drain) := by
  unfold State.schedWrite
  refine List.foldlRecOn (motive := CanonicalWrite) _ _ h fun acc hacc x _ => ?_
  split
  · exact State.MemCanonical.schedWriteLine hacc
  · exact hacc

theorem schedFault {kind : EventKind} : (s.schedFault pid kind asid va).MemCanonical := by
  unfold State.schedFault
  split
  · exact h.noteWalk.post
  · exact h

theorem schedPut {kind : EventKind} {bs : List Byte} {drain : Bool} :
    CanonicalOk (s.schedPut pid kind vmid asid va bs drain) := by
  unfold State.schedPut
  split
  · exact h.schedWrite.of_eq ‹_›
  · exact h.schedFault
  · trivial

theorem modQueue {f : Queue → Queue} : (s.modQueue pid n f).MemCanonical := h.modPart
theorem markWatch : (s.markWatch pline).MemCanonical := (foldl (fun _ _ h => h.dropTracked.setDir) h).setLineMeta

theorem unwatch {pline : Option Nat} : (s.unwatch pline).MemCanonical := by
  unfold State.unwatch
  split
  · exact h
  · exact either h h.setLineMeta

theorem touchRecord {p : Partition} {q : Queue} {r : LaunchRec} : (s.touchRecord p q n r).MemCanonical := by
  unfold State.touchRecord
  dsimp only
  split
  · exact either h.schedTouch.schedTouch h.schedTouch.schedTouch.schedTouch
  · exact h.schedTouch.schedTouch

theorem readTail {queue : Nat} {p : Partition} {q : Queue} : (s.readTail pid queue p q).MemCanonical := by
  unfold State.readTail
  split
  · exact h
  · exact h.schedFault.modQueue
  · exact either h.schedTouch.modQueue h.schedTouch.modQueue.post

theorem watchQueue {queue : Nat} {p : Partition} {q : Queue} : (s.watchQueue pid queue p q).MemCanonical := by
  unfold State.watchQueue
  refine .either h ?_
  split
  · exact h
  · exact either h h.markWatch.modQueue.unwatch

theorem openQueue {queue : Nat} {p : Partition} {q : Queue} : (s.openQueue pid queue p q).MemCanonical := by
  unfold State.openQueue
  split
  · exact h
  · exact h.schedFault.modQueue
  · dsimp only
    split
    · exact h.stalled
    · refine State.MemCanonical.modQueue (CanonicalOk.of_eq (.andThen h.schedTouch.schedPut fun t ht => ?_) ‹_›)
      exact .either ht.schedPut ht

theorem recordEnded {queue : Nat} : CanonicalOk (s.recordEnded pid queue n) := by
  unfold State.recordEnded
  split
  · exact h
  · exact .either h.modQueue h.modQueue.schedPut

theorem acceptNext {queue : Nat} {p : Partition} {q : Queue} : (s.acceptNext pid queue p q).MemCanonical := by
  unfold State.acceptNext
  dsimp only
  split
  · exact h
  · exact h.stalled
  · rename_i ht
    have ht := (h.schedPut.of_eq ht)
    refine either ?_ ht.touchRecord.modQueue.fresh.withGrids
    split
    · exact ht.touchRecord.modQueue.recordEnded.of_eq ‹_›
    · exact h.stalled
  · rename_i ht
    have ht := (h.schedPut.of_eq ht)
    refine either ?_ ht.touchRecord.modQueue.fresh.withGrids
    split
    · exact ht.touchRecord.modQueue.recordEnded.of_eq ‹_›
    · exact h.stalled

theorem writeHead {queue : Nat} {p : Partition} {q : Queue} : (s.writeHead pid queue p q).MemCanonical := by
  unfold State.writeHead
  refine .either h ?_
  refine .either h.modQueue ?_
  split
  · exact (h.schedPut.of_eq ‹_›).modQueue
  · exact h.stalled

theorem execQueueAccept {queue : Nat} : CanonicalNext (execQueueAccept pid queue s) := by
  unfold Machine.execQueueAccept
  split
  · exact h
  · exact .either h (.either h.watchQueue.writeHead
      (.either (either h.watchQueue.openQueue h.watchQueue)
      (.either h.watchQueue.acceptNext (.either h.watchQueue.readTail h.watchQueue))))

theorem execWatchNotice : CanonicalNext (execWatchNotice pline s) := .either h ((h.setMem (by rfl)).congr (by rfl))
theorem endGrid {status : Nat} {fr : FaultRec} : (s.endGrid grid status fr).MemCanonical := h.modGrid

theorem gridWord {g : Grid} {k : State → Nat → State}
    (hk : ∀ t w, t.MemCanonical → (k t w).MemCanonical) : (s.gridWord grid g va n k).MemCanonical := by
  unfold State.gridWord
  split
  · exact h
  · exact h.noteWalk.endGrid
  · exact hk _ _ h.schedTouch

theorem occlusion {g : Grid} : (s.occlusion grid g).MemCanonical := by
  unfold State.occlusion
  exact either h.modGrid (h.gridWord fun _ _ ht => either ht.modGrid ht.endGrid)

theorem watchFence {g : Grid} : (s.watchFence grid g).MemCanonical := by
  unfold State.watchFence
  split
  · exact h
  · exact either h h.markWatch.modGrid.unwatch

theorem execGridEligible : CanonicalNext (execGridEligible grid s) := by
  have fenced : ∀ g : Grid, ((s.watchFence grid g).gridWord grid g g.lr.faddr 8 fun s w =>
      if g.lr.fval ≤ w then s.occlusion grid g else s).MemCanonical :=
    fun g => h.watchFence.gridWord fun _ _ ht => either ht.occlusion ht
  unfold Machine.execGridEligible
  split
  · exact h
  · refine .either h (.either h.occlusion ?_)
    dsimp only
    split
    · exact .either (fenced _) (fenced _).modGrid.unwatch
    · exact fenced _

theorem completion {g : Grid} : CanonicalOk (s.completion g) := by
  unfold State.completion
  refine .either (.andThen (x := .ok s) h fun t ht => ?_) (.andThen h.schedPut fun t ht => ?_)
  all_goals exact .either ht ht.schedPut

theorem announce {g : Grid} : (s.announce g).MemCanonical := by
  unfold State.announce
  split
  · exact h
  · refine .either h ?_
    split
    · exact either h.post.raiseIrq h.post
    · exact h.post

theorem takeEnded {node : Nat} : CanonicalOk (s.takeEnded pid node grid) := by
  unfold State.takeEnded
  split
  · exact h
  · split
    · exact h
    · exact .either h.modPart h.modPart.schedPut

theorem queueEnded {g : Grid} : CanonicalOk (g.queueEnded s) := by
  unfold Grid.queueEnded
  split
  · exact .either h h.recordEnded
  · exact h

theorem nodeEnded {g : Grid} : CanonicalOk (g.nodeEnded grid s) := by
  unfold Grid.nodeEnded
  split
  · exact h.takeEnded
  · exact h

theorem retireWrites {g : Grid} : CanonicalOk (s.retireWrites grid g) :=
  .andThen h.completion fun _ ht => .andThen ht.queueEnded fun _ hu => hu.nodeEnded

theorem gridGone {g : Grid} : (s.gridGone grid g).MemCanonical :=
  announce (unwatch (h.congr (by rfl)))

theorem retireGrid : (s.retireGrid grid).MemCanonical := by
  cases hg : s.grid? grid with
  | none => simpa [State.retireGrid, hg] using h
  | some g =>
    by_cases hover : s.gridOver grid g = true
    · rw [State.retireGrid_eq hg hover]
      split
      · exact h.stalled
      · exact (h.retireWrites.of_eq ‹_›).gridGone
    · simpa [State.retireGrid, hg, hover] using h

theorem execGridRetire : CanonicalNext (execGridRetire grid s) := h.retireGrid

/-! ### Node queues (R374 to R378) -/

theorem nodeWord {x : Node} {off : Nat} : CanonicalWith (s.nodeWord pid vmid x off) := by
  unfold State.nodeWord
  split
  · exact h.schedTouch
  · split
    · exact h.schedFault.takeFree.snd ‹_›
  · trivial

theorem readNode {p : Partition} : CanonicalOpt (s.readNode pid p n) := by
  unfold State.readNode
  dsimp only
  split
  · trivial
  · exact h.modPart.post
  · refine .either h.schedTouch.modPart (.either h.schedTouch.modPart.post ?_)
    refine .either (.bind fun kd => ?_) (.bind fun kd => ?_)
    all_goals
      refine .either (post (modPart (.either h.schedTouch.schedTouch h.schedTouch))) ?_
      refine .either (modPart (.either h.schedTouch.schedTouch h.schedTouch)) ?_
      refine CanonicalWith.andThen (nodeWord (.either h.schedTouch.schedTouch h.schedTouch)) fun head hhead => ?_
      exact CanonicalWith.andThen hhead.nodeWord fun tail htail => htail.modPart

/-- The descriptors of some nodes read one after another. -/
theorem foldlM_readNode {p : Partition} {ns : List Nat} :
    CanonicalOpt (ns.foldlM (fun s n => s.readNode pid p n) s) := by
  induction ns generalizing s with
  | nil => exact h
  | cons n ns ih =>
    rw [List.foldlM_cons]
    exact h.readNode.andThen fun t ht => ih ht

theorem readNodes : CanonicalOpt (s.readNodes pid) := by
  unfold State.readNodes
  split
  · exact h
  · exact h.foldlM_readNode

theorem modNode {f : Node → Node} : (s.modNode pid n f).MemCanonical := h.modPart

theorem addOverflow {p : Partition} {x : Node} {count : Nat} : CanonicalOk (s.addOverflow pid n p x count) := by
  unfold State.addOverflow
  dsimp only
  split
  · trivial
  · exact h.schedFault.modNode
  · split
    · trivial
    · exact h.schedFault.modNode
    · exact (h.schedWrite.of_eq ‹_›).modNode

theorem writeRecords {x : Node} {at_ : Nat} {rs : List (List Byte)} :
    CanonicalWrite (s.writeRecords vmid x at_ rs) := by
  induction rs generalizing s at_ with
  | nil => exact h
  | cons r rest ih =>
    rw [State.writeRecords]
    split
    · exact ih (h.schedWrite.of_eq ‹_›)
    · exact h.schedWrite

theorem nodePush {p : Partition} {x : Node} {records : List (List Byte)} :
    CanonicalLane (s.nodePush pid n p x records) := by
  have refuse : ∀ t : State, t.MemCanonical → CanonicalLane
    (t.addOverflow pid n p x records.length >>= fun t => .ok (t, false)) :=
    fun t ht => .after ht.addOverflow
  unfold State.nodePush
  dsimp only
  refine .either h ?_
  split
  · trivial
  · exact refuse _ h.schedFault
  · refine .either (refuse _ h.schedTouch) ?_
    split
    · trivial
    · exact refuse _ h.schedTouch.schedFault
    · exact .after (h.schedTouch.writeRecords.of_eq ‹_›).modNode.schedPut

theorem nodePop {p : Partition} {x : Node} {addr : Nat} : CanonicalLane (s.nodePop r n p x addr) := by
  unfold State.nodePop
  dsimp only
  refine .either h ?_
  split
  · trivial
  · exact h.schedFault
  · refine .either h.schedTouch ?_
    split
    · trivial
    · exact h.schedTouch.schedFault
    · exact .after h.schedTouch.schedTouch.modTeam.modNode.schedPut

theorem launchPush {p : Partition} {bs : List Byte} : CanonicalLane (s.launchPush r n p bs) := by
  unfold State.launchPush
  dsimp only
  refine .either h ?_
  split
  · trivial
  · exact h.schedFault
  · exact .after (h.schedWrite.of_eq ‹_›).modQueue.schedPut

theorem queueLane {p : Pending} {q : QueueOp} : CanonicalLane (s.queueLane r p q lane) := by
  unfold State.queueLane
  split
  · exact h
  · split
    · exact h.launchPush
    · split
      · exact h.nodePush
      · exact h
    · split
      · exact h.nodePush
      · exact h
    · split
      · exact h.nodePop
      · exact h

theorem queueIssue {f : EForm} {limit : Nat} {op : Nat → QueueOp} {size : State → Issuer → Nat → Nat} {pop amp : Bool} :
    CanonicalNext (queueIssue f limit op size pop amp s) :=
  h.runInstr (fun _ => .bind fun _ => .either trivial (.either trivial (.bind fun _ => .bind fun _ => h.issue.advance)))

theorem execQpush {f : EForm} : CanonicalNext (execQpush f s) := h.queueIssue
theorem execQpop {f : EForm} : CanonicalNext (execQpop f s) := h.queueIssue
theorem execAmplify {f : EForm} : CanonicalNext (execAmplify f s) := h.queueIssue
theorem execLaunch {f : EForm} : CanonicalNext (execLaunch f s) := h.queueIssue

theorem queueLanes {p : Pending} {q : QueueOp} {x : List Nat} : (s.queueLanes r p q x).MemCanonical := by
  induction x generalizing s with
  | nil => exact h
  | cons lane rest ih =>
    rw [State.queueLanes]
    split
    · exact h.stalled
    · exact ih (h.queueLane.of_eq ‹_›).modGang

theorem queueArrive {p : Pending} {q : QueueOp} {pred : Nat} {one : Bool} :
    (s.queueArrive r p q pred one).MemCanonical := by
  unfold State.queueArrive
  dsimp only
  refine .either h ?_
  split
  · exact h.queueLanes
  · exact either h.queueLanes h.queueLanes.deliver

theorem execWallowerFire {node : Nat} : CanonicalNext (execWallowerFire pid node s) := by
  unfold Machine.execWallowerFire
  split
  · exact h
  · split
    · exact h
    · split
      · refine .either h.schedTouch ?_
        split
        · split
          · exact (((h.schedTouch.takeFree.snd ‹_›).fresh.snd ‹_›).congr (by rfl)).modNode
      · exact either h.schedFault h
      · exact h

/-! ### Teams on cores (R160, R171, R383) -/

theorem age : (s.age grid).MemCanonical := h.congr (by rfl)
theorem reopenGates : (s.reopenGates).MemCanonical := foldl (fun _ _ h => h.modVis) h
theorem placed : (s.placed pid cl).MemCanonical := h.modPart.reopenGates
theorem settleL1 : (s.settleL1 core).MemCanonical := foldl (fun _ _ h => h.putLine) h

theorem admitTeam {at_ : Nat × Nat} : (s.admitTeam grid core at_).MemCanonical := by
  unfold State.admitTeam
  split
  · exact h
  · split
    · refine .queueBinding ?_
      refine .placed ?_
      refine .settleL1 ?_
      refine .modGrid ?_
      refine .modCore ?_
      refine foldl (fun s x h => ?_) (h.fresh.snd ‹_›)
      split
      · exact (h.fresh.snd ‹_›).setGang

theorem execTeamAdmit : CanonicalNext (execTeamAdmit grid core s) := by
  unfold Machine.execTeamAdmit
  split
  · exact h
  · split
    · exact h
    · refine .either h ?_
      refine .either ?_ ?_
      · refine .either h ?_
        change State.MemCanonical _
        refine .age ?_
        refine foldl (fun s x h => ?_) h
        split
        · exact h.admitTeam
        · exact h
      · refine .either h ?_
        split
        · exact h
        · exact h.admitTeam.age

theorem reportAtEnd {c g : Nat} {x : Gang} {p : Pending} {code : Code} {lanes : Lanes} {addr : DWord}
    {rcode : BitVec 8} : (s.reportAtEnd c g x p code lanes addr rcode).MemCanonical := by
  unfold State.reportAtEnd
  dsimp only
  split
  · exact h.modGang.writeRecord
  · exact h.modGang.writeRecord.killGrid
  · exact h.modGang.writeRecord

theorem execGangRetire : CanonicalNext (execGangRetire core gang s) := by
  unfold Machine.execGangRetire
  split
  · exact h
  · refine .either h ?_
    split
    · refine .either h ?_
      split
      · exact h.reportAtEnd
      · exact h
    · exact .either h h.dropGang.registerDeadlock

theorem withdraw {pipe : Nat} : (s.withdraw core pipe team).MemCanonical := by
  unfold State.withdraw
  split
  · exact h
  · split
    · exact h
    · exact either h h.modGang.modCore

theorem saveTeam {frame : Nat} {f : Frame} : (s.saveTeam pid core team frame f).MemCanonical :=
  (h.modPart.modMem (by rfl)).modCore

theorem stopping {on : Bool} : (s.stopping core team on).MemCanonical := h.modTeam

theorem evictTeam {p : Partition} {g : Grid} {t : Team} {cut : Option Nat} :
    (s.evictTeam pid core team p g t cut).MemCanonical := by
  unfold State.evictTeam
  dsimp only
  split
  · exact h
  · split
    · exact (h.schedWrite.of_eq ‹_›).saveTeam
    · exact h.stalled
    · exact h

theorem execTeamEvict : CanonicalNext (execTeamEvict core team s) := by
  unfold Machine.execTeamEvict
  split
  · exact h
  · split
    · exact h
    · split
      · exact h
      · exact .either (either h.modVis h.reopenGates)
          (.either h.stopping (.either h (.either (either h.stopping h) h.withdraw.withdraw.evictTeam)))

theorem restoreTeam {frame : Nat} {f : Frame} {at_ : Nat × Nat} : (s.restoreTeam pid frame core f at_).MemCanonical :=
  (foldl (fun _ _ h => h.setGang) h).modCore.modPart.settleL1.placed

theorem execTeamRestore {frame : Nat} : CanonicalNext (execTeamRestore pid frame core s) := by
  unfold Machine.execTeamRestore
  split
  · exact h
  · split
    · exact h
    · refine .either h ?_
      split
      · refine .either h.schedTouch.killGrid ?_
        split
        · exact h.schedTouch.restoreTeam
        · exact h
      · exact h

/-! ### System instructions and firmware (R385 to R391) -/

theorem execSysrd {f : YForm} : CanonicalNext (execSysrd f s) :=
  h.runInstr (fun _ => .bind fun _ => .bind fun _ => .bind fun _ => .either h.issueKnown h.issue.advance)

theorem execSyswr {f : YForm} : CanonicalNext (execSyswr f s) :=
  h.runInstr (fun _ => .bind fun _ => .bind fun _ => .bind fun _ => h.issue.advance)

theorem sysrdArrive {p : Pending} {sel d : Nat} : (s.sysrdArrive r p sel d).MemCanonical := h.tick.afterRead.deliver

theorem syswrArrive {p : Pending} {sel : Nat} {w : Word} : (s.syswrArrive r p sel w).MemCanonical :=
  h.writeSpecial.deliver

theorem eretTo {c : Issuer} {dest : Handler → DWord × Option (DWord × BitVec 56) × Bool}
    {k : Handler → Nat → Gang → Gang} : (s.eretTo c dest k).MemCanonical :=
  (h.congr (by rfl)).modCore.modGang.boundary

theorem eret {dest : Handler → DWord × Option (DWord × BitVec 56) × Bool} {k : Handler → Nat → Gang → Gang} :
    CanonicalNext (eret s dest k) :=
  h.runInstr (fun _ => .either trivial (.bind fun _ => h.eretTo))

theorem execEret {_f : CForm} : CanonicalNext (execEret _f s) := h.eret
theorem execEretSkip {_f : CForm} : CanonicalNext (execEretSkip _f s) := h.eret

theorem answerOnCore {g : Gang} {act : FirmwareAct} : (s.answerOnCore core slot sub g act).MemCanonical := by
  unfold State.answerOnCore
  split
  · refine .either h ?_
    split
    · exact h.killGrid
    · exact h.modGang
  · split
    · exact h
    · split
      · exact h.dispose
      · exact h.modTeam.modGang

theorem answerSaved {act : FirmwareAct} : (s.answerSaved sub act).MemCanonical := by
  unfold State.answerSaved
  split
  · exact h
  · split
    · split
      · exact either h.killGrid h.modPart
      · exact h.modPart
    · exact h

theorem execFaultResolveResume {act : FirmwareAct} : CanonicalNext (execFaultResolveResume core gang sub act s) := by
  unfold Machine.execFaultResolveResume
  split
  · exact h.answerSaved
  · exact h.answerOnCore
  · exact h

theorem execFirmcall {f : CForm} : CanonicalNext (execFirmcall f s) :=
  h.runInstr (fun _ => .bind fun _ => .bind fun _ => h.issue.waitFor.advance)

theorem dropFetched {first : Nat} : (s.dropFetched vmid asid first n).MemCanonical := by
  unfold State.dropFetched
  dsimp only
  split
  · exact h.modMem (by rfl)
  · exact (h.modMem (by rfl)).withCores

theorem service {service : Nat} {args rs : List Word} : (s.service core slot r service args rs).1.MemCanonical := by
  unfold State.service
  dsimp only
  split
  · split
    · exact h.modGang
    · exact h
  · split
    · split
      · exact h
      · exact h.dropFetched
    · split
      · exact h
      · exact h

theorem execFirmcallReturn {r0 r1 r2 r3 : Word} : CanonicalNext (execFirmcallReturn core gang sub r0 r1 r2 r3 s) := by
  unfold Machine.execFirmcallReturn
  dsimp only
  split
  · exact h
  · split
    · exact h
    · split
      · exact h.service.deliver
      · exact h

theorem issueSystem {c : Issuer} {r : Request} : (s.issueSystem c r).MemCanonical := h.issue.advance

theorem execAttrset {f : EForm} : CanonicalNext (execAttrset f s) :=
  h.runInstr (fun _ => .bind fun _ => .bind fun _ => .bind fun _ => .bind fun _ => .bind fun _ => .bind fun _ =>
    h.issueSystem)

theorem recallPage {bytes frame : Nat} : (s.recallPage vmid asid va bytes frame).MemCanonical :=
  (foldl (fun _ _ h => h.evictL2) (foldl (fun _ _ h => foldl (fun _ _ h => h.putLine) h) h)).modMem (by rfl)

theorem clearMasks {frame bytes : Nat} : (s.clearMasks frame bytes).MemCanonical := h.modMem (by rfl)

theorem pageChange {bytes entry pa frame : Nat} {attr : Attr} {owner : Nat} :
    (s.pageChange vmid asid va bytes entry pa frame attr owner).MemCanonical :=
  either h.recallPage.physWrite.clearMasks h.recallPage.physWrite

theorem execAttrsetPageComplete : CanonicalNext (execAttrsetPageComplete core gang id s) := by
  unfold Machine.execAttrsetPageComplete
  split
  · exact h
  · split
    · exact h
    · split
      · refine .either h ?_
        split
        · exact h.recordWalk.modGang
        · exact .either h (.either h.pageChange.deliver h.pageChange.modGang)
      · exact h

theorem execTlbshoot {f : EForm} : CanonicalNext (execTlbshoot f s) :=
  h.runInstr (fun _ => .bind fun _ => .bind fun _ => .bind fun _ => .either
    (.bind fun _ => .bind fun _ => .bind fun _ => h.issueSystem) (.bind fun _ => .bind fun _ => h.issueSystem))

theorem tlbshootArrive {p : Pending} {units : Nat} : (s.tlbshootArrive r p sub va units vmid asid).MemCanonical :=
  either h (h.modMem (by rfl)).deliver

theorem cacheopIssue {f : EForm} : CanonicalNext (cacheopIssue sub f s) :=
  h.runInstr (fun _ => .bind fun _ => .bind fun _ => .bind fun _ => .bind fun _ => .bind fun _ => .bind fun _ =>
    h.issueSystem)

theorem execCacheopWb {f : EForm} : CanonicalNext (execCacheopWb f s) := h.cacheopIssue
theorem execCacheopInv {f : EForm} : CanonicalNext (execCacheopInv f s) := h.cacheopIssue
theorem execCacheopDiscard {f : EForm} : CanonicalNext (execCacheopDiscard f s) := h.cacheopIssue
theorem execCacheopIinv {f : EForm} : CanonicalNext (execCacheopIinv f s) := h.cacheopIssue
theorem execCacheopClrlost {f : EForm} : CanonicalNext (execCacheopClrlost f s) := h.cacheopIssue

theorem writeBackLine : (s.writeBackLine tag line pline).MemCanonical := by
  unfold State.writeBackLine
  dsimp only
  split
  · refine .modL2 ?_
    refine .either ?_ ?_
    · refine .physWrite ?_
      refine foldl (fun s x h => ?_) h
      split
      · exact either h.writeHome.modL1 h
      · exact h
    · refine foldl (fun s x h => ?_) h
      split
      · exact either h.writeHome.modL1 h
      · exact h
  · refine foldl (fun s x h => ?_) h
    split
    · exact either h.writeHome.modL1 h
    · exact h

theorem discardLine : (s.discardLine tag line pline).MemCanonical :=
  ((foldl (fun _ _ h => h.delL1) h).modMem (by rfl)).withPond

theorem dropRemote : (s.dropRemote tag line).MemCanonical := (foldl (fun _ _ h => h.delL1) h).modMem (by rfl)

theorem cacheLine : CanonicalOpt (s.cacheLine sub vmid asid line) := by
  unfold State.cacheLine
  refine .either h.dropFetched ?_
  refine .either h ?_
  refine .either trivial ?_
  split
  · exact h.writeBackLine
  · exact h.writeBackLine.discardLine.dropRemote
  · exact h.discardLine.dropRemote
  · split
    · exact h.setLineMeta
    · exact h.recordWalk

theorem cacheLines {x : List Nat} : (s.cacheLines r id sub vmid asid x).MemCanonical := by
  induction x generalizing s with
  | nil => exact h
  | cons line rest ih =>
    rw [State.cacheLines]
    split
    · exact h
    · exact ih (h.cacheLine.of_eq ‹_›).modGang

theorem cacheopArrive {p : Pending} {lines : Nat} {part : Option Nat} :
    (s.cacheopArrive r p sub va lines vmid asid part).MemCanonical := by
  unfold State.cacheopArrive
  dsimp only
  split
  · exact either h.cacheLines.deliver h.cacheLines
  · exact h.cacheLines

/-! ### Partition reset and errors (R392, R308) -/

theorem stopUnits {p : Partition} : (s.stopUnits p).MemCanonical := h.congr (by rfl)

theorem resetPartition {code : Option Code} : (s.resetPartition pid code).MemCanonical := by
  unfold State.resetPartition
  split
  · exact h
  · exact (foldl (fun _ _ h => h.writeHead) (foldl (fun _ _ h => h.retireGrid) h.stopUnits.modPart.withGrids)).raiseIrq

theorem resetWhere {test : Partition → Bool} {code : Option Code} : (s.resetWhere test code).MemCanonical :=
  foldl (fun _ _ h => h.resetPartition) h

theorem execWatchdogExpire : CanonicalNext (execWatchdogExpire pid s) := by
  unfold Machine.execWatchdogExpire
  split
  · exact h
  · exact .either h h.resetPartition

theorem disableQueue {queue : Nat} : (s.disableQueue pid queue).MemCanonical := by
  unfold State.disableQueue
  split
  · exact h
  · exact h.modQueue.unwatch

theorem execVfFlr {vf : Nat} : CanonicalNext (execVfFlr vf s) :=
  foldl (fun _ _ h => foldl (fun _ _ h => h.disableQueue) h.resetPartition) h

theorem execThermalTrip : CanonicalNext (execThermalTrip s) := h.resetWhere.withPkg.takeFree.takeFree.post
theorem execThermalTripClear : CanonicalNext (execThermalTripClear s) := h.congr (by rfl)

theorem l1Error : (s.l1Error core tag line).MemCanonical := by
  unfold State.l1Error
  split
  · exact h
  · exact either h.modL1 h.putClean

theorem execSramUncorrectable {site : SramSite} : CanonicalNext (execSramUncorrectable core site s) := by
  unfold Machine.execSramUncorrectable
  dsimp only
  split
  · exact h.modCore.modTeam
  · exact h.modCore.l1Error
  · split
    · exact h.modCore.resetPartition
    · exact h.modCore

theorem loseLine : (s.loseLine pline).MemCanonical := h.setLineMeta
theorem freeLine : (s.freeLine).2.MemCanonical := h.congr (by rfl)
theorem countError {die : Nat} : (s.countError die).MemCanonical := h.modMem (by rfl)

theorem execL2Uncorrectable {site : L2Site} : CanonicalNext (execL2Uncorrectable site s) := by
  unfold Machine.execL2Uncorrectable
  split
  · refine .either h ?_
    split
    · exact (h.freeLine.snd ‹_›).physWrite.loseLine.countError
  · split
    · exact h
    · refine .either (h.countError.modMem (by rfl)) ?_
      refine .either ?_ (h.countError.modMem (by rfl))
      split
      · exact ((h.countError.freeLine.snd ‹_›).modMem (by rfl)).loseLine

theorem cutLine : (s.cutLine asid line).MemCanonical := foldl (fun _ _ h => h.loseLine) (h.modMem (by rfl))

theorem execDieLinkFail {a b : Nat} {lines : List (Nat × Nat)} : CanonicalNext (execDieLinkFail a b lines s) :=
  .either h (foldl (fun _ _ h => h.resetPartition) (foldl (fun _ _ h => h.cutLine) (h.modMem (by rfl))))

theorem hostRefused {pa : Nat} {wr : Bool} : (s.hostRefused pa wr).MemCanonical := h.withPkg.takeFree.post

theorem touchPline : (s.touchPline pline).MemCanonical := by
  unfold State.touchPline
  split
  · exact h.touchL2
  · exact h

theorem hostWrite {pa : Nat} {bs : List Byte} : (s.hostWrite pa bs).MemCanonical :=
  (foldl (fun _ _ h => h.dropTracked.modMem (by rfl)) h.noteStale).physWrite.notify

theorem hostAnswer {r : HostReply} : (s.hostAnswer r).MemCanonical := h.congr (by rfl)

theorem execHostMemAccess {pa len : Nat} {write : Option (List Byte)} :
    CanonicalNext (execHostMemAccess pa len write s) := by
  unfold Machine.execHostMemAccess
  refine .either h ?_
  refine .either (either h.hostAnswer h) ?_
  refine .either (either h.hostRefused.hostAnswer h.hostRefused) ?_
  refine .either (either h.hostAnswer h) ?_
  refine .either (either h.hostAnswer h) ?_
  refine .either h ?_
  split
  · exact h.touchPline.hostAnswer
  · exact either h.hostWrite.touchPline h

/-! ### Start, mailbox and debugger (R395 to R405) -/

omit h in
/-- A restart keeps the bytes that it is given. -/
theorem restarted {boot : Boot} {hbm : List Host.Cell} {lines : Table LineMeta} (hm : Memory.wf hbm = true) :
    (s.restarted boot hbm lines).MemCanonical := hm

theorem start {cause detail : BitVec 8} : (s.start cause detail).MemCanonical := by
  unfold State.start
  exact restarted (hostCells_wf h)

theorem execColdReset : CanonicalNext (execColdReset s) := (h.congr (by rfl)).start

theorem failStart {cause detail : Nat} : (s.failStart cause detail).MemCanonical :=
  either ((h.congr (by rfl)).congr (by rfl)) (h.congr (by rfl)).start

theorem nextStage {f : Boot → Boot} : (s.nextStage f).MemCanonical := h.congr (by rfl)
theorem trainPorts : (s.trainPorts).MemCanonical := either h (h.congr (by rfl))

theorem loadImage {slot : Bool} : (s.loadImage slot).MemCanonical :=
  (foldl (fun _ _ h => either h.physWrite h) h).nextStage

theorem execStartStageComplete {fail : Option (Nat × Nat)} : CanonicalNext (execStartStageComplete fail s) := by
  unfold Machine.execStartStageComplete
  dsimp only
  refine .either h ?_
  split
  · exact h.nextStage
  · split
    · exact h.failStart
    · exact h.loadImage
  · split
    · exact h.failStart
    · exact h.nextStage
  · exact either h.failStart h
  · exact h.nextStage.trainPorts
  · exact h
  · exact h.nextStage

theorem execStartWatchdogExpire : CanonicalNext (execStartWatchdogExpire s) := .either h h.failStart

theorem execHostReset : CanonicalNext (execHostReset s) := by
  unfold Machine.execHostReset
  exact .either h (restarted h)

theorem finish {rc : Nat} {result : List Byte} : (s.finish fn rc result).MemCanonical := h.modMailbox

theorem answered {x : Nat} : (s.answered x).MemCanonical := by
  induction x generalizing s with
  | zero => exact h
  | succ n ih =>
    rw [State.answered]
    split
    · exact h
    · split
      · exact ih h.finish
      · exact h

theorem complete {rc : Nat} {result : List Byte} : (s.complete fn rc result).MemCanonical := h.finish.answered
theorem ok : CanonicalAnswer (Answer.ok s) := h

theorem command {opc : Nat} {run : State → Answer} (hrun : CanonicalAnswer (run s)) :
    CanonicalNext (s.command fn opc run) := by
  unfold State.command
  refine .either h ?_
  dsimp only
  split
  · exact h.complete
  · refine .either h.complete (.either h ?_)
    split
    · exact h.complete
    · exact (hrun.of_eq ‹_›).complete
    · exact h

theorem busWrite {v : Nat} {x : BusReg} : (s.busWrite v x).MemCanonical := by
  unfold State.busWrite
  split
  · refine .either h ?_
    split
    · exact (h.fresh.snd ‹_›).modMailbox.answered
  · exact h.modMailbox
  · exact either h h.modMailbox
  · exact h.congr (by rfl)
  · exact h.modMem (by rfl)
  · exact h

theorem execRegisterWrite {reg : BusReg} {value : DWord} : CanonicalNext (execRegisterWrite reg value s) :=
  either h.busWrite h

theorem execGetstatus : CanonicalNext (execGetstatus fn s) := h.command h

theorem execRestart {arg : Nat} : CanonicalNext (execRestart fn arg s) :=
  h.command (.either trivial (h.congr (by rfl)).start.ok)

theorem execImgwrite {off : Nat} {chunk : List Byte} : CanonicalNext (execImgwrite fn off chunk s) :=
  h.command (.either trivial (h.congr (by rfl)).ok)

theorem execImgselect {arg : Word} : CanonicalNext (execImgselect fn arg s) := h.command (h.congr (by rfl)).ok

theorem execPartcreate {clusters : BitVec 64} {vf : Nat} : CanonicalNext (execPartcreate fn pid clusters vmid vf s) :=
  h.command (.either trivial (h.congr (by rfl)).ok)

theorem cleanL1s {p : Partition} : (s.cleanL1s p).MemCanonical :=
  foldl (fun _ _ h => foldl (fun _ _ h => h.putLine) h) h

theorem execPartdestroy : CanonicalNext (execPartdestroy fn pid s) := by
  unfold Machine.execPartdestroy
  refine command h ?_
  split
  · trivial
  · exact .either trivial ((foldl (fun _ _ h => h.disableQueue) h.cleanL1s).congr (by rfl)).ok

theorem execPartreset : CanonicalNext (execPartreset fn pid s) := by
  unfold Machine.execPartreset
  refine command h ?_
  split
  · trivial
  · exact h.resetPartition.ok

theorem execPreemptCmd {clusters : BitVec 64} : CanonicalNext (execPreemptCmd fn pid clusters s) := by
  unfold Machine.execPreemptCmd
  refine command h ?_
  split
  · trivial
  · exact .either trivial (foldl (fun _ _ h => h.modCluster) h.modPart).ok

theorem setQueue {queue : Nat} {desc : BitVec 128} : (s.setQueue pid queue desc).MemCanonical := by
  unfold State.setQueue
  split
  · exact h
  · exact either h.modQueue h.modQueue.disableQueue

theorem execQueueset {queue : Nat} {desc : BitVec 128} : CanonicalNext (execQueueset fn pid queue desc s) := by
  unfold Machine.execQueueset
  refine command h ?_
  split
  · trivial
  · exact .either trivial (.either trivial h.setQueue.ok)

theorem execPoolon {pool : Nat} : CanonicalNext (execPoolon fn pool s) :=
  h.command (.either trivial (.either trivial h.modPond.heapWrite.heapWrite.ok))

theorem poolOff {pool : Nat} : (s.poolOff pool).MemCanonical :=
  foldl (fun _ _ h => either h.dropLive h.setEntry) h.modPond

theorem execPooloff {pool : Nat} : CanonicalNext (execPooloff fn pool s) := h.command (.either trivial h.poolOff.ok)

theorem execViewset {view : DWord} : CanonicalNext (execViewset fn vmid view s) := by
  unfold Machine.execViewset
  refine command h ?_
  split
  · trivial
  · exact .either trivial h.modPart.ok

theorem setHost {frame : Nat} {host : Bool} : (s.setHost frame host).MemCanonical := h.physWrite
theorem dropFrame {frame : Nat} : (s.dropFrame frame).MemCanonical := h.modMem (by rfl)

theorem execPagegive {frames : List Nat} : CanonicalNext (execPagegive fn frames s) :=
  h.command (.either (foldl (fun _ _ h => h.setHost.dropFrame) h).ok trivial)

theorem recallFrame {frame : Nat} : (s.recallFrame frame).MemCanonical :=
  (foldl (fun _ _ h => h.evictL2) (foldl (fun _ _ h => foldl (fun _ _ h => h.putLine) h) h)).dropFrame

theorem execPagetake {frames : List Nat} : CanonicalNext (execPagetake fn frames s) :=
  h.command (.either trivial (.either trivial (foldl (fun _ _ h => h.recallFrame.setHost) h).ok))

theorem execDrresume : CanonicalNext (execDrresume fn vmid s) := by
  unfold Machine.execDrresume
  refine command h ?_
  split
  · trivial
  · generalize (_ == 2 ^ _) = full
    cases full
    · exact h.modPart.ok
    · trivial

theorem execEvring {base entries : Nat} : CanonicalNext (execEvring fn base entries s) := h.command h.modMailbox.ok
theorem execSvnraise : CanonicalNext (execSvnraise fn s) := h.command (h.congr (by rfl)).ok
theorem resumeAll {p : Partition} : (s.resumeAll p).MemCanonical := h.congr (by rfl)

theorem execDbgattach {arg : Nat} : CanonicalNext (execDbgattach fn pid arg s) := by
  unfold Machine.execDbgattach
  refine command h ?_
  split
  · trivial
  · exact .either trivial (either h.modPart h.modPart.resumeAll).ok

theorem execDbglist : CanonicalNext (execDbglist fn pid s) := by
  unfold Machine.execDbglist
  refine command h ?_
  split
  · trivial
  · exact h

theorem execDbgread : CanonicalNext (execDbgread fn pid core slot s) := by
  unfold Machine.execDbgread
  refine command h ?_
  split
  · trivial
  · exact h

theorem execDbgwrite {fields : List DebugField} : CanonicalNext (execDbgwrite fn pid core slot fields s) := by
  unfold Machine.execDbgwrite
  refine command h ?_
  split
  · trivial
  · exact .either h.modGang.ok trivial

theorem execDbgstep {fibre : Nat} : CanonicalNext (execDbgstep fn pid core slot fibre s) := by
  unfold Machine.execDbgstep
  refine command h ?_
  split
  · trivial
  · split
    · trivial
    · exact h.modGang.ok

theorem execDbgresume {all : Bool} : CanonicalNext (execDbgresume fn pid all core slot s) := by
  unfold Machine.execDbgresume
  refine command h ?_
  split
  · trivial
  · refine .either h.resumeAll.ok ?_
    split
    · trivial
    · exact h.modGang.ok

theorem execDbghalt {on : Bool} : CanonicalNext (execDbghalt fn pid core on s) := by
  unfold Machine.execDbghalt
  refine command h ?_
  split
  · trivial
  · exact .either h.modCore.ok trivial

theorem execDbgbkpt {lo hi : Word} : CanonicalNext (execDbgbkpt fn pid n lo hi s) := by
  unfold Machine.execDbgbkpt
  refine command h ?_
  split
  · trivial
  · exact .either trivial (foldl (fun _ _ h => h.modCore) h).ok

/-! ### Registers by address (R401) -/

theorem unaged : (s.unaged pid).MemCanonical := h.congr (by rfl)

theorem writePart {p : Partition} {off v : Nat} : CanonicalWritten (s.writePart pid p off v) := by
  unfold State.writePart
  refine .either trivial ?_
  split
  · exact .either h.modPart trivial
  · exact h.modPart
  · exact h.modPart
  · exact h.modPart
  · exact h.modPart
  · exact either h.modPart.unaged h.modPart
  · exact h.modPart
  · exact h.modPart
  · exact h.modPart
  · exact h.modPart
  · split
    · exact h.modPart.readNodes.of_eq ‹_›
    · trivial
  · exact h.modPart
  · exact h.modPart
  · exact .either trivial (.either (.either h.modPart trivial) (.either (.either h.setQueue trivial) trivial))

theorem writePkg {off v : Nat} : CanonicalOpt (s.writePkg off v) := by
  unfold State.writePkg
  split
  · exact h.congr (by rfl)
  · exact h.congr (by rfl)
  · exact h.congr (by rfl)
  · exact h.busWrite
  · exact h
  · exact h
  · exact h.congr (by rfl)
  · trivial

theorem writeRegister {a : RegAddr} {v : Nat} : CanonicalWritten (s.writeRegister a v) := by
  unfold State.writeRegister
  dsimp only
  split
  · exact .of h.writePkg
  · split
    · exact h.writePart
    · trivial
  · change State.MemCanonical _
    exact .either h.modPond h
  · exact h.busWrite
  · exact .either trivial h.modCore
  · change State.MemCanonical _
    exact .either h.modCluster h

theorem execRegread {addr : DWord} : CanonicalNext (execRegread fn addr s) := by
  unfold Machine.execRegread
  dsimp only
  refine command h ?_
  split
  · exact .either trivial trivial
  · exact .either h (.either trivial h)

theorem execRegwrite {addr : DWord} {value : DWord} : CanonicalNext (execRegwrite fn addr value s) := by
  unfold Machine.execRegwrite
  dsimp only
  refine command h ?_
  split
  · exact .either trivial trivial
  · refine .either (.either trivial trivial) ?_
    split
    · exact (h.writeRegister.of_eq ‹_›).ok
    · trivial
    · trivial

/-! ### The fabric (R408 to R423) -/

theorem refuse {req : RemoteRequest} {code : Code} : CanonicalServed (s.refuse req code) := h.noteWalk.congr (by rfl)

theorem targetClaim {req : RemoteRequest} {bs : List Byte} {reply : RemoteReply} :
    CanonicalServed (s.targetClaim req l bs reply) :=
  .either h.refuse (h.woWrite.modMem (by rfl))

theorem targetWrite {req : RemoteRequest} {bs : List Byte} {reply : RemoteReply} :
    CanonicalServed (s.targetWrite req l bs reply) :=
  .either h (.either h.logWrite (.either h.logWrite.keepFill.targetClaim h.logWrite.keepFill.writeAtHome))

theorem targetLoad {req : RemoteRequest} : CanonicalServed (s.targetLoad req n) := by
  unfold State.targetLoad
  split
  · exact h.refuse
  · exact .either h (.either h.keepFill.touchLine h.keepFill.touchLine)

theorem targetModify {req : RemoteRequest} {f : List Byte → List Byte} {reply : List Byte → RemoteReply} :
    CanonicalServed (s.targetModify req l n f reply) :=
  h.targetWrite

theorem targetAtomic {req : RemoteRequest} {op : Nat} {t : Ty} {d0 d1 : DWord} :
    CanonicalServed (s.targetAtomic req op t d0 d1) := by
  unfold State.targetAtomic
  dsimp only
  split
  · exact h.refuse
  · exact h.targetModify

theorem targetReduce {req : RemoteRequest} {t : Ty} {data : List Byte} :
    CanonicalServed (s.targetReduce req t data) := by
  unfold State.targetReduce
  dsimp only
  split
  · exact h.refuse
  · exact .either h.refuse h.targetModify

theorem targetReset {req : RemoteRequest} {units : Nat} : CanonicalServed (s.targetReset req units) := by
  unfold State.targetReset
  split
  · exact h.refuse
  · change State.MemCanonical _
    refine foldl (fun s x h => ?_) h
    split
    · exact h.resetFrame
    · exact h

theorem serve {req : RemoteRequest} : CanonicalServed (s.serve req) := by
  unfold State.serve
  refine .either h.refuse ?_
  split
  · exact h.targetLoad
  · split
    · exact h.refuse
    · exact h.targetWrite
  · exact h.targetAtomic
  · exact h.targetReset
  · exact h.targetReduce

theorem execRemoteRequestArrive {req : RemoteRequest} : CanonicalNext (execRemoteRequestArrive req s) := by
  unfold Machine.execRemoteRequestArrive
  refine .either h ?_
  split
  · exact h.serve.of_later ‹_›
  · exact (h.serve.of_done ‹_›).congr (by rfl)

theorem keepRemote {data : List Byte} : (s.keepRemote core vmid asid va data).MemCanonical := by
  unfold State.keepRemote
  refine .either (either h.putL1 h) ?_
  split
  · exact either h.putL1 h
  · exact ((either h.putL1 h).fillL2.of_eq ‹_›).modL2

theorem elemGot {key : Nat} {bs : List Byte} : (s.elemGot core slot id key bs).MemCanonical := by
  unfold State.elemGot
  dsimp only
  split
  · exact h.modGang.afterTake
  · exact h.modGang

theorem elemFails {key : Nat} {code : Code} {rcode : BitVec 8} :
    (s.elemFails core slot id key va code rcode).MemCanonical :=
  h.modGang

theorem laneAcked : (s.laneAcked core slot id).MemCanonical := by
  unfold State.laneAcked
  split
  · exact h
  · split
    · exact h
    · split
      · exact h.storeDone
      · exact h.woresetDone
      · exact h

theorem dropKept {o : Outgoing} : (s.dropKept core o).MemCanonical := by
  unfold State.dropKept
  split
  · exact (h.delL1.modMem (by rfl)).keepNoCopy
  · exact (h.delL1.modMem (by rfl)).keepNoCopy
  · exact h

theorem gangReply {o : Outgoing} {key : Nat} {reply : RemoteReply} :
    (s.gangReply o core slot id key reply).MemCanonical := by
  unfold State.gangReply
  split
  · exact h.elemFails
  · exact h.laneAcked
  · exact h.elemGot
  · refine .elemGot ?_
    split
    · exact either h.keepRemote h
    · exact h

theorem copyFails {seq : Nat} {code : Code} : (s.copyFails cl unit seq code).MemCanonical := h.modCopy

theorem leatReply {o : Outgoing} {seq key : Nat} {reply : RemoteReply} :
    (s.leatReply o cl unit seq key reply).MemCanonical := by
  unfold State.leatReply
  split
  · exact h.copyFails
  · exact h.copyAcked
  · exact h.modCopy
  · exact h.modCopy

theorem dropOut : (s.dropOut id).MemCanonical := h.congr (by rfl)

theorem replied {o : Outgoing} {reply : RemoteReply} : (s.replied id o reply).MemCanonical := by
  unfold State.replied
  split
  · exact h.dropOut.dropKept.gangReply
  · exact h.dropOut.leatReply
  · exact h.dropOut

theorem unanswered {o : Outgoing} {code : Code} : (s.unanswered id o code).MemCanonical := by
  unfold State.unanswered
  split
  · exact h.dropOut.dropKept.elemFails
  · exact h.dropOut.copyFails
  · exact h.dropOut

theorem portStep {port : Nat} {test : Port → Bool} {f : Port → Port} : (s.portStep port test f).MemCanonical :=
  either h (h.congr (by rfl))

theorem delivered {port : Nat} : (s.delivered port).MemCanonical := h.portStep

theorem execRemoteReplyArrive {reply : RemoteReply} : CanonicalNext (execRemoteReplyArrive id reply s) := by
  unfold Machine.execRemoteReplyArrive
  split
  · exact h
  · split
    · split
      · exact h.serve.of_later ‹_›
      · exact (h.serve.of_done ‹_›).replied
    · exact .either h h.delivered.replied

theorem execRemoteTimeout : CanonicalNext (execRemoteTimeout id s) := by
  unfold Machine.execRemoteTimeout
  split
  · exact h
  · exact either h.unanswered h

theorem execSwitchUndeliverable : CanonicalNext (execSwitchUndeliverable id s) := by
  unfold Machine.execSwitchUndeliverable
  split
  · exact h
  · exact either h.unanswered h

theorem execFlitReplay {port : Nat} : CanonicalNext (execFlitReplay port s) := h.portStep
theorem execPortRetrain {port : Nat} : CanonicalNext (execPortRetrain port s) := h.portStep
theorem execPortTrained {port : Nat} : CanonicalNext (execPortTrained port s) := h.portStep

theorem execPortDown {port : Nat} : CanonicalNext (execPortDown port s) :=
  .either h (foldl (fun _ _ h => h.unanswered) h.portStep)

/-! ### Results that arrive, and what each instruction leaves -/

theorem requestArrive {p : Pending} {q : Request} {part : Option Nat} : (s.requestArrive r p q part).MemCanonical := by
  unfold State.requestArrive
  refine .either h ?_
  split
  · exact h.cpyRequest
  · exact h.arriveRequest
  · exact h.txfillArrive
  · exact h.txinvArrive
  · exact h.txinvArrive
  · exact either h.deliver h
  · exact h.tlbshootArrive
  · exact h.cacheopArrive
  · exact h.postReservation

theorem arriveFor {p : Pending} {part : Option Nat} : (s.arriveFor r p part).MemCanonical := by
  unfold State.arriveFor
  split
  · exact h.deliver
  · exact h.memArrive
  · exact h.memArrive
  · exact either h h.barrierLook
  · exact h.requestArrive
  · exact either h.deliver h
  · exact h.txreqArrive
  · exact h.txwaitArrive
  · exact h.txframeArrive
  · exact h.txpinArrive
  · exact h.sysrdArrive
  · exact h.syswrArrive
  · exact h.queueArrive
  · exact h.primArrive
  · exact h
  · exact h
  · exact h

theorem execLongResultArrive {part : Option Nat} : CanonicalNext (execLongResultArrive core gang id part s) := by
  unfold Machine.execLongResultArrive
  split
  · exact h
  · split
    · exact h
    · exact either h.arriveFor h

theorem exec : (i : Instr) → CanonicalNext (Machine.exec i s)
  | .clauseIssue .. => h.execClauseIssue
  | .longResultArrive .. => h.execLongResultArrive
  | .parkRelease .. => h.execParkRelease
  | .registerParkRelease .. => h.execRegisterParkRelease
  | .deferredFaultArrive .. => h.execDeferredFaultArrive
  | .faultResolveResume .. => h.execFaultResolveResume
  | .memoryAccessPerform .. => h.execMemoryAccessPerform
  | .gangRetire .. => h.execGangRetire
  | .teamAdmit .. => h.execTeamAdmit
  | .teamEvict .. => h.execTeamEvict
  | .teamRestore .. => h.execTeamRestore
  | .nop .. => h.execNop
  | .br .. => h.execBr
  | .brc .. => h.execBrc
  | .brx .. => h.execBrx
  | .jumpTableEntryReturn .. => h.execJumpTableEntryReturn
  | .lpad .. => h.execLpad
  | .call .. => h.execCall
  | .callx .. => h.execCallx
  | .ret .. => h.execRet
  | .spawn .. => h.execSpawn
  | .endFibre .. => h.execEndFibre
  | .yield .. => h.execYield
  | .trap .. => h.execTrap
  | .bkpt .. => h.execBkpt
  | .pset .. => h.execPset
  | .pmovGet .. => h.execPmovGet
  | .pmovSet .. => h.execPmovSet
  | .smov .. => h.execSmov
  | .smovi .. => h.execSmovi
  | .sadd .. => h.execSadd
  | .ssub .. => h.execSsub
  | .smul .. => h.execSmul
  | .sand .. => h.execSand
  | .sor .. => h.execSor
  | .sxor .. => h.execSxor
  | .sshl .. => h.execSshl
  | .sshr .. => h.execSshr
  | .ssar .. => h.execSsar
  | .scmp .. => h.execScmp
  | .ssel .. => h.execSsel
  | .srd .. => h.execSrd
  | .vadd .. => h.execVadd
  | .vaddc .. => h.execVaddc
  | .vsub .. => h.execVsub
  | .vmul .. => h.execVmul
  | .vmad .. => h.execVmad
  | .vmin .. => h.execVmin
  | .vmax .. => h.execVmax
  | .vand .. => h.execVand
  | .vor .. => h.execVor
  | .vxor .. => h.execVxor
  | .vnot .. => h.execVnot
  | .vshl .. => h.execVshl
  | .vshr .. => h.execVshr
  | .vsar .. => h.execVsar
  | .vpopc .. => h.execVpopc
  | .vclz .. => h.execVclz
  | .vctz .. => h.execVctz
  | .vbfe .. => h.execVbfe
  | .vbfi .. => h.execVbfi
  | .vcmp .. => h.execVcmp
  | .vsel .. => h.execVsel
  | .vmov .. => h.execVmov
  | .vmovi .. => h.execVmovi
  | .vfadd .. => h.execVfadd
  | .vfsub .. => h.execVfsub
  | .vfmul .. => h.execVfmul
  | .vfma .. => h.execVfma
  | .vfmin .. => h.execVfmin
  | .vfmax .. => h.execVfmax
  | .vfcmp .. => h.execVfcmp
  | .vfclass .. => h.execVfclass
  | .vrcp .. => h.execVrcp
  | .vrsq .. => h.execVrsq
  | .vsqrt .. => h.execVsqrt
  | .vdiv .. => h.execVdiv
  | .vexp2 .. => h.execVexp2
  | .vlog2 .. => h.execVlog2
  | .vsinpi .. => h.execVsinpi
  | .vcospi .. => h.execVcospi
  | .vfract .. => h.execVfract
  | .vfrnd .. => h.execVfrnd
  | .vldexp .. => h.execVldexp
  | .vfrexp .. => h.execVfrexp
  | .vcvt .. => h.execVcvt
  | .vpack .. => h.execVpack
  | .vunpack .. => h.execVunpack
  | .vcamrel .. => h.execVcamrel
  | .vshuf .. => h.execVshuf
  | .vswz .. => h.execVswz
  | .vbcast .. => h.execVbcast
  | .vvote .. => h.execVvote
  | .vred .. => h.execVred
  | .vscan .. => h.execVscan
  | .vfree .. => h.execVfree
  | .ld .. => h.execLd
  | .st .. => h.execSt
  | .sld .. => h.execSld
  | .lds .. => h.execLds
  | .sts .. => h.execSts
  | .atom .. => h.execAtom
  | .atoms .. => h.execAtoms
  | .fence .. => h.execFence
  | .pref .. => h.execPref
  | .fec .. => h.execFec
  | .woreset .. => h.execWoreset
  | .mma .. => h.execMma
  | .mmaRetire .. => h.execMmaRetire
  | .acczero .. => h.execAcczero
  | .accld .. => h.execAccld
  | .accst .. => h.execAccst
  | .accout .. => h.execAccout
  | .accwin .. => h.execAccwin
  | .accwinPerform .. => h.execAccwinPerform
  | .cbload .. => h.execCbload
  | .cbvalid .. => h.execCbvalid
  | .codebookBankWrite .. => h.execCodebookBankWrite
  | .vexpand .. => h.execVexpand
  | .spuracc .. => h.execSpuracc
  | .spur .. => h.execSpur
  | .spurPartnerWork .. => h.execSpurPartnerWork
  | .spurStatusReady .. => h.execSpurStatusReady
  | .cpy .. => h.execCpy
  | .cpystat .. => h.execCpystat
  | .copyStart .. => h.execCopyStart
  | .copyGranuleDeliver .. => h.execCopyGranuleDeliver
  | .copyEnd .. => h.execCopyEnd
  | .barinit .. => h.execBarinit
  | .bara .. => h.execBara
  | .barw .. => h.execBarw
  | .baraw .. => h.execBaraw
  | .rangeset .. => h.execRangeset
  | .take .. => h.execTake
  | .prim .. => h.execPrim
  | .rasterSampleWrite .. => h.execRasterSampleWrite
  | .flushClassesArrive .. => h.execFlushClassesArrive
  | .occq .. => h.execOccq
  | .rayq .. => h.execRayq
  | .rayqDeliver .. => h.execRayqDeliver
  | .raywait f => h.execRaywait (_f := f)
  | .txreq .. => h.execTxreq
  | .txwait .. => h.execTxwait
  | .txfill .. => h.execTxfill
  | .txinvKey .. => h.execTxinvKey
  | .txinvInfl .. => h.execTxinvInfl
  | .txframe .. => h.execTxframe
  | .txpinSet .. => h.execTxpinSet
  | .txpinClr .. => h.execTxpinClr
  | .clockHandAdvance .. => h.execClockHandAdvance
  | .qpush .. => h.execQpush
  | .qpop .. => h.execQpop
  | .amplify .. => h.execAmplify
  | .launch .. => h.execLaunch
  | .wallowerFire .. => h.execWallowerFire
  | .sysrd .. => h.execSysrd
  | .syswr .. => h.execSyswr
  | .eret f => h.execEret (_f := f)
  | .eretSkip f => h.execEretSkip (_f := f)
  | .attrset .. => h.execAttrset
  | .attrsetPageComplete .. => h.execAttrsetPageComplete
  | .tlbshoot .. => h.execTlbshoot
  | .cacheopWb .. => h.execCacheopWb
  | .cacheopInv .. => h.execCacheopInv
  | .cacheopDiscard .. => h.execCacheopDiscard
  | .cacheopIinv .. => h.execCacheopIinv
  | .cacheopClrlost .. => h.execCacheopClrlost
  | .firmcall .. => h.execFirmcall
  | .firmcallReturn .. => h.execFirmcallReturn
  | .gets .. => h.execGets
  | .getm .. => h.execGetm
  | .homeAtomic .. => h.execHomeAtomic
  | .engineLineRequest .. => h.execEngineLineRequest
  | .putsPute .. => h.execPutsPute
  | .putmPuto .. => h.execPutmPuto
  | .l2EvictRecall .. => h.execL2EvictRecall
  | .probeAck .. => h.execProbeAck
  | .engineLineRelease .. => h.execEngineLineRelease
  | .watchNotice .. => h.execWatchNotice
  | .translationWalk .. => h.execTranslationWalk
  | .dieLinkFail .. => h.execDieLinkFail
  | .sramUncorrectable .. => h.execSramUncorrectable
  | .l2Uncorrectable .. => h.execL2Uncorrectable
  | .queueAccept .. => h.execQueueAccept
  | .gridEligible .. => h.execGridEligible
  | .gridRetire .. => h.execGridRetire
  | .watchdogExpire .. => h.execWatchdogExpire
  | .hostMemAccess .. => h.execHostMemAccess
  | .remoteRequestArrive .. => h.execRemoteRequestArrive
  | .remoteReplyArrive .. => h.execRemoteReplyArrive
  | .remoteTimeout .. => h.execRemoteTimeout
  | .flitReplay .. => h.execFlitReplay
  | .portRetrain .. => h.execPortRetrain
  | .portDown .. => h.execPortDown
  | .coldReset => h.execColdReset
  | .startStageComplete .. => h.execStartStageComplete
  | .startWatchdogExpire => h.execStartWatchdogExpire
  | .hostReset => h.execHostReset
  | .vfFlr .. => h.execVfFlr
  | .thermalTrip => h.execThermalTrip
  | .getstatus .. => h.execGetstatus
  | .restart .. => h.execRestart
  | .imgwrite .. => h.execImgwrite
  | .imgselect .. => h.execImgselect
  | .partcreate .. => h.execPartcreate
  | .partdestroy .. => h.execPartdestroy
  | .partreset .. => h.execPartreset
  | .preemptCmd .. => h.execPreemptCmd
  | .queueset .. => h.execQueueset
  | .poolon .. => h.execPoolon
  | .pooloff .. => h.execPooloff
  | .viewset .. => h.execViewset
  | .pagegive .. => h.execPagegive
  | .pagetake .. => h.execPagetake
  | .drresume .. => h.execDrresume
  | .evring .. => h.execEvring
  | .svnraise .. => h.execSvnraise
  | .dbgattach .. => h.execDbgattach
  | .dbglist .. => h.execDbglist
  | .dbgread .. => h.execDbgread
  | .dbgwrite .. => h.execDbgwrite
  | .dbgstep .. => h.execDbgstep
  | .dbgresume .. => h.execDbgresume
  | .dbghalt .. => h.execDbghalt
  | .dbgbkpt .. => h.execDbgbkpt
  | .regread .. => h.execRegread
  | .regwrite .. => h.execRegwrite
  | .registerWrite .. => h.execRegisterWrite
  | .thermalTripClear => h.execThermalTripClear
  | .portTrained .. => h.execPortTrained
  | .engineFirmwareServiceDone .. => h.execEngineFirmwareServiceDone
  | .switchUndeliverable .. => h.execSwitchUndeliverable

/-! ### A step -/

theorem runPipe : CanonicalNext (runPipe s) := by
  unfold Machine.runPipe
  split
  · exact h
  · split
    · exact h.exec _
    · exact h.decodeFault

theorem step : CanonicalNext (step s) := by
  unfold Machine.step
  split
  · exact h.runPipe
  · exact runPipe h
  · exact .either (h.withAgenda.exec _) h.withAgenda

end

end State.MemCanonical

/-- Settles O5: only writes of bytes change a listed byte, and each keeps the canonical form. -/
theorem stepKeepsMemoryCanonical : Obligations.StepKeepsMemoryCanonical := by
  unfold Obligations.StepKeepsMemoryCanonical
  intro s t h hstep
  exact h.step.of_eq hstep

end Sys2Proof.Machine
